-- ==== Sys2Proof/Word.lean ====
section
/-! DEFINITION. The word types of the block (00 "Numbers, units and time", R7, R10). -/
namespace Sys2Proof

/-- One byte; multi-byte fields are little-endian (R7). -/
abbrev Byte := BitVec 8

/-- A granule: 64 bytes, limb word `w` in bits `64w+63 .. 64w` (R10). -/
abbrev Granule := BitVec 512

end Sys2Proof
end

