-- ==== Sys2Proof/Syntax.lean ====
section
/-! DEFINITION. The commands of the block: one constructor of `Instr` for each row of
spec/opcode_table.json, with the operands the row names. -/
namespace Sys2Proof

/-- A 64-byte descriptor (Table CMD-3), as the ring slot holds it. -/
structure Desc where
  /-- bytes 0-1 -/
  opcode : BitVec 16
  /-- bytes 2-3 -/
  tag : BitVec 16
  /-- bytes 4-5, Table CMD-4 -/
  flags : BitVec 16
  /-- bytes 6-7, Table PHA-1 -/
  tset : BitVec 16
  /-- bytes 8-11, Table CMD-5 or as Table CMD-6 names -/
  w8 : BitVec 32
  /-- bytes 12-31, Table CMD-5A -/
  opa : BitVec 160
  /-- bytes 32-51, Table CMD-5A -/
  opb : BitVec 160
  /-- bytes 52-63, Table CMD-7 -/
  opx : BitVec 96
  deriving DecidableEq, Repr

/-- The kind of the stored array a parity error is met in (array kinds of Table SMP-4). -/
inductive ArrayKind
  | register | acc | bank | latch | fabric | matrix | cellar | pantry | moduli | restart
  | linkBuffer | poisonFlit | engine
  deriving DecidableEq, Repr

/-- A parity error met in one attempt of a unit (R248): the array, where, and the physical tile when
the array is a tile's own. -/
structure ParityEvent where
  kind : ArrayKind
  addr : Nat
  tile : Option Nat
  deriving DecidableEq, Repr

/-- A transient upset with good parity (Table TLY-4): the landed granule `index` of copy `copy`
(0 primary, 1 twin) is XORed with `mask`. -/
structure Upset where
  copy : Nat
  index : Nat
  mask : Granule
  deriving DecidableEq, Repr

/-- What the silicon meets during the passes of one commit unit. -/
structure UnitEvent where
  parity : List ParityEvent
  upsets : List Upset
  deriving DecidableEq, Repr

/-- The masters of Table BMX-1. -/
inductive Master
  | fe (n : Nat) | li (n : Nat) | cc (n : Nat) | vault | trapdoor | cq (n : Nat)
  deriving DecidableEq, Repr

/-- One segment presented to the bus matrix (R210, R217): at most 256 bytes of a burst. -/
structure BusReq where
  master : Master
  /-- requester tag: 0-4 for P0-P4, 5 for SYS (R206) -/
  tag : Nat
  /-- translation context of a SYS request: 0-4 for Pp, 5 the block's own (R297, Table PWR-7) -/
  ctx : Nat
  write : Bool
  /-- block address; a control core's is its 32-bit core address, but for a CMD message (Table BMX-5) -/
  addr : Nat
  bytes : Nat
  /-- bytes of its burst before this segment (R217) -/
  off : Nat
  /-- home memory port of the line, given by the die's address interleave, and that of the next line, which a segment may
  run into (R204) -/
  home : Nat
  home2 : Nat
  /-- the stream the request serves; none for a command fetch (R189) -/
  stream : Option Nat
  /-- last segment of its burst (R218) -/
  last : Bool
  /-- requests of the master, this one among them, whose responses its response space holds (R215) -/
  room : Nat
  /-- operation of a CMD-class message (Table GAL-3, R209) -/
  cmdOp : Option Nat
  /-- the data of a write, eight bits a byte, byte 0 lowest -/
  data : BitVec 2048
  /-- 64-byte sectors of the Cellar line whose parity fails when the bank reads it (R250) -/
  badSectors : BitVec 8
  /-- attempts in which a beat of the segment fails parity before one does not (R216, R248) -/
  badBeats : Nat
  deriving DecidableEq, Repr

/-- The answer of translation and memory for a line (R26, R349). -/
inductive RspStatus
  | ok | notPresent | denied | error
  deriving DecidableEq, Repr

/-- A flit's header and the events on its body (Table GAL-2), with what its lane's codewords met on the way (R228). -/
structure Flit where
  seq : BitVec 12
  crcGood : Bool
  reservedZero : Bool
  poison : Bool
  /-- 0 BULK, 1 REQ, 2 RSP, 3 CMD -/
  cls : Nat
  /-- the receive lane -/
  lane : Nat
  /-- codewords of the lane corrected, and those that could not be, since its last flit -/
  corrected : Nat
  uncorrectable : Nat
  deriving DecidableEq, Repr

/-- A run of a BULK stream (chapter 08, the run header before Table GAL-3): step, tile, first slot / 64, and the granules of
the slots whose mask bit is set, in ascending order, each with its sign tag (R252). -/
structure BulkRun where
  step : Nat
  tile : Nat
  first : Nat
  granules : List (Granule × Bool)
  deriving DecidableEq, Repr

/-- The CTRL body's fixed fields (Table GAL-4). -/
structure CtrlBody where
  ack : BitVec 12
  /-- cumulative credits per class, BULK first -/
  credit : List (BitVec 16)
  lanes : BitVec 8
  deriving DecidableEq, Repr

/-- The payload of a CTRL IDENT (Table GAL-4). -/
structure IdentBody where
  packageId : BitVec 32
  die : Nat
  port : Nat
  shape : Nat
  grade : Nat
  /-- initial credits per class, BULK first -/
  credits : List Nat
  deriving DecidableEq, Repr

/-- A cross-die message's header (Table GAL-3), and whether a flit that carried its payload had POISON set (R232). -/
structure MsgHeader where
  op : Nat
  reservedZero : Bool
  poison : Bool
  tenant : Nat
  len : Nat
  txn : Nat
  srcDie : Nat
  addr : Nat
  deriving DecidableEq, Repr

/-- A register's tag and flags as one die tells another: the marks a remote write leaves, or those of the register a
remote read came from (R100, R103, R108). -/
structure RegMark where
  rows : Nat
  cols : Nat
  rstride : Int
  key : Bool
  part : Bool
  deriving DecidableEq, Repr

/-- The peers' answers in a discovery (R240): each die's working bit, and the active lanes between
each pair of neighbours. -/
structure PeerStates where
  working : BitVec 8
  /-- ((lower die, dimension), active lanes between the pair), absent when no port is ACTIVE -/
  lanes : List ((Nat × Nat) × Nat)
  /-- largest capability epoch held by another member (R324) -/
  epoch : BitVec 32
  /-- per port, whether every other member has GALLERY and equal TILES (R292) -/
  agree : List Bool
  deriving DecidableEq, Repr

/-- What the Vault of another member tells after a change of capacity or a commit, which the members agree on over CMD (R265, R292,
R324; the form of the message no rule gives, log entry 75): its states and epoch, the cause, and the logical tiles of
Gallery tenants that read failed there. -/
structure VaultNews where
  states : PeerStates
  cause : Nat
  lost : List Nat
  deriving DecidableEq, Repr

/-- What a report message says (operation 5 of Table GAL-3, whose payload no rule gives; DESIGN CHOICE, log entry 75): a
share waits in a die exchange; it stopped before the exchange; its passes ended; they failed parity and may be repeated;
from the home die, the command has ended, and its unit is repeated (R92, R248, R272); or a Vault tells the others what has
changed (R265, R292, R324). -/
inductive ReportKind
  | begun | stopped | result | retry | withdraw | replay | vault
  deriving DecidableEq, Repr

/-- What a die reports of its share of a Gallery command (R92): the earliest error with its stage
(0 decode, 1 fetch check, 2 pass start, 3 execution), or none, with the S0 and S1 of each limb position on
both sides over its places, RES0 and RES1 of its places, and whether its share read KEY data; `addr` is the page an error
of not present names. `home` is the die the message is bound for, or that it comes from. -/
structure ReportBody where
  home : Nat
  cmd : Nat
  die : Nat
  kind : ReportKind := .result
  error : Option (Nat × Nat) := none
  ins : List (Nat × Nat) := []
  outs : List (Nat × Nat) := []
  res : Nat × Nat := (0, 0)
  key : Bool := false
  addr : Nat := 0
  /-- what a Vault tells -/
  news : Option VaultNews := none
  deriving DecidableEq, Repr

/-- A command as the CMD messages of another die name it: its home die, and its number there (R92, R95). -/
structure CmdName where
  home : Nat
  cmd : Nat
  deriving DecidableEq, Repr

/-- What a GALLERY_COMMIT names: the command's number on its home die, and whether some die's share read KEY data (R95, R104). -/
structure CommitBody where
  cmd : Nat
  key : Bool
  deriving DecidableEq, Repr

/-- What a FLAG_SET_MESSAGE carries: the flag, and the FLAG.SET it comes from (R155). -/
structure FlagBody where
  flag : Nat
  source : CmdName
  deriving DecidableEq, Repr

/-- What a lane has received when it completes a training state: its skew, and the good codewords in a row since the last
such event, 0 where one was not good (R229, R231, R238). -/
structure LaneRx where
  skewNs : Nat
  codewords : Nat
  deriving DecidableEq, Repr

/-- The four access paths of Table DIC-6. -/
inductive Path
  | mgmt | vault | trapdoor | core (c : Nat)
  deriving DecidableEq, Repr

/-- A dictionary request in its turn (Tables DIC-1 and DIC-4). -/
structure DictReq where
  path : Path
  inst : BitVec 5
  index : Nat
  sub : Nat
  len : Nat
  data : List Byte
  /-- management requests already waiting when this one arrived (R312) -/
  ahead : Nat
  deriving DecidableEq, Repr

/-- A unit with a power state of its own (Table PWR-2). -/
inductive PowerUnit
  | quad (n : Nat) | quadrant (n : Nat) | port (k : Nat)
  deriving DecidableEq, Repr

/-- The commands: one constructor per row of spec/opcode_table.json, in the table's order. -/
inductive Instr
  | nop (p q : Nat) (d : Desc)
  | release (p q : Nat) (d : Desc)
  | releaseApply (id : Nat)
  | setEpoch (p q : Nat) (d : Desc)
  | fence (p q : Nat) (d : Desc)
  | fenceEnd (id : Nat)
  | flagSet (p q : Nat) (d : Desc)
  | flagSetApply (id : Nat)
  | flagWait (p q : Nat) (d : Desc)
  | flagWaitTimeout (id : Nat)
  | flagDeadlock (p : Nat)
  | resume (p q : Nat) (d : Desc)
  | discard (p q : Nat) (d : Desc)
  | debugBreak (p q : Nat) (d : Desc)
  | modtabLoad (p q : Nat) (d : Desc)
  | modtabTakeEffect (id : Nat)
  | permGen (p q : Nat) (d : Desc)
  | permIdx (p q : Nat) (d : Desc)
  | transpose (p q : Nat) (d : Desc)
  | bitrev (p q : Nat) (d : Desc)
  | layout (p q : Nat) (d : Desc)
  | rotacc (p q : Nat) (d : Desc)
  | accDrain (p q : Nat) (d : Desc)
  | accClear (p q : Nat) (d : Desc)
  | gatherBlk (p q : Nat) (d : Desc)
  | scatterBlk (p q : Nat) (d : Desc)
  | move (p q : Nat) (d : Desc)
  | grid (p q : Nat) (d : Desc)
  | loadRows (p q : Nat) (d : Desc)
  | storeRows (p q : Nat) (d : Desc)
  | rowCommit (id row : Nat) (parity : List ParityEvent)
  | rowHalt (id : Nat)
  | rowDenied (id : Nat)
  | commitUnit (id : Nat) (ev : UnitEvent)
  | streamArm (p q : Nat) (d : Desc)
  | streamGrant (p : Nat)
  | streamRearm (p q : Nat) (d : Desc)
  | rearmBoundary (n : Nat)
  | segmentStart (n : Nat)
  | segmentDone (n : Nat)
  | runEnd (n : Nat)
  | streamHalt (n pos : Nat)
  | streamDisarm (n : Nat)
  | handleReturn (h : Nat)
  | multicastDetach (n : Nat) (positions : List (Nat × Nat))
  | handlePush (p q : Nat) (d : Desc)
  | handlePushRoom (id : Nat)
  | handlePop (p q : Nat) (d : Desc)
  | handlePopArrival (id : Nat)
  | sqTail (p q : Nat) (v : BitVec 32)
  | cqHead (p q : Nat) (v : BitVec 32)
  | enable (p q : Nat) (config : BitVec 32)
  | disable (p q : Nat) (config : BitVec 32)
  | start (p q : Nat) (control : BitVec 32)
  | stop (p q : Nat) (control : BitVec 32)
  | tenantRegisterWrite (p off : Nat) (v : BitVec 64)
  | haltResume (m : Master) (p q : Nat) (v : BitVec 64)
  | haltDiscard (m : Master) (p q : Nat) (v : BitVec 64)
  | wbase (m : Master) (core : Nat) (v : BitVec 64)
  | fragmentViewAccess (m : Master) (write : Bool) (addr : Nat) (data : Granule)
  | busRequest (r : BusReq)
  | memoryResponse (m ctx line : Nat) (status : RspStatus) (data : List Byte)
  | lineInvalidate (m line : Nat) (data : List Byte)
  | masterReset (m : Master)
  | feWatchdog (n : Nat)
  | forwardedDescriptor (die p homeCmd : Nat) (d : Desc)
  | report (r : ReportBody)
  | galleryCommit (die : Nat) (c : CommitBody)
  | commitAcknowledgement (c : CmdName) (die : Nat)
  | flagSetMessage (p : Nat) (m : FlagBody)
  | linkRead (k : Nat) (h : MsgHeader)
  | linkWrite (k : Nat) (h : MsgHeader) (data : BitVec 2048) (mark : RegMark)
  | readData (k : Nat) (h : MsgHeader) (ok : Bool) (data : BitVec 2048) (mark : RegMark)
  | writeResponse (k : Nat) (h : MsgHeader) (ok : Bool)
  | dataFlit (k : Nat) (f : Flit) (runs : List BulkRun)
  | ctrlFlit (k : Nat) (f : Flit) (b : CtrlBody)
  | nak (k : Nat) (f : Flit) (b : CtrlBody)
  | replayTimer (k : Nat)
  | ident (k : Nat) (lanes : BitVec 8) (i : IdentBody)
  | handover (k failed : Nat) (lastSeq : BitVec 12)
  | loss (k lostMask die : Nat)
  | standby (k : Nat)
  | linkWake (k : Nat)
  | laneTraining (k lane : Nat) (rx : LaneRx)
  | trainingTimeout (k lane : Nat)
  | laneRetrain (k lane : Nat) (failures : Option Nat)
  | portSilence (k : Nat)
  | discovery (s : PeerStates)
  | linkPwrGood (k : Nat)
  | tileRetire (t : Nat) (unreadable : List Nat)
  | spareScrub (bad : List Nat)
  | timeSlice (p : Nat)
  | controlSramParity (addr : Nat) (readOk : Bool)
  | vaultSramParity (addr : Nat)
  | powerCapCheck (powerNow : BitVec 16)
  | idleDelay (u : PowerUnit)
  | unitWake (u : PowerUnit)
  | coldReset (bad : List Nat)
  | blockReset
  | blockStart
  | tenantReset (p : Nat)
  | powerLoss
  | presenceWindowOpen
  | windowExpiry
  | stuck
  | sumpInterval
  | tapInstruction (i : Nat)
  | read (r : DictReq)
  | write (r : DictReq)
  | describe (r : DictReq)
  | next (r : DictReq)
  | commit (r : DictReq)
  | stagedRecord (r : DictReq)
  | fwLoad (r : DictReq) (readOk : Bool)
  | fuseProgram (r : DictReq) (supplyOkPulses : Option Nat)
  | reform (r : DictReq) (s : PeerStates)
  | portRetrain (r : DictReq)
  | tileBind (r : DictReq) (unreadable : List Nat)
  | tileReturn (r : DictReq) (good : Bool)
  | trapdoorEn (r : DictReq)
  | clear (r : DictReq)
  | close (r : DictReq)
  | alertCause (r : DictReq) (raised : BitVec 32)
  | select (r : DictReq)
  | powerCap (r : DictReq)
  | clockFloor (r : DictReq)
  | bootswap (r : DictReq)
  | holdMode (r : DictReq)
  | localDictionaryRequest (m : Master) (slot op : Nat) (r : DictReq)
  | schedulerInterrupt (id : Nat)
  | clockAbsent (mask : BitVec 21)
  | idleFlit (k : Nat) (f : Flit)
  | badRequest (body : List Byte)
  | stuckClear
  deriving DecidableEq, Repr

end Sys2Proof
end

