-- ==== Sys2Proof/Config.lean ====
section
/-! DEFINITION. What the spec leaves open: free values with no body, and the functions of published
standards that the text only names. -/
namespace Sys2Proof.Config

/-- DESIGN CHOICE (log entry 5). What a byte holds where the spec calls it undefined (R224, R347):
`freeByte n a` for the `n`-th such event and address `a`. Nothing constrains it. Safe. -/
opaque freeByte : Nat → Nat → Byte

/-- DESIGN CHOICE (log entry 5). WHERE of a PARITY record of a moduli-table entry, which no rule states
(Table SMP-4). Safe. -/
opaque freePlace : Nat → BitVec 64

/-- The Volulason die's address interleave, which lies outside the block (R204): the home memory port of an
external line in a translation context. DESIGN CHOICE (log entry 78). Safe. -/
opaque homePort : Nat → Nat → Fin 16

/-- DESIGN CHOICE (log entry 12). SHA-384 of FIPS 180, named by R300 and outside the text. Safe. -/
opaque sha384 : List Byte → BitVec 384

/-- DESIGN CHOICE (log entry 12). ECDSA P-384 verification (FIPS 186-5) of public key, hash, r and s,
named by R300 and outside the text. Safe. -/
opaque ecdsaVerify : List Byte → BitVec 384 → List Byte → List Byte → Bool

end Sys2Proof.Config
end

