-- ==== Sys2Proof/Machine/Bits.lean ====
section
/-! DEFINITION. Bit fields, byte order and small number helpers (R7, R10). -/
namespace Sys2Proof.Machine

/-- The `n`-bit field of `v` from bit `lo`, as a number. -/
def field {w : Nat} (v : BitVec w) (lo n : Nat) : Nat := v.toNat / 2 ^ lo % 2 ^ n

/-- The `n`-bit field of `v` from bit `lo`, as a signed number (I16, I32). -/
def sfield {w : Nat} (v : BitVec w) (lo n : Nat) : Int :=
  let x := field v lo n
  if x < 2 ^ (n - 1) then (x : Int) else (x : Int) - 2 ^ n

/-- Bit `i` of a number. -/
def natBit (v i : Nat) : Bool := v / 2 ^ i % 2 == 1

/-- Bit `i` of a bit vector. -/
def bitAt {w : Nat} (v : BitVec w) (i : Nat) : Bool := v.getLsbD i

/-- Writes bit `i`. -/
def setBit {w : Nat} (v : BitVec w) (i : Nat) (x : Bool) : BitVec w :=
  if x then v ||| BitVec.ofNat w (2 ^ i) else v &&& ~~~ BitVec.ofNat w (2 ^ i)

/-- The numbers below `n` whose bit is set, ascending. -/
def setBits (v n : Nat) : List Nat := (List.range n).filter (natBit v)

/-- The mask with the listed bits set. -/
def maskOf (l : List Nat) : Nat := l.foldl (fun m i => if natBit m i then m else m + 2 ^ i) 0

/-- `brv(x, b)`: the low `b` bits of `x` in reverse order. -/
def brv (b x : Nat) : Nat :=
  match b with
  | 0 => 0
  | c + 1 => x % 2 * 2 ^ c + brv c (x / 2)

/-- The low `n` bytes of a number, least significant first (R7). -/
def leBytes (n v : Nat) : List Byte :=
  match n with
  | 0 => []
  | k + 1 => BitVec.ofNat 8 v :: leBytes k (v / 256)

/-- The number that little-endian bytes spell (R7). -/
def ofLe : List Byte → Nat
  | [] => 0
  | x :: t => x.toNat + 256 * ofLe t

/-- The number that big-endian bytes spell (Table VLT-4, SIG_R and SIG_S). -/
def ofBe (l : List Byte) : Nat := ofLe l.reverse

/-- Limb word `w` of a granule (R10). -/
def gword (g : Granule) (w : Nat) : Nat := g.toNat / 2 ^ (64 * w) % 2 ^ 64

/-- The granule with the given limb words, word 0 first. -/
def gmake (words : Nat → Nat) : Granule :=
  BitVec.ofNat 512 ((List.range 8).foldr (fun w acc => acc * 2 ^ 64 + words w % 2 ^ 64) 0)

/-- `⌈a / b⌉`. -/
def ceilDiv (a b : Nat) : Nat := (a + b - 1) / b

/-- Base-2 logarithm, rounded down, of a positive number below 2^`fuel`. -/
def log2f : Nat → Nat → Nat
  | 0, _ => 0
  | f + 1, x => if x ≤ 1 then 0 else 1 + log2f f (x / 2)

/-- `x` is a power of two. -/
def isPow2 (x : Nat) : Bool := x == 2 ^ log2f 64 x && x != 0

/-- Some element occurs twice. -/
def hasDup : List Nat → Bool
  | [] => false
  | x :: t => t.contains x || hasDup t

end Sys2Proof.Machine
end

