-- ==== Sys2Proof/Machine/Tab.lean ====
section
/-! DEFINITION. Sparse tables with natural-number keys in one canonical form: keys strictly rising and
no entry equal to the default. Memory is such a table of bytes. -/
namespace Sys2Proof.Machine

/-- A sparse table: key and value pairs. -/
abbrev Tab (α : Type) := List (Nat × α)

/-- The entry at a key, if listed. -/
def tabFind {α : Type} : Tab α → Nat → Option α
  | [], _ => none
  | (k, v) :: t, key => if k = key then some v else tabFind t key

/-- The value at a key; `d` where none is listed. -/
def tabGet {α : Type} (d : α) (t : Tab α) (key : Nat) : α := (tabFind t key).getD d

/-- Lists a value, keeping the keys strictly rising. -/
def tabIns {α : Type} (key : Nat) (v : α) : Tab α → Tab α
  | [] => [(key, v)]
  | (k, w) :: t =>
    if key < k then (key, v) :: (k, w) :: t
    else if key = k then (key, v) :: t
    else (k, w) :: tabIns key v t

/-- Takes a key's entry out. -/
def tabDel {α : Type} (key : Nat) : Tab α → Tab α
  | [] => []
  | (k, w) :: t => if key = k then t else (k, w) :: tabDel key t

/-- Writes a value: writing the default takes the entry out, so equal tables are equal lists. -/
def tabPut {α : Type} [DecidableEq α] (d : α) (t : Tab α) (key : Nat) (v : α) : Tab α :=
  if v = d then tabDel key t else tabIns key v t

/-- Changes the value at a key. -/
def tabUpd {α : Type} [DecidableEq α] (d : α) (t : Tab α) (key : Nat) (f : α → α) : Tab α :=
  tabPut d t key (f (tabGet d t key))

/-- Keeps the entries whose key passes a test. -/
def tabKeep {α : Type} (ok : Nat → Bool) (t : Tab α) : Tab α := t.filter (fun e => ok e.1)

/-- Every listed key lies above `lo`, and the keys strictly rise. -/
def tabSortedFrom {α : Type} : Option Nat → Tab α → Bool
  | _, [] => true
  | lo, (k, _) :: t => (match lo with | none => true | some l => decide (l < k)) && tabSortedFrom (some k) t

/-- The canonical form: keys strictly rising, no entry equal to the default. -/
def tabWf {α : Type} [DecidableEq α] (d : α) (t : Tab α) : Bool :=
  tabSortedFrom none t && t.all (fun e => !decide (e.2 = d))

end Sys2Proof.Machine
end

