-- ==== Sys2Proof/Machine/State.lean ====
section
/-! DEFINITION. The state of the block as plain data, and the block right after a cold reset has
reached ready (R343, R344). Field defaults are the reset values; INVENTORY.md cites the rule of each. -/
namespace Sys2Proof.Machine

/-- A step of this block never stops with a fault: the spec gives every command an effect in every
state, an error response or a completion code where something is refused, so the type has no case. -/
inductive Fault
  deriving DecidableEq, Repr

/-- Why a command has no meaning. -/
inductive Refusal
  /-- Raised by an arm of `exec` whose command has no meaning yet. Safe: the machine stops. -/
  | notModelled (mnemonic : String)
  deriving DecidableEq, Repr

/-- Completion codes and the stream status MULTICAST_DETACH (Table SMP-1, R268). -/
inductive Code
  | ok | faultResumable | align | shape | shapeMismatch | partialRead | aliasWrite | indexRange
  | dupDest | absentUnit | notOwner | scheduleStale | flagDeadlock | parity | tallyMismatch
  | twinMismatch | linkLost | zeroised | aborted | multicastDetach
  deriving DecidableEq, Repr

/-- Queue states (Table CMD-2). -/
inductive QState
  | disabled | running | blocked | stopped | halted
  deriving DecidableEq, Repr

/-- Where a command in flight stands. -/
inductive CmdState
  /-- held at its table check until a new moduli table is in force (R21) -/
  | table
  /-- decoded and checked, at or before its passes -/
  | ready
  /-- a row command issuing rows (R110) -/
  | rows
  /-- halted with a restart record (R112) -/
  | halted
  /-- NOP with release waiting (R106) -/
  | release
  /-- FENCE waiting (R153) -/
  | fence
  /-- FLAG.SET waiting (R155) -/
  | flagSet
  /-- FLAG.WAIT waiting (R156) -/
  | flagWait
  /-- MODTAB.LOAD waiting (R21) -/
  | modtab
  /-- STREAM.ARM waiting for its grant (R178) -/
  | grant
  /-- HANDLE.PUSH waiting for room (R183) -/
  | push
  /-- HANDLE.POP waiting for an arrival (R184) -/
  | pop
  /-- passes done, waiting for reports or commits of other dies (R92, R95) -/
  | gallery
  /-- committed, waiting for cross-die responses or acknowledgements -/
  | drain
  /-- a forwarded descriptor held at decode while the Gallery re-forms (R245) -/
  | held
  /-- ended, its completion record waiting for a ring slot that could not be written (R137, R140) -/
  | record
  deriving DecidableEq, Repr

/-- A completion record before its PHASE bit is known (Table CMD-9). -/
structure Cpl where
  tag : BitVec 16
  code : Code
  res0 : Nat
  res1 : Nat
  cycles : Nat
  /-- the command that this record ends; none for an interim FAULT_RESUMABLE record (R115) -/
  cmd : Option Nat := none
  deriving DecidableEq, Repr

/-- A restart record (Table TRG-3), with the command it stands for. -/
structure Restart where
  cmd : Nat
  opcode : BitVec 16
  tag : BitVec 16
  port : Nat
  queue : Nat
  cause : Nat
  kind : Nat
  count : BitVec 48
  rowMask : BitVec 64
  next : Nat
  place : BitVec 16
  faultAddr : Nat
  res0 : Nat
  res1 : Nat
  /-- the stored record has wrong parity (R247) -/
  bad : Bool := false
  deriving DecidableEq, Repr

/-- One command queue with its registers (Table CMD-1), its break, schedule epoch and restart record. -/
structure Queue where
  ringBase : BitVec 64 := 0
  cplBase : BitVec 64 := 0
  restartArea : BitVec 64 := 0
  logEntries : BitVec 5 := 0
  enable : Bool := false
  state : QState := .disabled
  cause : Nat := 0
  sqTail : BitVec 32 := 0
  sqHead : BitVec 32 := 0
  cqTail : BitVec 32 := 0
  cqHead : BitVec 32 := 0
  count : BitVec 48 := 0
  schedEpoch : BitVec 32 := 0
  brkMode : Nat := 0
  brkTag : BitVec 16 := 0
  brkMask : BitVec 16 := 0
  brkCount : BitVec 48 := 0
  brkSkip : Bool := false
  blockedBy : Option Nat := none
  /-- stop cause to show once the halted command has ended (R138) -/
  pendingStop : Option Nat := none
  restart : Option Restart := none
  cplWait : List Cpl := []
  deriving DecidableEq, Repr

/-- A granule in a phase bank: its bytes, its sign tag (R252), whether it came from another die, and whether its bytes
have wrong parity (R232). -/
structure BankGran where
  val : Granule
  neg : Bool
  far : Bool
  bad : Bool
  deriving DecidableEq, Repr

/-- A command in flight (R140), in decode order in `Blk.cmds`. -/
structure Cmd where
  id : Nat
  /-- 0-4 for P0-P4, 5 for the Vault queue (R166) -/
  port : Nat
  queue : Nat
  desc : Desc
  /-- queue command count (R139) -/
  count : BitVec 48
  /-- tile cycle of its decode -/
  t0 : Nat
  /-- matrix cycle of its decode or arrival (R78) -/
  mc : Nat := 0
  st : CmdState
  /-- the passes have begun, so tags and PARTIAL have been judged (R103) -/
  started : Bool := false
  /-- first uncommitted unit, or first row never issued (R112) -/
  unit : Nat := 0
  rowMask : BitVec 64 := 0
  /-- rows issued since the command began or was resumed: every row below it that was clear then (R110, R116) -/
  issued : Nat := 0
  /-- rows issued since then that reported not present or denied (R112, R363) -/
  back : BitVec 64 := 0
  /-- rows in flight that reported not present or denied -/
  faultAddr : Option Nat := none
  denied : Bool := false
  /-- 2 or 3 when an interruption has been asked for (R112) -/
  interrupt : Nat := 0
  /-- decode-stage code found while the table check was still held (R21, R269) -/
  early : Option Code := none
  /-- the fetch check has passed and is not repeated (R271) -/
  fetched : Bool := false
  /-- list entries as the fetch engine read them (R36) -/
  entries : List Nat := []
  /-- the phase-control stream header as the fetch engine read it (R90, R163) -/
  header : Option (BitVec 512) := none
  /-- source blocks in the staging handle, most recent first, each with its sixteenth of the handle (R64) -/
  staged : List (Nat × Nat) := []
  /-- the command read KEY data of another die (R104, R108) -/
  farKey : Bool := false
  /-- attempts of the present unit that failed parity, by the place of each (R248, R262) -/
  attempts : List Nat := []
  /-- member of a ROTACC and step of the die exchange that the phases have come to (R94) -/
  member : Nat := 0
  step : Nat := 0
  /-- granules of the present step have been sent -/
  stepSent : Bool := false
  /-- what the phase banks hold during a Gallery command, key (member × 64 + tile) × 16384 + slot (R81) -/
  bank : Tab BankGran := []
  /-- a run of the exchange did not hold as many granules as its mask (R91) -/
  uneven : Bool := false
  /-- per coordinate-list entry, resolved source and destination blocks; none for SKIP -/
  blocks : List (Option (Nat × Nat)) := []
  res0 : Nat := 0
  res1 : Nat := 0
  /-- home die and the home die's command, for a forwarded command (R92) -/
  home : Option (Nat × Nat) := none
  reports : List ReportBody := []
  acks : List Nat := []
  commitSent : Bool := false
  deriving DecidableEq, Repr

/-- A register's tag and flags (Tables TRG-1, TRG-2); ROWS 0 is the tag NONE. -/
structure Reg where
  rows : Nat := 0
  cols : Nat := 0
  rstride : Int := 0
  inUse : Bool := false
  key : Bool := false
  part : Bool := false
  deriving DecidableEq, Repr

/-- A moduli table entry (Table GRN-2); `bad` marks a stored parity error (R248). -/
structure Modulus where
  q : BitVec 64 := 0
  valid : Bool := false
  mu : BitVec 64 := 0
  bad : Bool := false
  deriving DecidableEq, Repr

/-- Stream states (Table STM-4). -/
inductive SState
  | disarmed | waiting | running | parked | halted | error | ending
  deriving DecidableEq, Repr

/-- One stream (Tables STM-1, STM-4, STM-5). -/
structure Stream where
  state : SState := .disarmed
  port : Nat := 0
  /-- the descriptor of Table STM-1 as read at arm -/
  sd : BitVec 512 := 0
  dbase : Nat := 0
  ibase : Nat := 0
  code : Code := .ok
  segment : Nat := 0
  position : Nat := 0
  segsDone : Nat := 0
  faultAddr : Nat := 0
  detached : BitVec 64 := 0
  /-- positions of detached receivers (R200) -/
  behind : Tab Nat := []
  segStarted : Bool := false
  /-- segments of its run that the fetch side has issued requests for (R194) -/
  fetched : Nat := 0
  /-- segment and granule that the fetch side comes to next in its run (R174, R194) -/
  fseg : Nat := 0
  fpos : Nat := 0
  /-- a new run that the fetch side has gone on to before the sink: segments of the run before it, data and index base
  (R194) -/
  turn : Option (Nat × Nat × Nat) := none
  /-- the fetch side stands in that new run -/
  ahead : Bool := false
  /-- handles of the reservation that hold granules fetched and not delivered, oldest first (R181, R189) -/
  buffer : List Nat := []
  /-- checked segments of the memory side with their index entries as read (R172); the key of a segment of the new run is
  2^32 above its number -/
  entries : Tab (List Nat) := []
  /-- handles of a SHELF source that only detached receivers have still to take (R197, R200) -/
  kept : Nat := 0
  /-- pending REARM: new data and index base (R194) -/
  rearm : Option (Nat × Nat) := none
  /-- the pending REARM waits for this segment of the current run (R194) -/
  boundary : Nat := 0
  /-- ends at the end of the run instead of parking (Table STM-6) -/
  endAfter : Bool := false
  /-- HANDLES of the arm -/
  want : Nat := 0
  /-- handles of the reservation that are home -/
  home : List Nat := []
  /-- size of the reservation while granted -/
  reserved : Nat := 0
  /-- the STREAM.ARM waiting for the grant -/
  armCmd : Nat := 0
  deriving DecidableEq, Repr

/-- The condition of a handle (R177). -/
inductive HCond
  | free | granted | shelved (shelf : Nat) | lent (shelf : Nat)
  deriving DecidableEq, Repr

/-- One Pantry handle: condition, owning stream (none: the pool), granules filled, and whether its
consumer stream has delivered it (R182). -/
structure Handle where
  cond : HCond := .free
  owner : Option Nat := none
  fill : Nat := 0
  delivered : Bool := false
  deriving DecidableEq, Repr

/-- A partition record (Table VLT-1). -/
structure PartRec where
  tiles : BitVec 64 := 0
  shelves : BitVec 64 := 0
  handleFirst : BitVec 16 := 0
  handleCount : BitVec 16 := 0
  share : BitVec 16 := 0
  cellar : BitVec 16 := 0
  flags : BitVec 8 := 0
  quantum : BitVec 32 := 0
  ctxBase : BitVec 64 := 0
  ctxSize : BitVec 32 := 0
  deriving DecidableEq, Repr

/-- A Sump record (Table SMP-3). -/
structure SumpRec where
  seq : BitVec 32
  time : BitVec 48
  event : BitVec 8
  code : BitVec 8
  source : BitVec 16
  tag : BitVec 16
  where_ : BitVec 64
  detail : BitVec 64
  /-- the stored record has wrong parity (R247) -/
  bad : Bool := false
  deriving DecidableEq, Repr

/-- The Sump and the alert registers (Table SMP-5). -/
structure Sump where
  ring : Tab SumpRec := []
  written : BitVec 32 := 0
  suppressed : BitVec 32 := 0
  first : Option SumpRec := none
  /-- records of each port in the present millisecond (R281) -/
  counts : Tab Nat := []
  alertCause : BitVec 32 := 0
  alertMask : BitVec 32 := 0x7FF
  deriving DecidableEq, Repr

/-- The clocks: Lantern ticks, tile cycles, matrix cycles, and the model's own free-value counter. -/
structure Clock where
  tick : Nat := 0
  tc : Nat := 0
  mc : Nat := 0
  fresh : Nat := 0
  deriving DecidableEq, Repr

/-- The latched fuse values (R306, Table VLT-7). -/
structure Latched where
  packageId : BitVec 32 := 0
  shape : BitVec 2 := 3
  grade : BitVec 2 := 0
  factoryRetired : BitVec 68 := 0
  keyHash : Tab (BitVec 384) := []
  programmed : BitVec 4 := 0
  revoked : BitVec 4 := 0
  rollback : Nat := 0
  sealed : Bool := false
  deriving DecidableEq, Repr

/-- Three copies of a value row: data bits 63-0 and the commit bit 64 (R306). -/
structure FuseRow where
  a : BitVec 65 := 0
  b : BitVec 65 := 0
  c : BitVec 65 := 0
  deriving DecidableEq, Repr

/-- Straps, ties and the fuse array. -/
structure Fab where
  dieId : BitVec 3 := 0
  iana : BitVec 32 := 0
  stepping : BitVec 32 := 0
  rows : Tab FuseRow :=
    [(0, ⟨0x10000000300000000, 0x10000000300000000, 0x10000000300000000⟩),
     (1, ⟨0x10000000000000000, 0x10000000000000000, 0x10000000000000000⟩),
     (2, ⟨0x10000000000000000, 0x10000000000000000, 0x10000000000000000⟩)]
  /-- keys 0-3 KEY_REVOKE, 4-67 ROLLBACK, 68 TRAPDOOR_SEAL -/
  flagFuses : Tab (BitVec 3) := []
  lat : Latched := {}
  fuseStatus : BitVec 3 := 0
  blocked : BitVec 4 := 0
  deriving DecidableEq, Repr

/-- Power, clocks, resets (chapter 13). -/
structure Pwr where
  standby : Bool := true
  coreGood : Bool := true
  inReset : Bool := false
  clkAbsent : BitVec 21 := 0
  iso : Bool := false
  wake : Bool := false
  cap : BitVec 16 := 0
  powerNow : BitVec 16 := 0
  clockFloor : BitVec 16 := 1600
  clockNow : BitVec 16 := 1600
  /-- the decode hold H in µs (R333) -/
  hold : Nat := 0
  /-- 0 OFF, 1 RETAIN, 2 RUN, per quad -/
  quads : Tab Nat := []
  quadrants : Tab Nat := []
  portPower : Tab Nat := [(0, 0), (1, 0), (2, 0), (3, 0), (4, 0), (5, 0)]
  idlePolicy : BitVec 32 := 0x7
  idleDelay : BitVec 32 := 100
  linkGood : BitVec 6 := 0
  /-- EPOCH_CAUSE of the capacity that a block start will bring back, 0 for none (R346) -/
  before : Nat := 0
  deriving DecidableEq, Repr

/-- Interrupt pulses counted since the cold start, and what was last sent out. -/
structure Out where
  tenantInt : Tab Nat := []
  mgmtInt : Nat := 0
  fwInt : Nat := 0
  debugInt : Nat := 0
  /-- the response body last sent on the management port (Table DIC-2) -/
  mgmtTx : Option (List Byte) := none
  /-- CMD messages sent to other dies: operation of Table GAL-3, die, and the command or flag -/
  sent : List (Nat × Nat × Nat) := []
  /-- lines written back with poisoned sectors: block address, translation context, sectors (R250, Table PWR-7) -/
  poison : List (Nat × Nat × BitVec 8) := []
  /-- write responses of the matrix: those of writes that every master can see, and those of SYS writes that a memory port
  has passed on (R216) -/
  seen : Nat := 0
  passed : Nat := 0
  /-- BULK runs sent, each with its port (R227) -/
  runs : List (Nat × BulkRun) := []
  /-- read data of the last fragment-view or bus access, and whether it was an error response -/
  rdata : BitVec 2048 := 0
  rerror : Bool := false
  /-- tag and flags of the register last read for another die -/
  rmark : RegMark := ⟨0, 0, 0, false, false⟩
  deriving DecidableEq, Repr

/-- The presence window (R301, R302). -/
structure Pres where
  opened : Option Nat := none
  length : Nat := 0
  low : Bool := false
  stuck : Bool := false
  window : BitVec 16 := 120
  deriving DecidableEq, Repr

/-- A tile context the Vault has saved (R128, R129): sequence number and image address. -/
structure Saved where
  seq : Nat
  addr : Nat
  /-- registers whose PARTIAL a discard has cleared since the save (R117) -/
  clear : List Nat := []
  deriving DecidableEq, Repr

/-- The Vault's registers (chapters 09, 11, 12). -/
structure Vlt where
  alive : Bool := true
  staged : Tab PartRec := []
  active : Tab PartRec := []
  generation : BitVec 32 := 0
  /-- a commit being applied: the new record of each port that changes (R290, Table DIC-9) -/
  applying : Tab PartRec := []
  /-- logical tile to physical tile; no entry: absent or failed -/
  tileMap : Tab Nat := (List.range 64).map (fun t => (t, t))
  /-- PHYS_STATE: 0 bound, 1 free spare, 2 failed, 3 retired at manufacture, 4 absent -/
  phys : Tab Nat := [(64, 1), (65, 1), (66, 1), (67, 1)]
  mapStatus : BitVec 32 := 0
  epoch : BitVec 32 := 1
  epochCause : BitVec 32 := 0
  ctxSeq : Tab Nat := []
  saved : Tab Saved := []
  /-- pending ZEROISED notices: port × 64 + tile (R273) -/
  notices : List Nat := []
  faults : Tab (List Nat) := []
  repeats : Tab (List Nat) := []
  /-- physical tiles whose faults call for retirement (R262) -/
  due : List Nat := []
  fwState : Nat := 0
  fwReason : Nat := 0
  coreState : BitVec 8 := 0
  dataBase : BitVec 64 := 0
  dataSize : BitVec 32 := 0
  decodeHeld : Bool := false
  /-- tiles being quieted: nothing is decoded for them (R126) -/
  quieting : List Nat := []
  /-- ports whose time slice has ended and whose tiles are coming to rest (R293) -/
  turning : List Nat := []
  /-- logical tiles that Gallery tenants lost on another die and that are coming to rest (R265) -/
  leaving : List Nat := []
  /-- physical tiles whose retirement waits for its tile to come to rest, with the frames that read bad (R263) -/
  retiring : Tab (List Nat) := []
  /-- ports waiting for their time-slice turn (R293) -/
  sliced : List Nat := []
  /-- a TILE_BIND that waits for its tile to come to rest: logical tile, spare, frames that read bad (R326) -/
  binding : Option (Nat × Nat × List Nat) := none
  trapEn : Bool := false
  trapOpen : Bool := false
  /-- instruction of the Trapdoor TAP: 0 IDCODE, 1 BYPASS, 2 SAMPLE/PRELOAD, 3 EXTEST, others instruments -/
  tap : Nat := 0
  deriving DecidableEq, Repr

/-- A slot of the local dictionary port (Table DIC-4). -/
structure Slot where
  index : BitVec 16 := 0
  sub : BitVec 8 := 0
  op : BitVec 8 := 0
  len : BitVec 16 := 0
  status : BitVec 8 := 0
  data : List Byte := []
  deriving DecidableEq, Repr

/-- Configuration entries of the dictionary. -/
structure Dict where
  bootswap : Bool := false
  bootswapNow : Bool := false
  patience : BitVec 32 := 2048
  holdCb : BitVec 32 := 0
  holdTs : BitVec 32 := 0
  holdPp : BitVec 32 := 0
  holdM : BitVec 32 := 0
  holdOther : BitVec 32 := 0
  replayLimit : BitVec 8 := 2
  retireLimit : BitVec 8 := 3
  autoSpare : Bool := true
  fwBase : BitVec 64 := 0
  fwDataBase : BitVec 64 := 0
  fwDataSize : BitVec 32 := 0
  /-- SELECT per path: 0 management, 1 Vault, 2-5 control cores, 6 Trapdoor (R317) -/
  select : Tab (BitVec 16) := []
  slots : Tab Slot := []
  portEnable : BitVec 32 := 0x3F
  uncorrLimit : BitVec 32 := 4
  deriving DecidableEq, Repr

/-- The segment a target port's data path is moving: the request, the mc of its grant, and the bytes it
replaces (R211, R222). -/
structure Seg where
  req : BusReq
  start : Nat
  old : BitVec 2048
  deriving DecidableEq, Repr

/-- A target port of the matrix (R210 to R218). -/
structure BusPort where
  /-- place after the requester granted last in the cyclic order (R210) -/
  ptr : Nat := 0
  /-- first mc in which the data path is free -/
  busy : Nat := 0
  cur : Option Seg := none
  /-- requests that wait, each with the mc in which it was presented (R211) -/
  waiting : List (BusReq × Nat) := []
  /-- master that keeps the port for its burst in hold mode (R218) -/
  owner : Option Master := none
  /-- hold mode as it stood at the port's last burst boundary (R218) -/
  hold : Bool := false
  deriving DecidableEq, Repr

/-- The line transfers of R213. -/
inductive Transfer
  | refill | through | back
  deriving DecidableEq, Repr

/-- A line request that missed at a Cellar bank, or a write-back, from the bank to its response (R213 to R215, R223). -/
structure Flight where
  req : BusReq
  kind : Transfer
  /-- it has one of its quadrant's entries; until then it waits in the miss buffer (R213, R214) -/
  entry : Bool := false
  /-- its memory port has taken it -/
  sent : Bool := false
  discard : Bool := false
  /-- replays of a response that failed parity (R248, R349) -/
  tries : Nat := 0
  deriving DecidableEq, Repr

/-- A Cellar line (R204 to R207, R295); the list holds the most recently used line first. -/
structure Line where
  addr : Nat
  home : Nat
  tag : Nat
  dirty : Bool
  deriving DecidableEq, Repr

/-- The bus matrix. -/
structure Bus where
  ports : Tab BusPort := []
  flight : List Flight := []
  /-- requests held back (R215), each with its mc -/
  held : List (BusReq × Nat) := []
  cellar : List Line := []
  /-- bucket levels in 1/64 byte, key tenant × 16 + memory port (R187) -/
  buckets : Tab Nat := []
  wbase : Tab (BitVec 48) := []
  /-- quadrants out of service (R266) -/
  quadrantOut : BitVec 4 := 0
  bankFaults : Tab (List Nat) := []
  deriving DecidableEq, Repr

/-- Link port states (PORT_STATE of Table GAL-8). -/
inductive LinkState
  | off | training | active | failed
  deriving DecidableEq, Repr

/-- Lane training states (Table GAL-6). -/
inductive LaneState
  | idle | detect | equalise | lock | identify | active | failed
  deriving DecidableEq, Repr

/-- A flit in the replay buffer: its number, class, times sent, the lane it was dealt to, and POISON (R230, R232, R234). -/
structure TxFlit where
  seq : BitVec 12
  cls : Nat
  times : Nat
  lane : Nat
  poison : Bool
  deriving DecidableEq, Repr

/-- What a received flit brings once it is accepted. -/
inductive RxItem
  | data (f : Flit) (runs : List BulkRun)
  | ctrl (c : CtrlBody)
  | nak (c : CtrlBody)
  deriving DecidableEq, Repr

/-- One link port (chapter 08). -/
structure LinkPort where
  state : LinkState := .off
  lanes : Tab LaneState := []
  active : BitVec 8 := 0
  degraded : BitVec 8 := 0
  /-- training from RETAIN rather than from OFF (Table GAL-6) -/
  fromRetain : Bool := false
  /-- trained by PORT_RETRAIN, so coming into service restores capacity (R244) -/
  retrained : Bool := false
  txSeq : BitVec 12 := 0
  /-- flits sent and not acknowledged; classes 4 to 8 are CTRL flits: plain, NAK, HANDOVER, LOSS, STANDBY (R234) -/
  replay : List TxFlit := []
  /-- flits waiting for a credit or for room: class, POISON -/
  txWait : List (Nat × Bool) := []
  rxSeq : BitVec 12 := 0
  /-- flits received ahead of their turn, by number (R231) -/
  rxHeld : List (BitVec 12 × RxItem) := []
  /-- flits accepted since the last acknowledgement (R234) -/
  unacked : Nat := 0
  /-- lanes dealt a flit since the last tick, and lanes that carried only IDLE flits in the last tick (R230) -/
  dealt : BitVec 8 := 0
  idle : BitVec 8 := 0
  /-- lanes retraining while the port stays ACTIVE (R242) -/
  retraining : BitVec 8 := 0
  /-- good codewords in a row of each lane in LOCK (R229) -/
  codewords : Tab Nat := []
  /-- ticks of the uncorrectable codewords of each lane in the last millisecond (R242) -/
  uncorr : Tab (List Nat) := []
  /-- lanes on which the port has sent its own IDENT (R238) -/
  identSent : BitVec 8 := 0
  /-- training failed, so the port stays OFF until it is retrained (R238, R239) -/
  shut : Bool := false
  /-- matrix cycle of the last capacity event (R243) -/
  eventMc : Option Nat := none
  nakSent : Bool := false
  /-- credits held for sending, per class (R235) -/
  credits : Tab Nat := []
  /-- cumulative credits seen from the partner, per class -/
  seen : Tab (BitVec 16) := []
  /-- flit buffers freed since ACTIVE, per class -/
  freed : Tab (BitVec 16) := []
  /-- successive CTRL flits whose LANES omitted each lane (R242) -/
  omitted : Tab Nat := []
  standbySent : Bool := false
  standbyGot : Bool := false
  deriving DecidableEq, Repr

/-- An outstanding cross-die request (R227, Table GAL-3). -/
structure XReq where
  /-- the command it serves; none for a request of the bus matrix -/
  cmd : Option Nat
  port : Nat
  addr : Nat
  write : Bool
  data : Granule := 0
  mark : RegMark := ⟨0, 0, 0, false, false⟩
  /-- the master of the bus matrix that it serves, and the mc of its presentation -/
  master : Option Master := none
  /-- the master it serves was reset: its response is dropped (R223) -/
  discard : Bool := false
  deriving DecidableEq, Repr

/-- A BULK run as it arrived: its port, and whether its flit was POISON (R232). -/
structure Arrived where
  port : Nat
  poison : Bool
  run : BulkRun
  deriving DecidableEq, Repr

/-- The message last landed in the forwarded-command mailbox of a link ingress (Table BMX-6): its port, operation, sending
die and command. -/
structure Mail where
  port : Nat
  op : Nat
  die : Nat
  cmd : Nat
  deriving DecidableEq, Repr

/-- Gallery membership and cross-die traffic. -/
structure Gal where
  logD : Nat := 0
  rank : Nat := 0
  members : BitVec 8 := 1
  working : BitVec 8 := 0
  lost : BitVec 8 := 0
  reforming : Bool := false
  /-- discovery has chosen since the cold start, so the Gallery no longer grows on its own (R246, R346) -/
  formed : Bool := false
  xreq : Tab XReq := []
  nextTxn : Nat := 0
  /-- granules of other dies that READ_DATA has brought, by block address -/
  remote : Tab Granule := []
  /-- tags and flags of the registers those granules came from, by block address / 256 KiB -/
  remoteRegs : Tab RegMark := []
  /-- block addresses among them whose bytes came with wrong parity (R232) -/
  remoteBad : List Nat := []
  /-- runs of die exchanges that have arrived and are not yet in a bank, in order (R94) -/
  bulk : List Arrived := []
  mailbox : List Mail := []
  /-- active lanes of the neighbour pairs ((lower die, dimension), lanes) as the last discovery told them -/
  lanes : List ((Nat × Nat) × Nat) := []
  /-- LINK_MIN, formed at each change of the epoch (R325) -/
  linkMin : Nat := 0
  /-- a REFORM that waits for the Gallery tenants to come to rest, with the states it was given (R246) -/
  regrow : Option PeerStates := none
  deriving DecidableEq, Repr

/-- Everything of the block but the queue of waiting commands. -/
structure Blk where
  clk : Clock := {}
  fab : Fab := {}
  pwr : Pwr := {}
  out : Out := {}
  sump : Sump := {}
  pres : Pres := {}
  vlt : Vlt := {}
  dict : Dict := {}
  /-- counters 0x6000-0x6030, key index × 0x1000 + sub × 0x10 + field (Table DIC-11) -/
  cnt : Tab Nat := []
  /-- queues, key port × 4 + queue; 20 is the Vault queue -/
  qs : Tab Queue := []
  /-- queue of each tenant served last (R139) -/
  served : Tab Nat := []
  /-- flags, key port × 256 + flag (R154) -/
  flags : Tab Bool := []
  /-- moduli, key port × 64 + index (R18) -/
  moduli : Tab Modulus := []
  /-- consecutive tc of the deadlock condition per port (R158) -/
  deadTc : Tab Nat := []
  cmds : List Cmd := []
  nextId : Nat := 0
  /-- the model's own: the translation context of the access under way, 0-4 for Pp, 5 for the block's own (R297) -/
  ctx : Nat := 0
  /-- registers, key physical tile × 16 + register -/
  regs : Tab Reg := []
  /-- KEY flag of each physical tile's ACC (R122) -/
  accKey : Tab Bool := []
  /-- granules in each physical tile's reuse latches (R107) -/
  latches : Tab (List Nat) := []
  /-- every stored byte at its block address, external ones with their translation context above it (R297); tile frames at
  their fragment-view addresses -/
  mem : List Host.Cell := []
  /-- stored bytes whose parity bit is wrong (R247) -/
  bad : List Nat := []
  /-- the last translation answer per external line and context, present where none is listed (R26, R297) -/
  xlat : Tab RspStatus := []
  streams : Tab Stream := []
  handles : Tab Handle := []
  shelves : Tab (List Nat) := []
  bus : Bus := {}
  link : Tab LinkPort := []
  gal : Gal := {}
  deriving DecidableEq, Repr

/-- The state: the commands that wait, first in first out, and the block. -/
structure State where
  pending : List Instr := []
  blk : Blk := {}
  deriving DecidableEq, Repr

/-- The block right after a cold reset has reached ready (R343, R344), no command waiting. Values the
spec gives none for are those of log entries 1, 2, 4, 6 to 11. -/
def State.reset : State := { pending := [], blk := {} }

end Sys2Proof.Machine
end

