-- ==== Sys2Proof/Machine/Units.lean ====
section
/-! DEFINITION. The unit map, the block address map and what a port holds (chapters 00, 01, 11, 12). -/
namespace Sys2Proof.Machine

/-- The grades of Table SCO-1. -/
inductive Grade
  | g64 | s64 | s32
  deriving DecidableEq, Repr

/-- The grade of the latched GRADE field (R1, R2, Table DIC-7: 0 G64, 1 S64, 2 S32). The value 3, which
the table does not name, reads as G64 (DESIGN CHOICE, log entry 2). -/
def gradeOf (b : Blk) : Grade :=
  match b.fab.lat.grade.toNat with
  | 1 => .s64
  | 2 => .s32
  | _ => .g64

/-- Link ports exist on G64 only (Table SCO-1). -/
def hasLinks (b : Blk) : Bool := gradeOf b == .g64

/-- The master exists on the grade (R1, R3, Table SCO-1, Table BMX-1): S32 has no FE8 to FE15, and only G64 has link
ingress ports. Firmware may run on any of the four control cores. -/
def masterPresent (b : Blk) : Master → Bool
  | .fe n => decide (n < 17) && !(gradeOf b == .s32 && decide (8 ≤ n) && decide (n < 16))
  | .li n => decide (n < 6) && hasLinks b
  | .cc n => decide (n < 4)
  | .vault => true
  | .trapdoor => true
  | .cq n => decide (n < 4)

/-- ROTACC and ACC exist on G64 and S64 (Table SCO-1). -/
def hasAcc (b : Blk) : Bool := gradeOf b != .s32

/-- Twin mode exists on G64 and S64 (Table SCO-1). -/
def hasTwin (b : Blk) : Bool := gradeOf b != .s32

/-- Logical tile `t` is absent on the grade (R1, R5). -/
def tileAbsent (b : Blk) (t : Nat) : Bool := decide (64 ≤ t) || (gradeOf b == .s32 && decide (32 ≤ t))

/-- Physical tile `p` is absent on the grade (R361). -/
def physAbsent (b : Blk) (p : Nat) : Bool :=
  decide (68 ≤ p) || (gradeOf b == .s32 && decide (32 ≤ p) && decide (p < 64))

/-- The physical tile bound to a logical tile (TILE_MAP). -/
def physOf (b : Blk) (t : Nat) : Option Nat := tabFind b.vlt.tileMap t

/-- A present logical tile with no binding reads failed (R264). -/
def tileFailed (b : Blk) (t : Nat) : Bool := !tileAbsent b t && (physOf b t).isNone

/-- PHYS_STATE of a physical tile. -/
def physState (b : Blk) (p : Nat) : Nat := if physAbsent b p then 4 else tabGet 0 b.vlt.phys p

/-- The free spares in ascending order (Table DIC-7). -/
def freeSpares (b : Blk) : List Nat := (List.range 68).filter (fun p => physState b p == 1)

/-- The active partition record of a port. -/
def activeOf (b : Blk) (p : Nat) : PartRec := tabGet {} b.vlt.active p

/-- The record's ENABLE bit (Table VLT-1). -/
def recEnabled (r : PartRec) : Bool := bitAt r.flags 0

/-- The port is the Vault queue's, or its active record is enabled. -/
def portEnabled (b : Blk) (p : Nat) : Bool := p == 5 || recEnabled (activeOf b p)

/-- The tenant holds logical tile `t`; the Vault queue is exempt from ownership (R166). -/
def ownsTile (b : Blk) (p t : Nat) : Bool :=
  p == 5 || (recEnabled (activeOf b p) && bitAt (activeOf b p).tiles t)

/-- Pantry handle `h` lies in the port's partition record. -/
def handleAssigned (b : Blk) (p h : Nat) : Bool :=
  let r := activeOf b p
  p == 5 || (recEnabled r && decide (r.handleFirst.toNat ≤ h)
    && decide (h < r.handleFirst.toNat + r.handleCount.toNat))

/-- The tenant holds the handle: assigned, and FREE or LENT (R177). -/
def holdsHandle (b : Blk) (p h : Nat) : Bool :=
  handleAssigned b p h &&
  match (tabGet {} b.handles h).cond with
  | .free => true
  | .lent _ => true
  | _ => p == 5

/-- Shelf queue `k` lies in the port's partition record. -/
def ownsShelf (b : Blk) (p k : Nat) : Bool :=
  p == 5 || (recEnabled (activeOf b p) && bitAt (activeOf b p).shelves k)

/-- GALLERY_ACTIVE of the port's active record (Table VLT-1, R292). The Vault queue has no record, and R166 does not
exempt it: it reads clear. -/
def galleryActive (b : Blk) (p : Nat) : Bool := decide (p < 5) && bitAt (activeOf b p).flags 7

/-- The regions of Table GRN-3. -/
inductive Region
  | tile | pantry | control | cellarDiag | external
  deriving DecidableEq, Repr

/-- The region an address lies in; none: unmapped (Tables GRN-3, GRN-4). -/
def regionOf (a : Nat) : Option Region :=
  if a ≤ 0x7FFFFFFFF then (if a / 2 ^ 28 % 16 = 0 then some .tile else none)
  else if 0x1000000000 ≤ a ∧ a ≤ 0x1001FFFFFF then some .pantry
  else if 0x4000000000 ≤ a ∧ a ≤ 0x40FFFFFFFF then some .control
  else if 0x4100000000 ≤ a ∧ a ≤ 0x4103FFFFFF then some .cellarDiag
  else if 0x800000000000 ≤ a ∧ a ≤ 0xFFFFFFFFFFFF then some .external
  else none

/-- The die field of a tile-store address (Table GRN-4). -/
def addrDie (a : Nat) : Nat := a / 2 ^ 32 % 8

/-- The logical tile field of a tile-store address. -/
def addrTile (a : Nat) : Nat := a / 2 ^ 22 % 64

/-- The register field of a tile-store address. -/
def addrReg (a : Nat) : Nat := a / 2 ^ 18 % 16

/-- The byte offset within the register. -/
def addrOff (a : Nat) : Nat := a % 2 ^ 18

/-- The tile-store address of a byte (R23). -/
def tileAddr (die t r o : Nat) : Nat := die * 0x100000000 + t * 0x400000 + r * 0x40000 + o

/-- The first address of Pantry handle `h` (R24). -/
def handleAddr (h : Nat) : Nat := 0x1000000000 + h * 0x10000

/-- The handle a Pantry address lies in (R24). -/
def addrHandle (a : Nat) : Nat := (a - 0x1000000000) / 0x10000

/-- Where byte `o` of frame `x` (0-15 registers, 16-23 bank, 24 ACC) of physical tile `p` is kept. -/
def frameKey (p x o : Nat) : Nat := 0x4080000000 + p * 0x800000 + x * 0x40000 + o

/-- The die this block is. -/
def dieOf (b : Blk) : Nat := b.fab.dieId.toNat

/-- A tile-store address on another die. -/
def isRemote (b : Blk) (a : Nat) : Bool := regionOf a == some .tile && addrDie a != dieOf b

/-- Where an external address is kept: one place for each translation context, for R296 makes host functions keep to memory
of their own (R297). -/
def extKey (ctx a : Nat) : Nat := a + ctx * 2 ^ 48

/-- Where the byte at a block address is kept: a tile-store byte through the tile map, an external one in the translation
context of the access, every other byte at its own address. None: nothing of this block answers there. -/
def memKey (b : Blk) (a : Nat) : Option Nat :=
  match regionOf a with
  | some .tile =>
    if addrDie a = dieOf b then
      match physOf b (addrTile a) with
      | some p => some (frameKey p (addrReg a) (addrOff a))
      | none => none
    else none
  | some .external => some (extKey b.ctx a)
  | some _ => some a
  | none => none

/-- A block address's fragment-view location: physical tile, frame, offset in the frame (R123). -/
def fragLoc (a : Nat) : Nat × Nat × Nat :=
  let o := a - 0x4080000000
  let l := o / 0x10000 % 4
  let f := o % 0x10000
  (o / 0x800000, o / 0x40000 % 32, (4 * (f / 0x1000) + l) * 0x1000 + f % 0x1000)

/-- The bank of an external line in its quadrant (R204, R205). -/
def cellarBank (b : Blk) (home a : Nat) : Nat :=
  if gradeOf b == .s32 then 8 * (home / 4) + (Nat.xor (a / 2 ^ 9 % 4) (a / 2 ^ 12 % 4))
  else 8 * (home / 4) + (Nat.xor (a / 2 ^ 9 % 8) (a / 2 ^ 12 % 8))

/-- FETCH_W in mc (Table PRF-1). -/
def fetchW (b : Blk) : Nat := if b.bus.quadrantOut = 0 then 1400 else 1600

/-- Cellar units of 64 KiB in one quadrant (R205, Table PRF-1). -/
def quadrantUnits (b : Blk) : Nat := if gradeOf b == .s32 then 128 else 256

/-- Cellar units in service (Table PRF-1, CELLAR_UNITS). -/
def cellarUnits (b : Blk) : Nat :=
  ((List.range 4).filter (fun q => !bitAt b.bus.quadrantOut q)).length * quadrantUnits b

end Sys2Proof.Machine
end

