-- ==== Sys2Proof/Machine/Ports.lean ====
section
/-! DEFINITION. Link ports: which port serves which neighbour, and sending flits under credits and the replay
buffer (R226, R227, R234, R235, R337). -/
namespace Sys2Proof.Machine

/-- Dimensions of the package: SHAPE is 1, 2 or 3 for 2, 4 or 8 dies (R237). -/
def shapeDims (b : Blk) : Nat := b.fab.lat.shape.toNat

/-- The dimension port Lk serves (Table GAL-1). -/
def portDim (b : Blk) (k : Nat) : Nat :=
  match shapeDims b with
  | 2 => k / 3
  | 3 => k / 2
  | _ => 0

/-- The die port Lk faces (R226). -/
def peerDie (b : Blk) (k : Nat) : Nat := Nat.xor (dieOf b) (2 ^ portDim b k)

/-- A link port. -/
def portOf (b : Blk) (k : Nat) : LinkPort := tabGet {} b.link k

/-- Changes a link port. -/
def updPort (k : Nat) (f : LinkPort → LinkPort) (b : Blk) : Blk := { b with link := tabUpd {} b.link k f }

/-- The link port numbers. -/
def allPorts : List Nat := List.range 6

/-- The working ports along a dimension, ascending (R227). -/
def workingPorts (b : Blk) (e : Nat) : List Nat :=
  allPorts.filter (fun k => hasLinks b && portDim b k == e && (portOf b k).state == .active)

/-- The dimension of the first hop towards a die: the lowest in which its number differs. -/
def hopDim (b : Blk) (die : Nat) : Nat :=
  ((List.range 3).find? (fun e => natBit (Nat.xor (dieOf b) die) e)).getD 0

/-- The package dimensions along which a set of dies differs: its Gallery dimensions (R241). -/
def freeDims (members : Nat) : List Nat :=
  let l := setBits members 8
  (List.range 3).filter (fun e => l.any (fun x => natBit x e) && l.any (fun x => !natBit x e))

/-- The neighbours that this die passes the CMD word of a root die on to: those along the Gallery dimensions above the
highest in which the two differ, so that the word reaches every die of the Gallery once (R92, Table PHA-6). -/
def childDies (b : Blk) (root : Nat) : List Nat :=
  ((freeDims b.gal.members.toNat).filter (fun e => decide (Nat.xor (dieOf b) root < 2 ^ e))).map (fun e => Nat.xor (dieOf b) (2 ^ e))

/-- The neighbour that CMD traffic to a root die goes through: the way back along `childDies` (Table PHA-6). -/
def towardsDie (b : Blk) (root : Nat) : Nat := Nat.xor (dieOf b) (2 ^ log2f 3 (Nat.xor (dieOf b) root))

/-- The port a request for a block address goes to: A[14:9] mod n among the n working ports (R227). -/
def requestPort (b : Blk) (a : Nat) : Option Nat :=
  let l := workingPorts b (hopDim b (addrDie a))
  if l = [] then none else l[a / 512 % 64 % l.length]?

/-! ### Sending flits

Classes 0 to 3 are those of Table GAL-5; 4 to 8 stand for CTRL flits: plain, NAK, HANDOVER, LOSS, STANDBY. -/

/-- Flits the replay buffer holds (R234). -/
def replayRoom : Nat := 1024

/-- The port stands in standby or has asked for it (R337). -/
def standsBy (x : LinkPort) : Bool := x.standbySent

/-- A flit of a class may go now: the port is ACTIVE and not in standby, the replay buffer has room, and a DATA
class has a credit (R234, R235). -/
def canSend (x : LinkPort) (cls : Nat) : Bool :=
  x.state == .active && !standsBy x && decide (x.replay.length < replayRoom) && (decide (4 ≤ cls) || decide (0 < tabGet 0 x.credits cls))

/-- The lanes that flits are dealt to, ascending: the active ones, but for those that retrain (R230, R242). -/
def dealLanes (x : LinkPort) : List Nat := (setBits x.active.toNat 8).filter (fun l => !bitAt x.retraining l)

/-- The lane of the flit with sequence number `s`: the (s mod a)-th of the `a` lanes (R230). -/
def dealLane (x : LinkPort) (s : BitVec 12) : Nat :=
  let l := dealLanes x
  if l = [] then 0 else l.getD (s.toNat % l.length) 0

/-- Sends a flit under the next sequence number, on the lane its number gives, and keeps it until it is acknowledged; a CTRL
flit acknowledges what has been accepted (R230, R234, R235). -/
def pushFlit (cls : Nat) (poison : Bool) (x : LinkPort) : LinkPort :=
  let lane := dealLane x x.txSeq
  { x with
    txSeq := x.txSeq + 1
    replay := x.replay ++ [⟨x.txSeq, cls, 1, lane, poison⟩]
    unacked := if 4 ≤ cls then 0 else x.unacked
    dealt := setBit x.dealt lane true
    credits := if cls < 4 then tabUpd 0 x.credits cls (· - 1) else x.credits }

/-- Sends the waiting flits that may go, in order within their class. -/
def pumpPort (x : LinkPort) : LinkPort :=
  x.txWait.foldl (fun y e =>
    if canSend y e.1 && !(y.txWait.map (·.1)).contains e.1 then pushFlit e.1 e.2 y else { y with txWait := y.txWait ++ [e] })
    { x with txWait := [] }

/-- Sends a flit, or lets it wait; POISON when a byte of it failed parity on entry (R232). -/
def transmitFlit (k cls : Nat) (poison : Bool) (b : Blk) : Blk :=
  updPort k (fun x => pumpPort { x with txWait := x.txWait ++ [(cls, poison)] }) b

/-- Sends a flit with good parity. -/
def transmit (k cls : Nat) (b : Blk) : Blk := transmitFlit k cls false b

/-- The lanes that carried nothing but IDLE flits since the last tick (R230). -/
def fillIdle (x : LinkPort) : LinkPort :=
  if x.state = .active then { x with idle := x.active &&& ~~~ x.dealt, dealt := 0 } else { x with idle := 0, dealt := 0 }

/-- CMD traffic to a die uses the lowest-numbered working port of the first hop (R227). -/
def transmitCmd (die : Nat) (b : Blk) : Blk :=
  match (workingPorts b (hopDim b die)).head? with
  | some k => transmit k 3 b
  | none => b

/-! ### LINK_MIN (Table PRF-1) -/

/-- The pairs of neighbours in the die's Gallery: lower die and dimension. -/
def memberPairs (b : Blk) : List (Nat × Nat) :=
  let inside := fun (d : Nat) => bitAt b.gal.members d
  (List.range 8).flatMap (fun d => (List.range 3).filterMap (fun e =>
    if inside d && !natBit d e && inside (d + 2 ^ e) then some (d, e) else none))

/-- Active lanes between a pair: its own ports when the die is one of the two, else as the last discovery told. -/
def pairLanes (b : Blk) (x : Nat × Nat) : Nat :=
  if dieOf b = x.1 ∨ dieOf b = x.1 + 2 ^ x.2 then
    let up := fun (k : Nat) => (portOf b k).state == .active || ((portOf b k).state == .training && (portOf b k).fromRetain)
    ((allPorts.filter (fun k => portDim b k == x.2 && up k)).map (fun k => (setBits (portOf b k).active.toNat 8).length)).foldl (· + ·) 0
  else ((b.gal.lanes.find? (fun y => y.1 == x)).map (·.2)).getD 0

/-- The least rate between neighbours of the Gallery: 50 GB/s a lane, in units of 0.5 GB/s; 0 outside a Gallery. -/
def linkMinOf (b : Blk) : Nat :=
  match (memberPairs b).map (pairLanes b) with
  | [] => 0
  | x :: t => 100 * t.foldl min x

end Sys2Proof.Machine
end

