-- ==== Sys2Proof/Machine/Ops.lean ====
section
/-! DEFINITION. The named operations over memory, the Sump, the queues and the epoch that every command
is written from. -/
namespace Sys2Proof.Machine

/-- Runs a block function as a command's meaning: the queue of waiting commands is left alone. -/
def onBlk (f : Blk → Blk) (s : State) : Host.Outcome State Fault Refusal := .next { s with blk := f s.blk }

/-- Accesses external memory in the translation context of a port, 5 for the block's own (R297, Table PWR-7). -/
def inCtx (p : Nat) (f : Blk → Blk) (b : Blk) : Blk := { f { b with ctx := p } with ctx := b.ctx }

/-- The block as an access of a port sees it. -/
def ofCtx (p : Nat) (b : Blk) : Blk := { b with ctx := p }

/-! ### Memory -/

/-- The canonical form of memory: keys strictly rising, and no entry equal to the zero an unlisted key reads as. -/
def Memory.wf (m : List Host.Cell) : Bool := tabWf 0 m

/-- The byte kept at a key; stores nothing has written read zero (R344). -/
def memGet (m : List Host.Cell) (k : Nat) : Byte := tabGet 0 m k

/-- Writes the byte kept at a key. -/
def memPut (m : List Host.Cell) (k : Nat) (v : Byte) : List Host.Cell := tabPut 0 m k v

/-- Writes bytes at rising keys. -/
def memPutBytes (m : List Host.Cell) (k : Nat) : List Byte → List Host.Cell
  | [] => m
  | v :: t => memPutBytes (memPut m k v) (k + 1) t

/-- Reads `n` bytes at rising keys. -/
def memGetBytes (m : List Host.Cell) (k n : Nat) : List Byte := (List.range n).map (fun i => memGet m (k + i))

/-- Zeroes the `n` bytes from a key. -/
def memClear (m : List Host.Cell) (k n : Nat) : List Host.Cell :=
  tabKeep (fun a => decide (a < k) || decide (k + n ≤ a)) m

/-- Writes the bytes kept at `src`, `n` of them, over those at `dst`. -/
def memCopy (m : List Host.Cell) (src dst n : Nat) : List Host.Cell :=
  (m.filter (fun c => decide (src ≤ c.1) && decide (c.1 < src + n))).foldl
    (fun acc c => memPut acc (c.1 - src + dst) c.2) (memClear m dst n)

/-- Exchanges the `n` bytes from `x` with the `n` bytes from `y`, two ranges apart. -/
def memSwap (m : List Host.Cell) (x y n : Nat) : List Host.Cell :=
  let part := fun k => m.filter (fun c => decide (k ≤ c.1) && decide (c.1 < k + n))
  let put := fun (src dst : Nat) (acc : List Host.Cell) => (part src).foldl (fun acc c => memPut acc (c.1 - src + dst) c.2) acc
  put y x (put x y (memClear (memClear m x n) y n))

/-- The byte at a block address; zero where nothing of this block answers. -/
def readByte (b : Blk) (a : Nat) : Byte :=
  match memKey b a with
  | some k => memGet b.mem k
  | none => 0

/-- `n` bytes from a block address. -/
def readBytes (b : Blk) (a n : Nat) : List Byte := (List.range n).map (fun i => readByte b (a + i))

/-- A little-endian number of `n` bytes at a block address (R7). -/
def readLe (b : Blk) (a n : Nat) : Nat := ofLe (readBytes b a n)

/-- The granule at a key. -/
def granuleAt (m : List Host.Cell) (k : Nat) : Granule := BitVec.ofNat 512 (ofLe (memGetBytes m k 64))

/-- The granule at a block address; the remote granules READ_DATA has brought stand in for other dies. -/
def readGranule (b : Blk) (a : Nat) : Granule :=
  if isRemote b a then tabGet 0 b.gal.remote a
  else match memKey b a with
    | some k => granuleAt b.mem k
    | none => 0

/-- Writes a granule at a key; a fresh write has good parity (R247). -/
def putGranuleKey (k : Nat) (g : Granule) (b : Blk) : Blk :=
  { b with mem := memPutBytes b.mem k (leBytes 64 g.toNat),
           bad := b.bad.filter (fun x => !(decide (k ≤ x) && decide (x < k + 64))) }

/-- Writes bytes at a block address. -/
def writeBytes (a : Nat) (l : List Byte) (b : Blk) : Blk :=
  match memKey b a with
  | some k => { b with mem := memPutBytes b.mem k l,
                       bad := b.bad.filter (fun x => !(decide (k ≤ x) && decide (x < k + l.length))) }
  | none => b

/-- Zeroes the `n` bytes kept from a key, with good parity. -/
def zeroKeys (k n : Nat) (b : Blk) : Blk :=
  { b with mem := memClear b.mem k n,
           bad := b.bad.filter (fun x => decide (x < k) || decide (k + n ≤ x)) }

/-- A stored byte of the granule at a key has bad parity (R247). -/
def badAt (b : Blk) (k : Nat) : Bool := b.bad.any (fun x => decide (k ≤ x) && decide (x < k + 64))

/-- What translation and memory last answered for an external address; present where nothing was
reported (R26). Addresses inside the block always answer. -/
def xstat (b : Blk) (a : Nat) : RspStatus :=
  if regionOf a == some .external then tabGet .ok b.xlat (extKey b.ctx a / 512) else .ok

/-- The value of a code (Table SMP-1, R268). -/
def codeVal : Code → Nat
  | .ok => 0x00 | .faultResumable => 0x01 | .align => 0x10 | .shape => 0x11 | .shapeMismatch => 0x12
  | .partialRead => 0x13 | .aliasWrite => 0x14 | .indexRange => 0x15 | .dupDest => 0x16
  | .absentUnit => 0x20 | .notOwner => 0x21 | .scheduleStale => 0x22 | .flagDeadlock => 0x30
  | .parity => 0x40 | .tallyMismatch => 0x41 | .twinMismatch => 0x42 | .linkLost => 0x43
  | .zeroised => 0x50 | .aborted => 0x51 | .multicastDetach => 0x31

/-! ### Free values and counters -/

/-- Moves on to the next free value. -/
def drawFresh (b : Blk) : Blk := { b with clk := { b.clk with fresh := b.clk.fresh + 1 } }

/-- Adds to a counter, saturating at all ones (R328). -/
def countAdd (key n : Nat) (b : Blk) : Blk :=
  { b with cnt := tabUpd 0 b.cnt key (fun x => min (x + n) (2 ^ 64 - 1)) }

/-- The counter key of field `f` of a dictionary entry. -/
def cntKey (index sub f : Nat) : Nat := index * 0x1000 + sub * 0x10 + f

/-! ### The Sump and the interrupts -/

/-- Pulses TENANT_INT[p] (R283). -/
def tenantInt (p : Nat) (b : Blk) : Blk :=
  if p < 5 then { b with out := { b.out with tenantInt := tabUpd 0 b.out.tenantInt p (· + 1) } } else b

/-- Events of class INFO (R281, Table SMP-4). -/
def sumpInfo (event : Nat) : Bool := decide (event ≤ 4)

/-- Events of class ALERT (R281, Table SMP-4). -/
def sumpAlert (event : Nat) : Bool := decide (event = 0x16) || decide (0x20 ≤ event)

/-- A SOURCE field (Table SMP-3): port, queue and die. -/
def sumpSource (b : Blk) (p q : Nat) : BitVec 16 := BitVec.ofNat 16 (p + q * 8 + dieOf b * 32)

/-- The code byte of a record: 0xFF when no code is concerned. -/
def codeByte : Option Code → BitVec 8
  | none => 0xFF
  | some c => BitVec.ofNat 8 (codeVal c)

/-- Writes a Sump record (R279 to R284): a tenant port's INFO and FAULT records beyond 64 in one
millisecond are dropped and counted; every record pulses FW_INT, FAULT and ALERT pulse MGMT_INT, and
the first of those is latched. Port 6 is the block. -/
def sumpPut (event : Nat) (code : Option Code) (p q tag where_ detail : Nat) (b : Blk) : Blk :=
  let limited := decide (p < 5) && !sumpAlert event
  let n := tabGet 0 b.sump.counts p
  if limited && decide (64 ≤ n) then
    { b with sump := { b.sump with
        suppressed := if b.sump.suppressed = BitVec.allOnes 32 then b.sump.suppressed else b.sump.suppressed + 1 } }
  else
    let r : SumpRec :=
      { seq := b.sump.written, time := BitVec.ofNat 48 b.clk.tick, event := BitVec.ofNat 8 event,
        code := codeByte code, source := sumpSource b p q, tag := BitVec.ofNat 16 tag,
        where_ := BitVec.ofNat 64 where_, detail := BitVec.ofNat 64 detail }
    { b with
      sump := { b.sump with
        ring := tabIns (b.sump.written.toNat % 1024) r b.sump.ring
        written := b.sump.written + 1
        first := if sumpInfo event then b.sump.first else
          match b.sump.first with
          | some f => some f
          | none => some r
        counts := if limited then tabPut 0 b.sump.counts p (n + 1) else b.sump.counts }
      out := { b.out with
        fwInt := b.out.fwInt + 1
        mgmtInt := if sumpInfo event then b.out.mgmtInt else b.out.mgmtInt + 1 } }

/-- Raises a cause of ALERT_CAUSE (Table SMP-6). -/
def raiseAlert (bit : Nat) (b : Blk) : Blk :=
  { b with sump := { b.sump with alertCause := setBit b.sump.alertCause bit true } }

/-- ALERT_N is driven low (R285); it floats while the block is in reset or unpowered. -/
def alertLow (b : Blk) : Bool := !b.pwr.inReset && b.pwr.standby && (b.sump.alertCause &&& b.sump.alertMask) != 0

/-- Gives the capability epoch a value and a cause; the figures that hold with it are formed again (R325). -/
def setEpochTo (v : BitVec 32) (cause : Nat) (b : Blk) : Blk :=
  { b with
    vlt := { b.vlt with epoch := v, epochCause := BitVec.ofNat 32 cause }
    gal := { b.gal with linkMin := linkMinOf b } }

/-! ### Time -/

/-- Tile cycles in one Lantern tick of 40 ns at CLOCK_NOW, a multiple of 25 MHz (R332). -/
def tcPerTick (b : Blk) : Nat := b.pwr.clockNow.toNat / 25

/-- Lets `n` Lantern ticks pass: 80 mc each at 2.0 GHz (R330). At each boundary of 25,000 ticks the ports' counts of
Sump records start again (R281). -/
def elapse (n : Nat) (b : Blk) : Blk :=
  { b with
    clk := { b.clk with tick := b.clk.tick + n, tc := b.clk.tc + n * tcPerTick b, mc := b.clk.mc + 80 * n }
    sump := if (b.clk.tick + n) / 25000 = b.clk.tick / 25000 then b.sump else { b.sump with counts := [] } }

/-! ### Queues and completion records -/

/-- The key of queue `q` of port `p`; the Vault queue is port 5 (R166). -/
def qKey (p q : Nat) : Nat := if p < 5 then p * 4 + q % 4 else 20

/-- A queue. -/
def queueOf (b : Blk) (p q : Nat) : Queue := tabGet {} b.qs (qKey p q)

/-- Changes a queue. -/
def updQueue (p q : Nat) (f : Queue → Queue) (b : Blk) : Blk :=
  { b with qs := tabUpd {} b.qs (qKey p q) f }

/-- The commands of a queue that are in flight (R140); a forwarded command is in flight on its home die. -/
def inFlight (b : Blk) (p q : Nat) : List Cmd :=
  b.cmds.filter (fun c => c.home.isNone && qKey c.port c.queue == qKey p q)

/-- Ring slots of a queue. -/
def ringSize (qr : Queue) : Nat := 2 ^ qr.logEntries.toNat

/-- A descriptor's slot address (R135). -/
def slotAddr (qr : Queue) (c : BitVec 32) : Nat := qr.ringBase.toNat + 64 * (c.toNat % ringSize qr)

/-- A completion record's slot address (R135). -/
def cplAddr (qr : Queue) (c : BitVec 32) : Nat := qr.cplBase.toNat + 16 * (c.toNat % ringSize qr)

/-- The 16 bytes of a completion record (Table CMD-9) as record number `c` (R135). -/
def cplBytes (qr : Queue) (q : Nat) (c : BitVec 32) (r : Cpl) : List Byte :=
  leBytes 2 r.tag.toNat ++ leBytes 1 (codeVal r.code)
    ++ leBytes 1 ((if c.toNat / ringSize qr % 2 = 0 then 1 else 0) + 2 * (q % 4))
    ++ leBytes 4 r.res0 ++ leBytes 4 r.res1 ++ leBytes 4 (min r.cycles 0xFFFFFFFF)

/-- Moves a queue to STOPPED with a stop cause; its tenant is interrupted when the queue enters that state
(Table CMD-2, R283). A DISABLED queue is left alone. -/
def stopQueue (p q cause : Nat) (b : Blk) : Blk :=
  match (queueOf b p q).state with
  | .disabled => b
  | .stopped => updQueue p q (fun r => { r with state := .stopped, cause := cause }) b
  | _ => tenantInt p (updQueue p q (fun r => { r with state := .stopped, cause := cause }) b)

/-- A stored byte of the granule at a block address has bad parity. -/
def badHere (b : Blk) (a : Nat) : Bool :=
  match memKey b a with
  | some k => badAt b k
  | none => false

/-- A ring access was refused, or failed every replay: an ERROR answer, or a descriptor whose stored bytes fail parity
(R137, R248, R349). -/
def ringFault (p q a : Nat) (b : Blk) : Blk :=
  let b := if xstat b a = .error ∨ (xstat b a = .ok ∧ badHere b a = true) then countAdd (cntKey 0x6020 1 0) b.dict.replayLimit.toNat b else b
  sumpPut 0x04 none p q 0 a 5 (stopQueue p q 5 b)

/-- Counts a completion: the port's completed commands and the failure counters (Table DIC-11). -/
def countCode (p : Nat) (code : Code) (b : Blk) : Blk :=
  let b := if p < 5 then countAdd (cntKey 0x6010 (p + 1) 0) 1 b else b
  match code with
  | .parity => countAdd (cntKey 0x6020 2 0) 1 b
  | .tallyMismatch => countAdd (cntKey 0x6020 3 0) 1 b
  | .twinMismatch => countAdd (cntKey 0x6020 4 0) 1 b
  | .linkLost => countAdd (cntKey 0x6020 5 0) 1 b
  | _ => b

/-- Counts granules a tenant's work has moved (PORT_COUNTS, Table DIC-11). -/
def countMoved (p n : Nat) (b : Blk) : Blk := if p < 5 ∧ n ≠ 0 then countAdd (cntKey 0x6010 (p + 1) 1) n b else b

/-- The command in flight with an order number. -/
def cmdOf (b : Blk) (id : Nat) : Option Cmd := b.cmds.find? (fun c => c.id == id)

/-- Changes a command in flight. -/
def updCmd (id : Nat) (f : Cmd → Cmd) (b : Blk) : Blk :=
  { b with cmds := b.cmds.map (fun c => if c.id = id then f c else c) }

/-- FLAGS bits of Table CMD-4. -/
def flagKey (d : Desc) : Bool := bitAt d.flags 0
/-- BARRIER (Table CMD-4). -/
def flagBarrier (d : Desc) : Bool := bitAt d.flags 1
/-- RESHAPE (Table CMD-4). -/
def flagReshape (d : Desc) : Bool := bitAt d.flags 2
/-- TWIN (Table CMD-4). -/
def flagTwin (d : Desc) : Bool := bitAt d.flags 3
/-- EPOCH (Table CMD-4). -/
def flagEpoch (d : Desc) : Bool := bitAt d.flags 4
/-- OPF0 (Table CMD-4). -/
def flagOpf0 (d : Desc) : Bool := bitAt d.flags 8

/-- How a queue stands once its command `c` has ended with `code` and left (R116, R138, R152): the
restart record and the wait it stood for are gone; a draining queue with nothing in flight is
DISABLED; BARRIER stops the queue on any code but OK. -/
def settleQueue (c : Cmd) (code : Code) (left : Bool) (r : Queue) : Queue :=
  let mine := match r.restart with | some x => x.cmd == c.id | none => false
  let r := { r with
    restart := if mine then none else r.restart
    blockedBy := if r.blockedBy = some c.id then none else r.blockedBy }
  if !r.enable then
    if left || r.cplWait ≠ [] then r else { r with state := .disabled, cause := if r.cause = 7 then 7 else 0 }
  else if flagBarrier c.desc && code != .ok then { r with state := .stopped, cause := 1, pendingStop := none }
  else match r.state with
    | .halted =>
      if mine then
        match r.pendingStop with
        | some s => { r with state := .stopped, cause := s, pendingStop := none }
        | none => if r.blockedBy.isSome then { r with state := .blocked, cause := 0 }
                  else { r with state := .running, cause := 0 }
      else r
    | .blocked => if r.blockedBy.isNone then { r with state := .running } else r
    | _ => r

/-- Takes a command out of flight and settles its queue, with no completion record. -/
def leaveFlight (c : Cmd) (code : Code) (b : Blk) : Blk :=
  let b := { b with cmds := b.cmds.filter (fun x => x.id ≠ c.id) }
  let before := (queueOf b c.port c.queue).state
  let left := !(inFlight b c.port c.queue).isEmpty
  let b := updQueue c.port c.queue (settleQueue c code left) b
  if before ≠ .stopped ∧ (queueOf b c.port c.queue).state = .stopped then tenantInt c.port b else b

/-- Tile cycles from a command's decode, which itself takes 16 tc (R147, R148, Table PRF-2). -/
def cyclesOf (c : Cmd) (b : Blk) : Nat := max 16 (b.clk.tc - c.t0)

/-- The record of a command is written: the counters go on, and the command leaves flight (R4, R140, R147, R152). An
interim record ends nothing. -/
def recordWritten (r : Cpl) (b : Blk) : Blk :=
  match r.cmd.bind (cmdOf b) with
  | some c => leaveFlight c r.code (countCode c.port r.code b)
  | none => b

/-- Writes one completion record to its ring (R148, R149, R283), or holds it for START (R137). -/
def postCpl (p q : Nat) (r : Cpl) (b : Blk) : Blk :=
  let qr := queueOf b p q
  let a := cplAddr qr qr.cqTail
  if qr.cplWait ≠ [] then updQueue p q (fun x => { x with cplWait := x.cplWait ++ [r] }) b
  else if xstat (ofCtx p b) a ≠ .ok then
    inCtx p (ringFault p q a) (updQueue p q (fun x => { x with cplWait := x.cplWait ++ [r] }) b)
  else
    let b := inCtx p (writeBytes a (cplBytes qr q qr.cqTail r)) b
    let b := updQueue p q (fun x => { x with cqTail := x.cqTail + 1 }) b
    recordWritten r (if qr.cqTail = qr.cqHead then tenantInt p b else b)

/-- Writes again the records that could not be written (R137, after START). -/
def repostCpl (p q : Nat) (b : Blk) : Blk :=
  let l := (queueOf b p q).cplWait
  l.foldl (fun b r => postCpl p q r b) (updQueue p q (fun x => { x with cplWait := [] }) b)

/-- Completes a command: its record, then the counters and its queue (R147, R149, R152). Residues are written
for OK and TALLY_MISMATCH only (R148). A forwarded command has no record here (R92), and a command that already waits for
its record has its code. -/
def finishCmd (c : Cmd) (code : Code) (res0 res1 : Nat) (b : Blk) : Blk :=
  if c.home.isSome then { b with cmds := b.cmds.filter (fun x => x.id ≠ c.id) }
  else if c.st = .record then b
  else
    let keep := code == .ok || code == .tallyMismatch
    let r : Cpl := { tag := c.desc.tag, code := code, res0 := if keep then res0 else 0,
                     res1 := if keep then res1 else 0, cycles := cyclesOf c b, cmd := some c.id }
    postCpl c.port c.queue r (updCmd c.id (fun x => { x with st := .record }) b)

/-- The 64 bytes of a restart record (Table TRG-3). -/
def restartBytes (r : Restart) : List Byte :=
  leBytes 2 r.opcode.toNat ++ leBytes 2 r.tag.toNat ++ leBytes 2 (r.port + 8 * r.queue)
    ++ leBytes 1 r.cause ++ leBytes 1 r.kind ++ leBytes 8 r.count.toNat ++ leBytes 8 r.rowMask.toNat
    ++ leBytes 4 r.next ++ leBytes 2 r.place.toNat ++ leBytes 2 0 ++ leBytes 8 r.faultAddr
    ++ leBytes 4 r.res0 ++ leBytes 4 r.res1 ++ leBytes 16 0

/-- Halts a queue at a command (R112, R114, R115): the restart record and its copy, HALTED with the
cause, a CMD_HALT record, and for CAUSE 1 an interim FAULT_RESUMABLE completion record. A copy that
cannot be written leaves a QUEUE_STOP record with stop cause 0 and, like the others, no tag. The tenant is
interrupted when the queue enters HALTED (R283). R134 asks of RESTART_AREA only that it be a multiple of 64: a tenant's
area outside external memory is refused like an absent page (DESIGN CHOICE, log entry 66). -/
def haltCmd (c : Cmd) (cause kind : Nat) (place : BitVec 16) (b : Blk) : Blk :=
  let row := kind == 0
  let r : Restart :=
    { cmd := c.id, opcode := c.desc.opcode, tag := c.desc.tag, port := c.port, queue := c.queue,
      cause := cause, kind := kind, count := c.count, rowMask := if row then c.rowMask else 0,
      next := c.unit, place := if row then place else 0,
      faultAddr := if cause = 1 then c.faultAddr.getD 0 else 0,
      res0 := if row then 0 else c.res0, res1 := if row then 0 else c.res1 }
  let qr := queueOf b c.port c.queue
  let b := updCmd c.id (fun x => { x with st := .halted, interrupt := 0 }) b
  let b := updQueue c.port c.queue (fun x => { x with
    restart := some r
    pendingStop := if x.state = .stopped then some x.cause else x.pendingStop
    state := .halted, cause := cause }) b
  let a := qr.restartArea.toNat
  let b := if (c.port == 5 || regionOf a == some .external) && xstat (ofCtx c.port b) a == .ok then
             inCtx c.port (writeBytes a (restartBytes r)) b
           else sumpPut 0x04 none c.port c.queue 0 a 0 b
  let b := sumpPut 0x01 (if cause = 1 then some .faultResumable else none) c.port c.queue c.desc.tag.toNat
    r.faultAddr (r.next + cause * 2 ^ 32 + c.desc.opcode.toNat * 2 ^ 40) b
  let b := if qr.state = .halted then b else tenantInt c.port b
  if cause = 1 then
    postCpl c.port c.queue { tag := c.desc.tag, code := .faultResumable, res0 := 0, res1 := 0, cycles := cyclesOf c b } b
  else b

/-! ### Error responses -/

/-- The number of a master in a BUS_ERROR record (Table SMP-4). -/
def masterNo : Master → Nat
  | .fe n => n | .li n => 17 + n | .cc n => 23 + n | .vault => 27 | .trapdoor => 28 | .cq n => 29 + n

/-- An error response with no effect: a BUS_ERROR record (R124, R208, R220, R298). A master that the grade lacks accesses
nothing, so nothing answers it (R3). -/
def busError (m : Master) (write : Bool) (a : Nat) (b : Blk) : Blk :=
  if !masterPresent b m then b else
  let b := sumpPut 0x05 none 6 0 0 a (masterNo m % 64 + (if write then 64 else 0)) b
  { b with out := { b.out with rerror := true, rdata := 0 } }

/-- A register or bus access that is answered with data. -/
def busAnswer (v : Nat) (b : Blk) : Blk :=
  { b with out := { b.out with rerror := false, rdata := BitVec.ofNat 2048 v } }

/-! ### Messages to other dies -/

/-- Sends a message of Table GAL-3: operation, die, and what it names. Operations 4 to 8 travel as CMD (R227). -/
def sendMsg (op die x : Nat) (b : Blk) : Blk :=
  let b := { b with out := { b.out with sent := b.out.sent ++ [(op, die, x)] } }
  if 4 ≤ op then transmitCmd die b else b

/-- Sends the CMD word of a root die on to the neighbours that take it from this die (R92). -/
def broadcast (op root x : Nat) (b : Blk) : Blk := (childDies b root).foldl (fun b d => sendMsg op d x b) b

/-- The Vault tells the other members of its Gallery what has changed (R265, R292, R324). -/
def tellVaults (b : Blk) : Blk := if b.gal.logD = 0 then b else broadcast 5 (dieOf b) b.vlt.epoch.toNat b

/-- Changes the capability epoch (R161, R323, R324). The members of a Gallery hold equal values, so the new value is one
more than the die's own; the others are told of it (R265). -/
def newEpoch (cause : Nat) (b : Blk) : Blk := tellVaults (setEpochTo (b.vlt.epoch + 1) cause b)

/-- A message lands in the forwarded-command mailbox of the ingress it came by, the lowest working port towards its sender
(R209, R227, Table BMX-6). -/
def landMail (op die cmd : Nat) (b : Blk) : Blk :=
  let k := ((workingPorts b (hopDim b die)).head?).getD 0
  { b with gal := { b.gal with mailbox := b.gal.mailbox.filter (fun x => x.port != k) ++ [⟨k, op, die, cmd⟩] } }

/-- The other dies of the Gallery, ascending. -/
def otherDies (b : Blk) : List Nat :=
  (List.range 8).filter (fun d => bitAt b.gal.members d && d != b.fab.dieId.toNat)

/-- A member of the Gallery other than this die. -/
def isPeer (b : Blk) (die : Nat) : Bool := (otherDies b).contains die && hasLinks b

/-! ### Flags -/

/-- Flag `f` of a tenant (R154). -/
def flagOf (b : Blk) (p f : Nat) : Bool := tabGet false b.flags (p * 256 + f)

/-- Writes a flag. -/
def putFlag (p f : Nat) (v : Bool) (b : Blk) : Blk := { b with flags := tabPut false b.flags (p * 256 + f) v }

end Sys2Proof.Machine
end

