-- ==== Sys2Proof/Machine/Operands.lean ====
section
/-! DEFINITION. The descriptor's fields, tile sets, operand forms, extents and the tests on them
(chapters 01, 03, 05). -/
namespace Sys2Proof.Machine

/-- The opcodes of Table CMD-6. -/
inductive Op
  | nop | fence | flagSet | flagWait | resume | debugBreak | modtabLoad
  | permGen | permIdx | transpose | bitrev | layout | rotacc | accDrain | accClear
  | gather | scatter | move | loadRows | storeRows | streamArm | streamRearm | handlePush | handlePop
  deriving DecidableEq, Repr

/-- The opcode of a descriptor; none: absent from Table CMD-6. -/
def opOf (d : Desc) : Option Op :=
  match d.opcode.toNat with
  | 0x0000 => some .nop | 0x0001 => some .fence | 0x0002 => some .flagSet | 0x0003 => some .flagWait
  | 0x0004 => some .resume | 0x0005 => some .debugBreak | 0x0006 => some .modtabLoad
  | 0x0100 => some .permGen | 0x0101 => some .permIdx | 0x0102 => some .transpose
  | 0x0103 => some .bitrev | 0x0104 => some .layout | 0x0105 => some .rotacc
  | 0x0106 => some .accDrain | 0x0107 => some .accClear | 0x0110 => some .gather
  | 0x0111 => some .scatter | 0x0112 => some .move | 0x0120 => some .loadRows
  | 0x0121 => some .storeRows | 0x0130 => some .streamArm | 0x0131 => some .streamRearm
  | 0x0132 => some .handlePush | 0x0133 => some .handlePop
  | _ => none

/-- One code when a condition fails. -/
def need (ok : Bool) (c : Code) : List Code := if ok then [] else [c]

/-! ### Tile sets and the PLANE word -/

/-- A tile-set specifier (Table PHA-1). -/
structure TSet where
  first : Nat
  logT : Nat
  logD : Nat
  deriving DecidableEq, Repr

/-- The specifier of 16 bits. -/
def tsetOf (v : BitVec 16) : TSet := ⟨field v 0 6, field v 6 3, field v 9 2⟩

/-- `T = 2^LOG_T` (R75). -/
def TSet.t (s : TSet) : Nat := 2 ^ s.logT

/-- `D = 2^LOG_D` (R75). -/
def TSet.d (s : TSet) : Nat := 2 ^ s.logD

/-- The logical tiles FIRST to FIRST + T − 1 (R75). -/
def tsetTiles (s : TSet) : List Nat := (List.range s.t).map (· + s.first)

/-- Places on each die: T, or T/2 pairs with TWIN (R79, R258). -/
def placesPerDie (d : Desc) : Nat := if flagTwin d then (tsetOf d.tset).t / 2 else (tsetOf d.tset).t

/-- The tile of place `u` of this die, in copy 0 (primary) or 1 (twin) (R79, R258). -/
def placeTile (d : Desc) (copy u : Nat) : Nat :=
  if flagTwin d then (tsetOf d.tset).first + 2 * u + copy else (tsetOf d.tset).first + u

/-- The copies that run: one, or primary and twin (R259). -/
def copiesOf (d : Desc) : List Nat := if flagTwin d then [0, 1] else [0]

/-- The checks of R76 in their order, with R258's on TWIN. -/
def tsetErrs (b : Blk) (p : Nat) (d : Desc) : List Code :=
  let s := tsetOf d.tset
  need (s.logT != 7 && s.first % s.t == 0 && field d.tset 11 5 == 0) .shape
  ++ need (!(flagTwin d && s.logT == 0)) .shape
  ++ need ((tsetTiles s).all (fun t => !tileAbsent b t)) .absentUnit
  ++ need (s.logD == 0 || (hasLinks b && s.logD == b.gal.logD)) .absentUnit
  ++ need ((tsetTiles s).all (fun t => tileAbsent b t || ownsTile b p t)) .notOwner
  ++ need (s.logD == 0 || galleryActive b p) .notOwner

/-- A PLANE word (Table CMD-5). -/
structure PlaneW where
  logn : Nat
  dom : Nat
  p : Nat
  a : Nat
  b : Nat
  logBatch : Nat
  deriving DecidableEq, Repr

/-- The PLANE word of bytes 8-11. -/
def planeOf (v : BitVec 32) : PlaneW :=
  ⟨field v 0 5, field v 5 2, field v 8 4, field v 12 4, field v 16 6, field v 22 5⟩

/-- Granules of the domain per plane, batch included. -/
def PlaneW.n (w : PlaneW) : Nat := 2 ^ (w.logBatch + w.logn)

/-- The per-tile share `m = n / (T·D)` (R79). -/
def shareOf (d : Desc) : Nat := (planeOf d.w8).n / (placesPerDie d * (tsetOf d.tset).d)

/-- P and A in range, and the domain field not 3 (R15, Table CMD-8). -/
def planeErrs (w : PlaneW) : List Code :=
  need (decide (1 ≤ w.p) && decide (w.p ≤ 8) && decide (1 ≤ w.a) && decide (w.a ≤ 8) && w.dom != 3
    && decide (w.logBatch ≤ 23)) .shape

/-- The domain limits of R39 and R80. -/
def domainErrs (d : Desc) : List Code :=
  let w := planeOf d.w8
  let places := placesPerDie d * (tsetOf d.tset).d
  need (decide (w.n ≤ places * 2 ^ 14) && decide (64 ≤ shareOf d) && decide (w.p * shareOf d ≤ 16384)) .shape

/-! ### Operand forms (Table CMD-5A) -/

/-- The granule form: granule (i, j) of plane q lies at base + i·s1 + j·s0 + q·ps. -/
structure Gran where
  base : Nat
  c0 : Nat
  c1 : Nat
  s0 : Int
  s1 : Int
  ps : Int
  planes : Nat
  deriving DecidableEq, Repr

/-- The granule form of an operand slot with a plane count. -/
def granOf (v : BitVec 160) (planes : Nat) : Gran :=
  ⟨field v 0 48, field v 48 7, field v 55 9, sfield v 64 32, sfield v 96 32, sfield v 128 32, planes⟩

/-- The address of local offset `o` of plane `q` (R79: column first, then row, then plane). -/
def Gran.addr (g : Gran) (q o : Nat) : Nat :=
  ((g.base : Int) + (o / g.c0 : Nat) * g.s1 + (o % g.c0 : Nat) * g.s0 + q * g.ps).toNat

/-- Granules in one plane. -/
def Gran.count (g : Gran) : Nat := g.c0 * g.c1

/-- The grid form: dense array base or owner-table base, and the extents. -/
structure GridOp where
  base : Nat
  owned : Bool
  e0 : Nat
  e1 : Nat
  e2 : Nat
  deriving DecidableEq, Repr

/-- The grid form of an operand slot. -/
def gridOf (v : BitVec 160) : GridOp :=
  ⟨field v 0 48, field v 48 1 == 1, field v 64 32, field v 96 32, field v 128 32⟩

/-- The block-run form: block 0 and the block stride. -/
structure RunOp where
  base : Nat
  stride : Int
  deriving DecidableEq, Repr

/-- The block-run form of an operand slot. -/
def runOf (v : BitVec 160) : RunOp := ⟨field v 0 48, sfield v 96 32⟩

/-! ### Extents, alignment and the write test -/

/-- A byte range, both ends included. -/
abbrev Extent := Int × Int

/-- What a dimension adds below the base (R29). -/
def dimLow (c : Nat) (s : Int) : Int := min 0 (s * ((c : Int) - 1))

/-- What a dimension adds above the base (R29). -/
def dimHigh (c : Nat) (s : Int) : Int := max 0 (s * ((c : Int) - 1))

/-- The extent of plane `q` (R29). -/
def Gran.planeExtent (g : Gran) (q : Nat) : Extent :=
  let at_ : Int := g.base + q * g.ps
  (at_ + dimLow g.c0 g.s0 + dimLow g.c1 g.s1, at_ + dimHigh g.c0 g.s0 + dimHigh g.c1 g.s1 + 63)

/-- The extent of the operand, planes included (R29). -/
def Gran.extent (g : Gran) : Extent :=
  let e := g.planeExtent 0
  (e.1 + dimLow g.planes g.ps, e.2 + dimHigh g.planes g.ps)

/-- The extents meet in at least one byte (R40). -/
def meets (x y : Extent) : Bool := decide (x.1 ≤ y.2) && decide (y.1 ≤ x.2)

/-- The smallest extent that holds both. -/
def hull (x y : Extent) : Extent := (min x.1 y.1, max x.2 y.2)

/-- Steps 1 to 4 of R31 on the dimensions of a write, as count and stride. -/
def writePasses (dims : List (Nat × Int)) : Bool :=
  match dims.filter (fun d => decide (1 < d.1)) with
  | [] => true
  | [x] => x.2 != 0
  | [x, y] =>
    x.2 != 0 && y.2 != 0 &&
      (if x.2.natAbs ≤ y.2.natAbs then decide (x.2.natAbs * x.1 ≤ y.2.natAbs)
       else decide (y.2.natAbs * y.1 ≤ x.2.natAbs))
  | _ => false

/-- Step 5 of R31: planes (or series members) lie at least one extent apart. -/
def planesPass (planes : Nat) (stride : Int) (bytes : Int) : Bool :=
  decide (planes ≤ 1) || decide (bytes ≤ (stride.natAbs : Int))

/-- The write test of R31 on a granule operand. -/
def Gran.writeOk (g : Gran) : Bool :=
  writePasses [(g.c0, g.s0), (g.c1, g.s1)]
  && planesPass g.planes g.ps ((g.planeExtent 0).2 + 1 - (g.planeExtent 0).1)

/-- Base and strides are multiples of 64 (R27). -/
def Gran.aligned (g : Gran) : Bool :=
  g.base % 64 == 0 && g.s0 % 64 == 0 && g.s1 % 64 == 0 && g.ps % 64 == 0

/-- C0 and C1 within Table CMD-8. -/
def Gran.countsOk (g : Gran) : Bool :=
  decide (1 ≤ g.c0) && decide (g.c0 ≤ 64) && decide (1 ≤ g.c1) && decide (g.c1 ≤ 256)

/-- Plane `q` is contained in one register (R99). -/
def Gran.contained (g : Gran) (q : Nat) : Bool :=
  let e := g.planeExtent q
  decide (g.c1 ≤ 64) && e.1 / 0x40000 == e.2 / 0x40000

/-- Plane `q` is a dense span of whole registers (R99). -/
def Gran.denseSpan (g : Gran) (q : Nat) : Bool :=
  ((g.base : Int) + q * g.ps) % 0x40000 == 0 && g.c0 == 64 && g.s0 == 64 && g.s1 == 4096 && g.c1 % 64 == 0

/-- Each plane takes one of the two forms of R99. -/
def Gran.formOk (g : Gran) : Bool := (List.range g.planes).all (fun q => g.contained q || g.denseSpan q)

/-- The twin's address of a primary's: bit 0 of the tile field set (R258). -/
def twinAddr (copy a : Nat) : Nat := if copy = 1 ∧ regionOf a = some .tile then a + 0x400000 else a

/-- The twin's operand. -/
def twinGran (copy : Nat) (g : Gran) : Gran := { g with base := twinAddr copy g.base }

/-! ### Where an extent may lie -/

/-- The die field of an address is one this die may name (R5, R36, R76). -/
def dieErrs (b : Blk) (p a : Nat) : List Code :=
  if addrDie a = dieOf b then []
  else if !hasLinks b || !bitAt b.gal.members (addrDie a) then [.absentUnit]
  else need (galleryActive b p) .notOwner

/-- What a base address with another die's number completes where the command must name its own die (R5, R77): an
absent unit on a grade without links, out of range on G64. -/
def otherDieErrs (b : Blk) (a : Nat) : List Code :=
  if regionOf a == some .tile && addrDie a != dieOf b then [if hasLinks b then .indexRange else .absentUnit] else []

/-- Control space and the Cellar diagnostic window: NOT_OWNER from a tenant queue. R25 gives the Vault queue no code
for them; it takes INDEX_RANGE there, as in any region a command does not admit (R77; DESIGN CHOICE, log entry 67). -/
def closedErrs (p : Nat) : List Code := if p = 5 then [.indexRange] else [.notOwner]

/-- The checks of R25 on an extent, for an operand that admits some regions. -/
def r25 (b : Blk) (p : Nat) (allow : Region → Bool) (e : Extent) : List Code :=
  if e.1 < 0 ∨ 0xFFFFFFFFFFFF < e.2 then [.indexRange]
  else
    let lo := e.1.toNat
    let hi := e.2.toNat
    match regionOf lo, regionOf hi with
    | some r, some r' =>
      if r ≠ r' then [.indexRange]
      else match r with
        | .tile =>
          if lo / 2 ^ 22 ≠ hi / 2 ^ 22 ∨ !allow .tile then [.indexRange]
          else if tileAbsent b (addrTile lo) then [.absentUnit]
          else dieErrs b p lo ++ need (ownsTile b p (addrTile lo)) .notOwner
        | .pantry =>
          if !allow .pantry then [.indexRange]
          else need ((List.range (addrHandle hi + 1 - addrHandle lo)).all
            (fun i => holdsHandle b p (addrHandle lo + i))) .notOwner
        | .external => need (allow .external) .indexRange
        | .control => closedErrs p
        | .cellarDiag => closedErrs p
    | _, _ => [.indexRange]

/-- Any region a command may reach. -/
def anyRegion : Region → Bool
  | .tile | .pantry | .external => true
  | _ => false

/-- Tile stores only. -/
def onlyTile : Region → Bool
  | .tile => true
  | _ => false

/-- Tile stores and the Pantry (R72). -/
def tileOrPantry : Region → Bool
  | .tile | .pantry => true
  | _ => false

/-- External memory and the Pantry (R109). -/
def extOrPantry : Region → Bool
  | .external | .pantry => true
  | _ => false

/-- A tile-set operand's base and each tile's share (R25, R77). -/
def tsetBaseErrs (b : Blk) (p : Nat) (d : Desc) (base : Nat) (e : Extent) : List Code :=
  if regionOf base == some .tile then
    otherDieErrs b base
    ++ need (addrTile base == (tsetOf d.tset).first && e.1 / 0x400000 == (base / 0x400000 : Nat)
        && e.2 / 0x400000 == (base / 0x400000 : Nat)) .indexRange
  else r25 b p onlyTile e

/-- The checks of a tile-set operand whose plane holds `m` granules in each tile (R25 to R31, R77,
R79, R99). -/
def tsetGranErrs (b : Blk) (p : Nat) (d : Desc) (m : Nat) (write : Bool) (g : Gran) : List Code :=
  need (g.countsOk && g.count == m && (regionOf g.base != some .tile || g.formOk)) .shape
  ++ need g.aligned .align
  ++ tsetBaseErrs b p d g.base g.extent
  ++ need (!write || g.writeOk) .aliasWrite

/-- The own tiles that a command's lists may lie in: those of its tile set, when that stays on this die. R108 lets no
command read another tile's store for a list, and a list in a tile has no address that serves every die of a Gallery
(DESIGN CHOICE, log entry 16). -/
def setListTiles (d : Desc) (t : Nat) : Bool := (tsetOf d.tset).logD == 0 && (tsetTiles (tsetOf d.tset)).contains t

/-- No tile may hold the list: the lists of a block command, which has no tile set (R108). -/
def noTile (_ : Nat) : Bool := false

/-- Any tile of this die may hold it: owner tables, which R108 excepts. -/
def anyTile (_ : Nat) : Bool := true

/-- Where a list or table may lie: external memory, the Pantry, or a tile of this die that `tiles` admits (R25, R36,
R108). -/
def listRegionErrs (b : Blk) (p : Nat) (tiles : Nat → Bool) (e : Extent) : List Code :=
  let a := e.1.toNat
  if isRemote b a then otherDieErrs b a
  else if regionOf a == some .tile && !tiles (addrTile a) then [.indexRange]
  else r25 b p anyRegion e

/-- A list operand (coordinate list, index stream, element list, phase-control stream, stream descriptor): 64-byte
alignment (R27, R42) and R25 over its bytes. -/
def listErrs (b : Blk) (p : Nat) (tiles : Nat → Bool) (base bytes : Nat) : List Code :=
  need (base % 64 == 0) .align ++ listRegionErrs b p tiles ((base : Int), (base : Int) + bytes - 1)

/-- A list that lies in external memory only: the image of MODTAB.LOAD (chapter 01). -/
def externalListErrs (b : Blk) (p base bytes : Nat) : List Code :=
  need (base % 64 == 0) .align
  ++ (match regionOf base with
    | some .tile => [.indexRange]
    | _ => r25 b p (fun r => r == .external) ((base : Int), (base : Int) + bytes - 1))

/-- The extent of a list. -/
def listExtent (base bytes : Nat) : Extent := ((base : Int), (base : Int) + bytes - 1)

/-! ### Grids and blocks -/

/-- The block number of coordinates (R32). -/
def GridOp.block (g : GridOp) (c0 c1 c2 : Nat) : Nat := c0 + g.e0 * (c1 + g.e1 * c2)

/-- Extents 1 to 65,536 (Table CMD-8). -/
def GridOp.countsOk (g : GridOp) : Bool :=
  decide (1 ≤ g.e0) && decide (g.e0 ≤ 65536) && decide (1 ≤ g.e1) && decide (g.e1 ≤ 65536)
    && decide (1 ≤ g.e2) && decide (g.e2 ≤ 65536)

/-- Bytes of a grid's owner table. -/
def GridOp.tableBytes (g : GridOp) : Nat := g.e0 * g.e1 * g.e2 * 8

/-- The decode checks of a grid operand: counts, the base's alignment (R27, R368) and, for an owned
grid, R25 over the table. -/
def gridErrs (b : Blk) (p : Nat) (g : GridOp) : List Code :=
  need g.countsOk .shape ++ need (if g.owned then g.base % 64 == 0 else g.base % 4096 == 0) .align
  ++ (if g.owned then listRegionErrs b p anyTile ((g.base : Int), (g.base : Int) + g.tableBytes - 1) else [])

/-- The extent of a run of `n` blocks (R29, R63). -/
def RunOp.extent (r : RunOp) (n : Nat) : Extent :=
  ((r.base : Int) + dimLow n r.stride, (r.base : Int) + dimHigh n r.stride + 4095)

/-- The address of block `m` of a run. -/
def RunOp.addr (r : RunOp) (m : Nat) : Nat := ((r.base : Int) + m * r.stride).toNat

/-- The decode checks of a block run: alignment (R27), R25, and R31 for a destination (R63). -/
def runErrs (b : Blk) (p n : Nat) (write : Bool) (r : RunOp) : List Code :=
  need (r.base % 4096 == 0 && r.stride % 4096 == 0) .align
  ++ r25 b p anyRegion (r.extent n)
  ++ need (!write || decide (n ≤ 1) || r.stride != 0) .aliasWrite

/-! ### Reserved bits (R143 to R145) -/

/-- OPX bits a command uses (Table CMD-7), as (low bit, width) with byte 52 at bit 0. -/
def opxUsed (op : Op) (d : Desc) : List (Nat × Nat) :=
  match op with
  | .nop => [(0, 16)] | .fence => [(0, 4)] | .flagSet => [(0, 8)] | .flagWait => [(0, 8), (32, 32)]
  | .resume => [] | .debugBreak => [(0, 2), (8, 88)] | .modtabLoad => [(0, 48)]
  | .permGen => [(0, 56), (64, 32)] | .rotacc => [(0, 56)] | .permIdx => [(0, 96)]
  | .transpose => [(0, 8)] | .bitrev => [(0, 8)] | .layout => [(0, 4), (8, 40)]
  | .accDrain => [(0, 16)] | .accClear => [] | .gather => [(0, 73)]
  | .scatter => [(0, 73), (80, 8)] | .move => if flagOpf0 d then [(0, 73)] else []
  | .loadRows => [] | .storeRows => [] | .streamArm => [(0, 80)] | .streamRearm => [(0, 16)]
  | .handlePush => [(0, 24)] | .handlePop => [(16, 8)]

/-- Bits of bytes 8-11 a command uses (Table CMD-6). -/
def w8Used (op : Op) (d : Desc) : List (Nat × Nat) :=
  match op with
  | .nop => if flagOpf0 d then [(0, 32)] else []
  | .permGen | .permIdx | .transpose | .bitrev | .rotacc => [(0, 7), (8, 19)]
  | .scatter => [(8, 14)]
  | .move => if flagOpf0 d then [] else [(8, 4)]
  | _ => []

/-- Operand-slot bits each command uses in OPA and OPB (Tables CMD-5A, CMD-6). -/
def operandUsed (op : Op) (d : Desc) : List (Nat × Nat) × List (Nat × Nat) :=
  let gran := [(0, 160)]
  let granNoPs := [(0, 128)]
  let gridF := [(0, 49), (64, 96)]
  let runF := [(0, 48), (96, 32)]
  match op with
  | .permGen | .permIdx | .transpose | .bitrev | .layout | .rotacc => (gran, gran)
  | .accDrain => ([], granNoPs)
  | .gather => (gridF, runF)
  | .scatter => (runF, gridF)
  | .move => if flagOpf0 d then (gridF, gridF) else (gran, gran)
  | .loadRows | .storeRows => (granNoPs, granNoPs)
  | .streamRearm => ([(0, 48)], [(0, 48)])
  | _ => ([], [])

/-- The bits of `v` outside the used fields are all zero. -/
def onlyUses {w : Nat} (v : BitVec w) (used : List (Nat × Nat)) : Bool :=
  (v &&& ~~~ (used.foldl (fun m f => m ||| BitVec.ofNat w ((2 ^ f.2 - 1) * 2 ^ f.1)) (0 : BitVec w))) == 0

/-- OPF0 has a meaning for these commands (Table CMD-4). -/
def opf0Allowed : Op → Bool
  | .permIdx | .accDrain | .move | .resume | .flagWait | .nop => true
  | _ => false

/-- Commands of the catalogue (Table PRM-1). -/
def isCatalogue : Op → Bool
  | .permGen | .permIdx | .transpose | .bitrev | .layout | .rotacc | .accDrain | .accClear
  | .gather | .scatter | .move => true
  | _ => false

/-- Commands with a tile set (Table CMD-6). -/
def hasTset (op : Op) (d : Desc) : Bool :=
  match op with
  | .permGen | .permIdx | .transpose | .bitrev | .layout | .rotacc | .accDrain | .accClear => true
  | .nop => field d.opx 0 16 != 0
  | _ => false

/-- FLAGS and reserved bits (R143 to R145, Tables CMD-4, CMD-6, CMD-7). -/
def formErrs (op : Op) (d : Desc) : List Code :=
  need (onlyUses d.flags [(0, 5), (8, 1)] && (opf0Allowed op || !flagOpf0 d)
    && (!flagTwin d || (flagKey d && isCatalogue op && op != .accClear))
    && onlyUses d.opx (opxUsed op d) && onlyUses d.w8 (w8Used op d)
    && onlyUses d.opa (operandUsed op d).1 && onlyUses d.opb (operandUsed op d).2
    && (hasTset op d || d.tset == 0 || (op == .flagSet && onlyUses d.tset [(9, 2)]))) .shape

end Sys2Proof.Machine
end

