-- ==== Sys2Proof/Machine/Flags.lean ====
section
/-! DEFINITION. Register flags and shape tags (R99 to R106, R119, R122), and the ZEROISED notices. -/
namespace Sys2Proof.Machine

/-- The key of register `r` of physical tile `p`. -/
def regKey (p r : Nat) : Nat := p * 16 + r

/-- A register's tag and flags. -/
def regOf (b : Blk) (k : Nat) : Reg := tabGet {} b.regs k

/-- Changes a register's tag and flags. -/
def updReg (k : Nat) (f : Reg → Reg) (b : Blk) : Blk := { b with regs := tabUpd {} b.regs k f }

/-- The register a tile-store address of this die lies in. -/
def regAt (b : Blk) (a : Nat) : Option Nat :=
  if regionOf a == some .tile && addrDie a == dieOf b then
    (physOf b (addrTile a)).map (fun p => regKey p (addrReg a))
  else none

/-- A shape tag (Table TRG-1). -/
structure Tag where
  rows : Nat
  cols : Nat
  rstride : Int
  deriving DecidableEq, Repr

/-- The full shape: ROWS 64, COLS 64, RSTRIDE 64. -/
def fullTag : Tag := ⟨64, 64, 64⟩

/-- The tag of a contained plane's shape; ROWS 1 records RSTRIDE 0 (R100). -/
def shapeTag (g : Gran) : Tag := ⟨g.c1, g.c0, if g.c1 = 1 then 0 else g.s1 / 64⟩

/-- The tag a plane leaves or is matched with: the full shape for a dense span (R100, R101). -/
def planeTag (g : Gran) (q : Nat) : Tag := if g.denseSpan q then fullTag else shapeTag g

/-- The 32-bit word of a tag (Table TRG-1). -/
def tagWord (r : Reg) : Nat :=
  if r.rows = 0 then 0 else r.rows + r.cols * 2 ^ 7 + (r.rstride % 65536).toNat * 2 ^ 16

/-- A tag matches a source shape: NONE matches every shape (R101). -/
def tagMatches (r : Reg) (t : Tag) : Bool :=
  r.rows == 0 || (r.rows == t.rows && r.cols == t.cols && r.rstride == t.rstride)

/-- A committed write (R100, R104, R105): IN_USE, the tag, and KEY when the write is key-class; KEY is
sticky. -/
def markWrite (t : Tag) (key : Bool) (r : Reg) : Reg :=
  { r with rows := t.rows, cols := t.cols, rstride := t.rstride, inUse := true, key := r.key || key }

/-- Registers that plane `q` of an operand lies in, in the tile of its base address; `at_` is the
plane's base. -/
def planeRegs (g : Gran) (q : Nat) : List Nat :=
  let e := g.planeExtent q
  let lo := (e.1 / 0x40000).toNat
  let hi := (e.2 / 0x40000).toNat
  (List.range (hi + 1 - lo)).map (fun i => (lo + i) % 16)

/-- Registers of an operand with the tag each plane gives them. -/
def operandTags (g : Gran) : List (Nat × Tag) :=
  (List.range g.planes).flatMap (fun q => (planeRegs g q).map (fun r => (r, planeTag g q)))

/-- Some register read in some tile is PARTIAL (R103, R119). -/
def anyPartial (b : Blk) (regs : List Nat) : Bool := regs.any (fun k => (regOf b k).part)

/-- Some register read is KEY (R104). -/
def anyKey (b : Blk) (regs : List Nat) : Bool := regs.any (fun k => (regOf b k).key)

/-- The register keys of a tile-set operand over tiles, with tags. -/
def tsetRegTags (b : Blk) (tiles : List Nat) (g : Gran) : List (Nat × Tag) :=
  tiles.flatMap (fun t => match physOf b t with
    | some p => (operandTags g).map (fun x => (regKey p x.1, x.2))
    | none => [])

/-- The register keys, with tags, of an operand named by an absolute address in tile stores. -/
def absRegTags (b : Blk) (g : Gran) : List (Nat × Tag) :=
  if isRemote b g.base || regionOf g.base != some .tile then []
  else tsetRegTags b [addrTile g.base] g

/-- Marks the registers written, with their tags (R100, R104). -/
def markWrites (l : List (Nat × Tag)) (key : Bool) (b : Blk) : Blk :=
  l.foldl (fun b x => updReg x.1 (markWrite x.2 key) b) b

/-- The registers that blocks at tile-store addresses lie in. -/
def blockRegs (b : Blk) (addrs : List Nat) : List Nat := addrs.filterMap (fun a => regAt b a)

/-- Clears a register's tag and flags (R100, R104). -/
def clearReg (k : Nat) (b : Blk) : Blk := updReg k (fun _ => {}) b

/-- Releases one register of a physical tile: a KEY register is zeroised (R106). -/
def releaseReg (p r : Nat) (b : Blk) : Blk :=
  let x := regOf b (regKey p r)
  let b := if x.key then zeroKeys (frameKey p r 0) 0x40000 b else b
  updReg (regKey p r) (fun y => { y with rows := 0, cols := 0, rstride := 0, inUse := false, key := false }) b

/-- Zeroises a physical tile: every frame, tags, flags, latches (R291). -/
def zeroiseTile (p : Nat) (b : Blk) : Blk :=
  let b := zeroKeys (frameKey p 0 0) (25 * 0x40000) b
  { b with regs := tabKeep (fun k => k / 16 != p) b.regs, accKey := tabDel p b.accKey,
           latches := tabDel p b.latches }

/-- Zeroises a Pantry handle (R291). -/
def zeroiseHandle (h : Nat) (b : Blk) : Blk := zeroKeys (handleAddr h) 0x10000 b

/-- One read through 16 reuse latches, at the grain of granules (R107) or of blocks (R64), most recent first: the latches
after it, and whether the source was read. -/
def reuse (latches : List Nat) (a : Nat) : List Nat × Bool :=
  if latches.contains a then (a :: latches.filter (· != a), false)
  else ((a :: latches).take 16, true)

/-- Empties the reuse latches of physical tiles, at the start of a command on them (R107). -/
def emptyLatches (ps : List Nat) (b : Blk) : Blk := { b with latches := ps.foldl (fun t p => tabDel p t) b.latches }

/-- Reads granules of tile stores through the reuse latches of their tiles; bank frames and ACC are no tile store
(R97, R107). -/
def readLatches (keys : List Nat) (b : Blk) : Blk :=
  keys.foldl (fun b k =>
    let o := k - 0x4080000000
    if 0x4080000000 ≤ k ∧ o < 68 * 0x800000 ∧ o / 0x40000 % 32 < 16 then
      { b with latches := tabUpd [] b.latches (o / 0x800000) (fun l => (reuse l k).1) }
    else b) b

/-- A pending ZEROISED notice of the tenant on one of the tiles (R273). -/
def noticeOn (b : Blk) (p : Nat) (tiles : List Nat) : Bool :=
  tiles.any (fun t => b.vlt.notices.contains (p * 64 + t))

/-- Consumes the notices of the tenant on the tiles (R273). -/
def dropNotices (p : Nat) (tiles : List Nat) (b : Blk) : Blk :=
  { b with vlt := { b.vlt with notices := b.vlt.notices.filter (fun n => !(tiles.map (· + p * 64)).contains n) } }

/-- Leaves a notice (R129, R263). -/
def addNotice (p t : Nat) (b : Blk) : Blk :=
  if b.vlt.notices.contains (p * 64 + t) then b
  else { b with vlt := { b.vlt with notices := b.vlt.notices ++ [p * 64 + t] } }

end Sys2Proof.Machine
end

