-- ==== Sys2Proof/Machine/Maps.lean ====
section
/-! DEFINITION. The maps of the permutation catalogue, as functions on positions and limb words
(chapter 02), and modular arithmetic on limb words (R18 to R20). -/
namespace Sys2Proof.Machine

/-! ### Modular arithmetic -/

/-- Negation of a limb word: `(q − (x mod q)) mod q` (R20). -/
def negMod (q x : Nat) : Nat := (q - x % q) % q

/-- A modular sum after reducing each input (R20). -/
def addMod (q x y : Nat) : Nat := (x % q + y % q) % q

/-- The moduli table entry of limb word `w` of plane `pl` (R18). -/
def modEntry (b : Blk) (p base pl w : Nat) : Modulus := tabGet {} b.moduli (p * 64 + (base + 8 * pl + w))

/-- The modulus of limb word `w` of plane `pl`. -/
def modulusOf (b : Blk) (p base pl w : Nat) : Nat := (modEntry b p base pl w).q.toNat

/-- Active limb words of plane `pl` of `planes`, the last holding `a` (R13). -/
def activeWords (planes a pl : Nat) : Nat := if pl + 1 < planes then 8 else a

/-- Every active limb word of every plane maps to an entry with index at most 63 and VALID set (R19). -/
def tableOk (b : Blk) (p base planes a : Nat) : Bool :=
  (List.range planes).all (fun pl => (List.range (activeWords planes a pl)).all (fun w =>
    decide (base + 8 * pl + w ≤ 63) && (modEntry b p base pl w).valid))

/-- A stored parity error in an entry the command consults (Table TLY-1). -/
def tableBad (b : Blk) (p base planes a : Nat) : Bool :=
  (List.range planes).any (fun pl => (List.range (activeWords planes a pl)).any (fun w =>
    (modEntry b p base pl w).bad))

/-- A negated granule: active words are negated, unused words travel bit for bit (R14, R37). -/
def negGranule (q : Nat → Nat) (active : Nat) (g : Granule) : Granule :=
  gmake (fun w => if w < active then negMod (q w) (gword g w) else gword g w)

/-! ### Closed-form maps -/

/-- `k⁻¹ mod 2N` by five Newton steps on 32 bits (R47). -/
def kInverse (k logn : Nat) : Nat :=
  let kk : BitVec 32 := BitVec.ofNat 32 k
  let step := fun x : BitVec 32 => x * (2 - kk * x)
  (step (step (step (step (step 1))))).toNat % 2 ^ (logn + 1)

/-- The source of output position `j` in COEF, and whether it is negated (R48). -/
def coefSource (logn k j : Nat) : Nat × Bool :=
  let n := 2 ^ logn
  let i := j * kInverse k logn % (2 * n)
  if i < n then (i, false) else (i - n, true)

/-- The source of output position `t` in EVAL (R49). -/
def evalSource (logn k t : Nat) : Nat :=
  let e := k * (2 * brv logn t + 1) % 2 ^ (logn + 1)
  brv logn ((e - 1) / 2)

/-- The source of an output position under X → X^k (R48, R49). -/
def galoisSource (dom logn k j : Nat) : Nat × Bool :=
  if dom = 0 then coefSource logn k j else (evalSource logn k j, false)

/-- The Galois element of a rotation by `r` slots (R50). -/
def rotationElement (logn : Nat) (r : Int) : Nat :=
  let n := 2 ^ logn
  let e := (r % ((n / 2 : Nat) : Int)).toNat
  5 ^ e % (2 * n)

/-- The source of output position `j` of an H × W transpose (R53): out[c·H + r] = in[r·W + c]. -/
def transposeSource (h w j : Nat) : Nat := j % h * w + j / h

/-- The source of output position `t` under a reversal of the low `width` bits (R54). -/
def bitrevSource (width t : Nat) : Nat := t / 2 ^ width * 2 ^ width + brv width (t % 2 ^ width)

/-- A map within each sub-domain of size `n`, applied to a batched domain (R38). -/
def batched (n : Nat) (f : Nat → Nat × Bool) (j : Nat) : Nat × Bool :=
  let r := f (j % n)
  (j / n * n + r.1, r.2)

/-! ### LAYOUT (R55 to R59) -/

/-- `⌈L/8⌉` and `⌈L/α⌉`, and which side is limb rows: the planes of source and destination of a mode,
each with its granules per plane (Table PRM-6). -/
def layoutPlanes (mode l alpha d : Nat) : Option ((Nat × Nat) × (Nat × Nat)) :=
  let p := ceilDiv l 8
  match mode with
  | 0 => some ((p, d), (l, d / 8))
  | 1 => some ((l, d / 8), (p, d))
  | 2 => some ((p, d), (ceilDiv l alpha, d))
  | 3 => some ((ceilDiv l alpha, d), (p, d))
  | _ => none

/-- Where LAYOUT's output word `w` of granule `g` of plane or row `pl` comes from: the limb and its
position, or none for a word written zero (R56 to R59). -/
def layoutOutWord (mode l alpha pl g w : Nat) : Option (Nat × Nat) :=
  match mode with
  | 0 => some (pl, 8 * g + w)
  | 1 => if 8 * pl + w < l then some (8 * pl + w, g) else none
  | 2 => if w < alpha ∧ alpha * pl + w < l then some (alpha * pl + w, g) else none
  | _ => if 8 * pl + w < l then some (8 * pl + w, g) else none

/-- Where LAYOUT's input holds limb `x` at position `j`: plane or row, granule, word. -/
def layoutInWord (mode alpha x j : Nat) : Nat × Nat × Nat :=
  match mode with
  | 0 => (x / 8, j, x % 8)
  | 1 => (x, j / 8, j % 8)
  | 2 => (x / 8, j, x % 8)
  | _ => (x / alpha, j, x % alpha)

end Sys2Proof.Machine
end

