-- ==== Sys2Proof/Machine/Tally.lean ====
section
/-! DEFINITION. Tally residues (R251 to R257). -/
namespace Sys2Proof.Machine

/-- `M = 2^31 − 1` (R251). -/
def tallyM : Nat := 2 ^ 31 - 1

/-- One granule's contribution at one limb position: the place it is bound for, the limb position λ,
the destination index, the sign and the tally value. -/
structure Term where
  place : Nat
  lam : Nat
  d : Nat
  neg : Bool
  v : Nat
  deriving DecidableEq, Repr

/-- The signed tally value of a term, weighted with its destination index or not. -/
def termVal (weighted : Bool) (t : Term) : Int :=
  let x : Int := if weighted then t.d * t.v else t.v
  if t.neg then -x else x

/-- A residue: the signed sum modulo `m`, taken in 0 to `m` − 1 (R251). -/
def residue (m : Nat) (weighted : Bool) (l : List Term) : Nat :=
  ((l.foldl (fun acc t => acc + termVal weighted t) 0) % (m : Int)).toNat

/-- The terms of one place and limb position. -/
def termsAt (u lam : Nat) (l : List Term) : List Term := l.filter (fun t => t.place == u && t.lam == lam)

/-- Both residues of one place and limb position agree (R253). -/
def pairAgrees (m u lam : Nat) (i o : List Term) : Bool :=
  residue m false (termsAt u lam i) == residue m false (termsAt u lam o)
  && residue m true (termsAt u lam i) == residue m true (termsAt u lam o)

/-- The places and limb positions that disagree (R253); `modOf` is M, or q_λ for a modular sum (R256). -/
def disagreements (modOf : Nat → Nat) (i o : List Term) : List (Nat × Nat) :=
  (((i ++ o).map (fun t => (t.place, t.lam))).eraseDups).filter (fun k => !pairAgrees (modOf k.2) k.1 k.2 i o)

/-- RES0 or RES1: the output-side residues of every place and limb position, reduced modulo M and
summed modulo M (R255, R256). -/
def resSum (modOf : Nat → Nat) (weighted : Bool) (o : List Term) : Nat :=
  ((((o.map (fun t => (t.place, t.lam))).eraseDups).map
    (fun k => residue (modOf k.2) weighted (termsAt k.1 k.2 o) % tallyM)).foldl (· + ·) 0) % tallyM

/-- The third residue Z: words that must be zero, summed modulo M (R254). -/
def zResidue (l : List Nat) : Nat := l.foldl (· + ·) 0 % tallyM

/-- The limb terms of a granule: every active word of its plane (R251). `nu` gives the tally value. -/
def granuleTerms (place plane active d : Nat) (neg : Bool) (nu : Nat → Nat) : List Term :=
  (List.range active).map (fun w => ⟨place, 8 * plane + w, d, neg, nu w⟩)

/-- The tally value of a landed word: for a negated granule the negation is undone (R252). -/
def landedNu (modular neg : Bool) (q x : Nat) : Nat :=
  if modular then (if neg then negMod q x else x % q) else x

/-- The tally value of a source word (R251). -/
def sourceNu (modular : Bool) (q x : Nat) : Nat := if modular then x % q else x

end Sys2Proof.Machine
end

