-- ==== Sys2Proof/Machine/Phases.lean ====
section
/-! DEFINITION. Compiled phase-control streams: header, sections and what the phases do with them
(R88 to R91, R94, R261). -/
namespace Sys2Proof.Machine

/-- A phase-control stream header (Table PHA-4). -/
structure PcsHeader where
  format : Nat
  logT : Nat
  logD : Nat
  logM : Nat
  phases : Nat
  dimOrder : Nat
  byte7 : Nat
  epoch : Nat
  section_ : Nat
  restZero : Bool
  deriving DecidableEq, Repr

/-- The header from its 64 bytes. -/
def pcsHeader (l : List Byte) : PcsHeader :=
  ⟨ofLe (l.take 2), ofLe ((l.drop 2).take 1), ofLe ((l.drop 3).take 1), ofLe ((l.drop 4).take 1),
   ofLe ((l.drop 5).take 1), ofLe ((l.drop 6).take 1), ofLe ((l.drop 7).take 1), ofLe ((l.drop 8).take 4),
   ofLe ((l.drop 12).take 4), ((l.drop 16).take 48).all (· == 0)⟩

/-- A size padded to a multiple of 64 (R89). -/
def pad64 (n : Nat) : Nat := ceilDiv n 64 * 64

/-- The padded sizes of the five parts, zero for an absent one (R89, Table PHA-5). -/
def pcsParts (phases logD m : Nat) : List Nat :=
  [if natBit phases 0 then pad64 (2 * m) else 0, if natBit phases 1 then pad64 m else 0,
   if natBit phases 2 then pad64 (logD * (m / 8)) else 0, if natBit phases 3 then pad64 m else 0,
   if natBit phases 4 then pad64 (2 * m) else 0]

/-- DIM_ORDER gives each dimension below LOG_D once and zero elsewhere (R90). -/
def dimOrderOk (dimOrder logD : Nat) : Bool :=
  let f := fun s => dimOrder / 4 ^ s % 4
  (List.range logD).all (fun e => ((List.range logD).filter (fun s => f s == e)).length == 1)
  && (List.range 3).all (fun s => decide (s < logD) || f s == 0)

/-- The SHAPE checks of R90; LOG_T is compared with `logT` (less one for TWIN, R261). -/
def pcsHeaderOk (h : PcsHeader) (logT logD m : Nat) : Bool :=
  h.format == 0x0301 && h.logT == logT && h.logD == logD && 2 ^ h.logM == m && decide (h.logM ≤ 14)
  && decide (h.phases < 32) && decide (h.dimOrder < 64) && h.byte7 == 0 && h.restZero
  && !(natBit h.phases 1 && logT == 0) && !(natBit h.phases 2 && logD == 0)
  && !(!natBit h.phases 2 && logD != 0) && !(natBit h.phases 3 && !natBit h.phases 2)
  && !((natBit h.phases 1 || natBit h.phases 2 || natBit h.phases 3) && !natBit h.phases 0)
  && dimOrderOk h.dimOrder logD && h.section_ == (pcsParts h.phases logD m).foldl (· + ·) 0

/-- The bytes before part `i` of a section. -/
def pcsPartOffset (h : PcsHeader) (logD m i : Nat) : Nat := ((pcsParts h.phases logD m).take i).foldl (· + ·) 0

/-- The source offset of entry `c` of a local part; reserved bits are ignored (R91). -/
def localEntry (rd : Nat → Byte) (at_ c : Nat) : Nat := ((rd (at_ + 2 * c)).toNat + 256 * (rd (at_ + 2 * c + 1)).toNat) % 2 ^ 14

/-- The target tile of slot `c` of an exchange part (R91). -/
def exchangeEntry (rd : Nat → Byte) (at_ c : Nat) : Nat := (rd (at_ + c)).toNat % 64

/-- What the bank offsets of a die's places hold during the phases: the source position of a granule among the die's
places, or nothing. -/
abbrev Bank := Nat → Nat → Option Nat

/-- A local phase: offset `c` takes offset SRC; an entry not below `m` drops the granule (R91). -/
def localPhase (m : Nat) (src : Nat → Nat → Nat) (bank : Bank) : Bank :=
  fun g c => let x := src g c; if x < m then bank g x else none

/-- The places whose slot `c` names place `g`, among the `u` of a die (R85, R91). R85 speaks of granules that meet; whether a
slot whose bank offset holds none also takes its lane no rule says: it does (DESIGN CHOICE, log entry 71). -/
def senders (u g c : Nat) (target : Nat → Nat → Nat) : List Nat := (List.range u).filter (fun x => target x c == g)

/-- A tile exchange among the `u` places of a die: an offset takes the granule of the one tile that sends
to it; two senders collide and the port keeps neither (R81, R84, R85). -/
def exchangePhase (u : Nat) (target : Nat → Nat → Nat) (bank : Bank) : Bank :=
  fun g c => match senders u g c target with
    | [x] => bank x c
    | _ => none

/-- The first slot and receiving place of a die at which two granules meet (R85). -/
def collision (u m : Nat) (target : Nat → Nat → Nat) : Option (Nat × Nat) :=
  (List.range m).findSome? (fun c => (List.range u).findSome? (fun g =>
    if 1 < (senders u g c target).length then some (c, g) else none))

/-- Where part `i` of the section of place `u` of the die of rank `r` starts, with `places` on each die (R88, R93). -/
def partAt (h : PcsHeader) (base m places r i u : Nat) : Nat :=
  base + 64 + (r * places + u) * h.section_ + pcsPartOffset h h.logD m i

/-- The sections of one die of a compiled stream. -/
structure Sections where
  header : PcsHeader
  base : Nat
  m : Nat
  places : Nat
  rank : Nat
  deriving DecidableEq, Repr

/-- Where part `i` of a place's section starts. -/
def Sections.part (x : Sections) (i u : Nat) : Nat := partAt x.header x.base x.m x.places x.rank i u

/-- The targets of tile exchange part `i`: X or X1 is part 1, X2 part 3. -/
def Sections.target (x : Sections) (rd : Nat → Byte) (i u c : Nat) : Nat := exchangeEntry rd (x.part i u) c

/-- What L1 and X or X1 bring to each bank offset, from the source share (R81, R89, R91). Without L1 there is no exchange
(R90); L1 absent leaves each source granule at its own offset, on which R91 is silent (DESIGN CHOICE, log entry 71). -/
def Sections.first (x : Sections) (rd : Nat → Byte) : Bank :=
  let start : Bank := fun u c => some (u * x.m + c)
  let b1 := if natBit x.header.phases 0 then localPhase x.m (fun u c => localEntry rd (x.part 0 u) c) start else start
  if natBit x.header.phases 1 then exchangePhase x.places (x.target rd 1) b1 else b1

/-- What X2 and L2 bring to each offset, from the bank after the die exchange (R81, R89, R91). -/
def Sections.last (x : Sections) (rd : Nat → Byte) : Bank :=
  let start : Bank := fun u c => some (u * x.m + c)
  let b1 := if natBit x.header.phases 3 then exchangePhase x.places (x.target rd 3) start else start
  if natBit x.header.phases 4 then localPhase x.m (fun u c => localEntry rd (x.part 4 u) c) b1 else b1

/-- The mask bit of slot `c` of a place in step `s` of Y (R89, R94). -/
def Sections.mask (x : Sections) (rd : Nat → Byte) (s u c : Nat) : Bool :=
  natBit (rd (x.part 2 u + s * (x.m / 8) + c / 8)).toNat (c % 8)

/-- The dimension of step `s` of Y (R94). -/
def Sections.dim (x : Sections) (s : Nat) : Nat := x.header.dimOrder / 4 ^ s % 4

/-- The source position that each offset holds after all the phases on one die (R81, R91). -/
def Sections.run (x : Sections) (rd : Nat → Byte) : Bank :=
  fun u c => (x.last rd u c).bind (fun p => x.first rd (p / x.m) (p % x.m))

/-- A collision in a tile exchange of the die. -/
def Sections.collides (x : Sections) (rd : Nat → Byte) : Option (Nat × Nat) :=
  match (if natBit x.header.phases 1 then collision x.places x.m (x.target rd 1) else none) with
  | some y => some y
  | none => if natBit x.header.phases 3 then collision x.places x.m (x.target rd 3) else none

end Sys2Proof.Machine
end

