-- ==== Sys2Proof/Machine/StreamDesc.lean ====
section
/-! DEFINITION. Stream descriptors: their fields, addresses and the checks of STREAM.ARM (R169 to R172,
R179, R180, R186). -/
namespace Sys2Proof.Machine

/-- The fields of Table STM-1. -/
structure SDesc where
  format : Nat
  src : Nat
  snk : Nat
  persist : Bool
  multicast : Bool
  touch : Bool
  key : Bool
  srcShelf : Nat
  snkShelf : Nat
  doneFlag : Nat
  waitFlag : Nat
  flagCtl : Nat
  dbase : Nat
  rate : Nat
  ibase : Nat
  c0 : Nat
  s0 : Int
  s1 : Int
  segG : Nat
  segStride : Int
  tbase : Nat
  twrap : Nat
  byte47 : Nat
  tsegStride : Int
  segments : Nat
  status : Nat
  mtset : BitVec 16
  deriving DecidableEq, Repr

/-- The fields of a 64-byte stream descriptor. -/
def sdescOf (v : BitVec 512) : SDesc :=
  { format := field v 0 16, src := field v 16 2, snk := field v 18 2, persist := bitAt v 20, multicast := bitAt v 21,
    touch := bitAt v 22, key := bitAt v 23, srcShelf := field v 24 8, snkShelf := field v 32 8, doneFlag := field v 40 8,
    waitFlag := field v 48 8, flagCtl := field v 56 8, dbase := field v 64 48, rate := field v 112 16,
    ibase := field v 128 48, c0 := field v 176 16, s0 := sfield v 192 32, s1 := sfield v 224 32, segG := field v 256 32,
    segStride := sfield v 288 32, tbase := field v 320 48, twrap := field v 368 8, byte47 := field v 376 8,
    tsegStride := sfield v 384 32, segments := field v 416 32, status := field v 448 48,
    mtset := BitVec.ofNat 16 (field v 496 16) }

/-- DONE_EN. -/
def SDesc.doneEn (s : SDesc) : Bool := natBit s.flagCtl 0
/-- WAIT_EN. -/
def SDesc.waitEn (s : SDesc) : Bool := natBit s.flagCtl 1

/-- The class of an endpoint kind (Table STM-2): 0 tile, 1 memory, 2 shelf. -/
def endClass (k : Nat) : Nat := match k with | 0 => 0 | 3 => 2 | _ => 1

/-- The sink is a memory side; a TOUCH stream has no sink (R170). -/
def SDesc.memSink (s : SDesc) : Bool := !s.touch && endClass s.snk == 1
/-- The source is a memory side. -/
def SDesc.memSource (s : SDesc) : Bool := endClass s.src == 1
/-- The stream has a memory side. -/
def SDesc.hasMem (s : SDesc) : Bool := s.memSource || s.memSink
/-- The kind of the memory side: 1 MEM, 2 MEM_IDX, 0 none. -/
def SDesc.memKind (s : SDesc) : Nat := if s.memSource then s.src else if s.memSink then s.snk else 0
/-- The sink is a tile side. -/
def SDesc.tileSink (s : SDesc) : Bool := !s.touch && s.snk == 0
/-- The stream has a tile side. -/
def SDesc.hasTile (s : SDesc) : Bool := s.src == 0 || s.tileSink
/-- The sink is a Shelf queue. -/
def SDesc.shelfSink (s : SDesc) : Bool := !s.touch && s.snk == 3
/-- The source is a Shelf queue. -/
def SDesc.shelfSource (s : SDesc) : Bool := s.src == 3

/-- The index entry of granule `g` of segment `i` (R171, Table STM-3). -/
def entryAddr (s : SDesc) (ibase i g : Nat) : Nat := ibase + 4 * (i * s.segG + g)

/-- The address of granule `g` of segment `i` on the memory side, the index entry read as `gidx` (R171). -/
def memSideAddr (s : SDesc) (dbase i g gidx : Nat) : Int :=
  if s.memKind = 1 then (dbase : Int) + i * s.segStride + (g % s.c0 : Nat) * s.s0 + (g / s.c0 : Nat) * s.s1
  else (dbase : Int) + i * s.segStride + 64 * gidx

/-- The tile-side address of granule `g` of segment `i` (R171). -/
def tileSideAddr (s : SDesc) (i g : Nat) : Nat :=
  ((s.tbase : Int) + (i % s.twrap : Nat) * s.tsegStride + 64 * g).toNat

/-- The extent of tile area `i`. -/
def areaExtent (s : SDesc) (i : Nat) : Extent :=
  let lo : Int := (s.tbase : Int) + i * s.tsegStride
  (lo, lo + 64 * s.segG - 1)

/-- The extent of the memory side of segment `i` of a MEM stream (R29, R171). -/
def memSideExtent (s : SDesc) (dbase i : Nat) : Extent :=
  let at_ : Int := (dbase : Int) + i * s.segStride
  let rows := s.segG / s.c0
  (at_ + dimLow s.c0 s.s0 + dimLow rows s.s1, at_ + dimHigh s.c0 s.s0 + dimHigh rows s.s1 + 63)

/-- The extent lies in external memory. -/
def inExternal (e : Extent) : Bool := decide (0x800000000000 ≤ e.1) && decide (e.2 ≤ 0xFFFFFFFFFFFF)

/-- The memory side of a segment lies in external memory: the strided extent of MEM (R172). R172 does not say what the
memory side of a MEM_IDX segment is before its entries are read: the model takes the granule at the data base and the
extent of the segment's index entries (DESIGN CHOICE, log entry 68). -/
def memSideOk (s : SDesc) (dbase ibase i : Nat) : Bool :=
  if s.memKind = 1 then inExternal (memSideExtent s dbase i)
  else
    inExternal ((dbase : Int) + i * s.segStride, (dbase : Int) + i * s.segStride + 63)
    && inExternal ((entryAddr s ibase i 0 : Nat), (entryAddr s ibase i s.segG : Nat) - 1)

/-- The logical tile of a stream. -/
def streamTile (n : Nat) : Nat := n / 8

/-- A stream. -/
def streamOf (b : Blk) (n : Nat) : Stream := tabGet {} b.streams n

/-- Changes a stream. -/
def updStream (n : Nat) (f : Stream → Stream) (b : Blk) : Blk := { b with streams := tabUpd {} b.streams n f }

/-- The streams of a port that are not DISARMED. -/
def armedStreams (b : Blk) (p : Nat) : List Nat :=
  (b.streams.filter (fun e => e.2.port == p && e.2.state != .disarmed)).map (·.1)

/-- A stream that is not DISARMED produces into Shelf queue `k` (R179). -/
def producerOf (b : Blk) (k : Nat) : Option Nat :=
  (b.streams.find? (fun e => e.2.state != .disarmed && (sdescOf e.2.sd).shelfSink && (sdescOf e.2.sd).snkShelf == k)).map (·.1)

/-- A stream that is not DISARMED consumes from Shelf queue `k` (R179). -/
def consumerOf (b : Blk) (k : Nat) : Option Nat :=
  (b.streams.find? (fun e => e.2.state != .disarmed && (sdescOf e.2.sd).shelfSource && (sdescOf e.2.sd).srcShelf == k)).map (·.1)

/-- The RATE of the tenant's streams with a memory side that are not DISARMED (R186). -/
def ratesOf (b : Blk) (p : Nat) : Nat :=
  ((armedStreams b p).map (fun n => let s := sdescOf (streamOf b n).sd; if s.hasMem then s.rate else 0)).foldl (· + ·) 0

/-- The handle quota behind HANDLES (Table CMD-8). -/
def handleQuota (b : Blk) (p : Nat) : Nat := if p = 5 then 512 else (activeOf b p).handleCount.toNat

/-- R170 and the ranges and reserved fields of Table STM-1. STATUS outside external memory breaks its
range (DEDUCED, log entry 22). A Shelf-to-Shelf stream breaks R170, so no stream can close the cycle
of R180. -/
def sdescShape (s : SDesc) (handles : Nat) : Bool :=
  s.format == 0x0306 && s.byte47 == 0 && decide (s.flagCtl < 4)
  && endClass s.src != endClass s.snk
  && (!s.multicast || s.tileSink) && (!s.touch || (s.memSource && s.snk == 0 && handles == 1))
  && (if s.shelfSource then decide (s.srcShelf < 64) else s.srcShelf == 0)
  && (if s.shelfSink then decide (s.snkShelf < 64) else s.snkShelf == 0)
  && decide (1 ≤ s.rate) && decide (s.rate ≤ 8192)
  && decide (1 ≤ s.segG) && decide (s.segG ≤ 65536) && decide (1 ≤ s.segments) && decide (s.segments ≤ 0xFFFFFFFE)
  && (if s.memKind == 1 then decide (1 ≤ s.c0) && decide (s.c0 ≤ 4096) && s.segG % s.c0 == 0
      else s.c0 == 0 && s.s0 == 0 && s.s1 == 0)
  && (s.memKind == 2 || s.ibase == 0) && (s.hasMem || (s.dbase == 0 && s.segStride == 0))
  && (if s.hasTile then decide (1 ≤ s.twrap) && decide (s.twrap ≤ 16)
      else s.tbase == 0 && s.twrap == 0 && s.tsegStride == 0)
  && (s.multicast || s.mtset == 0) && inExternal ((s.status : Nat), (s.status : Nat) + 63)

/-- The tile set of a multicast: R76 with LOG_D zero, and it contains the stream's tile (R170). -/
def mtsetErrs (b : Blk) (p n : Nat) (s : SDesc) : List Code :=
  let t := tsetOf s.mtset
  if !s.multicast then []
  else
    need (t.logT != 7 && t.first % t.t == 0 && field s.mtset 11 5 == 0 && t.logD == 0
      && (tsetTiles t).contains (streamTile n)) .shape
    ++ need ((tsetTiles t).all (fun x => !tileAbsent b x)) .absentUnit
    ++ need ((tsetTiles t).all (fun x => tileAbsent b x || ownsTile b p x)) .notOwner

/-- The tile that TBASE names: the stream's tile, or FIRST of a multicast set (R77, R171). -/
def tileOfSide (n : Nat) (s : SDesc) : Nat := if s.multicast then (tsetOf s.mtset).first else streamTile n

/-- The tile areas: R25 on every area in the stream's tile (R172). -/
def areaErrs (b : Blk) (p n : Nat) (s : SDesc) : List Code :=
  if !s.hasTile then []
  else (List.range s.twrap).flatMap (fun i =>
    let e := areaExtent s i
    (if isRemote b e.1.toNat then otherDieErrs b e.1.toNat ++ need (e.1 / 0x400000 == e.2 / 0x400000) .indexRange
     else r25 b p onlyTile e)
      ++ (if regionOf e.1.toNat == some .tile then need (addrTile e.1.toNat == tileOfSide n s) .indexRange else []))
    ++ need (writePasses [(s.segG, 64), (s.twrap, s.tsegStride)]) .aliasWrite

/-- The checks of STREAM.ARM on its stream descriptor, but for the stream's own state (R172, R179, R186). -/
def armErrs (b : Blk) (p n handles : Nat) (v : BitVec 512) : List Code :=
  let s := sdescOf v
  let m64 := fun (x : Int) => x % 64 == 0
  need (m64 s.dbase && m64 s.ibase && m64 s.s0 && m64 s.s1 && m64 s.segStride && m64 s.tbase && m64 s.tsegStride
    && m64 s.status) .align
  ++ need (sdescShape s handles) .shape
  ++ need (p == 5 || !s.hasMem || decide (ratesOf b p + s.rate ≤ (activeOf b p).share.toNat)) .shape
  ++ mtsetErrs b p n s ++ areaErrs b p n s
  ++ (if s.hasMem then need (memSideOk s s.dbase s.ibase 0) .indexRange else [])
  ++ need (!(s.memSink && s.memKind == 1) || s.c0 == 0 || writePasses [(s.c0, s.s0), (s.segG / s.c0, s.s1)]) .aliasWrite
  ++ need (!s.shelfSource || decide (64 ≤ s.srcShelf) || ownsShelf b p s.srcShelf) .notOwner
  ++ need (!s.shelfSink || decide (64 ≤ s.snkShelf) || ownsShelf b p s.snkShelf) .notOwner
  ++ need (!(s.shelfSource && (consumerOf b s.srcShelf).isSome) && !(s.shelfSink && (producerOf b s.snkShelf).isSome)) .dupDest

/-- The stream descriptor at an address. -/
def readSdesc (b : Blk) (a : Nat) : BitVec 512 := BitVec.ofNat 512 (readLe b a 64)

/-- The arm's checks, when the descriptor's page answers: they rank with the decode stage (R169, R172). -/
def armPageErrs (b : Blk) (p n handles a : Nat) : List Code :=
  if xstat b a == .ok && !badHere b a then armErrs b p n handles (readSdesc b a) else []

/-- The cases in which STREAM.REARM completes SHAPE (R194, Table STM-6). -/
def rearmErrs (b : Blk) (n newBase newIndex : Nat) : List Code :=
  let x := streamOf b n
  let s := sdescOf x.sd
  let refused := match x.state with
    | .disarmed | .ending => true
    | .error => newBase != 0
    | _ => false
  need (!refused) .shape ++ need (newBase == 0 || s.persist) .shape
  ++ need (newIndex == 0 || s.memKind == 2) .shape

/-- HANDLE is FREE or LENT (R183). -/
def pushable (b : Blk) (h : Nat) : Bool :=
  match (tabGet {} b.handles h).cond with
  | .free => true
  | .lent _ => true
  | _ => false

/-- The checks of HANDLE.PUSH on the handle and the queue (R164, R183). -/
def pushErrs (b : Blk) (p h k : Nat) : List Code :=
  need (!decide (h < 512) || (handleAssigned b p h && pushable b h)) .notOwner
  ++ need (!((tabGet {} b.handles h).cond == .free && decide (h < 512) && (producerOf b k).isSome)) .shape

end Sys2Proof.Machine
end

