-- ==== Sys2Proof/Machine/Checks.lean ====
section
/-! DEFINITION. The decode-stage and fetch-check errors of each command and how one code is chosen
(R25 to R36, R74, R143 to R147, R164, R165, R269 to R273). -/
namespace Sys2Proof.Machine

/-- The decode stage of Table SMP-2. -/
def decodeOrder : List Code :=
  [.shape, .align, .indexRange, .absentUnit, .notOwner, .aliasWrite, .dupDest, .scheduleStale, .zeroised]

/-- The fetch-check stage of Table SMP-2; PARITY is a list read that failed every replay. -/
def fetchOrder : List Code :=
  [.shape, .scheduleStale, .indexRange, .absentUnit, .notOwner, .aliasWrite, .dupDest, .zeroised,
   .faultResumable, .parity]

/-- The error that stands first in a stage's order (R269). -/
def firstIn (order errs : List Code) : Option Code := order.find? (fun c => errs.contains c)

/-! ### OPX fields (Table CMD-7), bit 0 being bit 0 of byte 52 -/

/-- A field of OPX. -/
def ox (d : Desc) (lo n : Nat) : Nat := field d.opx lo n

/-- ELIST, K, INDEX, LIST, IMAGE or SDESC: bytes 52-57. -/
def oxBase (d : Desc) : Nat := ox d 0 48
/-- S: byte 58. -/
def oxS (d : Desc) : Nat := ox d 48 8
/-- SSTRIDE: bytes 60-63. -/
def oxSStride (d : Desc) : Int := sfield d.opx 64 32
/-- PCS: bytes 58-63. -/
def oxPcs (d : Desc) : Nat := ox d 48 48
/-- N of a block command: bytes 58-59. -/
def oxN (d : Desc) : Nat := ox d 48 16
/-- STAGE: bytes 60-61. -/
def oxStage (d : Desc) : Nat := ox d 64 9
/-- MODE of SCATTER.BLK: byte 62. -/
def oxMode (d : Desc) : Nat := ox d 80 8

/-- LAYOUT's MODE, L, ALPHA, LOG_DL, SP and DP. -/
def layoutParams (d : Desc) : Nat × Nat × Nat × Nat × Nat × Nat :=
  (ox d 0 4, ox d 8 8, ox d 16 8, ox d 24 8, ox d 32 8, ox d 40 8)

/-- Members of a PERM.GEN or ROTACC. -/
def membersOf (d : Desc) : Nat := oxS d

/-- MOVE in grid mode. -/
def isGrid (d : Desc) : Bool := flagOpf0 d

/-- SCATTER.BLK in ACCUMULATE mode. -/
def isAccumulate (op : Op) (d : Desc) : Bool := op == .scatter && oxMode d == 2

/-- The command does modular arithmetic (Table PRM-1). -/
def isModular (op : Op) (d : Desc) : Bool :=
  match op with
  | .permGen => (planeOf d.w8).dom == 0
  | .rotacc => true
  | .permIdx => flagOpf0 d
  | .scatter => oxMode d == 2
  | _ => false

/-- The planes whose limb words consult the moduli table. -/
def modPlanes (op : Op) (d : Desc) : Nat := if op == .scatter then 1 else (planeOf d.w8).p

/-- The table check of R19. -/
def tableErrs (b : Blk) (p : Nat) (op : Op) (d : Desc) : List Code :=
  need (!isModular op d || tableOk b p (planeOf d.w8).b (modPlanes op d) (planeOf d.w8).a) .indexRange

/-- The source and destination of a command in granule form. -/
def srcGran (op : Op) (d : Desc) : Gran :=
  granOf d.opa (match op with
    | .layout => (layoutParams d).2.2.2.2.1
    | .loadRows | .storeRows => 1
    | _ => (planeOf d.w8).p)

/-- The destination in granule form. -/
def dstGran (op : Op) (d : Desc) : Gran :=
  granOf d.opb (match op with
    | .layout => (layoutParams d).2.2.2.2.2
    | .loadRows | .storeRows | .accDrain => 1
    | _ => (planeOf d.w8).p)

/-- Bytes of an index stream: one entry per source position (Table PRM-7). -/
def indexBytes (d : Desc) : Nat := 4 * (planeOf d.w8).n

/-- Checks of a command that maps a domain over a tile set, parameters aside (R39, R40, R76 to R80). -/
def domainCmdErrs (b : Blk) (p : Nat) (op : Op) (d : Desc) : List Code :=
  let m := shareOf d
  planeErrs (planeOf d.w8) ++ domainErrs d ++ tsetErrs b p d
  ++ tsetGranErrs b p d m false (srcGran op d) ++ tsetGranErrs b p d m true (dstGran op d)

/-- The destination of member `i` of a series (R51). -/
def memberDst (d : Desc) (i : Nat) : Gran :=
  let g := dstGran .permGen d
  { g with base := ((g.base : Int) + (i : Int) * oxSStride d).toNat }

/-- The extent of each member's destination (R40, R51). -/
def memberExtents (d : Desc) : List Extent :=
  let e := (dstGran .permGen d).extent
  if oxS d ≤ 1 then [e]
  else (List.range (oxS d)).map (fun (i : Nat) => (e.1 + (i : Int) * oxSStride d, e.2 + (i : Int) * oxSStride d))

/-- Some destination extent meets some read extent (R40). -/
def anyMeet (xs ys : List Extent) : Bool := xs.any (fun x => ys.any (meets x))

/-- Parameters of PERM.GEN (Table PRM-2, R46, R51). -/
def permGenErrs (b : Blk) (p : Nat) (d : Desc) : List Code :=
  let w := planeOf d.w8
  let s := oxS d
  let dst := dstGran .permGen d
  need (decide (10 ≤ w.logn) && decide (w.logn ≤ 17) && decide (w.dom ≤ 1) && decide (1 ≤ s) && decide (s ≤ 64)
    && (s != 1 || (ox d 18 30 == 0 && oxSStride d == 0))) .shape
  ++ need (s != 1 || (ox d 0 18 % 2 == 1 && decide (ox d 0 18 < 2 ^ (w.logn + 1)))) .indexRange
  ++ domainCmdErrs b p .permGen d
  ++ (if s ≤ 1 then [] else
      listErrs b p (setListTiles d) (oxBase d) (4 * s) ++ need (oxSStride d % 64 == 0) .align
      ++ need (decide ((dst.extent).2 + 1 - (dst.extent).1 ≤ ((oxSStride d).natAbs : Int))) .aliasWrite
      ++ (if regionOf dst.base == some .tile
          then need ((memberExtents d).all (fun x => x.1 / 0x400000 == (dst.base / 0x400000 : Nat)
            && x.2 / 0x400000 == (dst.base / 0x400000 : Nat))) .indexRange
          else [])
      ++ need (!anyMeet (memberExtents d) [listExtent (oxBase d) (4 * s)]) .aliasWrite)
  ++ need (!anyMeet (memberExtents d) [(srcGran .permGen d).extent]) .aliasWrite

/-- Parameters of PERM.IDX (R42, R60, Table CMD-7). -/
def permIdxErrs (b : Blk) (p : Nat) (d : Desc) : List Code :=
  let w := planeOf d.w8
  let dst := (dstGran .permIdx d).extent
  need (decide (w.logn ≤ 23)) .shape ++ domainCmdErrs b p .permIdx d
  ++ listErrs b p (setListTiles d) (oxBase d) (indexBytes d) ++ listErrs b p (setListTiles d) (oxPcs d) 64
  ++ need (!meets dst (srcGran .permIdx d).extent && !meets dst (listExtent (oxBase d) (indexBytes d))
      && !meets dst (listExtent (oxPcs d) 64)) .aliasWrite

/-- Parameters of TRANSPOSE (R53, Table CMD-7). -/
def transposeErrs (b : Blk) (p : Nat) (d : Desc) : List Code :=
  let w := planeOf d.w8
  need (decide (w.logn ≤ 20) && decide (ox d 0 8 ≤ w.logn)) .shape ++ domainCmdErrs b p .transpose d
  ++ need (!meets (dstGran .transpose d).extent (srcGran .transpose d).extent) .aliasWrite

/-- Parameters of BITREV (R54, Table CMD-7). -/
def bitrevErrs (b : Blk) (p : Nat) (d : Desc) : List Code :=
  let w := planeOf d.w8
  need (decide (1 ≤ w.logn) && decide (w.logn ≤ 23) && decide (1 ≤ ox d 0 8) && decide (ox d 0 8 ≤ w.logn)) .shape
  ++ domainCmdErrs b p .bitrev d
  ++ need (!meets (dstGran .bitrev d).extent (srcGran .bitrev d).extent) .aliasWrite

/-- Parameters of LAYOUT (R55, R80). -/
def layoutErrs (b : Blk) (p : Nat) (d : Desc) : List Code :=
  let (mode, l, alpha, logd, sp, dp) := layoutParams d
  let digit := mode == 2 || mode == 3
  let dd := 2 ^ logd
  need (decide (mode ≤ 3) && decide (1 ≤ l) && decide (l ≤ 64) && decide (3 ≤ logd) && decide (logd ≤ 14)
    && (if digit then decide (1 ≤ alpha) && decide (alpha ≤ 8) else alpha == 0)
    && decide (1 ≤ sp) && decide (sp ≤ 64) && decide (1 ≤ dp) && decide (dp ≤ 64)) .shape
  ++ (match layoutPlanes mode l alpha dd with
    | some ((ps, gs), (pd, gd)) =>
      need (sp == ps && dp == pd && decide (sp * gs ≤ 16384) && decide (dp * gd ≤ 16384)) .shape
      ++ tsetGranErrs b p d gs false (srcGran .layout d) ++ tsetGranErrs b p d gd true (dstGran .layout d)
    | none => [.shape])
  ++ tsetErrs b p d
  ++ need (!meets (dstGran .layout d).extent (srcGran .layout d).extent) .aliasWrite

/-- Parameters of ROTACC (R67, R68, Table CMD-7). OPB is a layout in ACC, not an operand in tile
stores, and R40 does not apply. -/
def rotaccErrs (b : Blk) (p : Nat) (d : Desc) : List Code :=
  let w := planeOf d.w8
  let m := shareOf d
  let g := dstGran .rotacc d
  let e := g.extent
  need (hasAcc b) .absentUnit
  ++ need (decide (10 ≤ w.logn) && decide (w.logn ≤ 17) && decide (w.dom ≤ 1) && decide (1 ≤ oxS d)
    && decide (oxS d ≤ 64) && decide (w.p * m ≤ 4096)) .shape
  ++ planeErrs w ++ domainErrs d ++ tsetErrs b p d
  ++ tsetGranErrs b p d m false (srcGran .rotacc d)
  ++ need (g.countsOk && g.count == m) .shape ++ need g.aligned .align
  ++ (if regionOf g.base == some .tile then
        (otherDieErrs b g.base
         ++ need (addrTile g.base == (tsetOf d.tset).first && addrReg g.base == 0
          && e.1 / 0x40000 == (g.base / 0x40000 : Nat) && e.2 / 0x40000 == (g.base / 0x40000 : Nat)) .indexRange)
      else r25 b p onlyTile e)
  ++ need g.writeOk .aliasWrite
  ++ listErrs b p (setListTiles d) (oxBase d) (4 * oxS d)

/-- Parameters of ACC.DRAIN (R70, Table CMD-8). -/
def accDrainErrs (b : Blk) (p : Nat) (d : Desc) : List Code :=
  let n := ox d 0 16
  need (hasAcc b) .absentUnit ++ need (decide (1 ≤ n) && decide (n ≤ 4096)) .shape ++ tsetErrs b p d
  ++ tsetGranErrs b p d n true (dstGran .accDrain d)

/-- Parameters of ACC.CLEAR. -/
def accClearErrs (b : Blk) (p : Nat) (d : Desc) : List Code := need (hasAcc b) .absentUnit ++ tsetErrs b p d

/-- N, LIST and STAGE of a block command (R27, R33, R164, R258). -/
def blockCmdErrs (b : Blk) (p : Nat) (d : Desc) : List Code :=
  need (decide (1 ≤ oxN d) && decide (oxN d ≤ 16384)) .shape
  ++ listErrs b p noTile (oxBase d) (16 * oxN d)
  ++ need (holdsHandle b p (oxStage d) && (!flagTwin d || holdsHandle b p (Nat.xor (oxStage d) 1))) .notOwner

/-- A twin command's tile-store address names an even tile (R258). -/
def twinEven (b : Blk) (p : Nat) (d : Desc) (a : Nat) : List Code :=
  if flagTwin d && regionOf a == some .tile then
    need (addrTile a % 2 == 0) .indexRange ++ need (ownsTile b p (addrTile a + 1)) .notOwner
  else []

/-- A grid of a twin command names an even tile: the base of a dense array, of which R368 checks no more at decode, or an
owner table (R258). -/
def twinGrid (b : Blk) (p : Nat) (d : Desc) (g : GridOp) : List Code :=
  if g.owned then twinEven b p d g.base
  else need (!(flagTwin d && regionOf g.base == some .tile && addrTile g.base % 2 == 1)) .indexRange

/-- Parameters of GATHER.BLK (R63). -/
def gatherErrs (b : Blk) (p : Nat) (d : Desc) : List Code :=
  let g := gridOf d.opa
  let r := runOf d.opb
  blockCmdErrs b p d ++ gridErrs b p g ++ runErrs b p (oxN d) true r ++ twinGrid b p d g ++ twinEven b p d r.base
  ++ need (!meets (r.extent (oxN d)) (listExtent (oxBase d) (16 * oxN d))
    && (!g.owned || !meets (r.extent (oxN d)) (listExtent g.base g.tableBytes))) .aliasWrite

/-- Parameters of SCATTER.BLK (R65, Table CMD-6). -/
def scatterErrs (b : Blk) (p : Nat) (d : Desc) : List Code :=
  let w := planeOf d.w8
  need (decide (oxMode d ≤ 2) && w.p == 1 && (oxMode d != 2 || (decide (1 ≤ w.a) && decide (w.a ≤ 8)))) .shape
  ++ blockCmdErrs b p d ++ gridErrs b p (gridOf d.opb) ++ runErrs b p (oxN d) false (runOf d.opa)
  ++ twinEven b p d (runOf d.opa).base ++ twinGrid b p d (gridOf d.opb)

/-- Parameters of MOVE in plain mode (R72). -/
def movePlainErrs (b : Blk) (p : Nat) (d : Desc) : List Code :=
  let s := srcGran .move d
  let t := dstGran .move d
  let form := fun g : Gran => regionOf g.base != some .tile || g.formOk
  need (decide (1 ≤ s.planes) && decide (s.planes ≤ 8) && s.countsOk && t.countsOk && s.count == t.count
    && form s && form t) .shape
  ++ need (s.aligned && t.aligned) .align
  ++ r25 b p tileOrPantry s.extent ++ r25 b p tileOrPantry t.extent
  ++ twinEven b p d s.base ++ twinEven b p d t.base
  ++ need t.writeOk .aliasWrite ++ need (!meets t.extent s.extent) .aliasWrite

/-- Parameters of MOVE in grid mode (R73, Table CMD-6). -/
def moveGridErrs (b : Blk) (p : Nat) (d : Desc) : List Code :=
  let s := gridOf d.opa
  let t := gridOf d.opb
  need (s.e0 == t.e0 && s.e1 == t.e1 && s.e2 == t.e2) .shape
  ++ blockCmdErrs b p d ++ gridErrs b p s ++ gridErrs b p t ++ twinGrid b p d s ++ twinGrid b p d t

/-- Parameters of LOAD.ROWS and STORE.ROWS (R109). -/
def rowErrs (b : Blk) (p : Nat) (load : Bool) (d : Desc) : List Code :=
  let mem := if load then granOf d.opa 1 else granOf d.opb 1
  let reg := if load then granOf d.opb 1 else granOf d.opa 1
  let dst := if load then reg else mem
  need (mem.countsOk && reg.countsOk && mem.c0 == reg.c0 && mem.c1 == reg.c1 && decide (reg.c1 ≤ 64)
    && reg.s0 == 64 && (regionOf reg.base != some .tile || reg.contained 0)) .shape
  ++ need (mem.aligned && reg.aligned) .align
  ++ r25 b p extOrPantry mem.extent
  ++ (if isRemote b reg.base then otherDieErrs b reg.base
        ++ need (reg.extent.1 / 0x400000 == reg.extent.2 / 0x400000) .indexRange
      else r25 b p onlyTile reg.extent)
  ++ need dst.writeOk .aliasWrite ++ need (!meets mem.extent reg.extent) .aliasWrite

/-- Parameters of NOP, with its release tile set (R106, R142). -/
def nopErrs (b : Blk) (p : Nat) (d : Desc) : List Code :=
  if field d.opx 0 16 = 0 then [] else tsetErrs b p d

/-- Parameters of FLAG.SET (R154, R155). -/
def flagSetErrs (b : Blk) (p : Nat) (d : Desc) : List Code :=
  need (p != 5) .shape ++ (if d.tset = 0 then [] else
    let s := tsetOf d.tset
    need (s.logD == 0 || (hasLinks b && s.logD == b.gal.logD)) .absentUnit
    ++ need (s.logD == 0 || galleryActive b p) .notOwner)

/-- Stream, handle and Shelf numbers in range (R145, R164). -/
def streamNumErrs (b : Blk) (p n : Nat) : List Code :=
  need (decide (n < 512)) .indexRange
  ++ need (decide (512 ≤ n) || !tileAbsent b (n / 8)) .absentUnit
  ++ need (decide (512 ≤ n) || tileAbsent b (n / 8) || ownsTile b p (n / 8)) .notOwner

/-- Shelf queue numbers (R164). -/
def shelfNumErrs (b : Blk) (p k : Nat) : List Code :=
  need (decide (k < 64)) .indexRange ++ need (decide (64 ≤ k) || ownsShelf b p k) .notOwner

/-- What the present state of a stream or queue calls for is judged only of a resource that exists and that the tenant
holds: the numbers' own codes come first (R164). -/
def onceNumbered (numbers rest : List Code) : List Code := if numbers.isEmpty then rest else numbers

/-- The tiles of this die that an address reaches: its own, and with TWIN the twin's (R258). -/
def reachedTiles (b : Blk) (d : Desc) (a : Nat) : List Nat :=
  if regionOf a == some .tile && addrDie a == dieOf b then
    (if flagTwin d then [addrTile a, addrTile a + 1] else [addrTile a])
  else []

/-- The tiles a descriptor names: its tile set and its tile-store operands (R258, R273). -/
def namedTiles (b : Blk) (op : Op) (d : Desc) : List Nat :=
  let opTile := reachedTiles b d
  (if hasTset op d then tsetTiles (tsetOf d.tset) else [])
  ++ (match op with
    | .move => if isGrid d then opTile (gridOf d.opa).base ++ opTile (gridOf d.opb).base
      else opTile (srcGran op d).base ++ opTile (dstGran op d).base
    | .loadRows => opTile (granOf d.opb 1).base
    | .storeRows => opTile (granOf d.opa 1).base
    | .gather => opTile (gridOf d.opa).base ++ opTile (runOf d.opb).base
    | .scatter => opTile (runOf d.opa).base ++ opTile (gridOf d.opb).base
    | _ => [])

/-- The schedule epoch a command is judged with: a NOP with SET_EPOCH loads its own first (R162). -/
def epochFor (b : Blk) (p q : Nat) (op : Op) (d : Desc) : BitVec 32 :=
  if op == .nop && flagOpf0 d then d.w8 else (queueOf b p q).schedEpoch

/-- The parameter checks of each opcode. -/
def paramErrs (b : Blk) (p : Nat) (op : Op) (d : Desc) : List Code :=
  match op with
  | .nop => nopErrs b p d
  | .fence => []
  | .flagSet => flagSetErrs b p d
  | .flagWait => need (p != 5) .shape
  | .resume => []
  | .debugBreak => need (decide (ox d 8 8 ≤ 2)) .shape
  | .modtabLoad => externalListErrs b p (oxBase d) 1024
  | .permGen => permGenErrs b p d
  | .permIdx => permIdxErrs b p d
  | .transpose => transposeErrs b p d
  | .bitrev => bitrevErrs b p d
  | .layout => layoutErrs b p d
  | .rotacc => rotaccErrs b p d
  | .accDrain => accDrainErrs b p d
  | .accClear => accClearErrs b p d
  | .gather => gatherErrs b p d
  | .scatter => scatterErrs b p d
  | .move => if isGrid d then moveGridErrs b p d else movePlainErrs b p d
  | .loadRows => rowErrs b p true d
  | .storeRows => rowErrs b p false d
  | .streamArm => streamNumErrs b p (ox d 48 16) ++ listErrs b p noTile (oxBase d) 64
      ++ need (decide (1 ≤ ox d 64 16) && decide (ox d 64 16 ≤ min 512 (handleQuota b p))) .shape
      ++ (if (listErrs b p noTile (oxBase d) 64).isEmpty && decide (ox d 48 16 < 512)
          then armPageErrs b p (ox d 48 16) (ox d 64 16) (oxBase d) else [])
      ++ onceNumbered (streamNumErrs b p (ox d 48 16)) (need ((streamOf b (ox d 48 16)).state == .disarmed) .shape)
  | .streamRearm => need (field d.opa 0 48 % 64 == 0 && field d.opb 0 48 % 64 == 0) .align
      ++ onceNumbered (streamNumErrs b p (ox d 0 16)) (rearmErrs b (ox d 0 16) (field d.opa 0 48) (field d.opb 0 48))
  | .handlePush =>
      let numbers := need (decide (ox d 0 16 < 512)) .indexRange ++ shelfNumErrs b p (ox d 16 8)
      onceNumbered numbers (pushErrs b p (ox d 0 16) (ox d 16 8))
  | .handlePop => onceNumbered (shelfNumErrs b p (ox d 16 8)) (need (consumerOf b (ox d 16 8)).isNone .shape)

/-- Every decode-stage error of a command but the table check of R19 (R145, R162, R269, R273). -/
def decodeErrs (b : Blk) (p q : Nat) (op : Op) (d : Desc) : List Code :=
  formErrs op d ++ paramErrs b p op d
  ++ need (!(flagTwin d && !hasTwin b)) .absentUnit
  ++ need (!(flagEpoch d && op != .resume && epochFor b p q op d != b.vlt.epoch)) .scheduleStale
  ++ need (!(noticeOn b p (namedTiles b op d))) .zeroised

/-! ### The fetch check -/

/-- What a list read brought: the entries before the first page that did not answer, that page's
answer and its address (R26, R270). -/
structure Fetched where
  entries : List Nat
  stop : Option (RspStatus × Nat)
  deriving DecidableEq, Repr

/-- What a read of stored bytes meets: the answer of translation and memory, or ERROR where the stored granule has bad
parity, for such a read fails every replay (R26, R248). -/
def listStat (b : Blk) (a : Nat) : RspStatus :=
  match xstat b a with
  | .ok => if badHere b (a / 64 * 64) then .error else .ok
  | x => x

/-- Reads entries in list order (R270), from entry `i`. -/
def fetchFrom (b : Blk) (base size : Nat) : Nat → Nat → Fetched
  | _, 0 => ⟨[], none⟩
  | i, n + 1 =>
    let a := base + i * size
    match listStat b a with
    | .ok =>
      let r := fetchFrom b base size (i + 1) n
      ⟨readLe b a size :: r.entries, r.stop⟩
    | x => ⟨[], some (x, a)⟩

/-- The entries of a list of `n`, those read before a halt kept as they were read (R270). -/
def fetchList (b : Blk) (base size n : Nat) (prior : List Nat) : Fetched :=
  let r := fetchFrom b base size prior.length (n - prior.length)
  { r with entries := prior ++ r.entries }

/-- The code a list page that did not answer ends the check with (R26, R137, R270). -/
def stopErrs : Option (RspStatus × Nat) → List Code
  | some (.notPresent, _) => [.faultResumable]
  | some (.denied, _) => [.notOwner]
  | some (.error, _) => [.parity]
  | _ => []

/-- What the fetch check leaves: the errors, the entries, the resolved blocks, and the address a
not-present page was met at. -/
structure FetchOut where
  errs : List Code := []
  entries : List Nat := []
  blocks : List (Option (Nat × Nat)) := []
  fault : Option Nat := none
  /-- the phase-control stream header, once read -/
  header : Option (BitVec 512) := none
  deriving DecidableEq, Repr

/-- An element-list entry is well formed (R52, R67). -/
def elemOk (rot : Bool) (logn e : Nat) : Bool :=
  e % 2 == 1 && decide (e % 2 ^ 18 < 2 ^ (logn + 1)) && e / 2 ^ 18 % 2 ^ 13 == 0 && (rot || !natBit e 31)

/-- The fetch check of an element list (R46, R52, R67). -/
def fetchElems (b : Blk) (rot : Bool) (d : Desc) (prior : List Nat) : FetchOut :=
  let f := fetchList b (oxBase d) 4 (oxS d) prior
  { errs := need (f.entries.all (elemOk rot (planeOf d.w8).logn)) .indexRange ++ stopErrs f.stop
    entries := f.entries, fault := f.stop.map (·.2) }

/-- An index-stream entry is well formed (R61). -/
def indexOk (d : Desc) (e : Nat) : Bool :=
  decide (e % 2 ^ 23 < 2 ^ (planeOf d.w8).logn) && e / 2 ^ 23 % 2 ^ 8 == 0 && (flagOpf0 d || !natBit e 31)

/-- Destinations of an index stream over the whole domain: b·n_sub + DEST (R60, Table TLY-3). -/
def indexDests (logn : Nat) (entries : List Nat) : List Nat :=
  entries.zipIdx.map (fun x => x.2 / 2 ^ logn * 2 ^ logn + x.1 % 2 ^ 23)

/-- The extent of a phase-control stream: its header and a section for each place of every die (R88). -/
def streamExtent (d : Desc) (h : PcsHeader) : Extent :=
  listExtent (oxPcs d) (64 + placesPerDie d * 2 ^ (tsetOf d.tset).logD * h.section_)

/-- A stored phase-control stream header. -/
def headerOf (v : BitVec 512) : PcsHeader := pcsHeader (leBytes 64 v.toNat)

/-- The checks of a phase-control stream header, when it is read (R25, R40, R90). -/
def headerErrs (b : Blk) (p : Nat) (d : Desc) (h : PcsHeader) : List Code :=
  let s := tsetOf d.tset
  let ok := pcsHeaderOk h (if flagTwin d then s.logT - 1 else s.logT) s.logD (shareOf d)
  need ok .shape ++ (if ok then listRegionErrs b p (setListTiles d) (streamExtent d h) else [])
  ++ need (!ok || !meets (dstGran .permIdx d).extent (streamExtent d h)) .aliasWrite
  ++ need (!flagEpoch d || h.epoch == b.vlt.epoch.toNat) .scheduleStale

/-- The fetch check of PERM.IDX: the stream header first, then the index stream (R61, R90). A header already read is not
read or judged again (R163, R271). -/
def fetchIndex (b : Blk) (p : Nat) (d : Desc) (prior : List Nat) (header : Option (BitVec 512)) : FetchOut :=
  let index := fun (errs : List Code) (v : BitVec 512) =>
    let f := fetchList b (oxBase d) 4 (planeOf d.w8).n prior
    ({ errs := errs ++ need (f.entries.all (indexOk d)) .indexRange
        ++ need (!hasDup (indexDests (planeOf d.w8).logn f.entries)) .dupDest ++ stopErrs f.stop
       entries := f.entries, fault := f.stop.map (·.2), header := some v } : FetchOut)
  match header with
  | some v => index [] v
  | none =>
    match listStat b (oxPcs d) with
    | .ok =>
      let v : BitVec 512 := BitVec.ofNat 512 (readLe b (oxPcs d) 64)
      index (headerErrs b p d (headerOf v)) v
    | x => { errs := stopErrs (some (x, oxPcs d)), fault := some (oxPcs d) }

/-- A coordinate field: I32 (Table GRN-6). -/
def coord (e i : Nat) : Int := sfield (BitVec.ofNat 128 e) (32 * i) 32

/-- SKIP of a coordinate-list entry. -/
def entrySkip (e : Nat) : Bool := natBit e 96

/-- An entry without SKIP lies within the grid (R33). -/
def coordOk (g : GridOp) (e : Nat) : Bool :=
  entrySkip e ||
  (decide (0 ≤ coord e 0) && decide (coord e 0 < g.e0) && decide (0 ≤ coord e 1) && decide (coord e 1 < g.e1)
    && decide (0 ≤ coord e 2) && decide (coord e 2 < g.e2) && e / 2 ^ 97 == 0)

/-- The block an entry names under a resolution: its address, the errors it meets, and the page that
did not answer (R32, R34, R35, R368). -/
def resolve (b : Blk) (p : Nat) (twin : Bool) (g : GridOp) (e : Nat) : Option Nat × List Code × Option (RspStatus × Nat) :=
  let blk := g.block (coord e 0).toNat (coord e 1).toNat (coord e 2).toNat
  let twinErrs := fun a : Nat => if twin && regionOf a == some .tile
    then need (addrTile a % 2 == 0) .indexRange ++ need (ownsTile b p (addrTile a + 1)) .notOwner else []
  if g.owned then
    let at_ := g.base + 8 * blk
    match listStat b at_ with
    | .ok =>
      let t := readLe b at_ 8
      let a := t % 2 ^ 23 * 4096
      if t / 2 ^ 63 = 0 ∨ t / 2 ^ 23 % 2 ^ 40 ≠ 0 ∨ t / 2 ^ 16 % 16 ≠ 0 then (none, [.indexRange], none)
      else (some a, r25 b p onlyTile ((a : Int), (a : Int) + 4095) ++ twinErrs a, none)
    | x => (none, stopErrs (some (x, at_)), some (x, at_))
  else
    let a := g.base + blk * 4096
    (some a, r25 b p anyRegion ((a : Int), (a : Int) + 4095) ++ twinErrs a, none)

/-- A block's extent. -/
def blockExtent (a : Nat) : Extent := ((a : Int), (a : Int) + 4095)

/-- The resolutions made before an owner-table page did not answer, and the one that met it (R270). -/
def upToStop {α : Type} (stopped : α → Bool) : List α → List α
  | [] => []
  | x :: t => if stopped x then [x] else x :: upToStop stopped t

/-- The fetch check of a block command (R33, R35, R40, R66, R73, R270, R368). -/
def fetchBlocks (b : Blk) (p : Nat) (op : Op) (d : Desc) (prior : List Nat) : FetchOut :=
  let n := oxN d
  let f := fetchList b (oxBase d) 16 n prior
  let twin := flagTwin d
  let gs : List GridOp := match op with
    | .gather => [gridOf d.opa]
    | .scatter => [gridOf d.opb]
    | _ => [gridOf d.opa, gridOf d.opb]
  let rangeErrs := need (f.entries.all (fun e => gs.all (fun g => coordOk g e))) .indexRange
  let live := f.entries.map (fun e => if entrySkip e || !gs.all (fun g => coordOk g e) then none else some e)
  let res := upToStop (fun x => x.2.2.isSome) (live.zipIdx.map (fun x => match x.1 with
    | none => ((none : Option (Nat × Nat)), ([] : List Code), (none : Option (RspStatus × Nat)))
    | some e =>
      match op with
      | .gather =>
        let r := resolve b p twin (gridOf d.opa) e
        (r.1.map (fun a => (a, (runOf d.opb).addr x.2)), r.2.1, r.2.2)
      | .scatter =>
        let r := resolve b p twin (gridOf d.opb) e
        (r.1.map (fun a => ((runOf d.opa).addr x.2, a)), r.2.1, r.2.2)
      | _ =>
        let r := resolve b p twin (gridOf d.opa) e
        let t := resolve b p twin (gridOf d.opb) e
        (match r.1, t.1 with
          | some a, some a' => some (a, a')
          | _, _ => none,
         r.2.1 ++ t.2.1, match r.2.2 with | some x => some x | none => t.2.2)))
  let blocks := res.map (·.1)
  let pairs := blocks.filterMap id
  let lists := listExtent (oxBase d) (16 * n) :: gs.filterMap (fun g => if g.owned then some (listExtent g.base g.tableBytes) else none)
  let dsts := match op with
    | .gather => [(runOf d.opb).extent n]
    | _ => pairs.map (fun x => blockExtent x.2)
  let srcs := match op with
    | .scatter => [(runOf d.opa).extent n]
    | _ => pairs.map (fun x => blockExtent x.1)
  let exclusive := (op == .scatter && oxMode d == 0) || op == .move
  let tiles := pairs.flatMap (fun x => [x.1, x.2].flatMap (reachedTiles b d))
  let stop := match (res.filterMap (·.2.2)).head? with
    | some x => some x
    | none => f.stop
  { errs := rangeErrs ++ res.flatMap (·.2.1) ++ need (!anyMeet dsts (srcs ++ lists)) .aliasWrite
      ++ need (!exclusive || !hasDup (pairs.map (·.2))) .dupDest
      ++ need (!noticeOn b p tiles) .zeroised ++ stopErrs f.stop
    entries := f.entries, blocks := blocks, fault := stop.map (·.2) }

/-- The fetch check of a command: what its lists bring (R167, R269, R270). -/
def fetchCheck (b : Blk) (p : Nat) (op : Op) (d : Desc) (prior : List Nat) (header : Option (BitVec 512)) : FetchOut :=
  match op with
  | .permGen => if oxS d ≤ 1 then {} else fetchElems b false d prior
  | .rotacc => fetchElems b true d prior
  | .permIdx => fetchIndex b p d prior header
  | .gather | .scatter => fetchBlocks b p op d prior
  | .move => if isGrid d then fetchBlocks b p op d prior else {}
  | _ => {}

/-- The tiles that resolved blocks lie in, whose notices ZEROISED consumes (R273). -/
def resolvedTiles (b : Blk) (d : Desc) (f : FetchOut) : List Nat :=
  (f.blocks.filterMap id).flatMap (fun x => [x.1, x.2].flatMap (reachedTiles b d))

end Sys2Proof.Machine
end

