-- ==== Sys2Proof/Machine/Faults.lean ====
section
/-! DEFINITION. Parity errors of stored bytes: where they lie, the tile they are attributed to, and their records (R248,
R262, Table SMP-4). -/
namespace Sys2Proof.Machine

/-- The array kinds of Table SMP-4. -/
def arrayNo : ArrayKind → Nat
  | .register => 1 | .acc => 2 | .bank => 3 | .latch => 4 | .fabric => 5 | .matrix => 6 | .cellar => 7
  | .pantry => 8 | .moduli => 9 | .restart => 10 | .linkBuffer => 11 | .poisonFlit => 12 | .engine => 13

/-- The fragment-view address of byte `off` of frame `x` of physical tile `p` (R123). -/
def fragAddr (p x off : Nat) : Nat :=
  let row := off / 0x1000
  0x4080000000 + p * 0x800000 + x * 0x40000 + row % 4 * 0x10000 + row / 4 * 0x1000 + off % 0x1000

/-- A key of the tile stores. -/
def isFrameKey (k : Nat) : Bool := decide (0x4080000000 ≤ k) && decide (k < 0x40A2000000)

/-- The physical tile a key of the tile stores lies in. -/
def keyTile (k : Nat) : Nat := (k - 0x4080000000) / 0x800000

/-- The array kind, the place and the lane that a stored error at a key is recorded with (Table SMP-4). -/
def storedPlace (k : Nat) : Nat × Nat × Nat :=
  if isFrameKey k then
    let x := (k - 0x4080000000) / 0x40000 % 32
    let off := k % 0x40000
    (if x < 16 then 1 else if x = 24 then 2 else 3, fragAddr (keyTile k) x off, off / 0x1000 % 4)
  else (if regionOf k == some .pantry then 8 else 7, k % 2 ^ 48, 0)

/-- One second in Lantern ticks of 40 ns. -/
def oneSecond : Nat := 25000000

/-- Adds an event to a list of times, keeping those of the last second. -/
def recordTime (now : Nat) (l : List Nat) : List Nat := (now :: l).filter (fun t => decide (now - t < oneSecond))

/-- A tile is due for retirement (R262). -/
def markDue (p : Nat) (b : Blk) : Blk :=
  if b.vlt.due.contains p then b else { b with vlt := { b.vlt with due := b.vlt.due ++ [p] } }

/-- Attributes a fault to a physical tile: RETIRE_LIMIT of them within one second call for retirement (R262). -/
def attributeFault (p : Nat) (b : Blk) : Blk :=
  let l := recordTime b.clk.tick (tabGet [] b.vlt.faults p)
  let b := { b with vlt := { b.vlt with faults := tabPut [] b.vlt.faults p l } }
  if b.dict.retireLimit.toNat ≤ l.length then markDue p b else b

/-- Attributes faults of several attempts; an error that recurs at one place through every replay, at least
two attempts, calls for retirement (R262). -/
def attributeAttempts (p attempts : Nat) (b : Blk) : Blk :=
  let b := (List.range attempts).foldl (fun b _ => attributeFault p b) b
  if 2 ≤ attempts then markDue p b else b

/-- Counts replays (Table DIC-11). -/
def countReplays (n : Nat) (b : Blk) : Blk := if n = 0 then b else countAdd (cntKey 0x6020 1 0) n b

/-- A PARITY record (Table SMP-4): array kind, lane and unit index. -/
def parityRecord (c : Option Cmd) (kind where_ lane unit : Nat) (b : Blk) : Blk :=
  let detail := kind + lane % 8 * 2 ^ 8 + unit % 2 ^ 14 * 2 ^ 11
  match c with
  | some c => sumpPut 0x10 (some .parity) c.port c.queue c.desc.tag.toNat where_ detail b
  | none => sumpPut 0x10 (some .parity) 6 0 0 where_ (kind + lane % 8 * 2 ^ 8 + (2 ^ 14 - 1) * 2 ^ 11) b

/-- Counts the replays of an access that failed every one (R248). -/
def allReplays (b : Blk) : Blk := countAdd (cntKey 0x6020 1 0) b.dict.replayLimit.toNat b

/-- A stored byte that a list, a table or a descriptor read met failed every replay: the replays, the tile it is
attributed to, and the record. An ERROR answer of a memory port counts as a parity failure of every beat (R248, R262,
R349). -/
def readParity (c : Cmd) (a unit : Nat) (b : Blk) : Blk :=
  match memKey b a with
  | some k =>
    if xstat b a = .ok ∧ badAt b k = true then
      let s := storedPlace k
      let b := if isFrameKey k then attributeAttempts (keyTile k) (b.dict.replayLimit.toNat + 1) b else b
      parityRecord (some c) s.1 s.2.1 s.2.2 unit (allReplays b)
    else parityRecord (some c) 7 a 0 unit (allReplays b)
  | none => parityRecord (some c) 7 a 0 unit (allReplays b)

end Sys2Proof.Machine
end

