-- ==== Sys2Proof/Machine/Cellar.lean ====
section
/-! DEFINITION. The Cellar's lines, their quotas and write-backs, and the regulator's token buckets (R187, R188, R195, R204 to
R206, R250, R295). -/
namespace Sys2Proof.Machine

/-- Changes the bus matrix. -/
def updBus (f : Bus → Bus) (b : Blk) : Blk := { b with bus := f b.bus }

/-- The line number of an address. -/
def lineOf (a : Nat) : Nat := a / 512

/-- The translation context of a request: the port of its tag, or what a SYS request names (R297, Table PWR-7). -/
def reqCtx (r : BusReq) : Nat := if r.tag < 5 then r.tag else r.ctx

/-! ### Lines -/

/-- Lines a tenant may hold in one quadrant: 32 × CELLAR (R295). -/
def lineQuota (b : Blk) (p : Nat) : Nat := if p < 5 then 32 * (activeOf b p).cellar.toNat else 0

/-- Requests under a tag allocate in a quadrant (R206, R266, R295). -/
def allocates (b : Blk) (tag quad : Nat) : Bool := decide (tag < 5) && !bitAt b.bus.quadrantOut quad && lineQuota b tag != 0

/-- Lines a bank of 2 MiB holds (R205). -/
def bankLines : Nat := 4096

/-- The line of a tag at a line address: both must match (R295). -/
def lineAt (l : List Line) (tag line : Nat) : Option Line := l.find? (fun x => x.addr == line && x.tag == tag)

/-- The tenant's lines in a quadrant, the most recently used first. -/
def linesIn (l : List Line) (tag quad : Nat) : List Line := l.filter (fun x => x.tag == tag && x.home / 4 == quad)

/-- The lines that go when a tenant keeps one more: its own least recently used in the quadrant, when its quota there is full,
and its own least recently used in the bank, when the bank is full (R205, R295). -/
def evicted (b : Blk) (tag home line : Nat) : List Line :=
  let quad := home / 4
  let own := (linesIn b.bus.cellar tag quad).filter (fun x => x.addr != line)
  let surplus := own.drop (lineQuota b tag - 1)
  let bank := fun (x : Line) => cellarBank b x.home (x.addr * 512) == cellarBank b home (line * 512)
  let full := decide (bankLines ≤ ((b.bus.cellar.filter (fun x => bank x && x.addr != line)).length - (surplus.filter bank).length))
  surplus ++ (if full then ((own.filter (fun x => bank x && !surplus.contains x)).getLast?).toList else [])

/-- The 64-byte sectors of a line whose stored bytes have bad parity. -/
def badSectorsOf (b : Blk) (l : Line) : BitVec 8 :=
  (List.range 8).foldl (fun m s => setBit m s (badAt b (extKey l.tag (l.addr * 512 + 64 * s)))) 0

/-- The request that carries a line between its quadrant and its memory port. -/
def lineReq (tag ctx line home : Nat) (write : Bool) : BusReq :=
  { master := .cq (home / 4), tag := tag, ctx := ctx, write := write, addr := line * 512, bytes := 512, off := 0, home := home
    home2 := home, stream := none, last := true, room := 512, cmdOp := none, data := 0, badSectors := 0, badBeats := 0 }

/-- A dirty line is written back, SYS traffic of its quadrant in its tenant's context; its bad sectors go out as poison,
with a record and an alert, and stay marked (R210, R213, R250). -/
def writeBack (l : Line) (b : Blk) : Blk :=
  let s := badSectorsOf b l
  let b := updBus (fun u => { u with flight := u.flight ++ [{ req := lineReq 5 l.tag l.addr l.home true, kind := .back }] }) b
  if s = 0 then b
  else
    let b := { b with out := { b.out with poison := b.out.poison ++ [(l.addr * 512, l.tag, s)] } }
    raiseAlert 8 (sumpPut 0x16 none 6 0 0 (l.addr * 512) s.toNat b)

/-- Drops lines; the dirty ones are written back first (R250, R266, R296). -/
def dropLines (gone : Line → Bool) (b : Blk) : Blk :=
  let out := b.bus.cellar.filter (fun l => gone l && l.dirty)
  out.foldl (fun b l => writeBack l b) (updBus (fun u => { u with cellar := u.cellar.filter (fun l => !gone l) }) b)

/-- Keeps a line at the head of the list, after the evictions it calls for; a full bank in which the tenant holds no line
keeps nothing (R205, R295). -/
def keepLine (tag home line : Nat) (dirty : Bool) (b : Blk) : Blk :=
  let out := evicted b tag home line
  let b := dropLines (fun l => out.contains l) b
  let bank := fun (x : Line) => cellarBank b x.home (x.addr * 512) == cellarBank b home (line * 512)
  updBus (fun u =>
    let rest := u.cellar.filter (fun l => !(l.addr == line && l.tag == tag))
    if bankLines ≤ (rest.filter bank).length then { u with cellar := rest }
    else { u with cellar := ⟨line, home, tag, dirty⟩ :: rest }) b

/-! ### The regulator (R187, R188, R364) -/

/-- The bucket of a tenant at a memory port. -/
def bucketKey (p port : Nat) : Nat := p * 16 + port

/-- A request's charge in 1/64 byte: a slot of 512 bytes. -/
def slotCharge : Nat := 512 * 64

/-- Tokens a bucket holds at most, in 1/64 byte (R187). -/
def bucketSize : Nat := 4096 * 64

/-- What a tenant's bucket holds at a memory port. -/
def bucketOf (b : Blk) (p port : Nat) : Nat := tabGet 0 b.bus.buckets (bucketKey p port)

/-- The share that fills a port's buckets. -/
def shareOfPort (b : Blk) (p : Nat) : Nat := if recEnabled (activeOf b p) then (activeOf b p).share.toNat else 0

/-- The buckets gain SHARE/64 bytes each mc and hold 4,096 bytes (R187). -/
def fillBuckets (mcs : Nat) (b : Blk) : Blk :=
  if mcs = 0 then b else
  { b with bus := { b.bus with buckets := (List.range 5).foldl (fun t p =>
      let share := shareOfPort b p
      if share = 0 then t
      else (List.range 16).foldl (fun t m => tabUpd 0 t (bucketKey p m) (fun x => min (x + share * mcs) bucketSize)) t) b.bus.buckets } }

/-- Context traffic of a port at a memory port: its share pays, up to the 128 units at which the traffic is regulated when the
share is smaller; the difference is charged to no one (R293, R364). -/
def chargeContext (p port : Nat) (b : Blk) : Blk :=
  let part := min (shareOfPort b p) 128
  let b := { b with bus := { b.bus with buckets := tabUpd 0 b.bus.buckets (bucketKey p port) (· - slotCharge * part / 128) } }
  countAdd (cntKey 0x6010 (p + 1) 2) (512 * part / 128) b

/-- Takes a slot's charge from a bucket, and counts it and the bytes of the slot that go unused (R187, R188, Table DIC-11). -/
def chargeSlot (p port used : Nat) (b : Blk) : Blk :=
  let b := { b with bus := { b.bus with buckets := tabUpd 0 b.bus.buckets (bucketKey p port) (· - slotCharge) } }
  countAdd (cntKey 0x6000 8 0) (512 - min used 512) (countAdd (cntKey 0x6010 (p + 1) 2) 512 b)

/-! ### Lines that commands and streams bring (R167, R174, R188, R195, R196, R200)

The spec says when these lines must have come and what they cost, not the mc of each request: the model brings them with the
row that needs them, and takes the charge as far as the bucket covers it (DESIGN CHOICE, log entry 78). -/

/-- A tenant's line is brought through the Cellar: a hit costs nothing; a miss is charged a slot, and the line is kept where the
tenant may allocate. -/
def bringLine (p a used : Nat) (write : Bool) (b : Blk) : Blk :=
  let line := lineOf a
  let home := (Config.homePort p line).val
  match lineAt b.bus.cellar p line with
  | some l =>
    countAdd (cntKey 0x6000 6 0) 1
      (updBus (fun u => { u with cellar := { l with dirty := l.dirty || write } :: u.cellar.filter (fun x => x != l) }) b)
  | none =>
    let b := chargeSlot p home used (countAdd (cntKey 0x6000 7 0) 1 b)
    if allocates b p (home / 4) then keepLine p home line write b else b

/-- What bringing a line changes: the matrix, its counters, and the record and poison of a write-back. -/
def matrixOf (x b : Blk) : Blk := { b with bus := x.bus, cnt := x.cnt, sump := x.sump, out := x.out }

/-- Brings the line of an external address for a tenant; other addresses and the Vault queue's need none. -/
def touchLine (p a used : Nat) (write : Bool) (b : Blk) : Blk :=
  if p < 5 ∧ regionOf a = some .external then matrixOf (bringLine p a used write b) b else b

/-- A line may be fetched ahead: it has come already, or the tenant's quota has room and its bucket can pay (R167, R168). -/
def mayFetchAhead (b : Blk) (p line : Nat) : Bool :=
  let home := (Config.homePort p line).val
  (lineAt b.bus.cellar p line).isSome
  || (allocates b p (home / 4) && decide ((linesIn b.bus.cellar p (home / 4)).length < lineQuota b p)
      && decide (slotCharge ≤ bucketOf b p home))

/-- A command's line is fetched ahead, when it may. -/
def aheadLine (p line : Nat) (b : Blk) : Blk :=
  matrixOf (if mayFetchAhead b p line then bringLine p (line * 512) 512 false b else b) b

end Sys2Proof.Machine
end

