-- ==== Sys2Proof/Machine/Frame.lean ====
section
/-! DEFINITION. What every decode shares: when a queue decodes, what decoding takes, the checks and their
outcome, resuming and discarding a halted command (R113 to R118, R131, R137 to R141, R147, R152). -/
namespace Sys2Proof.Machine

/-- What a command does goes to external memory in its tenant's context (R297). -/
def onCmd (id : Nat) (f : Blk → Blk) (b : Blk) : Blk :=
  match cmdOf b id with
  | some c => inCtx c.port f b
  | none => b

/-! ### When a queue decodes -/

/-- The two conditions of R140; a command that waits for its completion record is still in flight (R137, R140). -/
def roomFor (b : Blk) (p q : Nat) : Bool :=
  let r := queueOf b p q
  let n := (inFlight b p q).length
  decide (n < 64) && decide (((r.cqTail - r.cqHead).toNat + n) % 2 ^ 32 < ringSize r)

/-- The descriptor ring holds work (R135). -/
def holdsWork (r : Queue) : Bool := r.sqTail != r.sqHead

/-- The present tick lies in the decode hold (R333). -/
def inHold (b : Blk) : Bool := decide (b.clk.tick % 2500 < b.pwr.hold * 25)

/-- The scheduler decodes for the port: the firmware runs, nothing holds decoding, the tenant is admitted
and, when time-sliced, has its turn (R249, R289, R293, R299, R333). -/
def portMayDecode (b : Blk) (p : Nat) : Bool :=
  !b.pwr.inReset && b.vlt.fwState == 2 && !b.vlt.decodeHeld
  && (p == 5 || (decide (p < 5) && recEnabled (activeOf b p) && !b.vlt.sliced.contains p && !inHold b))

/-- The operand slots of a descriptor that hold addresses. -/
def operandBases (op : Op) (d : Desc) : List Nat :=
  match op with
  | .permGen | .permIdx | .transpose | .bitrev | .layout | .rotacc | .loadRows | .storeRows =>
    [field d.opa 0 48, field d.opb 0 48]
  | .accDrain => [field d.opb 0 48]
  | .gather | .scatter | .move => [field d.opa 0 48, field d.opb 0 48]
  | .streamRearm => [field d.opa 0 48, field d.opb 0 48]
  | _ => []

/-- The addresses of a descriptor's lists: ELIST, INDEX, PCS, LIST, IMAGE and SDESC (Table CMD-7). -/
def listBases (op : Op) (d : Desc) : List Nat :=
  match op with
  | .permGen => if oxS d ≤ 1 then [] else [oxBase d]
  | .permIdx => [oxBase d, oxPcs d]
  | .move => if isGrid d then [oxBase d] else []
  | .rotacc | .gather | .scatter | .modtabLoad | .streamArm => [oxBase d]
  | _ => []

/-- A nonzero LOG_D or an address on another die: held at decode while a Gallery re-forms (R245). -/
def crossesDies (b : Blk) (d : Desc) : Bool :=
  match opOf d with
  | some op => ((hasTset op d || op == .flagSet) && (tsetOf d.tset).logD != 0)
      || (operandBases op d ++ listBases op d).any (isRemote b)
  | none => false

/-- The Vault quiesces a tile that the descriptor names, so it is not decoded yet (R126). -/
def quietHolds (b : Blk) (d : Desc) : Bool :=
  match opOf d with
  | some op => (namedTiles b op d).any b.vlt.quieting.contains
  | none => false

/-- A commit is being applied and the descriptor names a tile that its port loses (R290). -/
def applyHolds (b : Blk) (p : Nat) (d : Desc) : Bool :=
  match tabFind b.vlt.applying p, opOf d with
  | some r, some op => (namedTiles b op d).any (fun t => ownsTile b p t && !(recEnabled r && bitAt r.tiles t))
  | _, _ => false

/-- The descriptor that 64 bytes spell (Table CMD-3). -/
def descOf (l : List Byte) : Desc :=
  let at_ := fun i n => ofLe ((l.drop i).take n)
  { opcode := BitVec.ofNat 16 (at_ 0 2), tag := BitVec.ofNat 16 (at_ 2 2), flags := BitVec.ofNat 16 (at_ 4 2)
    tset := BitVec.ofNat 16 (at_ 6 2), w8 := BitVec.ofNat 32 (at_ 8 4), opa := BitVec.ofNat 160 (at_ 12 20)
    opb := BitVec.ofNat 160 (at_ 32 20), opx := BitVec.ofNat 96 (at_ 52 12) }

/-- The descriptor in the next slot of a queue's ring. -/
def slotDesc (b : Blk) (p q : Nat) : Desc :=
  let r := queueOf b p q
  descOf (readBytes (ofCtx p b) (slotAddr r r.sqHead) 64)

/-- The queue can decode this descriptor: it holds work, nothing holds the descriptor, and it is RUNNING with room, or
HALTED with CAUSE 1 at a RESUME (R116, R118, R139, R140, R245, R290, Table CMD-2). -/
def canTake (b : Blk) (p q : Nat) (d : Desc) : Bool :=
  let r := queueOf b p q
  r.enable && holdsWork r && !(b.gal.reforming && crossesDies b d) && !applyHolds b p d && !quietHolds b d &&
  (if r.state == .halted then opOf d == some .resume && (match r.restart with | some x => x.cause == 1 | none => false)
   else r.state == .running && roomFor b p q)

/-- The queue can decode the descriptor in its next slot (R139). -/
def canServe (b : Blk) (p q : Nat) : Bool := canTake b p q (slotDesc b p q)

/-- Queue `x` comes before queue `q` in the rotation that starts after `served` (R139). -/
def before (served x q : Nat) : Bool :=
  decide ((x + 4 - (served + 1)) % 4 < (q + 4 - (served + 1)) % 4)

/-- No queue that can decode stands before `q` in the rotation (R139). -/
def myTurn (b : Blk) (p q : Nat) : Bool :=
  p == 5 || (List.range 4).all (fun x => !(before (tabGet 3 b.served p) x q && canServe b p x))

/-- The queue decodes this descriptor next: it can, and its turn has come (R139). -/
def canDecode (b : Blk) (p q : Nat) (d : Desc) : Bool :=
  decide (q < 4) && (p != 5 || q == 0) && portMayDecode b p && canTake b p q d && myTurn b p q

/-- The queue's break matches the descriptor (R159, R160). -/
def breakHits (r : Queue) (d : Desc) : Bool :=
  !r.brkSkip && ((r.brkMode == 1 && r.count == r.brkCount) || (r.brkMode == 2 && ((d.tag ^^^ r.brkTag) &&& r.brkMask) == 0))

/-- Stops the queue before the descriptor the break matched, which the next START decodes without the test; a count break
turns itself off (R160). -/
def breakStop (p q : Nat) (b : Blk) : Blk :=
  let b := stopQueue p q 3 (updQueue p q (fun r => { r with brkMode := if r.brkMode = 1 then 0 else r.brkMode, brkSkip := true }) b)
  { b with out := { b.out with debugInt := b.out.debugInt + 1 } }

/-! ### Decoding a descriptor -/

/-- The command as it enters flight. -/
def freshCmd (b : Blk) (p q : Nat) (d : Desc) : Cmd :=
  { id := b.nextId, port := p, queue := q, desc := d, count := (queueOf b p q).count, t0 := b.clk.tc, mc := b.clk.mc, st := .ready }

/-- Everything a decoded descriptor changes: SQ_HEAD, COUNT, the rotation, and with BARRIER the queue's
wait (R139, R141, R147, R152). -/
def takeSlot (c : Cmd) (b : Blk) : Blk :=
  let b := updQueue c.port c.queue (fun r => { r with sqHead := r.sqHead + 1, count := r.count + 1, brkSkip := false }) b
  { b with served := tabPut 3 b.served c.port c.queue, nextId := b.nextId + 1, cmds := b.cmds ++ [c] }

/-- Keeps the queue BLOCKED on a command (R152, R153, R156). -/
def blockOn (c : Cmd) (b : Blk) : Blk :=
  updQueue c.port c.queue (fun r => { r with
    blockedBy := some c.id
    state := if r.state = .running then .blocked else r.state }) b

/-- Completes a command that a check rejects; ZEROISED consumes the notices it was rejected by (R147, R273). -/
def rejectCmd (c : Cmd) (code : Code) (tiles : List Nat) (b : Blk) : Blk :=
  finishCmd c code 0 0 (if code = .zeroised then dropNotices c.port tiles b else b)

/-- The register a row command's register side lies in. -/
def rowReg (b : Blk) (d : Desc) : Option Nat :=
  match opOf d with
  | some .loadRows => regAt b (granOf d.opb 1).base
  | some .storeRows => regAt b (granOf d.opa 1).base
  | _ => none

/-- Clears PARTIAL of the register a resumed or discarded LOAD.ROWS was loading (Table TRG-2). While the tenant waits for
its time-slice turn the register holds another tenant's data: its own PARTIAL then stands in its saved image, which the
restore reads without it (R117, R293). -/
def clearPartial (c : Cmd) (b : Blk) : Blk :=
  match opOf c.desc with
  | some .loadRows =>
    if b.vlt.sliced.contains c.port then
      let a := (granOf c.desc.opb 1).base
      { b with vlt := { b.vlt with saved := b.vlt.saved.map (fun e =>
          if e.1 = c.port * 64 + addrTile a then (e.1, { e.2 with clear := addrReg a :: e.2.clear }) else e) } }
    else match rowReg b c.desc with
      | some k => updReg k (fun r => { r with part := false }) b
      | none => b
  | _ => b

/-- A command that runs on every die of a Gallery (R75, R92). -/
def spansGallery (c : Cmd) : Bool :=
  match opOf c.desc with
  | some op => hasTset op c.desc && (tsetOf c.desc.tset).logD != 0
  | none => false

/-- The home die tells the other dies that a Gallery command has ended (R92, R272). -/
def withdrawAll (c : Cmd) (b : Blk) : Blk :=
  if spansGallery c && c.home.isNone then broadcast 5 (dieOf b) c.id b else b

/-- Abandons a halted command: it completes ABORTED, its committed rows or units stay, PARTIAL and the
restart record are cleared, and its Gallery shares are withdrawn (R117, R131, R138). -/
def endHalted (c : Cmd) (b : Blk) : Blk := finishCmd c .aborted 0 0 (clearPartial c (withdrawAll c b))

/-- Halts a command (R112). R138 discards a halted command whose queue's ENABLE is cleared, and says nothing of one that
would halt afterwards: it is discarded in the same way, for a queue that decodes nothing has no RESUME (DESIGN CHOICE,
log entry 69). -/
def haltOrEnd (c : Cmd) (cause kind : Nat) (place : BitVec 16) (b : Blk) : Blk :=
  if (queueOf b c.port c.queue).enable then haltCmd c cause kind place b else endHalted c b

/-- The home die forwards a Gallery command that has passed its decode to the other dies (R92). -/
def forwardOut (c : Cmd) (b : Blk) : Blk :=
  if spansGallery c && c.home.isNone then broadcast 4 (dieOf b) c.id b else b

/-- A report of this die on a Gallery command, with nothing in it yet (R92). -/
def blankReport (b : Blk) (c : Cmd) : ReportBody :=
  { home := match c.home with | some h => h.1 | none => dieOf b
    cmd := match c.home with | some h => h.2 | none => c.id
    die := dieOf b }

/-- The reports on a command with one more: a die's report takes the place of its word that it has begun. -/
def putReport (r : ReportBody) (l : List ReportBody) : List ReportBody := l.filter (fun x => x.die != r.die) ++ [r]

/-- Reports an error that stops this die's share of a Gallery command before its exchange: to itself on the home die,
else to the home die (R92, R272). -/
def reportError (c : Cmd) (stage : Nat) (code : Code) (addr : Nat) (b : Blk) : Blk :=
  let body : ReportBody := { (blankReport b c) with kind := .stopped, error := some (stage, codeVal code), addr := addr }
  match c.home with
  | none => updCmd c.id (fun _ => { c with st := .gallery, reports := putReport body c.reports }) b
  | some (die, cmd) =>
    sendMsg 5 (towardsDie b die) cmd (updCmd c.id (fun _ => { c with st := .gallery, reports := [body] }) b)

/-- A code of the fetch check ends a command, or is this die's report on it in a Gallery. -/
def failFetch (c : Cmd) (code : Code) (tiles : List Nat) (b : Blk) : Blk :=
  if spansGallery c then reportError c 1 code 0 b else rejectCmd c code tiles b

/-! ### Fetching -/

/-- The lists of a command with their bytes: element list, index stream, phase-control stream with the sections its header
gives, and owner tables (Table CMD-7, R32, R88). -/
def listSpans (c : Cmd) : List (Nat × Nat) :=
  let d := c.desc
  let grid := fun g : GridOp => if g.owned then [(g.base, g.tableBytes)] else []
  match opOf d with
  | some .permGen => if oxS d ≤ 1 then [] else [(oxBase d, 4 * oxS d)]
  | some .rotacc => [(oxBase d, 4 * oxS d)]
  | some .permIdx => [(oxBase d, indexBytes d), (oxPcs d, match c.header with
      | some v => (streamExtent d (headerOf v)).2.toNat + 1 - oxPcs d
      | none => 64)]
  | some .gather => (oxBase d, 16 * oxN d) :: grid (gridOf d.opa)
  | some .scatter => (oxBase d, 16 * oxN d) :: grid (gridOf d.opb)
  | some .move => if isGrid d then (oxBase d, 16 * oxN d) :: (grid (gridOf d.opa) ++ grid (gridOf d.opb)) else []
  | _ => []

/-- The granules a command reads from a granule operand. -/
def granAddrs (g : Gran) : List Nat := (List.range g.count).map (g.addr 0)

/-- The source bytes of a command that may lie in external memory (R167). -/
def sourceSpans (c : Cmd) : List (Nat × Nat) :=
  let d := c.desc
  let blocks := c.blocks.filterMap (fun x => x.map (fun y => (y.1, 4096)))
  match opOf d with
  | some .loadRows => (granAddrs (granOf d.opa 1)).map (fun a => (a, 64))
  | some .move => if isGrid d then blocks else (granAddrs (srcGran .move d)).map (fun a => (a, 64))
  | some .gather => blocks
  | some .scatter => (List.range (oxN d)).map (fun i => ((runOf d.opa).addr i, 4096))
  | _ => []

/-- The external lines of spans of bytes, in their order, a line that follows itself once. -/
def spanLines (l : List (Nat × Nat)) : List Nat :=
  let lines := l.flatMap (fun s =>
    if regionOf s.1 = some .external ∧ s.2 ≠ 0 then
      (List.range (lineOf (s.1 + s.2 - 1) + 1 - lineOf s.1)).map (lineOf s.1 + ·)
    else [])
  (lines.zip ((lines.drop 1).map some ++ [none])).filterMap (fun x => if some x.1 = x.2 then none else some x.1)

/-- Brings the lines of granules that a port's work reads or writes (R188). -/
def touchLines (p : Nat) (addrs : List Nat) (write : Bool) (b : Blk) : Blk :=
  (spanLines (addrs.map (fun a => (a, 64)))).foldl (fun b l => touchLine p (l * 512) 512 write b) b

/-- The fetch engine reads a command's lists and requests its source lines ahead of its first pass, into the tenant's part of
the Cellar (R167, R195). -/
def fetchAhead (c : Cmd) (b : Blk) : Blk :=
  if 5 ≤ c.port then b
  else
    let b := (spanLines (listSpans c)).foldl (fun b l => touchLine c.port (l * 512) 512 false b) b
    (spanLines (sourceSpans c)).foldl (fun b l => aheadLine c.port l b) b

/-- The fetch check of a command and its outcome: halted at a page that is not present, rejected, or
passed (R26, R46, R61, R90, R147, R270). -/
def fetchStage (c : Cmd) (op : Op) (go : Cmd → Blk → Blk) (b : Blk) : Blk :=
  let f := fetchCheck (ofCtx c.port b) c.port op c.desc c.entries c.header
  match firstIn fetchOrder f.errs with
  | some .faultResumable =>
    let c' := { c with entries := f.entries, header := f.header, faultAddr := f.fault }
    if spansGallery c then reportError c' 1 .faultResumable (f.fault.getD 0) b
    else haltOrEnd c' 1 1 0 (updCmd c.id (fun _ => c') b)
  | some .parity => failFetch c .parity [] (inCtx c.port (readParity c (f.fault.getD 0) 0) b)
  | some code => failFetch c code (resolvedTiles b c.desc f) b
  | none =>
    let c' := { c with entries := f.entries, blocks := f.blocks, header := f.header, fetched := true, st := .ready, faultAddr := none }
    inCtx c.port (go c') (fetchAhead c' (updCmd c.id (fun _ => c') b))

/-- A command that has passed its decode: it is forwarded over its Gallery, and its fetch check is made. -/
def passDecode (c : Cmd) (op : Op) (go : Cmd → Blk → Blk) (b : Blk) : Blk := fetchStage c op go (forwardOut c b)

/-- A catalogue or row command that has passed its checks waits for its passes. -/
def getReady (_ : Cmd) (b : Blk) : Blk := b

/-- A code of the decode stage ends a command; a forwarded command reports it (R92). -/
def failDecode (c : Cmd) (code : Code) (tiles : List Nat) (b : Blk) : Blk :=
  if c.home.isSome then reportError c 0 code 0 b else rejectCmd c code tiles b

/-- An earlier MODTAB.LOAD of the tenant is still in flight (R21). -/
def loadAhead (b : Blk) (c : Cmd) : Bool :=
  b.cmds.any (fun x => x.port == c.port && x.home.isNone && x.st != .record && decide (x.id < c.id) && opOf x.desc == some .modtabLoad)

/-- What a table check that waits does with the errors found so far: SHAPE, ALIGN and INDEX_RANGE stand before
or with its own code, so they end the command at once (R21, R269). -/
def holdTable (c : Cmd) (errs : List Code) (b : Blk) : Blk :=
  match firstIn decodeOrder errs with
  | some .shape => failDecode c .shape [] b
  | some .align => failDecode c .align [] b
  | some .indexRange => failDecode c .indexRange [] b
  | e => updCmd c.id (fun x => { x with st := .table, early := e }) b

/-- The decode checks of a command and their outcome. The table check of R19 waits for an earlier
MODTAB.LOAD and keeps its rank (R21, R269). -/
def judge (op : Op) (go : Cmd → Blk → Blk) (c : Cmd) (b : Blk) : Blk :=
  let errs := decodeErrs (ofCtx c.port b) c.port c.queue op c.desc
  if isModular op c.desc && loadAhead b c then holdTable c errs b
  else match firstIn decodeOrder (errs ++ tableErrs b c.port op c.desc) with
    | some code => failDecode c code (namedTiles b op c.desc) b
    | none => passDecode c op go b

/-- One descriptor's decode on queue `q` of port `p`, when the queue can decode it: the ring read, the
break, the slot, the checks, then `go`. -/
def decodeStep (p q : Nat) (d : Desc) (check : Cmd → Blk → Blk) (b : Blk) : Blk :=
  if !canDecode b p q d then b
  else
    let r := queueOf b p q
    let a := slotAddr r r.sqHead
    if xstat (ofCtx p b) a ≠ .ok ∨ badHere (ofCtx p b) a = true then inCtx p (ringFault p q a) b
    else if breakHits r d then breakStop p q b
    else
      let c := freshCmd b p q d
      let b := takeSlot c b
      check c (if flagBarrier d && opOf d != some .resume then blockOn c b else b)

/-- The decode of a row of Table CMD-6: a descriptor whose opcode is another row's is not this command,
and an opcode absent from the table completes SHAPE (R145). -/
def decodeAs (mine : Op → Bool) (go : Cmd → Blk → Blk) (p q : Nat) (d : Desc) (b : Blk) : Blk :=
  match opOf d with
  | none => decodeStep p q d (fun c b => rejectCmd c .shape [] b) b
  | some op => if mine op then decodeStep p q d (judge op go) b else b

/-- The table checks that no MODTAB.LOAD holds any longer, in decode order (R21). -/
def releaseTable (b : Blk) : Blk :=
  (b.cmds.filter (fun c => c.st == .table && !loadAhead b c)).foldl (fun b c =>
    match opOf c.desc with
    | none => b
    | some op =>
      if (tableErrs b c.port op c.desc).isEmpty then
        match c.early with
        | some code => failDecode c code (namedTiles b op c.desc) b
        | none => passDecode c op getReady b
      else failDecode c .indexRange [] b) b

/-! ### Resuming and discarding -/

/-- The command a queue's restart record stands for. -/
def haltedOf (b : Blk) (p q : Nat) : Option Cmd :=
  match (queueOf b p q).restart with
  | some r => cmdOf b r.cmd
  | none => none

/-- The queue holds a restart record for the command. -/
def wasHalted (b : Blk) (c : Cmd) : Bool :=
  match (queueOf b c.port c.queue).restart with
  | some r => r.cmd == c.id
  | none => false

/-- Discards a halted command; the table checks it held are made (R21, R117). -/
def discardCmd (c : Cmd) (b : Blk) : Blk := releaseTable (endHalted c b)

end Sys2Proof.Machine
end

