-- ==== Sys2Proof/Machine/Waits.lean ====
section
/-! DEFINITION. Setting a flag and the waits a set satisfies (R154 to R157). -/
namespace Sys2Proof.Machine

/-- FLAG of FLAG.SET and FLAG.WAIT. -/
def oxFlag (d : Desc) : Nat := ox d 0 8

/-- CONSUME of FLAG.WAIT. -/
def isConsume (d : Desc) : Bool := flagOpf0 d

/-- The waits of a tenant on a flag, in decode order. -/
def waitsOn (b : Blk) (p f : Nat) : List Cmd :=
  b.cmds.filter (fun c => c.st == .flagWait && c.port == p && oxFlag c.desc == f)

/-- The CONSUME wait that a set satisfies: the one on the lowest-numbered queue (R157). -/
def consumerWait (l : List Cmd) : Option Cmd :=
  (List.range 4).findSome? (fun q => l.find? (fun c => isConsume c.desc && c.queue == q))

/-- Evaluates the waits on a flag: when it is set, every plain wait completes OK, the lowest-numbered
CONSUME wait too, and then the flag is cleared (R156, R157). -/
def evalWaits (p f : Nat) (b : Blk) : Blk :=
  if !flagOf b p f then b
  else
    let l := waitsOn b p f
    let b := (l.filter (fun c => !isConsume c.desc)).foldl (fun b c => finishCmd c .ok 0 0 b) b
    match consumerWait l with
    | some c => finishCmd c .ok 0 0 (putFlag p f false b)
    | none => b

/-- Sets a flag and evaluates the waits on it (R155, R157). -/
def setFlag (p f : Nat) (b : Blk) : Blk := evalWaits p f (putFlag p f true b)

end Sys2Proof.Machine
end

