-- ==== Sys2Proof/Machine/Streams.lean ====
section
/-! DEFINITION. Streams, Pantry handles and Shelf queues (chapter 06). -/
namespace Sys2Proof.Machine

/-! ### Status records and the moves between states -/

/-- The value of a stream state (Table STM-4). -/
def sstateVal : SState → Nat
  | .disarmed => 0 | .waiting => 1 | .running => 2 | .parked => 3 | .halted => 4 | .error => 5 | .ending => 6

/-- The first granule of the segment that some receiver has still to take: POSITION of the status record (Table STM-5,
R199). -/
def slowest (x : Stream) : Nat := (x.behind.map (·.2)).foldl min x.position

/-- The 64 bytes of a stream status record (Table STM-5). -/
def statusBytes (n : Nat) (x : Stream) : List Byte :=
  leBytes 1 (sstateVal x.state) ++ leBytes 1 (codeVal x.code) ++ leBytes 2 n ++ leBytes 4 x.segment
    ++ leBytes 4 (slowest x) ++ leBytes 4 x.segsDone ++ leBytes 8 x.faultAddr ++ leBytes 8 x.detached.toNat
    ++ leBytes 32 0

/-- A Sump record about a stream (Table SMP-4). -/
def streamRecord (event : Nat) (code : Option Code) (n where_ : Nat) (b : Blk) : Blk :=
  let x := streamOf b n
  sumpPut event code x.port 0 0 where_ (n + x.segment % 2 ^ 32 * 2 ^ 16) b

/-- Writes the status record. A write that translation refuses puts the stream in ERROR, recorded in the
Sump only (R176). -/
def writeStatus (n : Nat) (b : Blk) : Blk :=
  let x := streamOf b n
  let a := (sdescOf x.sd).status
  if xstat (ofCtx x.port b) a = .ok then inCtx x.port (writeBytes a (statusBytes n x)) b
  else if x.state = .error then b
  else tenantInt x.port (streamRecord 0x11 none n a (updStream n (fun x => { x with state := .error }) b))

/-- A stream enters ERROR (R172, R173, R176, R192, R193). -/
def streamError (n : Nat) (code : Code) (a : Nat) (b : Blk) : Blk :=
  let b := updStream n (fun x => { x with state := .error, code := code }) b
  tenantInt (streamOf b n).port (streamRecord 0x11 (some code) n a (writeStatus n b))

/-! ### Handles -/

/-- Changes a handle. -/
def updHandle (h : Nat) (f : Handle → Handle) (b : Blk) : Blk := { b with handles := tabUpd {} b.handles h f }

/-- A handle. -/
def handleOf (b : Blk) (h : Nat) : Handle := tabGet {} b.handles h

/-- Handles that held fetched granules are empty again. -/
def emptyHandles (l : List Nat) (b : Blk) : Blk := l.foldl (fun b h => updHandle h (fun y => { y with fill := 0 }) b) b

/-- What was fetched and not delivered is discarded: the fetch side stands where the sink does, in the sink's run (R191). -/
def dropFetched (n : Nat) (b : Blk) : Blk :=
  let x := streamOf b n
  let s := sdescOf x.sd
  let whole := x.position == s.segG
  let part := if whole then 0 else x.position % 1024
  let keep := if part = 0 then [] else x.buffer.take 1
  let b := emptyHandles (x.buffer.drop keep.length) b
  let b := keep.foldl (fun b h => updHandle h (fun y => { y with fill := part }) b) b
  updStream n (fun x => { x with
    buffer := keep, ahead := false
    fseg := if s.shelfSource then x.fseg else if whole then x.segment + 1 else x.segment
    fpos := if s.shelfSource || whole then 0 else x.position
    entries := if s.memSource then [] else x.entries }) b

/-- A stream enters HALTED with its position saved; granules that arrived beyond it are discarded (R191). -/
def haltStream (n a : Nat) (b : Blk) : Blk :=
  let b := updStream n (fun x => { x with state := .halted, code := .faultResumable, faultAddr := a }) (dropFetched n b)
  tenantInt (streamOf b n).port (streamRecord 0x02 (some .faultResumable) n a (writeStatus n b))

/-- A stream ends: it enters ENDING until its handles are home (R185). -/
def endStream (n : Nat) (code : Code) (b : Blk) : Blk :=
  let b := emptyHandles (streamOf b n).buffer b
  writeStatus n (updStream n (fun x => { x with state := .ending, code := code, rearm := none, turn := none, buffer := [] }) b)

/-- The Vault halts a tenant's running streams of tiles for a retirement or a switch, with no Sump record and no
interrupt (R201); they are told by FAULT_ADDR 0, which no line not present has. -/
def vaultHaltStreams (p : Nat) (tiles : List Nat) (b : Blk) : Blk :=
  (List.range 512).foldl (fun b n =>
    let x := streamOf b n
    if x.state = .running ∧ x.port = p ∧ tiles.contains (streamTile n) then
      writeStatus n (updStream n (fun x => { x with state := .halted, code := .faultResumable, faultAddr := 0 }) (dropFetched n b))
    else b) b

/-- The Vault resumes the streams it halted (R201). -/
def vaultResumeStreams (p : Nat) (tiles : List Nat) (b : Blk) : Blk :=
  (List.range 512).foldl (fun b n =>
    let x := streamOf b n
    if x.state = .halted ∧ x.faultAddr = 0 ∧ x.port = p ∧ tiles.contains (streamTile n) then
      updStream n (fun x => { x with state := .running, code := .ok }) b
    else b) b

/-- The handles on a Shelf queue, oldest first. -/
def shelfOf (b : Blk) (k : Nat) : List Nat := tabGet [] b.shelves k

/-- Replaces a Shelf queue's list. -/
def putShelf (k : Nat) (l : List Nat) (b : Blk) : Blk := { b with shelves := tabPut [] b.shelves k l }

/-- Returns a handle to its owner: the producing stream's reservation, or the pool (R182, R183). -/
def returnHandle (h : Nat) (b : Blk) : Blk :=
  match (handleOf b h).owner with
  | some n =>
    updStream n (fun x => { x with home := x.home ++ [h] })
      (updHandle h (fun y => { y with cond := .granted, fill := 0, delivered := false }) b)
  | none => updHandle h (fun _ => {}) b

/-- The Pantry handles an extent covers. -/
def extentHandles (e : Extent) : List Nat :=
  if regionOf e.1.toNat == some .pantry then
    (List.range (addrHandle e.2.toNat + 1 - addrHandle e.1.toNat)).map (· + addrHandle e.1.toNat)
  else []

/-- The handles a command in flight names or resolves (R178). -/
def namedHandles (c : Cmd) : List Nat :=
  let d := c.desc
  let stage := oxStage d :: (if flagTwin d then [Nat.xor (oxStage d) 1] else [])
  let blk := c.blocks.flatMap (fun x => match x with
    | some (a, t) => extentHandles (blockExtent a) ++ extentHandles (blockExtent t)
    | none => [])
  (listSpans c).flatMap (fun s => if s.2 = 0 then [] else extentHandles (listExtent s.1 s.2)) ++
  match opOf d with
  | some .gather => stage ++ blk ++ extentHandles ((runOf d.opb).extent (oxN d))
  | some .scatter => stage ++ blk ++ extentHandles ((runOf d.opa).extent (oxN d))
  | some .move =>
    if isGrid d then stage ++ blk
    else extentHandles (srcGran .move d).extent ++ extentHandles (dstGran .move d).extent
  | some .loadRows => extentHandles (granOf d.opa 1).extent
  | some .storeRows => extentHandles (granOf d.opb 1).extent
  | some .streamArm => extentHandles (listExtent (oxBase d) 64)
  | some .handlePush => [ox d 0 16]
  | _ => []

/-- FREE handles of the tenant that a grant may take (R178), ascending. -/
def grantable (b : Blk) (p : Nat) : List Nat :=
  let named := (b.cmds.filter (fun c => c.port == p)).flatMap namedHandles
  (List.range 512).filter (fun h => handleAssigned b p h && (handleOf b h).cond == .free && !named.contains h)

/-- The order of a grant: the stream's quad first, then the rest (R178). -/
def grantOrder (n : Nat) (l : List Nat) : List Nat :=
  let lo := 32 * (streamTile n / 4)
  let near := fun h => decide (lo ≤ h) && decide (h < lo + 32)
  l.filter near ++ l.filter (fun h => !near h)

/-! ### Arming and granting -/

/-- STREAM of STREAM.ARM. -/
def oxStream (d : Desc) : Nat := ox d 48 16
/-- HANDLES of STREAM.ARM. -/
def oxHandles (d : Desc) : Nat := ox d 64 16

/-- Reads and checks the stream descriptor and arms the stream, which waits for its grant. A page that is not present halts
the command, and a descriptor read that fails every replay completes PARITY (R169, R172, R178, R202). -/
def armStream (c : Cmd) (b : Blk) : Blk :=
  let n := oxStream c.desc
  let a := oxBase c.desc
  match listStat b a with
  | .notPresent => haltOrEnd { c with faultAddr := some a } 1 1 0 b
  | .denied => rejectCmd c .notOwner [] b
  | .error => rejectCmd c .parity [] (readParity c a 0 b)
  | .ok =>
    let v := readSdesc b a
    let s := sdescOf v
    let b := touchLine c.port a 64 false b
    match firstIn decodeOrder (need ((streamOf b n).state == .disarmed) .shape ++ armErrs b c.port n (oxHandles c.desc) v) with
    | some code => rejectCmd c code [] b
    | none =>
      updCmd c.id (fun x => { x with st := .grant })
        (updStream n (fun _ => { state := .waiting, port := c.port, sd := v, dbase := s.dbase, ibase := s.ibase,
                                 want := oxHandles c.desc, armCmd := c.id }) b)

/-- STREAM_ARM: STREAM.ARM is decoded (R169). -/
def execStreamArm (p q : Nat) (d : Desc) (s : State) : Host.Outcome State Fault Refusal :=
  onBlk (decodeAs (· == .streamArm) armStream p q d) s

/-- The oldest waiting arm of a tenant (R178). -/
def oldestArm (b : Blk) (p : Nat) : Option Cmd :=
  b.cmds.find? (fun c => c.port == p && c.st == .grant)

/-! ### The memory side -/

/-- The key of a segment's checked entries: a segment of the run that the fetch side has gone on to stands above the sink's. -/
def entryKey (ahead : Bool) (seg : Nat) : Nat := seg + (if ahead then 2 ^ 32 else 0)

/-- The bases of the sink's run, or of the one that the fetch side has gone on to (R194). -/
def basesOf (x : Stream) (ahead : Bool) : Nat × Nat :=
  match ahead, x.turn with
  | true, some t => (t.2.1, t.2.2)
  | _, _ => (x.dbase, x.ibase)

/-- Why a stream does not go on: it has done what it could, waits, met a page that did not answer, or an error. -/
inductive Stall
  | done | wait | page (a : Nat) (st : RspStatus) | bad (c : Code) (a : Nat)
  deriving DecidableEq, Repr

/-- The errors a segment's index entries hold (R172, Table STM-3). -/
def entryErrs (s : SDesc) (dbase seg : Nat) (es : List Nat) : List Code :=
  let at_ := fun (e : Nat) => memSideAddr s dbase seg 0 (e % 2 ^ 28)
  need (es.all (fun e => decide (e < 2 ^ 28) && inExternal (at_ e, at_ e + 63))) .indexRange
  ++ need (!s.memSink || !hasDup (es.map (· % 2 ^ 28))) .dupDest

/-- Checks the memory side of a segment and keeps its index entries as read, before anything of the segment moves (R172). -/
def openSegment (n : Nat) (ahead : Bool) (seg : Nat) (b : Blk) : Blk × Stall :=
  let x := streamOf b n
  let s := sdescOf x.sd
  let k := entryKey ahead seg
  let bases := basesOf x ahead
  if !s.hasMem || (tabFind x.entries k).isSome then (b, .done)
  else if !memSideOk s bases.1 bases.2 seg then (b, .bad .indexRange 0)
  else if s.memKind ≠ 2 then (updStream n (fun x => { x with entries := tabIns k [] x.entries }) b, .done)
  else
    let base := entryAddr s bases.2 seg 0
    let f := fetchList b base 4 s.segG []
    let b := (spanLines [(base, 4 * s.segG)]).foldl (fun b l => touchLine x.port (l * 512) 512 false b) b
    match f.stop with
    | some (st, a) => (b, .page a st)
    | none =>
      match firstIn [.indexRange, .dupDest] (entryErrs s bases.1 seg f.entries) with
      | some c => (b, .bad c 0)
      | none => (updStream n (fun x => { x with entries := tabIns k f.entries x.entries }) b, .done)

/-- The memory-side address of granule `g` of a checked segment (R171). -/
def sideAddr (x : Stream) (ahead : Bool) (seg g : Nat) : Nat :=
  let s := sdescOf x.sd
  let gidx := if s.memKind = 2 then (tabGet [] x.entries (entryKey ahead seg)).getD g 0 else 0
  (memSideAddr s (basesOf x ahead).1 seg g gidx).toNat

/-! ### The source -/

/-- A granule read from its source, or why it cannot be: a page, a PARTIAL register, or bytes with bad parity, which fail every
replay (R173, R191, R192). -/
def readSource (s : SDesc) (a : Nat) (b : Blk) : Granule × Stall :=
  let st := xstat b a
  let reg := if s.src = 0 then regAt b a else none
  if st ≠ .ok then (0, .page a st)
  else if (match reg with | some k => (regOf b k).part | none => false) then (0, .bad .partialRead a)
  else if badHere b a then (0, .bad .parity a)
  else (readGranule b a, .done)

/-- The lowest handle of the reservation that is home and empty (R189). -/
def emptyHandle (x : Stream) : Option Nat :=
  (List.range 512).find? (fun h => x.home.contains h && !x.buffer.contains h)

/-- Granule `g` is the last of its handle (R181). -/
def lastOfHandle (s : SDesc) (g : Nat) : Bool := g % 1024 == 1023 || g + 1 == s.segG

/-- Handles that the first `g` granules of a segment fill. -/
def handlesDone (s : SDesc) (g : Nat) : Nat := if g = s.segG then ceilDiv g 1024 else g / 1024

/-- The fetch side has nothing to fetch now: the stream does not run, has no source of its own, has come to the end of its run
or to the boundary of a REARM, or reads tiles and its tile side has not begun (R174, R194). -/
def fetchWaits (x : Stream) : Bool :=
  let s := sdescOf x.sd
  x.state != .running || s.shelfSource || s.touch || decide (s.segments ≤ x.fseg)
  || (x.fpos == 0 && x.rearm.isSome && (x.turn.isNone || x.ahead) && decide (x.boundary ≤ x.fseg))
  || (s.src == 0 && !(x.segStarted && !x.ahead && x.fseg == x.segment))

/-- The fetch side that has come to the end of the sink's run goes on to the new one (R194). -/
def fetchTurns (n : Nat) (b : Blk) : Blk :=
  updStream n (fun x => match x.turn with
    | some (k, _, _) => if !x.ahead && x.fpos == 0 && decide (k ≤ x.fseg) then { x with ahead := true, fseg := 0, fetched := 0 } else x
    | none => x) b

/-- Brings the next granule of the fetch side into a handle of the reservation, or says why it does not come (R171, R174, R181,
R189). The reservation's handles are filled in segment order, the lowest empty one next (DESIGN CHOICE, log entry 29). -/
def fetchOne (n : Nat) (b : Blk) : Blk × Stall :=
  let b := fetchTurns n b
  let x := streamOf b n
  let s := sdescOf x.sd
  if fetchWaits x then (b, .wait)
  else
    match (if s.memSource then openSegment n x.ahead x.fseg b else (b, .done)) with
    | (b, .done) =>
      let x := streamOf b n
      let a := if s.memSource then sideAddr x x.ahead x.fseg x.fpos else tileSideAddr s x.fseg x.fpos
      let v := readSource s a b
      match v.2, (if x.fpos % 1024 = 0 then emptyHandle x else x.buffer.getLast?) with
      | .done, some h =>
        let b := if s.memSource then touchLine x.port a 64 false b else b
        let b := updHandle h (fun y => { y with fill := x.fpos % 1024 + 1 })
          (putGranuleKey (handleAddr h + x.fpos % 1024 * 64) v.1 b)
        let b := updStream n (fun x => { x with
          buffer := if x.fpos % 1024 = 0 then x.buffer ++ [h] else x.buffer
          fetched := max x.fetched (x.fseg + 1)
          fseg := if x.fpos + 1 = s.segG then x.fseg + 1 else x.fseg
          fpos := if x.fpos + 1 = s.segG then 0 else x.fpos + 1 }) b
        (b, .done)
      | .done, none => (b, .wait)
      | w, _ => (b, w)
    | r => r

/-- The fetch side runs ahead of the sink until it waits; a page or an error it meets stops it until the sink comes there
(R174, R190; DESIGN CHOICE, log entry 32). -/
def runAhead (n : Nat) : Nat → Blk → Blk
  | 0, b => b
  | k + 1, b =>
    match fetchOne n b with
    | (b, .done) => runAhead n k b
    | (b, _) => b

/-- Lets the fetch side of a stream fill its empty handles, in the tenant's context. -/
def fillHandles (n : Nat) (b : Blk) : Blk :=
  inCtx (streamOf b n).port (runAhead n (1024 * (streamOf b n).home.length)) b

/-- Grants the oldest waiting arm its whole reservation when enough FREE handles exist (R178). -/
def grantStream (p : Nat) (b : Blk) : Blk :=
  match oldestArm b p with
  | none => b
  | some c =>
    let n := oxStream c.desc
    let l := grantable b p
    let want := (streamOf b n).want
    if l.length < want then b
    else
      let take := (grantOrder n l).take want
      let b := take.foldl (fun b h => updHandle h (fun _ => { cond := .granted, owner := some n }) b) b
      let b := updStream n (fun x => { x with state := .running, home := take, reserved := want }) b
      finishCmd c .ok 0 0 (fillHandles n (writeStatus n b))

/-- STREAM_GRANT (R178). -/
def execStreamGrant (p : Nat) (s : State) : Host.Outcome State Fault Refusal := onBlk (grantStream p) s

/-! ### Moving granules -/

/-- The handles on a Shelf queue that its consumer has not delivered. -/
def undelivered (b : Blk) (k : Nat) : List Nat := (shelfOf b k).filter (fun h => !(handleOf b h).delivered)

/-- Where a Shelf source holds granule `g` of the present segment: handles that only detached receivers have still to take come
first (R181, R197). -/
def shelfAddr (b : Blk) (x : Stream) (g : Nat) : Option Nat :=
  let s := sdescOf x.sd
  ((undelivered b s.srcShelf)[x.kept + g / 1024 - handlesDone s x.position]?).map (fun h => handleAddr h + g % 1024 * 64)

/-- The tiles that receive a tile-side write: the multicast set or the stream's tile (R197). -/
def receivers (n : Nat) (s : SDesc) : List Nat := if s.multicast then tsetTiles (tsetOf s.mtset) else [streamTile n]

/-- The receivers that are attached (R197). -/
def attached (n : Nat) (x : Stream) : List Nat := (receivers n (sdescOf x.sd)).filter (fun t => !bitAt x.detached t)

/-- A row command holds the register (R111, R173). -/
def rowHolds (b : Blk) (k : Nat) : Bool :=
  b.cmds.any (fun c => c.st != .halted && c.st != .record && (opOf c.desc == some .loadRows || opOf c.desc == some .storeRows)
    && rowReg b c.desc == some k)

/-- A row command holds a register that a tile-side granule goes to. -/
def sinkHeld (b : Blk) (tiles : List Nat) (a : Nat) : Bool :=
  tiles.any (fun t => match physOf b t with | some p => rowHolds b (regKey p (addrReg a)) | none => false)

/-- Writes a granule at the tile-side offset of `a` in one tile, with IN_USE, the full tag, and KEY when
KIND has it (R173). -/
def sinkTile (s : SDesc) (a : Nat) (v : Granule) (t : Nat) (b : Blk) : Blk :=
  match physOf b t with
  | some p => updReg (regKey p (addrReg a)) (markWrite fullTag s.key)
      (putGranuleKey (frameKey p (addrReg a) (addrOff a)) v b)
  | none => b

/-- Shelves a producer's full handle (R181). -/
def shelveFull (n k h : Nat) (b : Blk) : Blk :=
  updStream n (fun x => { x with home := x.home.filter (· != h), buffer := x.buffer.drop 1 })
    (updHandle h (fun y => { y with cond := .shelved k, delivered := false }) (putShelf k (shelfOf b k ++ [h]) b))

/-- The consumer has delivered the first handles of a Shelf queue that it had not; R182 sends them back with HANDLE_RETURN.
Until then they stand on the queue and count among its 32, and no pop can take them, for a queue with a consumer stream has
no pops (DESIGN CHOICE, log entry 79). -/
def shelfTaken (k m : Nat) (b : Blk) : Blk :=
  ((undelivered b k).take m).foldl (fun b h => updHandle h (fun y => { y with delivered := true }) b) b

/-- What the attached receivers' taking granule `g` does to its handle: with its last granule a Shelf handle is delivered, or
kept for detached receivers, and a handle of the reservation is empty again (R181, R182, R197). -/
def handleTaken (n g : Nat) (b : Blk) : Blk :=
  let x := streamOf b n
  let s := sdescOf x.sd
  if s.touch || !lastOfHandle s g then b
  else if s.shelfSource then
    if x.behind = [] then shelfTaken s.srcShelf 1 b else updStream n (fun x => { x with kept := x.kept + 1 }) b
  else
    match x.buffer with
    | h :: rest => if s.shelfSink then b else emptyHandles [h] (updStream n (fun x => { x with buffer := rest }) b)
    | [] => b

/-- The granule at the sink's position with its source's address, or why it has not come. A granule in a handle whose bytes
have gone bad is fetched again from the source (R192). -/
def nextGranule (n : Nat) (b : Blk) : Blk × Granule × Stall :=
  let x := streamOf b n
  let s := sdescOf x.sd
  let g := x.position
  if s.shelfSource then
    match shelfAddr b x g with
    | none => (b, 0, .wait)
    | some a => if badHere b a then (b, 0, .bad .parity a) else (b, readGranule b a, .done)
  else
    let r := if decide (x.segment < x.fseg) || x.ahead || (x.fseg == x.segment && decide (g < x.fpos)) then (b, Stall.done)
             else fetchOne n b
    match r with
    | (b, .done) =>
      let x := streamOf b n
      let k := handleAddr (x.buffer.headD 0) + g % 1024 * 64
      if badAt b k then
        let a := if s.memSource then sideAddr x false x.segment g else tileSideAddr s x.segment g
        let v := readSource s a b
        (if v.2 = .done then putGranuleKey k v.1 (countReplays 1 b) else b, v.1, v.2)
      else (b, granuleAt b.mem k, .done)
    | (b, w) => (b, 0, w)

/-- Brings the line of a TOUCH stream's next granule into the tenant's part of the Cellar (R196). -/
def touchOne (n : Nat) (b : Blk) : Blk × Stall :=
  let x := streamOf b n
  match openSegment n false x.segment b with
  | (b, .done) =>
    let a := sideAddr (streamOf b n) false x.segment x.position
    if xstat b a ≠ .ok then (b, .page a (xstat b a))
    else
      let s := sdescOf x.sd
      let end_ := decide (x.position + 1 = s.segG)
      (updStream n (fun x => { x with
        position := x.position + 1, fetched := max x.fetched (x.segment + 1)
        fseg := if end_ then x.segment + 1 else x.segment, fpos := if end_ then 0 else x.position + 1 })
        (countMoved x.port 1 (touchLine x.port a 64 false b)), .done)
  | r => r

/-- Moves the next granule of the present segment to the sink, or says why it cannot (R171, R173, R191,
R192). -/
def deliverOne (n : Nat) (b : Blk) : Blk × Stall :=
  let x := streamOf b n
  let s := sdescOf x.sd
  let g := x.position
  if s.touch then touchOne n b
  else
    match nextGranule n b with
    | (b, v, .done) =>
      let x := streamOf b n
      let step := fun b : Blk => (updStream n (fun x => { x with position := g + 1 }) (countMoved x.port 1 (handleTaken n g b)), Stall.done)
      if s.tileSink then
        let t := tileSideAddr s x.segment g
        let tiles := attached n x
        if sinkHeld b tiles t then (b, .wait) else step (tiles.foldl (fun b u => sinkTile s t v u b) b)
      else if s.memSink then
        let t := sideAddr x false x.segment g
        if xstat b t ≠ .ok then (b, .page t (xstat b t))
        else step (touchLine x.port t 64 true (writeBytes t (leBytes 64 v.toNat) b))
      else if !lastOfHandle s g then step b
      else if 32 ≤ (shelfOf b s.snkShelf).length then (b, .wait)
      else step (shelveFull n s.snkShelf (x.buffer.headD 0) b)
    | (b, _, w) => (b, w)

/-- Moves granules until the position reaches a target or delivery stops. -/
def deliver (n target : Nat) : Nat → Blk → Blk × Stall
  | 0, b => (b, .done)
  | k + 1, b =>
    if target ≤ (streamOf b n).position then (b, .done)
    else
      let r := deliverOne n b
      match r.2 with
      | .done => deliver n target k r.1
      | w => (r.1, w)

/-- The granule that a detached receiver fetches for itself: a memory source again through the Cellar, a Shelf source from the
handles kept for it (R200). -/
def ownGranule (n g : Nat) (b : Blk) : Blk × Granule × Stall :=
  let x := streamOf b n
  let s := sdescOf x.sd
  if s.shelfSource then
    match shelfAddr b x g with
    | none => (b, 0, .wait)
    | some a => if badHere b a then (b, 0, .bad .parity a) else (b, readGranule b a, .done)
  else
    let a := sideAddr x false x.segment g
    let v := readSource s a b
    (if v.2 = .done then touchLine x.port a 64 false b else b, v.1, v.2)

/-- A receiver takes granules up to `target` for itself (R200). -/
def catchUp (n t target : Nat) : Nat → Blk → Blk × Stall
  | 0, b => (b, .done)
  | k + 1, b =>
    let x := streamOf b n
    let s := sdescOf x.sd
    let g := tabGet target x.behind t
    if target ≤ g then (b, .done)
    else
      match ownGranule n g b with
      | (b, v, .done) =>
        let at_ := tileSideAddr s x.segment g
        if sinkHeld b [t] at_ then (b, .wait)
        else catchUp n t target k (updStream n (fun x => { x with behind := tabIns t (g + 1) x.behind })
          (countMoved x.port 1 (sinkTile s at_ v t b)))
      | (b, _, w) => (b, w)

/-- Every receiver gets the rest of the segment: the attached ones together, each detached one by itself (R197, R200). -/
def deliverAll (n : Nat) (b : Blk) : Blk × Stall :=
  let x := streamOf b n
  let g := (sdescOf x.sd).segG
  match openSegment n false x.segment b with
  | (b, .done) =>
    (x.behind.map (·.1)).foldl (fun r t => match r with
      | (b, .done) => catchUp n t g g b
      | r => r) (deliver n g g b)
  | r => r

/-- What a stop of delivery does to the stream. A denied line, for which the spec gives a stream no code,
puts it in ERROR with INDEX_RANGE (DESIGN CHOICE, log entry 23). Bad parity of a memory or tile source failed every replay;
that of a Shelf handle is not fetched again (R192, R249). -/
def settleStall (n : Nat) (r : Blk × Stall) (fin : Blk → Blk) : Blk :=
  match r.2 with
  | .done => fin r.1
  | .wait => r.1
  | .page a .notPresent => haltStream n a r.1
  | .page a .denied => streamError n .indexRange a r.1
  | .page a .error => streamError n .parity a (allReplays r.1)
  | .page _ .ok => r.1
  | .bad .parity a => streamError n .parity a (if (sdescOf (streamOf r.1 n).sd).shelfSource then r.1 else allReplays r.1)
  | .bad c a => streamError n c a r.1

/-! ### Segments and runs -/

/-- What a stream does goes to external memory in its tenant's context (R297). -/
def onStream (n : Nat) (f : Blk → Blk) (b : Blk) : Blk := inCtx (streamOf b n).port f b

/-- SEGMENT_START: the tile side of a segment, or its sink, starts after WAIT_FLAG, which it clears; the memory side was checked
before. The fetch side does not wait for the flag (R172, R174, R200). -/
def startSegment (n : Nat) (b : Blk) : Blk :=
  let x := streamOf b n
  let s := sdescOf x.sd
  if x.state ≠ .running ∨ x.segStarted ∨ s.segments ≤ x.segment ∨ b.vlt.sliced.contains x.port then b
  else
    settleStall n (openSegment n false x.segment b) (fun b =>
      if s.waitEn && !flagOf b x.port s.waitFlag then fillHandles n b
      else
        let b := if s.waitEn then putFlag x.port s.waitFlag false b else b
        fillHandles n (updStream n (fun x => { x with
          segStarted := true, detached := 0, behind := [], code := .ok
          fetched := if s.shelfSource then max x.fetched (x.segment + 1) else x.fetched
          fseg := if s.shelfSource then x.segment + 1 else x.fseg }) b))

/-- SEGMENT_START (R174). -/
def execSegmentStart (n : Nat) (s : State) : Host.Outcome State Fault Refusal := onBlk (onStream n (startSegment n)) s

/-- The sink goes on to the new run when it has come to the end of the old one (R194). -/
def turnSink (x : Stream) : Stream :=
  match x.turn with
  | some (k, d, i) =>
    if k ≤ x.segment && !x.segStarted then
      { x with
        dbase := d, ibase := i, segment := 0, position := 0, turn := none, ahead := false, code := .ok
        fseg := if x.ahead then x.fseg else 0, fpos := if x.ahead then x.fpos else 0, fetched := if x.ahead then x.fetched else 0
        entries := (x.entries.filter (fun e => decide (2 ^ 32 ≤ e.1))).map (fun e => (e.1 - 2 ^ 32, e.2)) }
    else x
  | none => x

/-- The end of a segment: every receiver has it; it is counted, the next one follows, and DONE_FLAG is set (R174, R200). -/
def endSegment (n : Nat) (b : Blk) : Blk :=
  let x := streamOf b n
  let s := sdescOf x.sd
  let b := shelfTaken s.srcShelf x.kept b
  let b := updStream n (fun x => turnSink { x with
    segment := x.segment + 1, position := 0, segStarted := false
    segsDone := min (x.segsDone + 1) 0xFFFFFFFF, detached := 0, behind := [], kept := 0
    entries := tabDel (entryKey false x.segment) x.entries }) b
  let b := if s.doneEn && decide (x.port < 5) then setFlag x.port s.doneFlag b else b
  fillHandles n b

/-- SEGMENT_DONE: the rest of the segment reaches the sink and the segment ends (R174). -/
def doneSegment (n : Nat) (b : Blk) : Blk :=
  let x := streamOf b n
  if x.state = .running ∧ x.segStarted then settleStall n (deliverAll n b) (endSegment n) else b

/-- SEGMENT_DONE (R174). -/
def execSegmentDone (n : Nat) (s : State) : Host.Outcome State Fault Refusal := onBlk (onStream n (doneSegment n)) s

/-- RUN_END: the last segment of a run is finished: a persistent stream parks, any other ends (R194). Its record keeps the CODE
that a detach in the last segment left: R176 writes no other for the move (DESIGN CHOICE, log entry 80). -/
def endRun (n : Nat) (b : Blk) : Blk :=
  let x := streamOf b n
  let s := sdescOf x.sd
  if x.state ≠ .running ∨ x.segStarted ∨ x.segment < s.segments ∨ x.rearm.isSome ∨ x.turn.isSome then b
  else if s.persist && !x.endAfter then writeStatus n (updStream n (fun x => { x with state := .parked }) b)
  else endStream n x.code b

/-- RUN_END (R194). -/
def execRunEnd (n : Nat) (s : State) : Host.Outcome State Fault Refusal := onBlk (endRun n) s

/-- Takes new bases: a zero index base keeps the old one, and a stream with no memory side ignores the
value (R194). -/
def takeBases (x : Stream) (d i : Nat) : Stream :=
  if (sdescOf x.sd).hasMem then { x with dbase := d, ibase := if i = 0 then x.ibase else i } else x

/-- A new run at new bases (R171, R194). -/
def newRun (x : Stream) (d i : Nat) : Stream :=
  { takeBases x d i with
    state := .running, code := .ok, segment := 0, position := 0, segStarted := false, fetched := 0, fseg := 0, fpos := 0
    entries := [], rearm := none, turn := none, ahead := false, endAfter := false, detached := 0, behind := [] }

/-- A pending REARM: its boundary is the first segment the fetch side has issued no request of, or the end
of the run (R194). -/
def pendRearm (x : Stream) (d i : Nat) : Stream :=
  { x with rearm := some (d, i), endAfter := false, boundary := min (max x.fetched (if x.turn.isNone then x.segment else 0)) (sdescOf x.sd).segments }

/-- STREAM.REARM by stream state (Table STM-6). -/
def rearmStream (c : Cmd) (b : Blk) : Blk :=
  let n := ox c.desc 0 16
  let d := field c.desc.opa 0 48
  let i := field c.desc.opb 0 48
  let x := streamOf b n
  let s := sdescOf x.sd
  let b := match x.state with
    | .waiting =>
      if d = 0 then updStream n (fun x => { x with endAfter := s.persist }) b
      else updStream n (fun x => { takeBases x d i with endAfter := false }) b
    | .running =>
      if d = 0 then updStream n (fun x => { x with endAfter := s.persist, rearm := none }) b
      else updStream n (fun x => pendRearm x d i) b
    | .parked => if d = 0 then endStream n x.code b else fillHandles n (updStream n (fun x => newRun x d i) b)
    | .halted =>
      let b := updStream n (fun x => { x with state := .running, code := .ok, faultAddr := 0, rearm := none }) b
      if d = 0 then b else updStream n (fun x => pendRearm x d i) b
    | .error => endStream n x.code b
    | _ => b
  finishCmd c .ok 0 0 b

/-- STREAM_REARM (R194). -/
def execStreamRearm (p q : Nat) (d : Desc) (s : State) : Host.Outcome State Fault Refusal :=
  onBlk (decodeAs (· == .streamRearm) rearmStream p q d) s

/-- REARM_BOUNDARY: the fetch side has reached the boundary of the pending REARM and begins the new run at the new bases; the
sink follows when it has delivered the old one (R194). The fetch side is never more than one run ahead of the sink (DESIGN
CHOICE, log entry 29). -/
def reachBoundary (n : Nat) (b : Blk) : Blk :=
  let x := streamOf b n
  match x.rearm with
  | some (d, i) =>
    if x.state = .running ∧ x.turn.isNone ∧ x.fpos = 0 ∧ x.boundary ≤ x.fseg then
      let y := takeBases x d i
      fillHandles n (updStream n (fun x => turnSink { x with
        rearm := none, turn := some (x.boundary, y.dbase, y.ibase), ahead := true, fseg := 0, fetched := 0 }) b)
    else b
  | none => b

/-- REARM_BOUNDARY (R194). -/
def execRearmBoundary (n : Nat) (s : State) : Host.Outcome State Fault Refusal := onBlk (reachBoundary n) s

/-- STREAM_HALT: the memory-side line of granule `pos` is not present; the sink has the granules before it
(R191). -/
def stopStream (n pos : Nat) (b : Blk) : Blk :=
  let x := streamOf b n
  let s := sdescOf x.sd
  if x.state = .running ∧ x.segStarted ∧ s.hasMem ∧ x.position ≤ pos ∧ pos < s.segG then
    settleStall n (openSegment n false x.segment b) (fun b =>
      let a := sideAddr (streamOf b n) false x.segment pos
      if xstat b a = .notPresent then settleStall n (deliver n pos s.segG b) (haltStream n a) else b)
  else b

/-- STREAM_HALT (R191). -/
def execStreamHalt (n pos : Nat) (s : State) : Host.Outcome State Fault Refusal :=
  onBlk (onStream n (stopStream n pos)) s

/-- STREAM_DISARM: every handle of an ENDING stream is home; they return to the pool with their contents
and the stream is DISARMED (R185). -/
def disarmStream (n : Nat) (b : Blk) : Blk :=
  let x := streamOf b n
  if x.state ≠ .ending ∨ x.home.length ≠ x.reserved then b
  else
    let b := x.home.foldl (fun b h => updHandle h (fun _ => {}) b) b
    let b := writeStatus n (updStream n (fun x => { x with state := .disarmed, home := [], buffer := [], reserved := 0 }) b)
    if (streamOf b n).state = .disarmed then { b with streams := tabDel n b.streams } else b

/-- STREAM_DISARM (R185). -/
def execStreamDisarm (n : Nat) (s : State) : Host.Outcome State Fault Refusal := onBlk (disarmStream n) s

/-- HANDLE_RETURN: the consumer has delivered a handle, which goes back to its owner (R182). -/
def handleBack (h : Nat) (b : Blk) : Blk :=
  match (handleOf b h).cond with
  | .shelved k =>
    if (handleOf b h).delivered then returnHandle h (putShelf k ((shelfOf b k).filter (· != h)) b) else b
  | _ => b

/-- HANDLE_RETURN (R182). -/
def execHandleReturn (h : Nat) (s : State) : Host.Outcome State Fault Refusal := onBlk (handleBack h) s

/-! ### Multicast -/

/-- The position a receiver has reached. -/
def receiverPos (positions : List (Nat × Nat)) (t : Nat) : Nat := ((positions.find? (fun e => e.1 == t)).map (·.2)).getD 0

/-- Granules that the fastest attached receiver may be ahead of the slowest (R198). -/
def window : Nat := 64

/-- A multicast has stalled with its attached receivers at these positions: the fastest is a whole window ahead of the slowest,
within the segment, and not every one is the slowest (R198, R199). -/
def stalledAt (n : Nat) (x : Stream) (positions : List (Nat × Nat)) : Bool :=
  let s := sdescOf x.sd
  let ps := (attached n x).map (receiverPos positions)
  let slow := ps.foldl min s.segG
  let fast := ps.foldl max 0
  x.state == .running && x.segStarted && s.multicast && fast == slow + window && decide (x.position ≤ slow) && decide (fast < s.segG)

/-- The slowest of the attached receivers. -/
def slowOnes (n : Nat) (x : Stream) (positions : List (Nat × Nat)) : Nat × List Nat :=
  let l := attached n x
  let slow := (l.map (receiverPos positions)).foldl min (sdescOf x.sd).segG
  (slow, l.filter (fun t => receiverPos positions t == slow))

/-- Detaches the slowest receivers of a stalled multicast: the others come to the position of the fastest, and the detached ones
keep theirs; the record has CODE MULTICAST_DETACH, with a Sump record and the tenant's interrupt (R197 to R200). -/
def detachSlow (n : Nat) (positions : List (Nat × Nat)) (b : Blk) : Blk :=
  let x := streamOf b n
  let out := slowOnes n x positions
  let s := sdescOf x.sd
  settleStall n (deliver n out.1 s.segG b) (fun b =>
    let b := updStream n (fun x => { x with
      detached := out.2.foldl (fun m t => setBit m t true) x.detached
      behind := out.2.foldl (fun l t => tabIns t out.1 l) x.behind }) b
    settleStall n (deliver n (out.1 + window) s.segG b) (fun b =>
      let b := updStream n (fun x => { x with code := .multicastDetach }) b
      tenantInt x.port (streamRecord 0x03 (some .multicastDetach) n (streamOf b n).detached.toNat (writeStatus n b))))

/-! ### Shelf commands -/

/-- SHELF of HANDLE.PUSH and HANDLE.POP. -/
def oxShelf (d : Desc) : Nat := ox d 16 8
/-- HANDLE of HANDLE.PUSH. -/
def oxHandle (d : Desc) : Nat := ox d 0 16

/-- Queues a handle on a Shelf queue: a LENT handle keeps its owner, a FREE one has the pool (R183). -/
def shelveHandle (h k : Nat) (b : Blk) : Blk :=
  updHandle h (fun y => { y with cond := .shelved k, delivered := false }) (putShelf k (shelfOf b k ++ [h]) b)

/-- HANDLE.PUSH on a handle that is FREE or LENT: back to its owner, onto the queue, or a wait for room
(R183). -/
def pushHandle (c : Cmd) (b : Blk) : Blk :=
  let h := oxHandle c.desc
  let k := oxShelf c.desc
  if (handleOf b h).cond = .lent k then finishCmd c .ok 0 0 (returnHandle h b)
  else if !pushable b h then rejectCmd c .notOwner [] b
  else if (shelfOf b k).length < 32 then finishCmd c .ok 0 0 (shelveHandle h k b)
  else updCmd c.id (fun x => { x with st := .push }) b

/-- HANDLE_PUSH (R183). -/
def execHandlePush (p q : Nat) (d : Desc) (s : State) : Host.Outcome State Fault Refusal :=
  onBlk (decodeAs (· == .handlePush) pushHandle p q d) s

/-- The waiting pop or push that a row names is served when it can be: the spec gives no order among several of one queue, nor
between a waiting one and a new one (R183, R184; DESIGN CHOICE, log entry 81). -/
def servable (st : CmdState) (id : Nat) (b : Blk) : Option Cmd := (cmdOf b id).filter (fun c => c.st == st)

/-- HANDLE_PUSH_ROOM: room has appeared and the waiting push is queued (R183). -/
def pushRoom (id : Nat) (b : Blk) : Blk :=
  match servable .push id b with
  | some c => if (shelfOf b (oxShelf c.desc)).length < 32 then pushHandle c b else b
  | none => b

/-- HANDLE_PUSH_ROOM (R183). -/
def execHandlePushRoom (id : Nat) (s : State) : Host.Outcome State Fault Refusal := onBlk (pushRoom id) s

/-- HANDLE.POP: the oldest handle becomes LENT, its number in RES0; an empty queue makes it wait (R184). -/
def popHandle (c : Cmd) (b : Blk) : Blk :=
  let k := oxShelf c.desc
  match shelfOf b k with
  | h :: t => finishCmd c .ok h 0 (updHandle h (fun y => { y with cond := .lent k }) (putShelf k t b))
  | [] => updCmd c.id (fun x => { x with st := .pop }) b

/-- HANDLE_POP (R184). -/
def execHandlePop (p q : Nat) (d : Desc) (s : State) : Host.Outcome State Fault Refusal :=
  onBlk (decodeAs (· == .handlePop) popHandle p q d) s

/-- HANDLE_POP_ARRIVAL: a handle has arrived and the waiting pop takes it (R184). -/
def popArrival (id : Nat) (b : Blk) : Blk :=
  match servable .pop id b with
  | some c => if shelfOf b (oxShelf c.desc) ≠ [] then popHandle c b else b
  | none => b

/-- HANDLE_POP_ARRIVAL (R184). -/
def execHandlePopArrival (id : Nat) (s : State) : Host.Outcome State Fault Refusal := onBlk (popArrival id) s

/-! ### Resets -/

/-- The last status record of a stream that ends ABORTED; a page that translation refuses is recorded in the Sump only (R176,
R201). -/
def abortStream (n : Nat) (b : Blk) : Blk :=
  let x := streamOf b n
  let a := (sdescOf x.sd).status
  let y := { x with state := SState.disarmed, code := Code.aborted }
  if xstat (ofCtx x.port b) a = .ok then inCtx x.port (writeBytes a (statusBytes n y)) b
  else streamRecord 0x11 (some .aborted) n a b

/-- Ends every stream of a tenant with CODE ABORTED, frees every handle and empties every Shelf queue
(R201). -/
def abortStreams (p : Nat) (b : Blk) : Blk :=
  let hs := (List.range 512).filter (fun h => handleAssigned b p h)
  let ks := (List.range 64).filter (fun k => ownsShelf b p k)
  let b := (armedStreams b p).foldl (fun b n => { abortStream n b with streams := tabDel n b.streams }) b
  let b := hs.foldl (fun b h => updHandle h (fun _ => {}) b) b
  ks.foldl (fun b k => putShelf k [] b) b

end Sys2Proof.Machine
end

