-- ==== Sys2Proof/Machine/Touch.lean ====
section
/-! DEFINITION. What a command in flight touches, and which earlier commands it waits for (R71, R78, R106,
R111, R112, R263). -/
namespace Sys2Proof.Machine

/-- The logical tiles of a command's tile set on this die. -/
def setTiles (d : Desc) : List Nat :=
  match opOf d with
  | some op => if hasTset op d then tsetTiles (tsetOf d.tset) else []
  | none => []

/-- The tiles of this die that a command's block addresses lie in, the twins' with TWIN (R258). -/
def addrTiles (b : Blk) (d : Desc) (l : List Nat) : List Nat := l.flatMap (reachedTiles b d)

/-- The addresses of the blocks a block command resolves or runs through. -/
def blockAddrs (c : Cmd) : List Nat := c.blocks.flatMap (fun x => match x with | some (a, t) => [a, t] | none => [])

/-- The tiles a command uses: its tile set, its tile-store addresses, and the blocks it resolves (R263,
R273). -/
def usedTiles (b : Blk) (c : Cmd) : List Nat :=
  match opOf c.desc with
  | some op => namedTiles b op c.desc ++ addrTiles b c.desc (blockAddrs c)
  | none => []

/-- The registers a release mask names in every tile of the set (R106). -/
def maskedRegs (b : Blk) (d : Desc) : List Nat :=
  (setTiles d).flatMap (fun t => match physOf b t with
    | some p => ((List.range 16).filter (natBit (field d.opx 0 16))).map (regKey p)
    | none => [])

/-- The registers of this die that a span of bytes lies in. -/
def spanRegs (b : Blk) (s : Nat × Nat) : List Nat :=
  if s.2 = 0 then [] else
  (List.range ((s.1 + s.2 - 1) / 0x40000 + 1 - s.1 / 0x40000)).filterMap (fun i => regAt b ((s.1 / 0x40000 + i) * 0x40000))

/-- The block addresses that a command reaches in both copies (R258). -/
def reachedBlocks (c : Cmd) : List Nat := (copiesOf c.desc).flatMap (fun k => (blockAddrs c).map (twinAddr k))

/-- The registers of this die that a command names. -/
def namedRegs (b : Blk) (c : Cmd) : List Nat :=
  let d := c.desc
  let tiles := setTiles d
  let both := fun op => (tsetRegTags b tiles (srcGran op d) ++ tsetRegTags b tiles (dstGran op d)).map (·.1)
  let lists := (listSpans c).flatMap (spanRegs b)
  lists ++ match opOf d with
  | some .nop => maskedRegs b d
  | some .permGen => (tsetRegTags b tiles (srcGran .permGen d)).map (·.1)
      ++ (List.range (max 1 (oxS d))).flatMap (fun m => (tsetRegTags b tiles (memberDst d m)).map (·.1))
  | some .permIdx => both .permIdx
  | some .transpose => both .transpose
  | some .bitrev => both .bitrev
  | some .layout => both .layout
  | some .rotacc => (tsetRegTags b tiles (srcGran .rotacc d)).map (·.1)
  | some .accDrain => (tsetRegTags b tiles (dstGran .accDrain d)).map (·.1)
  | some .move =>
    if isGrid d then blockRegs b (reachedBlocks c)
    else (copiesOf d).flatMap (fun k =>
      (absRegTags b (twinGran k (srcGran .move d)) ++ absRegTags b (twinGran k (dstGran .move d))).map (·.1))
  | some .gather => blockRegs b (reachedBlocks c)
  | some .scatter => blockRegs b (reachedBlocks c)
  | some .loadRows => (rowReg b d).toList
  | some .storeRows => (rowReg b d).toList
  | _ => []

/-- A row command (R109). -/
def isRowCmd (d : Desc) : Bool := opOf d == some .loadRows || opOf d == some .storeRows

/-- Two lists share an element. -/
def anyShared (x y : List Nat) : Bool := x.any (fun a => y.contains a)

/-- The two commands may not run at once: their tile sets share a tile of this die, or one of them is a
row command on a register the other names (R71, R78, R111). -/
def conflicts (b : Blk) (x c : Cmd) : Bool :=
  anyShared (setTiles x.desc) (setTiles c.desc)
  || ((isRowCmd x.desc || isRowCmd c.desc) && anyShared (namedRegs b x) (namedRegs b c))

/-- The command's tenant waits for its time-slice turn on the tiles it uses (R293). -/
def slicedOut (b : Blk) (c : Cmd) : Bool := b.vlt.sliced.contains c.port && !(usedTiles b c).isEmpty

/-- A quad of the tiles the command uses is not in RUN (R336). -/
def asleep (b : Blk) (c : Cmd) : Bool :=
  !b.pwr.quads.isEmpty && (usedTiles b c).any (fun t => match physOf b t with
    | some p => tabGet 2 b.pwr.quads (p / 4) != 2
    | none => false)

/-- Command `x` comes before `c` on a tile of this die: in decode order, but a forwarded command goes before a local one
of the same matrix cycle (R78). -/
def precedes (x c : Cmd) : Bool :=
  if x.mc = c.mc ∧ x.home.isSome ≠ c.home.isSome then x.home.isSome else decide (x.id < c.id)

/-- The command holds the tiles and registers it uses: it has not completed, and it is no row command that has halted
(R78, R111). A command that waits for its time-slice turn, or at its table check, holds none (R21, R293). -/
def holds (b : Blk) (x : Cmd) : Bool :=
  x.st != .record && x.st != .held && !(x.st == .halted && isRowCmd x.desc) && !slicedOut b x

/-- An earlier command holds a tile or register of this one (R71, R78, R111), or the command's tenant waits for its turn
on its tiles, or for a quad to wake. -/
def mustWait (b : Blk) (c : Cmd) : Bool :=
  slicedOut b c || asleep b c || b.cmds.any (fun x => precedes x c && holds b x && conflicts b x c)

/-- A command of the tenant decoded earlier is in flight on this die, on any queue or for another die (R21). -/
def earlierOfTenant (b : Blk) (c : Cmd) : Bool :=
  b.cmds.any (fun x => decide (x.id < c.id) && x.port == c.port)

/-- A command decoded earlier on one of the queues is in flight (R153, R155). -/
def earlierOn (b : Blk) (c : Cmd) (queues : List Nat) : Bool :=
  b.cmds.any (fun x => decide (x.id < c.id) && x.port == c.port && x.home.isNone && queues.contains x.queue)

/-- An earlier-decoded command that names one of the registers is in flight and not halted (R106, R111; log entry 39). -/
def earlierNaming (b : Blk) (c : Cmd) (regs : List Nat) : Bool :=
  b.cmds.any (fun x => x.st != .halted && x.st != .record && decide (x.id < c.id) && anyShared (namedRegs b x) regs)

end Sys2Proof.Machine
end

