-- ==== Sys2Proof/Machine/Resume.lean ====
section
/-! DEFINITION. Resuming and discarding halted commands: RESUME and the halt-control words (R116 to R118). -/
namespace Sys2Proof.Machine

/-- Puts a halted command back to work from its restart record (R116, R202): a row command issues every
row whose mask bit is clear and keeps NEXT, a command with commit units goes on from NEXT, and CYCLES counts from now
(R112, R148). -/
def resumeCmd (c : Cmd) (b : Blk) : Blk :=
  let c' := { c with t0 := b.clk.tc, faultAddr := none, denied := false, interrupt := 0, reports := if c.fetched then c.reports else [] }
  match opOf c.desc with
  | some .loadRows => updCmd c.id (fun _ => { c' with st := .rows, issued := 0, back := 0 }) b
  | some .storeRows => updCmd c.id (fun _ => { c' with st := .rows, issued := 0, back := 0 }) b
  | some .modtabLoad => updCmd c.id (fun _ => { c' with st := .modtab }) b
  | some .streamArm => armStream { c' with st := .ready } (updCmd c.id (fun _ => { c' with st := .ready }) b)
  | some op =>
    if c.fetched then updCmd c.id (fun _ => { c' with st := .ready }) b
    else passDecode c' op getReady (updCmd c.id (fun _ => { c' with st := .ready }) b)
  | none => b

/-- The restart record of a halted command has wrong parity (R247, array kind 10 of Table SMP-4). -/
def restartBad (b : Blk) (c : Cmd) : Bool :=
  match (queueOf b c.port c.queue).restart with | some r => r.cmd == c.id && r.bad | none => false

/-- Resumes a halted command from its restart record. One that fails every replay of its read ends the command PARITY: its
committed units stay (R247, R248; the rules give the record's array kind and no outcome: DESIGN CHOICE, log entry 85). -/
def resumeHalted (c : Cmd) (b : Blk) : Blk :=
  if restartBad b c then
    let b := drawFresh (parityRecord (some c) 10 (Config.freePlace b.clk.fresh).toNat 0 c.unit (allReplays b))
    releaseTable (finishCmd c .parity 0 0 (clearPartial c (withdrawAll c b)))
  else resumeCmd c b

/-- Takes a RESUME that found a restart record out of flight: it writes no completion record (R116). -/
def dropResume (c : Cmd) (b : Blk) : Blk := { b with cmds := b.cmds.filter (fun x => x.id ≠ c.id) }

/-- RESUME on its queue's restart record (R116). A command already resumed goes on. -/
def resumeGo (c : Cmd) (b : Blk) : Blk :=
  match haltedOf b c.port c.queue with
  | none => rejectCmd c .shape [] b
  | some h => if h.st = .halted then resumeHalted h (dropResume c b) else dropResume c b

/-- RESUME (R116). -/
def execResume (p q : Nat) (d : Desc) (s : State) : Host.Outcome State Fault Refusal :=
  onBlk (decodeAs (fun op => op == .resume && !flagOpf0 d) resumeGo p q d) s

/-- RESUME with DISCARD on its queue's restart record (R117). -/
def discardGo (c : Cmd) (b : Blk) : Blk :=
  match haltedOf b c.port c.queue with
  | none => rejectCmd c .shape [] b
  | some h => discardCmd h (dropResume c b)

/-- DISCARD (R117). -/
def execDiscard (p q : Nat) (d : Desc) (s : State) : Host.Outcome State Fault Refusal :=
  onBlk (decodeAs (fun op => op == .resume && flagOpf0 d) discardGo p q d) s

/-- The address of a halt-control word (R118). -/
def haltWordAddr (p q : Nat) : Nat := 0x4001800000 + p * 0x40 + q * 8

/-- The CAUSE a master may answer: the control cores 2, the Vault 3 (R118). -/
def causeOf : Master → Nat
  | .cc _ => 2
  | .vault => 3
  | _ => 0

/-- The queue is halted with the cause that the master may answer; the words are those of tenant queues (R118, R166,
Table BMX-6). -/
def haltMatches (m : Master) (b : Blk) (p q : Nat) : Bool :=
  decide (p < 5) && decide (q < 4) && (queueOf b p q).state == .halted && causeOf m != 0
  && (match (queueOf b p q).restart with | some r => r.cause == causeOf m | none => false)

/-- A write to a halt-control word: an error response when both bits are set or the master and the halt do not match;
else RESUME or DISCARD acts on the halted command, and a word with neither has no effect (R118). -/
def haltWrite (m : Master) (p q : Nat) (v : BitVec 64) (b : Blk) : Blk :=
  if (bitAt v 0 && bitAt v 1) || !haltMatches m b p q then busError m true (haltWordAddr p q) b
  else match haltedOf b p q with
    | some h =>
      if bitAt v 0 then (if h.st = .halted then inCtx p (resumeHalted h) b else b)
      else if bitAt v 1 then discardCmd h b else b
    | none => b

/-- HALT_RESUME: a write to a halt-control word, with RESUME set (R118). -/
def execHaltResume (m : Master) (p q : Nat) (v : BitVec 64) (s : State) : Host.Outcome State Fault Refusal :=
  onBlk (haltWrite m p q v) s

/-- HALT_DISCARD: a write to a halt-control word, with DISCARD set (R118). -/
def execHaltDiscard (m : Master) (p q : Nat) (v : BitVec 64) (s : State) : Host.Outcome State Fault Refusal :=
  onBlk (haltWrite m p q v) s

/-- What a halt-control word reads: the CAUSE of the queue's halt, or 0 (R118). -/
def haltWord (b : Blk) (p q : Nat) : Nat :=
  if (queueOf b p q).state = .halted then
    match (queueOf b p q).restart with | some r => r.cause | none => 0
  else 0

end Sys2Proof.Machine
end

