-- ==== Sys2Proof/Machine/Control.lean ====
section
/-! DEFINITION. The control commands and their follow-ups: NOP, release, schedule epoch, FENCE, flags, the
break, the moduli table (chapter 05, R17 to R22, R106). -/
namespace Sys2Proof.Machine

/-- RELEASE mask of NOP. -/
def oxRelease (d : Desc) : Nat := ox d 0 16

/-- NOP with neither a release mask nor SET_EPOCH completes at once (R149). -/
def nopGo (c : Cmd) (b : Blk) : Blk := finishCmd c .ok 0 0 b

/-- NOP (R149). -/
def execNop (p q : Nat) (d : Desc) (s : State) : Host.Outcome State Fault Refusal :=
  onBlk (decodeAs (fun op => op == .nop && oxRelease d == 0 && !flagOpf0 d) nopGo p q d) s

/-- Loads the queue's schedule epoch from bytes 8 to 11 (R162). -/
def loadEpoch (c : Cmd) (b : Blk) : Blk :=
  if flagOpf0 c.desc then updQueue c.port c.queue (fun r => { r with schedEpoch := c.desc.w8 }) b else b

/-- SET_EPOCH: NOP with SET_EPOCH and no release mask (R162). -/
def execSetEpoch (p q : Nat) (d : Desc) (s : State) : Host.Outcome State Fault Refusal :=
  onBlk (decodeAs (fun op => op == .nop && oxRelease d == 0 && flagOpf0 d) (fun c b => nopGo c (loadEpoch c b)) p q d) s

/-- NOP with a release mask waits for the earlier commands that name a masked register (R106). -/
def releaseGo (c : Cmd) (b : Blk) : Blk := updCmd c.id (fun x => { x with st := .release }) (loadEpoch c b)

/-- RELEASE (R106). -/
def execRelease (p q : Nat) (d : Desc) (s : State) : Host.Outcome State Fault Refusal :=
  onBlk (decodeAs (fun op => op == .nop && oxRelease d != 0) releaseGo p q d) s

/-- Releases every masked register in every tile of the set on this die (R106). -/
def releaseAll (c : Cmd) (b : Blk) : Blk := (maskedRegs b c.desc).foldl (fun b k => releaseReg (k / 16) (k % 16) b) b

/-! ### FENCE -/

/-- FENCE blocks its queue (R153). -/
def fenceGo (c : Cmd) (b : Blk) : Blk := blockOn c (updCmd c.id (fun x => { x with st := .fence }) b)

/-- FENCE (R153). -/
def execFence (p q : Nat) (d : Desc) (s : State) : Host.Outcome State Fault Refusal :=
  onBlk (decodeAs (· == .fence) fenceGo p q d) s

/-- The queues a FENCE waits for: its own and those of QMASK (R153). -/
def fenceQueues (c : Cmd) : List Nat := c.queue :: setBits (ox c.desc 0 4) 4

/-- FENCE_END: nothing it waits for is in flight, so the FENCE completes OK (R153). -/
def fenceEnd (id : Nat) (b : Blk) : Blk :=
  match cmdOf b id with
  | some c => if c.st = .fence ∧ !earlierOn b c (fenceQueues c) then finishCmd c .ok 0 0 b else b
  | none => b

/-- FENCE_END (R153). -/
def execFenceEnd (id : Nat) (s : State) : Host.Outcome State Fault Refusal := onBlk (fenceEnd id) s

/-! ### Flags -/

/-- FLAG.SET waits while its queue goes on decoding (R155). -/
def flagSetGo (c : Cmd) (b : Blk) : Blk := updCmd c.id (fun x => { x with st := .flagSet }) b

/-- FLAG_SET (R155). -/
def execFlagSet (p q : Nat) (d : Desc) (s : State) : Host.Outcome State Fault Refusal :=
  onBlk (decodeAs (· == .flagSet) flagSetGo p q d) s

/-- FLAG_SET_APPLY: the earlier commands of its queue have completed; the flag is set, and for a Gallery the
set goes to every other die, whose acknowledgements the command waits for (R155). -/
def flagSetApply (id : Nat) (b : Blk) : Blk :=
  match cmdOf b id with
  | some c =>
    if c.st = .flagSet ∧ !earlierOn b c [c.queue] then
      let f := oxFlag c.desc
      if (tsetOf c.desc.tset).logD = 0 ∨ otherDies b = [] then finishCmd c .ok 0 0 (setFlag c.port f b)
      else
        let b := broadcast 8 (dieOf b) f b
        setFlag c.port f (updCmd c.id (fun x => { x with st := .drain, acks := otherDies b }) b)
    else b
  | none => b

/-- FLAG_SET_APPLY (R155). -/
def execFlagSetApply (id : Nat) (s : State) : Host.Outcome State Fault Refusal := onBlk (flagSetApply id) s

/-- FLAG.WAIT blocks its queue until its flag is set (R156). -/
def flagWaitGo (c : Cmd) (b : Blk) : Blk :=
  evalWaits c.port (oxFlag c.desc) (blockOn c (updCmd c.id (fun x => { x with st := .flagWait }) b))

/-- FLAG_WAIT (R156). -/
def execFlagWait (p q : Nat) (d : Desc) (s : State) : Host.Outcome State Fault Refusal :=
  onBlk (decodeAs (· == .flagWait) flagWaitGo p q d) s

/-- TIMEOUT of FLAG.WAIT. -/
def oxTimeout (d : Desc) : Nat := ox d 32 32

/-- The tc at whose end a wait times out, when it has a limit (R156). -/
def deadlineOf (c : Cmd) : Option Nat := if oxTimeout c.desc = 0 then none else some (c.t0 + oxTimeout c.desc)

/-- A wait whose limit has come with its flag still clear completes ABORTED, TIMEOUT tc after its decode (R148, R156). -/
def expireWait (c : Cmd) (b : Blk) : Blk := finishCmd { c with t0 := b.clk.tc - oxTimeout c.desc } .aborted 0 0 b

/-- The waits whose limit satisfies a test, in decode order. -/
def waitsDue (b : Blk) (due : Nat → Bool) : List Cmd :=
  b.cmds.filter (fun c => c.st == .flagWait && (match deadlineOf c with | some t => due t | none => false))

/-- The waits whose limit lies before the present tc complete ABORTED (R156). -/
def expireWaits (b : Blk) : Blk := (waitsDue b (fun t => decide (t < b.clk.tc))).foldl (fun b c => expireWait c b) b

/-- The FLAG.WAIT a queue is BLOCKED in. -/
def waitOfQueue (b : Blk) (p q : Nat) : Option Cmd :=
  let r := queueOf b p q
  if r.state == .blocked then b.cmds.find? (fun c => c.st == .flagWait && c.port == p && c.queue == q && r.blockedBy == some c.id)
  else none

/-- A stream that counts as a command in flight for a deadlock (R175). -/
def streamCounts (x : Stream) : Bool :=
  (x.state == .waiting || x.state == .running || x.state == .halted) && (sdescOf x.sd).doneEn

/-- The deadlock condition of R158. -/
def deadlocked (b : Blk) (p : Nat) : Bool :=
  (List.range 4).all (fun q => (queueOf b p q).state == .disabled || (waitOfQueue b p q).isSome)
  && (List.range 4).any (fun q => (waitOfQueue b p q).isSome)
  && b.cmds.all (fun c => c.port != p || c.home.isSome || c.st == .flagWait)
  && !b.streams.any (fun e => e.2.port == p && streamCounts e.2)

/-- The flag a queue awaits, in byte `q` (Table SMP-4). -/
def deadlockDetail (waits : List (Nat × Cmd)) : Nat :=
  (waits.map (fun e => oxFlag e.2.desc * 2 ^ (8 * e.1) + 2 ^ (32 + e.1))).foldl (· + ·) 0

/-- Declares FLAG_DEADLOCK on the waits still waiting (R158): one record, each wait FLAG_DEADLOCK, each such
queue STOPPED with stop cause 2. The declaring tc lies `late` tc before the present one. -/
def declareDeadlock (p late : Nat) (b : Blk) : Blk :=
  let waits := (List.range 4).filterMap (fun q => (waitOfQueue b p q).map (fun c => (q, c)))
  match waits with
  | [] => b
  | (q0, c0) :: _ =>
    let b := sumpPut 0x15 (some .flagDeadlock) p q0 c0.desc.tag.toNat 0 (deadlockDetail waits) b
    waits.foldl (fun b e => stopQueue p e.1 2 (finishCmd { e.2 with t0 := e.2.t0 + late } .flagDeadlock 0 0 b)) b

/-- FLAG_SET_MESSAGE: a die receives a forwarded flag set: it passes the set on to the dies it stands between, sets the
flag and acknowledges (R92, R155, R209). -/
def flagMessage (p f die cmd : Nat) (b : Blk) : Blk :=
  if p < 5 ∧ f < 256 ∧ isPeer b die then
    sendMsg 7 (towardsDie b die) cmd (setFlag p f (broadcast 8 die f (landMail 8 die cmd b)))
  else b

/-- FLAG_SET_MESSAGE (R155). -/
def execFlagSetMessage (p : Nat) (m : FlagBody) (s : State) : Host.Outcome State Fault Refusal :=
  onBlk (flagMessage p m.flag m.source.home m.source.cmd) s

/-! ### The break -/

/-- DEBUG.BREAK sets the break of one queue of its port (R159). R159 does not say what QUEUE 1 to 3 name when the Vault
issues it: its port has one queue, and they act on that one (DESIGN CHOICE, log entry 70). -/
def breakGo (c : Cmd) (b : Blk) : Blk :=
  let d := c.desc
  let b := updQueue c.port (ox d 0 2) (fun r => { r with
    brkMode := ox d 8 8
    brkTag := BitVec.ofNat 16 (ox d 16 16)
    brkMask := BitVec.ofNat 16 (ox d 32 16)
    brkCount := BitVec.ofNat 48 (ox d 48 48) }) b
  finishCmd c .ok 0 0 b

/-- DEBUG_BREAK (R159). -/
def execDebugBreak (p q : Nat) (d : Desc) (s : State) : Host.Outcome State Fault Refusal :=
  onBlk (decodeAs (· == .debugBreak) breakGo p q d) s

/-! ### The moduli table -/

/-- MODTAB.LOAD waits for the tenant's earlier commands (R21). -/
def modtabGo (c : Cmd) (b : Blk) : Blk := updCmd c.id (fun x => { x with st := .modtab }) b

/-- MODTAB_LOAD (R21). -/
def execModtabLoad (p q : Nat) (d : Desc) (s : State) : Host.Outcome State Fault Refusal :=
  onBlk (decodeAs (· == .modtabLoad) modtabGo p q d) s

/-- The bit length of a number below 2^64. -/
def bitLength (x : Nat) : Nat := if x = 0 then 0 else log2f 64 x + 1

/-- An entry with VALID set is well formed (R17). -/
def entryOk (w0 mu : Nat) : Bool :=
  let q := w0 % 2 ^ 62
  !natBit w0 63 || (decide (2 ≤ q) && !natBit w0 62 && mu == 2 ^ (2 * bitLength q) / q)

/-- The two words of entry `i` of an image (Table GRN-2). -/
def imageEntry (b : Blk) (image i : Nat) : Nat × Nat := (readLe b (image + 16 * i) 8, readLe b (image + 16 * i + 8) 8)

/-- The first granule of an image that a page does not answer, or whose stored bytes fail parity (R26, R248). -/
def imagePage (b : Blk) (image : Nat) : Option (Nat × RspStatus) :=
  (List.range 16).findSome? (fun i => let a := image + 64 * i; if listStat b a = .ok then none else some (a, listStat b a))

/-- Installs an image as the tenant's moduli table (R17, R21). -/
def installTable (p image : Nat) (b : Blk) : Blk :=
  { b with moduli := (List.range 64).foldl (fun t i =>
      let e := imageEntry b image i
      tabPut {} t (p * 64 + i) { q := BitVec.ofNat 64 (e.1 % 2 ^ 63), valid := natBit e.1 63, mu := BitVec.ofNat 64 e.2 }) b.moduli }

/-- MODTAB_TAKE_EFFECT: the earlier commands have completed; the image is read, checked and installed, or
the table stays, and the held table checks are made (R17, R21, R137, R165). -/
def modtabTake (id : Nat) (b : Blk) : Blk :=
  match cmdOf b id with
  | some c =>
    if c.st = .modtab ∧ !earlierOfTenant b c then
      let image := oxBase c.desc
      match imagePage b image with
      | some (a, .notPresent) => releaseTable (haltOrEnd { c with faultAddr := some a } 1 1 0 b)
      | some (_, .denied) => releaseTable (rejectCmd c .notOwner [] b)
      | some (a, _) => releaseTable (rejectCmd c .parity [] (readParity c a 0 b))
      | none =>
        if (List.range 64).all (fun i => let e := imageEntry b image i; entryOk e.1 e.2) then
          releaseTable (finishCmd c .ok 0 0 (installTable c.port image b))
        else releaseTable (rejectCmd c .indexRange [] b)
    else b
  | none => b

/-- MODTAB_TAKE_EFFECT (R21). -/
def execModtabTakeEffect (id : Nat) (s : State) : Host.Outcome State Fault Refusal := onBlk (onCmd id (modtabTake id)) s

end Sys2Proof.Machine
end

