-- ==== Sys2Proof/Machine/QueueRegs.lean ====
section
/-! DEFINITION. The tenant port registers (Table CMD-1, R133 to R138). -/
namespace Sys2Proof.Machine

/-- A queue exists: four per tenant port, one of the Vault (R132). -/
def queueExists (p q : Nat) : Bool := (decide (p < 5) && decide (q < 4)) || (p == 5 && q == 0)

/-- A QUEUE_STOP record about a value written (Table SMP-4). -/
def queueStopRecord (p q cause : Nat) (v : BitVec 32) (b : Blk) : Blk :=
  sumpPut 0x04 none p q 0 0 (cause + v.toNat * 16) b

/-- SQ_TAIL: the doorbell, refused when it would overrun the ring (R136). -/
def writeSqTail (p q : Nat) (v : BitVec 32) (b : Blk) : Blk :=
  let r := queueOf b p q
  if !queueExists p q then b
  else if ringSize r < (v - r.sqHead).toNat then queueStopRecord p q 6 v (stopQueue p q 6 b)
  else updQueue p q (fun r => { r with sqTail := v }) b

/-- SQ_TAIL (R136). -/
def execSqTail (p q : Nat) (v : BitVec 32) (s : State) : Host.Outcome State Fault Refusal := onBlk (writeSqTail p q v) s

/-- CQ_HEAD: consumed completions, refused with a record when beyond the ring (R136). -/
def writeCqHead (p q : Nat) (v : BitVec 32) (b : Blk) : Blk :=
  let r := queueOf b p q
  if !queueExists p q then b
  else if ringSize r < (r.cqTail - v).toNat then queueStopRecord p q 0 v b
  else updQueue p q (fun r => { r with cqHead := v }) b

/-- CQ_HEAD (R136). -/
def execCqHead (p q : Nat) (v : BitVec 32) (s : State) : Host.Outcome State Fault Refusal := onBlk (writeCqHead p q v) s

/-- The Vault's SRAM (Table BMX-6). -/
def inVaultSram (a : Nat) : Bool := decide (0x4000200000 ≤ a) && decide (a < 0x4000210000)

/-- A ring base lies where its queue's rings lie: external memory, or the Vault's SRAM for the Vault queue
(R132, R166), and is a multiple of 4,096. -/
def ringBaseOk (p : Nat) (v : BitVec 64) : Bool :=
  v.toNat % 4096 == 0 && (if p = 5 then inVaultSram v.toNat else regionOf v.toNat == some .external)

/-- The four conditions of R134, and an enabled active record (R290). -/
def enableOk (b : Blk) (p : Nat) (r : Queue) : Bool :=
  portEnabled b p && r.state == .disabled && ringBaseOk p r.ringBase && ringBaseOk p r.cplBase && r.restartArea.toNat % 64 == 0
  && decide (4 ≤ r.logEntries.toNat) && decide (r.logEntries.toNat ≤ 15)

/-- LOG_ENTRIES of a CONFIG write takes effect only while DISABLED (R134). -/
def takeLogEntries (config : BitVec 32) (r : Queue) : Queue :=
  if r.state = .disabled then { r with logEntries := BitVec.ofNat 5 (field config 0 5) } else r

/-- A queue just enabled (R134, R159, R162). -/
def enabledQueue (r : Queue) : Queue :=
  { r with
    enable := true, state := .running, cause := 0, sqTail := 0, sqHead := 0, cqTail := 0, cqHead := 0, count := 0
    schedEpoch := 0, brkMode := 0, brkTag := 0, brkMask := 0, brkCount := 0, brkSkip := false
    blockedBy := none, pendingStop := none, restart := none, cplWait := [] }

/-- A CONFIG write that sets ENABLE: accepted under R134, else ENABLE stays clear and the cause reads 7. -/
def enableQueue (b : Blk) (config : BitVec 32) (p : Nat) (r : Queue) : Queue :=
  if r.enable then r
  else
    let r := takeLogEntries config r
    if enableOk b p r then enabledQueue r else { r with cause := 7 }

/-- ENABLE (R134). -/
def execEnable (p q : Nat) (config : BitVec 32) (s : State) : Host.Outcome State Fault Refusal :=
  onBlk (fun b => if queueExists p q && bitAt config 8 then updQueue p q (enableQueue b config p) b else b) s

/-- The queue reads DISABLED once nothing of it is in flight (R138). -/
def drained (p q : Nat) (b : Blk) : Blk :=
  if (inFlight b p q).isEmpty then
    updQueue p q (fun r => if !r.enable && r.cplWait.isEmpty && r.state != .disabled then { r with state := .disabled, cause := 0 } else r) b
  else b

/-- A CONFIG write that clears ENABLE: decoding stops, a halted command is discarded, and the queue reads
DISABLED once nothing of it is in flight (R138). No rule says what STATE shows until then: RUNNING and BLOCKED stay, and
HALTED becomes STOPPED with the command discarded (DESIGN CHOICE, log entry 69). -/
def disableQueue (p q : Nat) (config : BitVec 32) (b : Blk) : Blk :=
  let r := queueOf b p q
  if !r.enable then updQueue p q (takeLogEntries config) b
  else
    let h := if r.restart.isSome then haltedOf b p q else none
    let b := updQueue p q (fun r => { r with enable := false, pendingStop := none,
                                             state := if r.state = .halted then .stopped else r.state }) b
    drained p q (match h with | some c => discardCmd c b | none => b)

/-- DISABLE (R138). -/
def execDisable (p q : Nat) (config : BitVec 32) (s : State) : Host.Outcome State Fault Refusal :=
  onBlk (fun b => if queueExists p q && !bitAt config 8 then disableQueue p q config b else b) s

/-- The state START returns a stopped queue to: HALTED while a halted command stands, BLOCKED while a wait
is pending, else RUNNING (R138; HALTED is DEDUCED, log entry 24). -/
def startedQueue (r : Queue) : Queue :=
  match r.restart with
  | some x => { r with state := .halted, cause := x.cause }
  | none => { r with
      state := if r.blockedBy.isSome then .blocked else .running
      cause := 0 }

/-- CONTROL.START (R137, R138, R160). -/
def startQueue (p q : Nat) (b : Blk) : Blk :=
  if (queueOf b p q).state = .stopped then drained p q (repostCpl p q (updQueue p q startedQueue b)) else b

/-- START: CONTROL with START and not STOP (R138). -/
def execStart (p q : Nat) (control : BitVec 32) (s : State) : Host.Outcome State Fault Refusal :=
  onBlk (fun b => if queueExists p q && bitAt control 0 && !bitAt control 1 then startQueue p q b else b) s

/-- CONTROL.STOP (R138). -/
def controlStop (p q : Nat) (b : Blk) : Blk :=
  match (queueOf b p q).state with
  | .running | .blocked => stopQueue p q 4 b
  | .halted => updQueue p q (fun r => { r with pendingStop := some 4 }) b
  | _ => b

/-- STOP: CONTROL with STOP and not START (R138). -/
def execStop (p q : Nat) (control : BitVec 32) (s : State) : Host.Outcome State Fault Refusal :=
  onBlk (fun b => if queueExists p q && bitAt control 1 && !bitAt control 0 then controlStop p q b else b) s

/-- A write to RING_BASE, CPL_BASE or RESTART_AREA, which takes effect only while DISABLED; the read-only
registers and the offsets Table CMD-1 does not name ignore writes (R133, R134). -/
def regWrite (off : Nat) (v : BitVec 64) (r : Queue) : Queue :=
  if r.state ≠ .disabled then r
  else match off % 0x40 with
    | 0x00 => { r with ringBase := v }
    | 0x08 => { r with cplBase := v }
    | 0x10 => { r with restartArea := v }
    | _ => r

/-- TENANT_REGISTER_WRITE (R134). -/
def execTenantRegisterWrite (p off : Nat) (v : BitVec 64) (s : State) : Host.Outcome State Fault Refusal :=
  onBlk (fun b => if decide (off < 0x100) && queueExists p (off / 0x40) then updQueue p (off / 0x40) (regWrite off v) b else b) s

/-- The value of a queue state (Table CMD-2). -/
def qstateVal : QState → Nat
  | .disabled => 0 | .running => 1 | .blocked => 2 | .stopped => 3 | .halted => 4

/-- STATE: the state and the stop cause (Tables CMD-1, CMD-2). -/
def stateWord (r : Queue) : Nat := qstateVal r.state + r.cause % 16 * 16

/-- What a register of the page reads (Table CMD-1); offsets it does not name, and CONTROL, read zero. -/
def tenantRegRead (b : Blk) (p off : Nat) : Nat :=
  if off < 0x100 then
    let r := queueOf b p (off / 0x40)
    match off % 0x40 with
    | 0x00 => r.ringBase.toNat
    | 0x08 => r.cplBase.toNat
    | 0x10 => r.restartArea.toNat
    | 0x18 => r.logEntries.toNat + (if r.enable then 256 else 0)
    | 0x1C => stateWord r
    | 0x20 => r.sqTail.toNat
    | 0x24 => r.sqHead.toNat
    | 0x28 => r.cqTail.toNat
    | 0x2C => r.cqHead.toNat
    | 0x38 => r.count.toNat
    | _ => 0
  else if off = 0x100 then b.vlt.epoch.toNat
  else if off = 0x104 then p
  else 0

end Sys2Proof.Machine
end

