-- ==== Sys2Proof/Machine/Exchange.lean ====
section
/-! DEFINITION. Where the granules of a tile-set command lie and go: its places and maps, the phase controls of one die, and
the die exchange of a Gallery command over BULK runs (R77, R79, R81, R84 to R94, R227, R241). -/
namespace Sys2Proof.Machine

/-! ### Places and operands -/

/-- This die's rank among the places of the command: 0 outside a Gallery (R75, R79). -/
def rankFor (b : Blk) (d : Desc) : Nat := if (tsetOf d.tset).logD = 0 then 0 else b.gal.rank

/-- Where an operand of a tile-set command lies in a place's tile (R77): the key of its granule, none when
the tile is not bound. -/
def placeKey (b : Blk) (d : Desc) (copy u a : Nat) : Option Nat :=
  (physOf b (placeTile d copy u)).map (fun p => frameKey p (addrReg a) (addrOff a))

/-- The granule at a key, zero for none. -/
def granuleKey (b : Blk) : Option Nat → Granule
  | some k => granuleAt b.mem k
  | none => 0

/-- The modulus of limb word `w` of plane `q` of a command. -/
def limbMod (b : Blk) (c : Cmd) (q w : Nat) : Nat := modulusOf b c.port (planeOf c.desc.w8).b q w

/-- Planes of a permutation's share. -/
def planesOf (d : Desc) : Nat := (planeOf d.w8).p

/-! ### The maps of the catalogue -/

/-- The map of a command with a closed form: the source of an output position of the whole domain and
whether it is negated (R38, R48, R49, R53, R54). `k` is the Galois element. -/
def closedMap (op : Op) (d : Desc) (k j : Nat) : Nat × Bool :=
  let w := planeOf d.w8
  match op with
  | .transpose =>
    let lh := ox d 0 8
    batched (2 ^ w.logn) (fun j => (transposeSource (2 ^ lh) (2 ^ (w.logn - lh)) j, false)) j
  | .bitrev => batched (2 ^ w.logn) (fun j => (bitrevSource (ox d 0 8) j, false)) j
  | _ => batched (2 ^ w.logn) (galoisSource w.dom w.logn k) j

/-- The Galois element of member `i` (R46, R51, Table PRM-3). -/
def elementOf (c : Cmd) (i : Nat) : Nat :=
  match opOf c.desc with
  | some .permGen => if oxS c.desc ≤ 1 then ox c.desc 0 18 else c.entries.getD i 0 % 2 ^ 18
  | _ => c.entries.getD i 0 % 2 ^ 18

/-- NEG of member `i` of ROTACC (Table PRM-3). -/
def memberNeg (c : Cmd) (i : Nat) : Bool := natBit (c.entries.getD i 0) 31

/-- The member whose map a pass of a command follows: that of the series' unit, or the ROTACC's own (R51, R67). -/
def elementNow (op : Op) (c : Cmd) (member : Nat) : Nat := elementOf c (if op = .rotacc then member else c.unit)

/-! ### Phase controls -/

/-- The phase controls of one die: what L1 and X or X1 bring to offset `c` of place `u` (source place, source offset,
negated), the steps of Y with their dimensions and masks, and which bank offset X2 and L2 take to offset `o` of place `u`. -/
structure Controls where
  first : Nat → Nat → Option (Nat × Nat × Bool)
  steps : List (Nat × (Nat → Nat → Bool))
  last : Nat → Nat → Option (Nat × Nat)

/-- This die's sections of the stream that a PERM.IDX names, under the header that the fetch engine has read (R88, R93). -/
def sectionsOf (b : Blk) (c : Cmd) : Sections :=
  { header := headerOf (c.header.getD 0), base := oxPcs c.desc, m := shareOf c.desc, places := placesPerDie c.desc
    rank := rankFor b c.desc }

/-- Compiled controls. L1 negates the granules whose index entry has NEG (R91). -/
def compiledControls (b : Blk) (c : Cmd) : Controls :=
  let x := sectionsOf b c
  let rd := readByte b
  { first := fun u o => (x.first rd u o).map (fun p =>
      (p / x.m, p % x.m, natBit (c.entries.getD (x.rank * x.places * x.m + p) 0) 31))
    steps := (List.range x.header.logD).map (fun s => (x.dim s, x.mask rd s))
    last := fun u o => (x.last rd u o).map (fun p => (p / x.m, p % x.m)) }

/-- Where the generator's bit permutation takes bit `i` of a position (R53, R54). -/
def bitTo (op : Op) (d : Desc) (i : Nat) : Nat :=
  let logn := (planeOf d.w8).logn
  match op with
  | .transpose =>
    let lh := ox d 0 8
    if logn ≤ i then i else if i < logn - lh then i + lh else i - (logn - lh)
  | _ => let w := ox d 0 8; if i < w then w - 1 - i else i

/-- The bits that a bit permutation leads to from bit `i`, one after the other, as long as they pass a test. -/
def bitChain (img : Nat → Nat) (ok : Nat → Bool) : Nat → Nat → List Nat
  | 0, _ => []
  | n + 1, i => if ok (img i) then img i :: bitChain img ok n (img i) else []

/-- Whether an odd number of the bits are set in a position. -/
def oddBits (p : Nat) (l : List Nat) : Bool := (l.filter (natBit p)).length % 2 == 1

/-- Flips each bit `i` from `lo` to below `hi` of a position when an odd number of its chain's bits are set there. -/
def flipBits (chain : Nat → List Nat) (lo hi p : Nat) : Nat :=
  (List.range (hi - lo)).foldl (fun x i => if oddBits p (chain (lo + i)) then Nat.xor x (2 ^ (lo + i)) else x) p

/-- The shape of a Gallery domain: bits of an offset, of a place on its die, and of a rank. -/
structure DomainBits where
  m : Nat
  u : Nat
  d : Nat
  deriving DecidableEq, Repr

/-- The domain bits of a command (R79). -/
def domainBits (d : Desc) : DomainBits :=
  ⟨log2f 32 (shareOf d), log2f 32 (placesPerDie d), (tsetOf d.tset).logD⟩

/-- The bank place of a bit permutation's granule from source position `p`: each offset bit is flipped by the place bits
downstream of it, and each tile bit by the rank bits downstream of it, so that every exchange spreads over all places. -/
def bankOfBits (op : Op) (d : Desc) (p : Nat) : Nat :=
  let x := domainBits d
  let offs := bitChain (bitTo op d) (fun i => decide (x.m ≤ i) && decide (i < x.m + x.u + x.d)) 32
  let tiles := bitChain (bitTo op d) (fun i => decide (x.m + x.u ≤ i) && decide (i < x.m + x.u + x.d)) 32
  let low := flipBits offs 0 x.m p
  low % 2 ^ x.m + flipBits tiles x.m (x.m + x.u) p / 2 ^ x.m * 2 ^ x.m

/-- The source position of the granule at a bank place: `bankOfBits` turned round, tile bits first. -/
def sourceOfBank (op : Op) (d : Desc) (v : Nat) : Nat :=
  let x := domainBits d
  let offs := bitChain (bitTo op d) (fun i => decide (x.m ≤ i) && decide (i < x.m + x.u + x.d)) 32
  let tiles := bitChain (bitTo op d) (fun i => decide (x.m + x.u ≤ i) && decide (i < x.m + x.u + x.d)) 32
  flipBits offs 0 x.m (flipBits tiles x.m (x.m + x.u) v)

/-- The output position that a source position goes to under a bit permutation. -/
def permuteBits (op : Op) (d : Desc) (p : Nat) : Nat :=
  ((List.range 32).filter (natBit p)).foldl (fun x i => x + 2 ^ bitTo op d i) 0

/-- The output position of the granule that generated L1 and X1 bring to offset `o` of place `u` of rank `r`: in EVAL the
place and offset are those of the output, in COEF those of the source, otherwise the generator's bank place (R86, R87,
Table PHA-3; the slot schedule is the model's, DESIGN CHOICE, log entry 72). -/
def genAt (op : Op) (d : Desc) (k r u o : Nat) : Nat :=
  let m := shareOf d
  let places := placesPerDie d
  let w := planeOf d.w8
  let at_ := (r * places + u) * m + o
  match op with
  | .transpose | .bitrev => permuteBits op d (sourceOfBank op d at_)
  | _ =>
    if w.dom = 0 then at_ / 2 ^ w.logn * 2 ^ w.logn + at_ % 2 ^ w.logn * k % 2 ^ w.logn
    else (((List.range (tsetOf d.tset).d).map (fun x => (x * places + u) * m + o)).find?
      (fun j => (closedMap op d k j).1 / m / places == r)).getD at_

/-- The bank place that holds the granule of output position `j` before X2 and L2, as place and offset. -/
def genBank (op : Op) (d : Desc) (k j : Nat) : Nat × Nat :=
  let m := shareOf d
  let at_ := match op with
    | .transpose | .bitrev => bankOfBits op d (closedMap op d k j).1
    | _ => if (planeOf d.w8).dom = 0 then (closedMap op d k j).1 else j
  (at_ / m % placesPerDie d, at_ % m)

/-- The generator's order of dimensions: along each run of rank bits from its start, so that every pair of partners swaps. -/
def genDims (op : Op) (d : Desc) : List Nat :=
  let x := domainBits d
  let lo := x.m + x.u
  let isRank := fun i => decide (lo ≤ i) && decide (i < lo + x.d)
  match op with
  | .transpose | .bitrev =>
    ((List.range x.d).filter (fun e => !(List.range x.d).any (fun f => f != e && bitTo op d (lo + f) == lo + e))).flatMap
      (fun e => e :: ((bitChain (bitTo op d) (fun i => isRank i && i != lo + e) x.d (lo + e)).map (· - lo)))
  | _ => List.range x.d

/-- The rank of an output position. -/
def rankAt (d : Desc) (j : Nat) : Nat := j / shareOf d / placesPerDie d

/-- The output position of the granule that rank `r` holds at an offset after some steps, the last step first: a granule
moves along a dimension when its own rank differs there (R94). -/
def heldAfter (d : Desc) (start : Nat → Nat) : List Nat → Nat → Nat
  | [], r => start r
  | e :: done, r =>
    let j := heldAfter d start done r
    if natBit (rankAt d j) e != natBit r e then heldAfter d start done (Nat.xor r (2 ^ e)) else j

/-- The mask of a generated step: rank `r` swaps the offset when its granule's own rank differs along the dimension. -/
def genMask (op : Op) (d : Desc) (k : Nat) (done : List Nat) (e r u o : Nat) : Bool :=
  natBit (rankAt d (heldAfter d (fun x => genAt op d k x u o) done r)) e != natBit r e

/-- Some pair of ranks swaps an offset in the step; a step in which none does is omitted (R86). -/
def genUsed (op : Op) (d : Desc) (k : Nat) (done : List Nat) (e : Nat) : Bool :=
  (List.range (tsetOf d.tset).d).any (fun r => (List.range (placesPerDie d)).any (fun u =>
    (List.range (shareOf d)).any (fun o => genMask op d k done e r u o)))

/-- Generated controls in a Gallery, for the member with element `k` (R86, R87, Table PHA-3). -/
def generatedControls (b : Blk) (op : Op) (d : Desc) (k : Nat) : Controls :=
  let r := rankFor b d
  let m := shareOf d
  let dims := genDims op d
  { first := fun u o =>
      let s := closedMap op d k (genAt op d k r u o)
      some (s.1 / m % placesPerDie d, s.1 % m, s.2)
    steps := (dims.zipIdx.filter (fun x => genUsed op d k (dims.take x.2).reverse x.1)).map (fun x =>
      (x.1, fun u o => genMask op d k (dims.take x.2).reverse x.1 r u o))
    last := fun u o => some (genBank op d k ((r * placesPerDie d + u) * m + o)) }

/-- The phase controls of a member of a Gallery command. -/
def controlsOf (b : Blk) (op : Op) (c : Cmd) (member : Nat) : Controls :=
  if op = .permIdx then compiledControls b c else generatedControls b op c.desc (elementNow op c member)

/-! ### The banks of a Gallery command (R81) -/

/-- Members whose phases one unit runs: those of a ROTACC (R67, R87). -/
def membersIn (op : Op) (d : Desc) : Nat := if op = .rotacc then oxS d else 1

/-- The key of a slot of a tile's bank. -/
def bankKey (member tile slot : Nat) : Nat := (member * 64 + tile) * 16384 + slot

/-- A granule in a bank, if a phase has filled its slot. -/
def bankAt (c : Cmd) (member tile slot : Nat) : Option BankGran := tabFind c.bank (bankKey member tile slot)

/-- The tiles of the set with their copy and place. -/
def copyPlaces (d : Desc) : List (Nat × Nat × Nat) :=
  (copiesOf d).flatMap (fun k => (List.range (placesPerDie d)).map (fun u => (placeTile d k u, k, u)))

/-- The slots of a share: plane and offset. -/
def shareSlots (d : Desc) : List (Nat × Nat) :=
  (List.range (planesOf d)).flatMap (fun q => (List.range (shareOf d)).map (fun o => (q, o)))

/-- A source granule as L1 leaves it: read, negated with its active words' moduli when the map says so, with its sign tag
(R37, R81, R252). -/
def readIn (b : Blk) (op : Op) (c : Cmd) (copy q : Nat) (src : Nat × Nat × Bool) : BankGran :=
  let d := c.desc
  let w := planeOf d.w8
  let k := placeKey b d copy src.1 ((srcGran op d).addr q src.2.1)
  let g := granuleKey b k
  { val := if src.2.2 then negGranule (limbMod b c q) (activeWords w.p w.a q) g else g
    neg := src.2.2, far := false, bad := match k with | some x => badAt b x | none => false }

/-- L1 and X1 of a member fill the banks of every place. -/
def fillMember (b : Blk) (op : Op) (c : Cmd) (ctl : Controls) (member : Nat) : Tab BankGran :=
  (copyPlaces c.desc).foldl (fun t x => (shareSlots c.desc).foldl (fun t y =>
    match ctl.first x.2.2 y.2 with
    | some s => tabIns (bankKey member x.1 (y.1 * shareOf c.desc + y.2)) (readIn b op c x.2.1 y.1 s) t
    | none => t) t) c.bank

/-! ### The die exchange (R94, R227) -/

/-- The package dimension of Gallery dimension `e` (R241). -/
def packageDim (b : Blk) (e : Nat) : Nat := (freeDims b.gal.members.toNat).getD e 0

/-- Blocks of 64 slots in a tile's share (R94). -/
def shareBlocks (d : Desc) : Nat := planesOf d * shareOf d / 64

/-- The slots of block `n` of a tile whose mask bit is set, ascending. -/
def maskedSlots (d : Desc) (mask : Nat → Bool) (n : Nat) : List Nat :=
  ((List.range 64).map (· + 64 * n)).filter (fun s => mask (s % shareOf d))

/-- What a bank slot sends: an offset that nothing has reached reads zero (R91). -/
def sentFrom (c : Cmd) (tile slot : Nat) : BankGran := (bankAt c c.member tile slot).getD ⟨0, false, false, false⟩

/-- The runs of a step, tile by tile and block by block. A block with no set mask bit has its run too, so that the partner
sees the end of the step and unequal counts (R91; DESIGN CHOICE, log entry 73). -/
def stepRuns (c : Cmd) (s : Nat) (mask : Nat → Nat → Bool) : List (BulkRun × Bool) :=
  (copyPlaces c.desc).flatMap (fun x => (List.range (shareBlocks c.desc)).map (fun n =>
    let l := (maskedSlots c.desc (mask x.2.2) n).map (sentFrom c x.1)
    ({ step := s, tile := x.1, first := n, granules := l.map (fun g => (g.val, g.neg)) }, l.any (·.bad))))

/-- Flits of a message or run of some bytes: 248 body bytes each, and each begins a flit (Table GAL-2; log entry 73). -/
def flitsFor (bytes : Nat) : Nat := ceilDiv bytes 248

/-- Sends the flits of one message of a class, POISON when its bytes have bad parity (R232). -/
def transmitBytes (k cls bytes : Nat) (poison : Bool) (b : Blk) : Blk :=
  (List.range (flitsFor bytes)).foldl (fun b _ => transmitFlit k cls poison b) b

/-- Deals the runs of a step over the working ports of its dimension, round robin in ascending port number (R227). -/
def sendRuns (e : Nat) (l : List (BulkRun × Bool)) (b : Blk) : Blk :=
  let ports := workingPorts b (packageDim b e)
  if ports = [] then b
  else l.zipIdx.foldl (fun b x =>
    let k := ports.getD (x.2 % ports.length) 0
    let b := { b with out := { b.out with runs := b.out.runs ++ [(k, x.1.1)] } }
    transmitBytes k 0 (8 + 64 * x.1.1.granules.length) x.1.2 b) b

/-- The oldest run that has arrived for a block of a tile in a step, over a port of the step's dimension (R241). -/
def runFor (b : Blk) (e s tile n : Nat) : Option Arrived :=
  b.gal.bulk.find? (fun a => portDim b a.port == packageDim b e && a.run.step == s && a.run.tile == tile && a.run.first == n)

/-- Every block of the step has arrived. -/
def stepArrived (b : Blk) (d : Desc) (e s : Nat) : Bool :=
  (copyPlaces d).all (fun x => (List.range (shareBlocks d)).all (fun n => (runFor b e s x.1 n).isSome))

/-- Lands one block's run in a tile's bank: the masked offsets give up what they sent and take what has come, in order;
a run of another count leaves the partners unequal (R91, R94). -/
def landRun (c : Cmd) (tile : Nat) (slots : List Nat) (a : Arrived) : Cmd :=
  let kept := slots.foldl (fun t s => tabDel (bankKey c.member tile s) t) c.bank
  { c with
    bank := (slots.zip a.run.granules).foldl (fun t x => tabIns (bankKey c.member tile x.1) ⟨x.2.1, x.2.2, true, a.poison⟩ t) kept
    uneven := c.uneven || a.run.granules.length != slots.length }

/-- Takes the runs of a step out of the arrivals and into the banks. -/
def landStep (c : Cmd) (e s : Nat) (mask : Nat → Nat → Bool) (b : Blk) : Cmd × Blk :=
  (copyPlaces c.desc).foldl (fun (x : Cmd × Blk) y => (List.range (shareBlocks c.desc)).foldl (fun (x : Cmd × Blk) n =>
    match runFor x.2 e s y.1 n with
    | some a => (landRun x.1 y.1 (maskedSlots c.desc (mask y.2.2) n) a,
        { x.2 with gal := { x.2.gal with bulk := x.2.gal.bulk.erase a } })
    | none => x) x) (c, b)

/-- Drops the runs that have arrived for some tiles: their command has ended. -/
def dropBulk (tiles : List Nat) (b : Blk) : Blk :=
  { b with gal := { b.gal with bulk := b.gal.bulk.filter (fun a => !tiles.contains a.run.tile) } }

/-- Carries the exchange of a Gallery command on as far as the runs that have arrived allow: member by member and step by
step (R87, R94). The result says whether it has come to its end. -/
def exchange (op : Op) : Nat → Cmd → Blk → Cmd × Blk × Bool
  | 0, c, b => (c, b, true)
  | fuel + 1, c, b =>
    if membersIn op c.desc ≤ c.member then (c, b, true)
    else
      let ctl := controlsOf b op c c.member
      let c := if c.step = 0 ∧ !c.stepSent then { c with bank := fillMember b op c ctl c.member } else c
      match ctl.steps[c.step]? with
      | none => exchange op fuel { c with member := c.member + 1, step := 0, stepSent := false } b
      | some (e, mask) =>
        let b := if c.stepSent then b else sendRuns e (stepRuns c c.step mask) b
        let c := { c with stepSent := true }
        if stepArrived b c.desc e c.step then
          let x := landStep c e c.step mask b
          exchange op fuel { x.1 with step := x.1.step + 1, stepSent := false } x.2
        else (c, b, false)

/-- Fuel for every step of every member. -/
def exchangeFuel (op : Op) (d : Desc) : Nat := membersIn op d * 4 + 1

/-- The granule that X2 and L2 bring to an offset of a place, and its bank entry. -/
def landedAt (op : Op) (b : Blk) (c : Cmd) (member copy q u o : Nat) : Option BankGran :=
  ((controlsOf b op c member).last u o).bind (fun x =>
    bankAt c member (placeTile c.desc copy x.1) (q * shareOf c.desc + x.2))

end Sys2Proof.Machine
end

