-- ==== Sys2Proof/Machine/Passes.lean ====
section
/-! DEFINITION. What the passes of a tile-set command's commit unit bring into the phase banks, and both
sides of its tally (chapters 02, 03, 09). -/
namespace Sys2Proof.Machine

/-- What one copy's passes leave: whether every granule has come, the landed granules by place of this die
and bank slot, both sides' tally terms, the terms of landed granules that other dies sent, the words that must be zero, and
the granules read, by place and key. -/
structure CopyOut where
  ready : Bool := true
  landed : List (Nat × Nat × Granule) := []
  ins : List Term := []
  outs : List Term := []
  far : List Term := []
  pads : List Nat := []
  reads : List (Nat × Nat) := []

/-- The upset of a copy's landed granule, as one mask (Table TLY-4). -/
def upsetMask (ev : UnitEvent) (copy index : Nat) : Granule :=
  (ev.upsets.filter (fun x => x.copy == copy && x.index == index)).foldl (fun m x => m ^^^ x.mask) 0

/-! ### Permutations: PERM.GEN, PERM.IDX, TRANSPOSE, BITREV -/

/-- Every move a permutation means: source position, destination position, negated (R48, R60). -/
def intended (op : Op) (c : Cmd) : List (Nat × Nat × Bool) :=
  let w := planeOf c.desc.w8
  match op with
  | .permIdx => (c.entries.zipIdx.map (fun x => (x.2, x.2 / 2 ^ w.logn * 2 ^ w.logn + x.1 % 2 ^ 23, natBit x.1 31)))
  | _ => (List.range w.n).map (fun j => let s := closedMap op c.desc (elementOf c c.unit) j; (s.1, j, s.2))

/-- The granule that lands at offset `o` of place `u` of a command on one die, as source place, offset and sign. For
PERM.IDX the compiled phases decide it (R62, R91). -/
def landing (b : Blk) (op : Op) (c : Cmd) (member : Nat) : Nat → Nat → Option (Nat × Nat × Bool) :=
  let m := shareOf c.desc
  match op with
  | .permIdx =>
    let x := sectionsOf b c
    fun u o => (x.run (readByte b) u o).map (fun p => (p / m, p % m, natBit (c.entries.getD p 0) 31))
  | _ => fun u o => let s := closedMap op c.desc (elementNow op c member) (u * m + o); some (s.1 / m, s.1 % m, s.2)

/-- The granule that lands at a slot of a copy for one member: through this die's phases, or out of the banks that a Gallery
exchange has filled. -/
def arrive (b : Blk) (op : Op) (c : Cmd) (member copy q u o : Nat) : Option BankGran :=
  if (tsetOf c.desc.tset).logD = 0 then (landing b op c member u o).map (readIn b op c copy q)
  else landedAt op b c member copy q u o

/-- The source key of a position held on this die, with its place. -/
def sourceOf (b : Blk) (op : Op) (d : Desc) (copy q i : Nat) : Nat × Option Nat :=
  let m := shareOf d
  let u := i / m % placesPerDie d
  (u, placeKey b d copy u ((srcGran op d).addr q (i % m)))

/-- A slot of one copy: plane, place of this die, offset. -/
def slotsOf (planes places m : Nat) : List (Nat × Nat × Nat) :=
  (List.range planes).flatMap (fun q => (List.range places).flatMap (fun u => (List.range m).map (fun o => (q, u, o))))

/-- One copy of a permutation's unit. -/
def permCopy (b : Blk) (op : Op) (c : Cmd) (ev : UnitEvent) (copy : Nat) : CopyOut :=
  let d := c.desc
  let w := planeOf d.w8
  let m := shareOf d
  let u0 := placesPerDie d
  let r := rankFor b d
  let modular := isModular op d
  let got := (slotsOf w.p u0 m).zipIdx.map (fun e =>
    let (q, u, o) := e.1
    (q, u, o, arrive b op c 0 copy q u o, upsetMask ev copy e.2))
  let mine := (intended op c).filter (fun x => x.1 / m / u0 == r)
  let terms := fun (e : Nat × Nat × Nat × Option BankGran × Granule) => match e.2.2.2.1 with
    | some x =>
      let g := x.val ^^^ e.2.2.2.2
      granuleTerms (r * u0 + e.2.1) e.1 (activeWords w.p w.a e.1) ((r * u0 + e.2.1) * m + e.2.2.1) x.neg
        (fun l => landedNu modular x.neg (limbMod b c e.1 l) (gword g l))
    | none => []
  { landed := got.map (fun e => (e.2.1, e.1 * m + e.2.2.1, (match e.2.2.2.1 with | some x => x.val | none => 0) ^^^ e.2.2.2.2))
    ins := (List.range w.p).flatMap (fun q => mine.flatMap (fun x =>
      let g := granuleKey b (sourceOf b op d copy q x.1).2
      granuleTerms (x.2.1 / m) q (activeWords w.p w.a q) x.2.1 x.2.2
        (fun l => sourceNu modular (limbMod b c q l) (gword g l))))
    outs := got.flatMap terms
    far := (got.filter (fun e => match e.2.2.2.1 with | some x => x.far | none => false)).flatMap terms
    reads := (List.range w.p).flatMap (fun q => mine.filterMap (fun x =>
      let s := sourceOf b op d copy q x.1
      s.2.map (fun k => (s.1, k)))) }

/-! ### ROTACC -/

/-- The ACC key that output slot (plane, offset) of a place has (R68). -/
def accKeyAt (b : Blk) (d : Desc) (copy u q o : Nat) : Option Nat :=
  (physOf b (placeTile d copy u)).map (fun p => frameKey p 24 (addrOff ((dstGran .rotacc d).addr q o)))

/-- The contributions of every member to a slot of a place, with the map's sign applied, and the member's NEG (R67). -/
def contributions (b : Blk) (c : Cmd) (copy q u o : Nat) : List (Option BankGran × Bool) :=
  (List.range (oxS c.desc)).map (fun i => (arrive b .rotacc c i copy q u o, memberNeg c i))

/-- A word of the new ACC contents: the old word plus the signed sum, reduced (R20, R67). -/
def sumWord (q old : Nat) (l : List (Nat × Bool)) : Nat :=
  l.foldl (fun acc x => if x.2 then addMod q acc (negMod q x.1) else addMod q acc x.1) (old % q)

/-- A granule in the bank, or the zero of an offset that nothing has reached (R91). -/
def bankVal (x : Option BankGran) : Granule := match x with | some g => g.val | none => 0

/-- One copy of ROTACC: ACC plus the running sum, formed in a bank frame, and its tally modulo each q
(R67 to R69, R256). -/
def rotaccCopy (b : Blk) (c : Cmd) (ev : UnitEvent) (copy : Nat) : CopyOut :=
  let d := c.desc
  let w := planeOf d.w8
  let m := shareOf d
  let u0 := placesPerDie d
  let r := rankFor b d
  let act := fun q => activeWords w.p w.a q
  let slots := slotsOf w.p u0 m
  let got := slots.zipIdx.map (fun e =>
    let (q, u, o) := e.1
    let j := (r * u0 + u) * m + o
    let old := granuleKey b (accKeyAt b d copy u q o)
    let cs := contributions b c copy q u o
    let new := gmake (fun l => if l < act q then
      sumWord (limbMod b c q l) (gword old l) (cs.map (fun (x : Option BankGran × Bool) => (gword (bankVal x.1) l, x.2))) else 0)
    (q, u, o, j, old, cs, new ^^^ upsetMask ev copy e.2))
  { landed := got.map (fun e => (e.2.1, e.1 * m + e.2.2.1, e.2.2.2.2.2.2))
    ins := got.flatMap (fun e =>
        let (q, _, _, j, old, _, _) := e
        granuleTerms (j / m) q (act q) j false (fun l => gword old l % limbMod b c q l))
      ++ (List.range (oxS d)).flatMap (fun i => (List.range w.p).flatMap (fun q =>
        ((List.range w.n).filter (fun j => (closedMap .rotacc d (elementOf c i) j).1 / m / u0 == r)).flatMap (fun j =>
          let s := closedMap .rotacc d (elementOf c i) j
          let g := granuleKey b (sourceOf b .rotacc d copy q s.1).2
          granuleTerms (j / m) q (act q) j (xor s.2 (memberNeg c i)) (fun l => gword g l % limbMod b c q l))))
    outs := got.flatMap (fun e =>
      let (q, _, _, j, _, _, new) := e
      granuleTerms (j / m) q (act q) j false (fun l => gword new l % limbMod b c q l))
    far := got.flatMap (fun e =>
      let (q, _, _, j, _, cs, _) := e
      cs.flatMap (fun (x : Option BankGran × Bool) => match x.1 with
        | some g => if g.far then
            granuleTerms (j / m) q (act q) j (xor g.neg x.2) (fun l => landedNu true g.neg (limbMod b c q l) (gword g.val l))
          else []
        | none => []))
    pads := got.flatMap (fun e => ((List.range 8).filter (fun l => decide (act e.1 ≤ l))).map (gword e.2.2.2.2.2.2))
    reads := (List.range (oxS d)).flatMap (fun i => (List.range w.p).flatMap (fun q =>
        (List.range w.n).filterMap (fun j =>
          let s := closedMap .rotacc d (elementOf c i) j
          if s.1 / m / u0 = r then
            let k := sourceOf b .rotacc d copy q s.1
            k.2.map (fun x => (k.1, x))
          else none)))
      ++ slots.filterMap (fun e => (accKeyAt b d copy e.2.1 e.1 e.2.2).map (fun k => (e.2.1, k))) }

/-! ### ACC.DRAIN -/

/-- One copy of ACC.DRAIN: the first n granules of each ACC, bit for bit (R70, Table TLY-3). -/
def drainCopy (b : Blk) (c : Cmd) (ev : UnitEvent) (copy : Nat) : CopyOut :=
  let d := c.desc
  let n := ox d 0 16
  let u0 := placesPerDie d
  let r := rankFor b d
  let key := fun (u g : Nat) => (physOf b (placeTile d copy u)).map (fun p => frameKey p 24 (64 * g))
  let got := (slotsOf 1 u0 n).zipIdx.map (fun e =>
    (e.1.2.1, e.1.2.2, granuleKey b (key e.1.2.1 e.1.2.2), upsetMask ev copy e.2))
  let terms := fun (x : Nat × Nat × Granule) => granuleTerms (r * u0 + x.1) 0 8 ((r * u0 + x.1) * n + x.2.1) false (gword x.2.2)
  { landed := got.map (fun e => (e.1, e.2.1, e.2.2.1 ^^^ e.2.2.2))
    ins := got.flatMap (fun e => terms (e.1, e.2.1, e.2.2.1))
    outs := got.flatMap (fun e => terms (e.1, e.2.1, e.2.2.1 ^^^ e.2.2.2))
    reads := got.filterMap (fun e => (key e.1 e.2.1).map (fun k => (e.1, k))) }

/-! ### LAYOUT -/

/-- One copy of LAYOUT: the words of every output granule, and the limb-wise tally (R55 to R59, R254, R257). -/
def layoutCopy (b : Blk) (c : Cmd) (ev : UnitEvent) (copy : Nat) : CopyOut :=
  let d := c.desc
  let (mode, l, alpha, logd, sp, dp) := layoutParams d
  let dd := 2 ^ logd
  let u0 := placesPerDie d
  let r := rankFor b d
  let (gs, gd) := match layoutPlanes mode l alpha dd with
    | some x => (x.1.2, x.2.2)
    | none => (0, 0)
  let src := fun u q o => granuleKey b (placeKey b d copy u ((srcGran .layout d).addr q o))
  let inWord := fun u x j => let w := layoutInWord mode alpha x j; gword (src u w.1 w.2.1) w.2.2
  let got := (slotsOf dp u0 gd).zipIdx.map (fun e =>
    let (pl, u, g) := e.1
    let v := gmake (fun w => match layoutOutWord mode l alpha pl g w with
      | some (x, j) => inWord u x j
      | none => 0)
    (pl, u, g, v ^^^ upsetMask ev copy e.2))
  { landed := got.map (fun e => (e.2.1, e.1 * gd + e.2.2.1, e.2.2.2))
    ins := (List.range u0).flatMap (fun u => (List.range l).flatMap (fun x => (List.range dd).map (fun j =>
      ⟨r * u0 + u, x, j, false, inWord u x j⟩)))
    outs := got.flatMap (fun e => (List.range 8).filterMap (fun w =>
      (layoutOutWord mode l alpha e.1 e.2.2.1 w).map (fun (x : Nat × Nat) => ⟨r * u0 + e.2.1, x.1, x.2, false, gword e.2.2.2 w⟩)))
    pads := got.flatMap (fun e => (List.range 8).filterMap (fun w =>
      if (layoutOutWord mode l alpha e.1 e.2.2.1 w).isNone then some (gword e.2.2.2 w) else none))
    reads := (List.range sp).flatMap (fun q => (List.range u0).flatMap (fun u => (List.range gs).filterMap (fun o =>
      (placeKey b d copy u ((srcGran .layout d).addr q o)).map (fun k => (u, k))))) }

/-- One copy of a tile-set command's unit. -/
def setCopy (b : Blk) (op : Op) (c : Cmd) (ev : UnitEvent) (copy : Nat) : CopyOut :=
  match op with
  | .rotacc => rotaccCopy b c ev copy
  | .accDrain => drainCopy b c ev copy
  | .layout => layoutCopy b c ev copy
  | _ => permCopy b op c ev copy

/-- The modulus a command's residues are taken by at a limb position: M, or q for a modular sum (R251, R256). -/
def residueMod (b : Blk) (op : Op) (c : Cmd) (lam : Nat) : Nat :=
  if op = .rotacc ∨ isAccumulate op c.desc then limbMod b c (lam / 8) (lam % 8) else tallyM

end Sys2Proof.Machine
end

