-- ==== Sys2Proof/Machine/Route.lean ====
section
/-! DEFINITION. Cross-die requests (R227, Table GAL-3). -/
namespace Sys2Proof.Machine

/-- A cross-die request of a command is outstanding for an address. -/
def requested (b : Blk) (id a : Nat) (write : Bool) : Bool :=
  b.gal.xreq.any (fun e => e.2.cmd == some id && e.2.addr == a && e.2.write == write)

/-- No tag, no flag. -/
def noMark : RegMark := ⟨0, 0, 0, false, false⟩

/-- Sends a cross-die read or write of one granule, for a command or for a master of the bus matrix (R227, Table GAL-3). -/
def sendRequestOf (id : Option Nat) (m : Option Master) (a : Nat) (write : Bool) (v : Granule) (mark : RegMark) (b : Blk) : Blk :=
  let r : XReq := { cmd := id, port := (requestPort b a).getD 0, addr := a, write := write, data := v, mark := mark, master := m }
  transmitBytes r.port 1 (if write then 80 else 16) false { b with gal := { b.gal with xreq := tabIns b.gal.nextTxn r b.gal.xreq, nextTxn := (b.gal.nextTxn + 1) % 4096 } }

/-- Sends a cross-die request of a command. -/
def sendRequest (id : Option Nat) (a : Nat) (write : Bool) (v : Granule) (mark : RegMark) (b : Blk) : Blk :=
  sendRequestOf id none a write v mark b

/-- The granules of other dies a unit reads and has not been sent yet are requested. -/
def requestReads (id : Nat) (addrs : List Nat) (b : Blk) : Blk :=
  addrs.foldl (fun b a =>
    if isRemote b a && (tabFind b.gal.remote a).isNone && !requested b id a false then sendRequest (some id) a false 0 noMark b else b) b

/-- Every granule of another die that a unit reads has come. -/
def readsHere (b : Blk) (addrs : List Nat) : Bool :=
  addrs.all (fun a => !isRemote b a || (tabFind b.gal.remote a).isSome)

/-- Drops the granules of other dies that a unit has used. -/
def dropRemote (addrs : List Nat) (b : Blk) : Blk :=
  { b with gal := { b.gal with
      remote := tabKeep (fun k => !addrs.contains k) b.gal.remote
      remoteRegs := tabKeep (fun k => !(addrs.map (· / 0x40000)).contains k) b.gal.remoteRegs
      remoteBad := b.gal.remoteBad.filter (fun a => !addrs.contains a) } }

/-- The granules of other dies among a list of addresses that came with wrong parity (R232). -/
def remoteFails (b : Blk) (addrs : List Nat) : List Nat := addrs.filter (fun a => isRemote b a && b.gal.remoteBad.contains a)

/-- The registers of other dies among a list of addresses, as their dies told them. -/
def remoteMarks (b : Blk) (addrs : List Nat) : List RegMark :=
  ((addrs.filter (isRemote b)).map (· / 0x40000)).eraseDups.map (fun k => tabGet noMark b.gal.remoteRegs k)

end Sys2Proof.Machine
end

