-- ==== Sys2Proof/Machine/Integrity.lean ====
section
/-! DEFINITION. Parity events, attributed faults, and the Sump records of a failed unit (R248, R253, R260,
R262, R287). -/
namespace Sys2Proof.Machine

/-- The first key read whose stored bytes have bad parity. -/
def firstBad (b : Blk) (keys : List Nat) : Option Nat := keys.find? (badAt b)

/-- Meets the parity errors of a unit's attempts: a stored error fails them all, others are replayed up to
REPLAY_LIMIT times (R248, Table TLY-1). True when every attempt failed. No rule gives WHERE of a moduli entry: it is
a free value (log entry 5). -/
def meetParity (c : Cmd) (unit : Nat) (table : Bool) (keys : List Nat) (ev : List ParityEvent) (b : Blk) : Blk × Bool :=
  let limit := b.dict.replayLimit.toNat
  if table then (parityRecord (some c) 9 (Config.freePlace b.clk.fresh).toNat 0 unit (allReplays (drawFresh b)), true)
  else match firstBad b keys with
    | some k =>
      let s := storedPlace k
      let b := if isFrameKey k then attributeAttempts (keyTile k) (limit + 1) b else b
      (parityRecord (some c) s.1 s.2.1 s.2.2 unit (allReplays b), true)
    | none =>
      let met := ev.take (limit + 1)
      let b := met.foldl (fun b e => match e.tile with | some p => attributeFault p b | none => b) b
      if ev.length ≤ limit then (countReplays ev.length b, false)
      else match met.getLast? with
        | none => (b, false)
        | some e =>
          let same := met.all (fun x => x == e)
          let b := match e.tile with
            | some p => if same && decide (2 ≤ met.length) then markDue p b else b
            | none => b
          let lane := if isFrameKey e.addr then e.addr / 0x10000 % 4 else 0
          (parityRecord (some c) (arrayNo e.kind) e.addr lane unit (allReplays b), true)

/-- A parity error in one attempt of a Gallery command's unit: array kind, place, lane, and the tile it is attributed to. -/
structure AttemptError where
  kind : Nat
  place : Nat
  lane : Nat
  tile : Option Nat
  deriving DecidableEq, Repr

/-- The parity error that one attempt of a Gallery command's unit meets on this die: a moduli entry, stored bytes, a POISON
run, or an event in flight. No rule gives WHERE of a moduli entry or of a POISON run (free values, log entry 5). -/
def attemptError (b : Blk) (table poison : Bool) (keys : List Nat) (ev : List ParityEvent) : Option AttemptError :=
  let free := (Config.freePlace b.clk.fresh).toNat
  if table then some ⟨9, free, 0, none⟩
  else match firstBad b keys with
    | some k =>
      let s := storedPlace k
      some ⟨s.1, s.2.1, s.2.2, if isFrameKey k then some (keyTile k) else none⟩
    | none =>
      if poison then some ⟨12, free, 0, none⟩
      else ev.head?.map (fun e => ⟨arrayNo e.kind, e.addr, if isFrameKey e.addr then e.addr / 0x10000 % 4 else 0, e.tile⟩)

/-- Meets the parity errors of one attempt of a Gallery command's unit. The result is the command with its attempts, and
whether the attempt failed: some true when no replay is left (R248, R262). -/
def meetAttempt (c : Cmd) (table poison : Bool) (keys : List Nat) (ev : List ParityEvent) (b : Blk) : Blk × Cmd × Option Bool :=
  match attemptError b table poison keys ev with
  | none => (b, c, none)
  | some x =>
    let c := { c with attempts := c.attempts ++ [x.place] }
    let b := drawFresh (match x.tile with | some p => attributeFault p b | none => b)
    if c.attempts.length ≤ b.dict.replayLimit.toNat then (b, c, some false)
    else
      let same := decide (2 ≤ c.attempts.length) && c.attempts.all (· == x.place)
      let b := match x.tile with
        | some p => if same then markDue p b else b
        | none => b
      (parityRecord (some c) x.kind x.place x.lane c.unit b, c, some true)

/-- The limb mask of disagreements (Table SMP-4). -/
def limbMask (dis : List (Nat × Nat)) : Nat := maskOf ((dis.map (·.2)).filter (fun l => decide (l < 64)))

/-- Disagreeing places. -/
def disPlaces (dis : List (Nat × Nat)) : List Nat := (dis.map (·.1)).eraseDups

/-- A TALLY record (Table SMP-4). After a collision its place is the receiving tile's, as R85 asks, whichever places
disagree besides (DESIGN CHOICE, log entry 74). -/
def tallyRecord (c : Cmd) (places : List Nat) (limbs : Nat) (z : Bool) (coll : Option (Nat × Nat)) (unit : Nat) (b : Blk) : Blk :=
  let first := match coll with
    | some (_, t) => t
    | none => places.foldl min (places.headD 0)
  sumpPut 0x12 (some .tallyMismatch) c.port c.queue c.desc.tag.toNat limbs
    (first % 512 + min places.length 511 * 2 ^ 9 + (if z then 2 ^ 18 else 0) + (if coll.isSome then 2 ^ 19 else 0)
      + ((coll.map (·.1)).getD 0) * 2 ^ 20 + unit * 2 ^ 34) b

/-- A TWIN record, which holds both outcomes (R260, Table SMP-4). -/
def twinRecord (c : Cmd) (code : Code) (dis : List (Nat × Nat)) (prim twin diff : Bool) (place unit : Nat) (b : Blk) : Blk :=
  sumpPut 0x13 (some code) c.port c.queue c.desc.tag.toNat (limbMask dis)
    ((if prim then 1 else 0) + (if twin then 2 else 0) + (if diff then 4 else 0) + place % 512 * 8 + unit * 2 ^ 12) b

/-- Counts a TALLY_MISMATCH of generated phase controls against a physical tile; at RETIRE_LIMIT counts
within one second a TALLY_REPEAT record is written (R287). -/
def countRepeat (p : Nat) (b : Blk) : Blk :=
  let l := recordTime b.clk.tick (tabGet [] b.vlt.repeats p)
  let b := { b with vlt := { b.vlt with repeats := tabPut [] b.vlt.repeats p l } }
  if l.length = b.dict.retireLimit.toNat then raiseAlert 10 (sumpPut 0x23 none 6 0 0 p l.length b) else b

end Sys2Proof.Machine
end

