-- ==== Sys2Proof/Machine/Commit.lean ====
section
/-! DEFINITION. Commit units: their checks, their outcome and their commit, on one die and in a Gallery
(R44, R82, R92, R95, R103, R253 to R260, R269 to R272). -/
namespace Sys2Proof.Machine

/-! ### Units of a command -/

/-- Commit units of a command (Table PRM-1). -/
def unitsOf (d : Desc) : Nat :=
  match opOf d with
  | some .permGen => max 1 (oxS d)
  | some .gather => ceilDiv (oxN d) 16
  | some .scatter => ceilDiv (oxN d) 16
  | some .move => if isGrid d then ceilDiv (oxN d) 16 else 1
  | _ => 1

/-- A command with several commit units (Table PRM-1). -/
def multiUnit (d : Desc) : Bool :=
  match opOf d with
  | some .permGen => decide (1 < oxS d)
  | some .gather => true
  | some .scatter => true
  | some .move => isGrid d
  | _ => false

/-- A command whose unit runs over a tile set. -/
def isSetCmd (op : Op) : Bool :=
  match op with
  | .permGen | .permIdx | .transpose | .bitrev | .layout | .rotacc | .accDrain | .accClear => true
  | _ => false

/-- A command whose present unit is tried again from its untouched source (R248). -/
def againUnit (c : Cmd) : Cmd :=
  { c with st := .ready, member := 0, step := 0, stepSent := false, bank := [], uneven := false, reports := [] }

/-- A command at the start of a unit. -/
def freshUnit (c : Cmd) : Cmd := { (againUnit c) with attempts := [], commitSent := false }

/-- Ends a unit that has committed: the residues are added (R255) and the command goes on or completes. -/
def unitDone (c : Cmd) (r0 r1 : Nat) (b : Blk) : Blk :=
  let s0 := (c.res0 + r0) % tallyM
  let s1 := (c.res1 + r1) % tallyM
  if c.unit + 1 < unitsOf c.desc then
    let c' := { (freshUnit c) with unit := c.unit + 1, res0 := s0, res1 := s1 }
    let b := updCmd c.id (fun _ => c') b
    if c.interrupt ≠ 0 then haltOrEnd c' c.interrupt 1 0 b else b
  else finishCmd c .ok s0 s1 b

/-- Completes a command whose unit failed: units before it stay. The residues of a failed TALLY_MISMATCH
cover the committed units, or the one unit of a whole-command unit (R44, R148, R255). -/
def unitFails (c : Cmd) (code : Code) (r0 r1 : Nat) (b : Blk) : Blk :=
  if multiUnit c.desc then finishCmd c code c.res0 c.res1 b else finishCmd c code r0 r1 b

/-! ### Pass start (R101 to R103, R119) -/

/-- The code of the pass-start stage over the registers read and their shapes (Table SMP-2). -/
def tagCheck (b : Blk) (d : Desc) (tags : List (Nat × Tag)) : Option Code :=
  if anyPartial b (tags.map (·.1)) then some .partialRead
  else if flagReshape d then none
  else if tags.all (fun x => tagMatches (regOf b x.1) x.2) then none else some .shapeMismatch

/-- The registers a command reads, with the shapes it reads them in. -/
def readTags (b : Blk) (op : Op) (c : Cmd) : List (Nat × Tag) :=
  let d := c.desc
  match op with
  | .permGen | .permIdx | .transpose | .bitrev | .layout | .rotacc => tsetRegTags b (setTiles d) (srcGran op d)
  | .move =>
    if isGrid d then (copiesOf d).flatMap (fun k => (blockRegs b ((c.blocks.filterMap id).map (fun x => twinAddr k x.1))).map (fun r => (r, fullTag)))
    else (copiesOf d).flatMap (fun k => absRegTags b (twinGran k (srcGran op d)))
  | .gather => (copiesOf d).flatMap (fun k => (blockRegs b ((c.blocks.filterMap id).map (fun x => twinAddr k x.1))).map (fun r => (r, fullTag)))
  | .scatter => (copiesOf d).flatMap (fun k => (blockRegs b ((c.blocks.filterMap id).flatMap (fun x =>
      if oxMode d = 2 then [twinAddr k x.1, twinAddr k x.2] else [twinAddr k x.1]))).map (fun r => (r, fullTag)))
  | _ => []

/-- The pass-start check: block commands check PARTIAL only (R101, R103, R119). -/
def passStart (b : Blk) (op : Op) (c : Cmd) : Option Code :=
  let tags := readTags b op c
  match op with
  | .permGen | .permIdx | .transpose | .bitrev | .layout | .rotacc => tagCheck b c.desc tags
  | .move => if isGrid c.desc then (if anyPartial b (tags.map (·.1)) then some .partialRead else none) else tagCheck b c.desc tags
  | .gather | .scatter => if anyPartial b (tags.map (·.1)) then some .partialRead else none
  | _ => none

/-- The command's writes are key-class: KEY set, or a KEY register or ACC read (R104, R122). -/
def keyClass (b : Blk) (op : Op) (c : Cmd) : Bool :=
  flagKey c.desc || anyKey b ((readTags b op c).map (·.1))
  || (op == .accDrain && (setTiles c.desc).any (fun t => match physOf b t with
      | some p => tabGet false b.accKey p
      | none => false))

/-! ### The commit of a tile-set unit -/

/-- The planes and granules per plane of a unit's output. -/
def outShape (op : Op) (d : Desc) : Nat × Nat :=
  match op with
  | .accDrain => (1, ox d 0 16)
  | .layout =>
    let (mode, l, alpha, logd, _, dp) := layoutParams d
    (dp, match layoutPlanes mode l alpha (2 ^ logd) with | some x => x.2.2 | none => 0)
  | _ => ((planeOf d.w8).p, shareOf d)

/-- The destination of the present unit: a series member's lies at the series stride (R51). -/
def unitDst (op : Op) (c : Cmd) : Gran :=
  let g := dstGran op c.desc
  match op with
  | .permGen => { g with base := ((g.base : Int) + (c.unit : Int) * oxSStride c.desc).toNat }
  | _ => g

/-- The destination share starts at offset 0 of a register and covers whole registers densely (R82). -/
def renames (op : Op) (c : Cmd) : Bool :=
  let g := unitDst op c
  let (planes, m) := outShape op c.desc
  op != .rotacc && g.base % 0x40000 == 0 && planes * m % 4096 == 0 && planes * m != 0
  && (List.range planes).all (fun q => (List.range m).all (fun o => g.addr q o == g.base + 64 * (q * m + o)))

/-- Writes a unit's landed granules into the phase banks (R81). -/
def fillBanks (d : Desc) (copy : Nat) (landed : List (Nat × Nat × Granule)) (b : Blk) : Blk :=
  landed.foldl (fun b x => match physOf b (placeTile d copy x.1) with
    | some p => putGranuleKey (frameKey p 16 (64 * x.2.1)) x.2.2 b
    | none => b) b

/-- Exchanges `n` bytes between two places, with their parity marks. -/
def swapKeys (x y n : Nat) (b : Blk) : Blk :=
  let go := fun k => if x ≤ k ∧ k < x + n then k - x + y else if y ≤ k ∧ k < y + n then k - y + x else k
  { b with mem := memSwap b.mem x y n, bad := b.bad.map go }

/-- Commits one place of one copy: by renaming, or by copying the bank into the destination (R82); for
ROTACC the bank frame takes the place of ACC (R256). -/
def commitPlace (op : Op) (c : Cmd) (copy u : Nat) (b : Blk) : Blk :=
  match physOf b (placeTile c.desc copy u) with
  | none => b
  | some p =>
    let g := unitDst op c
    let (planes, m) := outShape op c.desc
    if renames op c then swapKeys (frameKey p (addrReg g.base) 0) (frameKey p 16 0) (64 * planes * m) b
    else (List.range planes).foldl (fun b q => (List.range m).foldl (fun b o =>
      let a := g.addr q o
      let k := if op = .rotacc then frameKey p 24 (addrOff a) else frameKey p (addrReg a) (addrOff a)
      putGranuleKey k (granuleAt b.mem (frameKey p 16 (64 * (q * m + o)))) b) b) b

/-- Sets the KEY flag of a physical tile's ACC (R122). -/
def setAccKey (p : Nat) (v : Bool) (b : Blk) : Blk := { b with accKey := tabPut false b.accKey p v }

/-- The physical tiles of the command's set. -/
def setPhys (b : Blk) (d : Desc) : List Nat := (setTiles d).filterMap (physOf b)

/-- What a commit leaves beside the data: tags and flags of the registers written, the ACC KEY flag, and the
ACC granules a CLEAR zeroes (R70, R100, R104, R122). -/
def commitMarks (op : Op) (c : Cmd) (key : Bool) (b : Blk) : Blk :=
  let d := c.desc
  match op with
  | .rotacc => if key then (setPhys b d).foldl (fun b p => setAccKey p true b) b else b
  | .accDrain =>
    let n := ox d 0 16
    let b := markWrites (tsetRegTags b (setTiles d) (unitDst op c)) key b
    if flagOpf0 d then
      (setPhys b d).foldl (fun b p => let b := zeroKeys (frameKey p 24 0) (64 * n) b; if n = 4096 then setAccKey p false b else b) b
    else b
  | _ => markWrites (tsetRegTags b (setTiles d) (unitDst op c)) key b

/-- Commits a unit in every place and copy of this die. -/
def commitSet (op : Op) (c : Cmd) (key : Bool) (b : Blk) : Blk :=
  let b := (copiesOf c.desc).foldl (fun b k => (List.range (placesPerDie c.desc)).foldl (fun b u => commitPlace op c k u b) b) b
  commitMarks op c key b

/-! ### The checks of a tile-set unit -/

/-- How one copy's tally came out: the disagreeing places and limbs, and whether Z is nonzero (R253, R254). -/
structure Tallied where
  dis : List (Nat × Nat)
  z : Bool
  deriving DecidableEq, Repr

/-- One copy failed its tally. -/
def Tallied.fails (t : Tallied) : Bool := !t.dis.isEmpty || t.z

/-- The terms of places of this die. -/
def ownTerms (b : Blk) (d : Desc) (l : List Term) : List Term := l.filter (fun t => t.place / placesPerDie d == rankFor b d)

/-- The tally of one copy over this die's places. In a Gallery the die knows the input side of its own source granules only:
the granules that other dies sent count on both sides, and the sums over all dies judge them (R253; DEDUCED, log entry
74). -/
def tallied (b : Blk) (op : Op) (c : Cmd) (o : CopyOut) : Tallied :=
  ⟨disagreements (residueMod b op c) (ownTerms b c.desc o.ins ++ o.far) o.outs, zResidue o.pads != 0⟩

/-- The collision of a compiled stream's exchanges on this die: the slot and the receiving place (R85). -/
def collides (b : Blk) (op : Op) (c : Cmd) : Option (Nat × Nat) :=
  if op = .permIdx then
    ((sectionsOf b c).collides (readByte b)).map (fun x => (x.1, rankFor b c.desc * placesPerDie c.desc + x.2))
  else none

/-- The first place at which two copies' landed granules differ. -/
def firstDiffer (x y : List (Nat × Nat × Granule)) : Option Nat :=
  ((x.zip y).find? (fun e => e.1.2.2 != e.2.2.2)).map (fun e => e.1.1)

/-- Counts a mismatch of generated controls against the tiles of the disagreeing places (R287). -/
def countPlaces (op : Op) (c : Cmd) (copy : Nat) (t : Tallied) (b : Blk) : Blk :=
  if op = .permIdx then b
  else (disPlaces t.dis).foldl (fun b g => match physOf b (placeTile c.desc copy (g % placesPerDie c.desc)) with
    | some p => countRepeat p b
    | none => b) b

/-- Attributes a twin difference to the copy whose own tally failed alone (R262). -/
def attributeTwin (c : Cmd) (t0 t1 : Tallied) (diff : Bool) (b : Blk) : Blk :=
  if diff && (t0.fails != t1.fails) then
    let copy := if t0.fails then 0 else 1
    let t := if t0.fails then t0 else t1
    (disPlaces t.dis).foldl (fun b g => match physOf b (placeTile c.desc copy (g % placesPerDie c.desc)) with
      | some p => attributeFault p b
      | none => b) b
  else b

/-- The integrity checks of a tile-set unit and their records: none, TALLY_MISMATCH or TWIN_MISMATCH. A collision of a TWIN
command has its TALLY record, which names slot and tile, beside the TWIN record with both outcomes (R85, R91, R253, R254,
R260, R272; DESIGN CHOICE, log entry 74). -/
def checkSet (op : Op) (c : Cmd) (outs : List CopyOut) (b : Blk) : Blk × Option Code :=
  let ts := outs.map (tallied b op c)
  let coll := collides b op c
  let t0 := ts.headD ⟨[], false⟩
  match outs with
  | [_] =>
    if t0.fails || coll.isSome || c.uneven then
      (countPlaces op c 0 t0 (tallyRecord c (disPlaces t0.dis) (limbMask t0.dis) t0.z coll c.unit b), some .tallyMismatch)
    else (b, none)
  | [o0, o1] =>
    let t1 := ts.getD 1 ⟨[], false⟩
    let place := firstDiffer o0.landed o1.landed
    let bad := t0.fails || t1.fails || coll.isSome || c.uneven
    if bad || place.isSome then
      let code := if bad then Code.tallyMismatch else .twinMismatch
      let dis := if t0.fails then t0.dis else t1.dis
      let b := if coll.isSome then tallyRecord c (disPlaces dis) (limbMask dis) (t0.z || t1.z) coll c.unit b else b
      let b := twinRecord c code dis t0.fails t1.fails place.isSome (place.getD 0) c.unit b
      let b := if bad then countPlaces op c 1 t1 (countPlaces op c 0 t0 b) else b
      (attributeTwin c t0 t1 place.isSome b, some code)
    else (b, none)
  | _ => (b, none)

/-! ### The Gallery (R92, R95, R272) -/

/-- Limb positions of a command's tally. -/
def limbCount (op : Op) (d : Desc) : Nat :=
  match op with
  | .accDrain => 8
  | .layout => (layoutParams d).2.1
  | _ => 8 * ((planeOf d.w8).p - 1) + (planeOf d.w8).a

/-- The S0 and S1 of each limb position over a die's places. -/
def perLimb (b : Blk) (op : Op) (c : Cmd) (l : List Term) : List (Nat × Nat) :=
  (List.range (limbCount op c.desc)).map (fun lam =>
    let t := l.filter (fun x => x.lam == lam)
    (residue (residueMod b op c lam) false t, residue (residueMod b op c lam) true t))

/-- The stage and rank of a code in the stages after the fetch check (R269, R272). -/
def stageOf (code : Code) : Nat × Nat :=
  match code with
  | .partialRead => (2, 0) | .shapeMismatch => (2, 1)
  | .aborted => (3, 0) | .linkLost => (3, 1) | .notOwner => (3, 2) | .faultResumable => (3, 3) | .parity => (3, 4)
  | .tallyMismatch => (3, 5) | .twinMismatch => (3, 6) | .flagDeadlock => (3, 7)
  | _ => (3, 8)

/-- The code with a value of Table SMP-1. -/
def codeOfVal (v : Nat) : Code :=
  ([Code.ok, .faultResumable, .align, .shape, .shapeMismatch, .partialRead, .aliasWrite, .indexRange, .dupDest,
    .absentUnit, .notOwner, .scheduleStale, .flagDeadlock, .parity, .tallyMismatch, .twinMismatch, .linkLost, .zeroised,
    .aborted].find? (fun c => codeVal c == v)).getD .aborted

/-- The rank of a reported code within its stage (Table SMP-2). -/
def rankIn (stage : Nat) (code : Code) : Nat :=
  match stage with
  | 0 => decodeOrder.idxOf code
  | 1 => fetchOrder.idxOf code
  | _ => (stageOf code).2

/-- The code the home die chooses from the reports: the earliest stage, then the first-ranked code (R272). -/
def chooseCode (l : List ReportBody) : Option Code :=
  let es := l.filterMap (fun r => r.error.map (fun e => (e.1, codeOfVal e.2)))
  (es.foldl (fun best e => match best with
    | none => some e
    | some x => if e.1 < x.1 ∨ (e.1 = x.1 ∧ rankIn e.1 e.2 < rankIn x.1 x.2) then some e else best) none).map (·.2)

/-- A sum of one residue over the reports. -/
def sumLimb (m lam : Nat) (f : ReportBody → List (Nat × Nat)) (l : List ReportBody) : Nat × Nat :=
  let s := l.foldl (fun (acc : Nat × Nat) r => let x := (f r).getD lam (0, 0); (acc.1 + x.1, acc.2 + x.2)) (0, 0)
  (s.1 % m, s.2 % m)

/-- The limb positions whose sums over all dies disagree (R253). -/
def galleryDis (b : Blk) (op : Op) (c : Cmd) (l : List ReportBody) : List Nat :=
  (List.range (limbCount op c.desc)).filter (fun lam =>
    sumLimb (residueMod b op c lam) lam (·.ins) l != sumLimb (residueMod b op c lam) lam (·.outs) l)

/-- RES0 and RES1 over all dies (R92, R255, R256). -/
def galleryRes (l : List ReportBody) : Nat × Nat :=
  let s := l.foldl (fun (acc : Nat × Nat) r => (acc.1 + r.res.1, acc.2 + r.res.2)) (0, 0)
  (s.1 % tallyM, s.2 % tallyM)

/-- Ends a Gallery command on its home die with a code: the other dies are told to withdraw. A page that a list
read found not present halts it, to be resumed and forwarded again. ZEROISED consumes this die's notices
(R92, R115, R272, R273). -/
def galleryFails (c : Cmd) (code : Code) (b : Blk) : Blk :=
  let b := dropBulk (setTiles c.desc) (withdrawAll c b)
  let r := galleryRes c.reports
  match code with
  | .faultResumable =>
    let at_ := (c.reports.filter (fun x => (x.error.map (·.2)) == some 1)).head?.map (·.addr)
    let c' := { (freshUnit c) with faultAddr := at_, fetched := false }
    haltOrEnd c' 1 1 0 (updCmd c.id (fun _ => c') b)
  | .zeroised => rejectCmd c .zeroised (setTiles c.desc) b
  | _ => unitFails c code r.1 r.2 b

/-- ACC.CLEAR: every ACC of the set reads zero, its KEY flag clear, the latches of its tiles empty (R70, R107, R122). -/
def clearAccs (c : Cmd) (b : Blk) : Blk :=
  (setPhys b c.desc).foldl (fun b p => setAccKey p false (zeroKeys (frameKey p 24 0) 0x40000 b))
    (emptyLatches (setPhys b c.desc) b)

/-- What a Gallery command's commit does on a die: its share is committed, or its registers released (R95,
R106). -/
def commitShare (op : Op) (c : Cmd) (key : Bool) (b : Blk) : Blk :=
  match op with
  | .accClear => clearAccs c b
  | .nop => releaseAll c b
  | _ => commitSet op c key b

/-- Repeats a share of a unit (R248): each repetition is counted. -/
def replayShare (c : Cmd) (b : Blk) : Blk := countReplays 1 (updCmd c.id (fun _ => againUnit c) b)

/-- The reports the home die has to wait for are in: every die's, or, once a share has stopped before the exchange, at least
every die's word that it has begun, for its partners' exchange cannot end (R92, R272; log entry 75). -/
def allReported (b : Blk) (c : Cmd) : Bool :=
  let all := dieOf b :: otherDies b
  all.all (fun d => c.reports.any (fun r => r.die == d && r.kind != .begun))
  || (c.reports.any (fun r => r.kind == .stopped) && all.all (fun d => c.reports.any (fun r => r.die == d)))

/-- The home die's outcome once the reports are in: a code, a replay on every die, or the commit of every die
(R92, R95, R248, R272). -/
def decideGallery (id : Nat) (b : Blk) : Blk :=
  match cmdOf b id with
  | none => b
  | some c =>
    match opOf c.desc with
    | none => b
    | some op =>
      if c.home.isSome ∨ !(c.st == .gallery || c.st == .ready) ∨ !allReported b c then b
      else match chooseCode c.reports with
        | some code =>
          if code = .parity ∧ !c.reports.any (fun r => r.kind == .result && r.error.map (·.2) == some (codeVal .parity)
              || r.kind == .stopped) then
            replayShare c (broadcast 5 (dieOf b) c.id b)
          else galleryFails c code b
        | none =>
          match galleryDis b op c c.reports with
          | l@(_ :: _) => galleryFails c .tallyMismatch (tallyRecord c [] (maskOf (l.filter (fun x => decide (x < 64)))) false none c.unit b)
          | [] =>
            let key := c.reports.any (·.key)
            let b := commitShare op c key (broadcast 6 (dieOf b) c.id b)
            let r := galleryRes c.reports
            let c' := { c with st := .drain, acks := otherDies b, commitSent := true, reports := []
                               res0 := (c.res0 + r.1) % tallyM, res1 := (c.res1 + r.2) % tallyM }
            if otherDies b = [] then unitDone c' 0 0 b else updCmd id (fun _ => c') b

/-- A die's own report on its share, to itself or to the home die (R92). -/
def reportOwn (c : Cmd) (body : ReportBody) (b : Blk) : Blk :=
  let c' := { c with st := .gallery, reports := putReport body c.reports, started := true }
  match c.home with
  | none => decideGallery c.id (updCmd c.id (fun _ => c') b)
  | some (die, cmd) => sendMsg 5 (towardsDie b die) cmd (updCmd c.id (fun _ => { c' with reports := [body] }) b)

/-- A share waits in its die exchange: it says so once (log entry 75). -/
def reportBegun (c : Cmd) (b : Blk) : Blk :=
  let body : ReportBody := { (blankReport b c) with kind := .begun }
  if c.reports.any (fun r => r.die == dieOf b) then b
  else match c.home with
    | none => decideGallery c.id (updCmd c.id (fun x => { x with reports := putReport body x.reports }) b)
    | some (die, cmd) => sendMsg 5 (towardsDie b die) cmd (updCmd c.id (fun x => { x with reports := [body] }) b)

/-! ### A tile-set unit -/

/-- A code found on this die before the exchange ends the command, or stops its share of a Gallery command. -/
def stopHere (c : Cmd) (code : Code) (addr : Nat) (b : Blk) : Blk :=
  if (tsetOf c.desc.tset).logD ≠ 0 then
    reportOwn c { (blankReport b c) with kind := .stopped, error := some ((stageOf code).1, codeVal code), addr := addr } b
  else unitFails c code 0 0 b

/-! ### External pages -/

/-- The external addresses of a unit that did not answer, with their answers (R26). -/
def refused (b : Blk) (addrs : List Nat) : List (Nat × RspStatus) :=
  addrs.filterMap (fun a => if xstat b a = .ok then none else some (a, xstat b a))

/-- The execution-stage outcome of the pages a unit touches: denied, not present, then failed (Table SMP-2,
R363). -/
def pageOutcome (l : List (Nat × RspStatus)) : Option (Nat × Code) :=
  match l.find? (fun x => x.2 == .denied) with
  | some x => some (x.1, .notOwner)
  | none => match l.find? (fun x => x.2 == .notPresent) with
    | some x => some (x.1, .faultResumable)
    | none => l.head?.map (fun x => (x.1, .parity))

/-- The addresses of this die's own sections of a phase-control stream (R93). -/
def sectionAddrs (b : Blk) (op : Op) (c : Cmd) : List Nat :=
  if op = .permIdx then
    let x := sectionsOf b c
    (List.range (x.places * x.header.section_ / 64)).map (fun i => x.base + 64 + x.rank * x.places * x.header.section_ + 64 * i)
  else []

/-- What the sections answer: bad stored bytes fail every replay, like an ERROR answer (R26, R248, R349). -/
def sectionOutcome (b : Blk) (op : Op) (c : Cmd) : Option (Nat × Code) :=
  pageOutcome ((sectionAddrs b op c).filterMap (fun a => if listStat b a = .ok then none else some (a, listStat b a)))

/-- Ends a unit whose sections did not all answer (R26, R44, R248, R349). -/
def sectionFails (c : Cmd) (x : Nat × Code) (b : Blk) : Blk :=
  match x.2 with
  | .faultResumable =>
    if (tsetOf c.desc.tset).logD ≠ 0 then stopHere c .faultResumable x.1 b
    else
      let c' := { c with faultAddr := some x.1 }
      haltOrEnd c' 1 1 0 (updCmd c.id (fun _ => c') b)
  | .parity => stopHere c .parity 0 (readParity c x.1 c.unit b)
  | code => stopHere c code 0 b

/-- A share's whole report: both sides' sums, RES0 and RES1, and KEY (R92, R104, R255). -/
def wholeReport (b : Blk) (op : Op) (c : Cmd) (o : CopyOut) : ReportBody :=
  { (blankReport b c) with
    ins := perLimb b op c o.ins, outs := perLimb b op c o.outs
    res := (resSum (residueMod b op c) false o.outs, resSum (residueMod b op c) true o.outs), key := keyClass b op c }

/-- The code of a share that its passes have brought out, in the report of a Gallery command. -/
def withCode (code : Code) (kind : ReportKind) (r : ReportBody) : ReportBody :=
  { r with kind := kind, error := some ((stageOf code).1, codeVal code) }

/-- The command consults a moduli entry with a stored parity error (Table TLY-1). -/
def tableFails (b : Blk) (op : Op) (c : Cmd) : Bool :=
  isModular op c.desc && tableBad b c.port (planeOf c.desc.w8).b (modPlanes op c.desc) (planeOf c.desc.w8).a

/-- The passes of a unit on one die have ended: parity, tally and twin checks, then the commit (R44, R82, R248, R253,
R260). -/
def endSet (op : Op) (c : Cmd) (ev : UnitEvent) (outs : List CopyOut) (b : Blk) : Blk :=
  let (b, lost) := meetParity c c.unit (tableFails b op c) (outs.flatMap (fun o => o.reads.map (·.2))) ev.parity b
  if lost then unitFails c .parity 0 0 b
  else
    let o0 := outs.headD {}
    let r0 := resSum (residueMod b op c) false o0.outs
    let r1 := resSum (residueMod b op c) true o0.outs
    let (b, bad) := checkSet op c outs b
    match bad with
    | some code => unitFails c code r0 r1 b
    | none =>
      let b := (outs.zipIdx).foldl (fun b x => countMoved c.port x.1.landed.length (fillBanks c.desc x.2 x.1.landed b)) b
      unitDone c r0 r1 (commitSet op c (keyClass b op c) b)

/-- The passes of a share of a Gallery command have ended: its checks and its report (R92, R248, R253, R260). -/
def endShare (op : Op) (c : Cmd) (ev : UnitEvent) (outs : List CopyOut) (b : Blk) : Blk :=
  let body := wholeReport b op c (outs.headD {})
  let poison := c.bank.any (fun e => e.2.far && e.2.bad)
  match meetAttempt c (tableFails b op c) poison (outs.flatMap (fun o => o.reads.map (·.2))) ev.parity b with
  | (b, c, some last) => reportOwn c (withCode .parity (if last then .result else .retry) body) b
  | (b, c, none) =>
    match checkSet op c outs b with
    | (b, some code) => reportOwn c (withCode code .result body) b
    | (b, none) =>
      reportOwn c body
        ((outs.zipIdx).foldl (fun b x => countMoved c.port x.1.landed.length (fillBanks c.desc x.2 x.1.landed b)) b)

/-- The phases of a unit go on as far as they can: pass start, this die's own sections of a phase-control stream, the die
exchange, then the end of the passes (R44, R93, R94, R103, R107). -/
def runSet (op : Op) (c : Cmd) (ev : UnitEvent) (b : Blk) : Blk :=
  match (if c.started then none else passStart b op c) with
  | some code => stopHere c code 0 b
  | none =>
    let b := if c.started then b else emptyLatches (setPhys b c.desc) b
    let c := { c with started := true }
    match sectionOutcome b op c with
    | some x => sectionFails c x (updCmd c.id (fun _ => c) b)
    | none =>
      let one := (tsetOf c.desc.tset).logD == 0
      let x := if one then (c, b, true) else exchange op (exchangeFuel op c.desc) c b
      let b := updCmd c.id (fun _ => x.1) x.2.1
      if !x.2.2 then reportBegun x.1 b
      else
        let outs := (copiesOf c.desc).map (setCopy b op x.1 ev)
        let b := readLatches (outs.flatMap (fun o => o.reads.map (·.2))) b
        if one then endSet op x.1 ev outs b else endShare op x.1 ev outs b

/-- ACC.CLEAR's unit has no passes to check. -/
def runClear (c : Cmd) (b : Blk) : Blk :=
  if (tsetOf c.desc.tset).logD = 0 then unitDone c 0 0 (clearAccs c b)
  else reportOwn c (blankReport b c) b

/-- RELEASE_APPLY: the earlier commands that name a masked register have finished; the registers are released
unless one is PARTIAL. A release that spans a Gallery does so once every die has reported (R92, R106). -/
def releaseApply (id : Nat) (b : Blk) : Blk :=
  match cmdOf b id with
  | some c =>
    let regs := maskedRegs b c.desc
    if c.st = .release ∧ !earlierNaming b c regs ∧ !slicedOut b c then
      if anyPartial b regs then stopHere c .partialRead 0 b
      else if spansGallery c then reportOwn c (blankReport b c) b
      else finishCmd c .ok 0 0 (releaseAll c b)
    else b
  | none => b

/-- RELEASE_APPLY (R106). -/
def execReleaseApply (id : Nat) (s : State) : Host.Outcome State Fault Refusal := onBlk (releaseApply id) s

end Sys2Proof.Machine
end

