-- ==== Sys2Proof/Machine/Blocks.lean ====
section
/-! DEFINITION. The units of MOVE, GATHER.BLK, SCATTER.BLK and MOVE in grid mode, the end of a commit unit,
and the scheduler's interrupt (R63 to R66, R72, R73, R112, R255, R256, R260). -/
namespace Sys2Proof.Machine

/-- One granule of a unit's output: the granules read for it, where it goes, whether the old contents of
its place are summed in, and whether its source is the staging handle (R64). -/
structure Item where
  srcs : List Nat
  dst : Nat
  sum : Bool
  staged : Bool
  deriving DecidableEq, Repr

/-! ### The items of a unit -/

/-- The list entries of a unit: 16 consecutive ones (Table PRM-1). -/
def unitEntries (c : Cmd) (unit : Nat) : List (Nat × Nat × Nat) :=
  ((c.blocks.zipIdx.drop (16 * unit)).take 16).filterMap (fun x => x.1.map (fun p => (x.2, p.1, p.2)))

/-- No later entry of the list names the same destination block (R66). -/
def isLatest (c : Cmd) (e t : Nat) : Bool :=
  (c.blocks.drop (e + 1)).all (fun x => match x with | some p => p.2 != t | none => true)

/-- The source blocks that one entry's destination takes in a mode of SCATTER.BLK, none when another unit or
entry writes it (R66). -/
def entrySources (op : Op) (c : Cmd) (e a t : Nat) : List Nat :=
  if op = .scatter then
    match oxMode c.desc with
    | 0 => [a]
    | 1 => if isLatest c e t then [a] else []
    | _ => if isLatest c e t then (c.blocks.filterMap id).filterMap (fun p => if p.2 = t then some p.1 else none) else []
  else [a]

/-- The blocks a unit writes, with the list entry that stages each. -/
def unitBlocks (op : Op) (c : Cmd) : List (Nat × List Nat × Nat) :=
  (unitEntries c c.unit).filterMap (fun x =>
    match entrySources op c x.1 x.2.1 x.2.2 with
    | [] => none
    | l => some (x.1, l, x.2.2))

/-! ### Block reuse in a gather (R64) -/

/-- One block read through the latches of a gather: the latches after it, each block with its sixteenth of the staging
handle, and whether the source was read. -/
def latchBlock (l : List (Nat × Nat)) (a : Nat) : List (Nat × Nat) × Bool :=
  match l.find? (fun x => x.1 == a) with
  | some x => (x :: l.filter (· != x), false)
  | none => ((a, if l.length < 16 then l.length else ((l.getLast?).map (·.2)).getD 0) :: l.take 15, true)

/-- The latches after the blocks of a list. -/
def latchBlocks (l : List (Nat × Nat)) (as : List Nat) : List (Nat × Nat) := as.foldl (fun l a => (latchBlock l a).1) l

/-- The source reads of a gather over resolved block addresses (R64). -/
def gatherReads (as : List Nat) : Nat :=
  (as.foldl (fun (acc : List (Nat × Nat) × Nat) a =>
    let r := latchBlock acc.1 a
    (r.1, if r.2 then acc.2 + 1 else acc.2)) ([], 0)).2

/-- For each block of a unit, in order, the sixteenth of the staging handle that it is copied from: none when the unit reads
its source, in this entry or in an earlier one (R64). -/
def gatherPlan (held : List (Nat × Nat)) : List Nat → List Nat → List (Option Nat)
  | _, [] => []
  | seen, a :: t =>
    let x := latchBlock held a
    let fromStage := !x.2 && !seen.contains a
    (if fromStage then (held.find? (fun y => y.1 == a)).map (·.2) else none)
      :: gatherPlan x.1 (if x.2 then a :: seen else seen) t

/-- The source blocks of a unit, in list order. -/
def unitSources (op : Op) (c : Cmd) : List Nat := (unitBlocks op c).map (fun x => x.2.1.headD 0)

/-- The granules of a unit's output, in order (R63, R64, R65, R72, R73). -/
def unitItems (op : Op) (c : Cmd) : List Item :=
  if op = .move ∧ !isGrid c.desc then
    let s := srcGran op c.desc
    let t := dstGran op c.desc
    (List.range s.planes).flatMap (fun q => (List.range s.count).map (fun o => ⟨[s.addr q o], t.addr q o, false, false⟩))
  else
    let plan := if op = .gather then gatherPlan c.staged [] (unitSources op c) else []
    (unitBlocks op c).zipIdx.flatMap (fun e =>
      let x := e.1
      let from_ := plan.getD e.2 none
      let srcs := match from_ with
        | some n => [handleAddr (oxStage c.desc) + 4096 * n]
        | none => x.2.1
      (List.range 64).map (fun g => ⟨srcs.map (· + 64 * g), x.2.2 + 64 * g, isAccumulate op c.desc, from_.isSome⟩))

/-- An item's source address in one copy: the twin's tile, or the twin's staging handle (R258). -/
def itemAddr (copy : Nat) (i : Item) (a : Nat) : Nat :=
  if i.staged then (if copy = 1 then handleAddr (Nat.xor (addrHandle a) 1) + a % 0x10000 else a) else twinAddr copy a

/-- Every block address that an item reads in one copy. -/
def itemReads (copy : Nat) (i : Item) : List Nat :=
  i.srcs.map (itemAddr copy i) ++ (if i.sum then [twinAddr copy i.dst] else [])

/-- The keys of this block that a list of addresses reads. -/
def readKeys (b : Blk) (l : List Nat) : List Nat :=
  l.filterMap (fun a => if isRemote b a then none else memKey b a)

/-! ### The passes -/

/-- Limb words the tally counts: all eight of a moved granule, the active ones of a sum (R251, R256). -/
def itemWords (op : Op) (d : Desc) : Nat := if isAccumulate op d then (planeOf d.w8).a else 8

/-- The destination index of granule `n` of the unit (Table TLY-3). -/
def itemIndex (op : Op) (d : Desc) (n : Nat) (i : Item) : Nat :=
  if op = .move ∧ !isGrid d then n else i.dst / 64 % tallyM

/-- The limb plane an item's granule lies in: the plane of a plain MOVE. -/
def itemPlane (op : Op) (d : Desc) (n : Nat) : Nat :=
  if op = .move ∧ !isGrid d then n / (srcGran op d).count else 0

/-- The granule that an item's destination takes: a copy, or the modular sum with unused words zero (R14, R20,
R66). -/
def itemValue (b : Blk) (c : Cmd) (copy : Nat) (i : Item) : Granule :=
  if i.sum then
    let old := readGranule b (twinAddr copy i.dst)
    gmake (fun l => if l < (planeOf c.desc.w8).a then
      sumWord (limbMod b c 0 l) (gword old l) (i.srcs.map (fun a => (gword (readGranule b (itemAddr copy i a)) l, false)))
      else 0)
  else readGranule b (itemAddr copy i (i.srcs.headD 0))

/-- One copy of a block or plain MOVE unit. -/
def itemCopy (b : Blk) (op : Op) (c : Cmd) (ev : UnitEvent) (copy : Nat) : CopyOut :=
  let d := c.desc
  let items := (unitItems op c).zipIdx
  let sum := isAccumulate op d
  let nu := fun (l x : Nat) => sourceNu sum (limbMod b c 0 l) x
  let terms := fun (e : Item × Nat) (g : Granule) =>
    granuleTerms 0 (itemPlane op d e.2) (itemWords op d) (itemIndex op d e.2 e.1) false (fun l => nu l (gword g l))
  let got := items.map (fun e => (e, itemValue b c copy e.1 ^^^ upsetMask ev copy e.2))
  let reads := items.flatMap (fun e => itemReads copy e.1)
  { ready := readsHere b reads
    landed := got.map (fun e => (0, e.1.2, e.2))
    ins := items.flatMap (fun e => (itemReads copy e.1).flatMap (fun a => terms e (readGranule b a)))
    outs := got.flatMap (fun e => terms e.1 e.2)
    pads := if sum then got.flatMap (fun e => ((List.range 8).filter (fun l => decide (itemWords op d ≤ l))).map (gword e.2)) else []
    reads := (readKeys b reads).map (fun k => (0, k)) }

/-- Writes a staged block's granules into a sixteenth of the staging handle, the twin's in handle STAGE XOR 1 (R258). -/
def stageBlock (c : Cmd) (copy slot : Nat) (vs : List Granule) (b : Blk) : Blk :=
  vs.zipIdx.foldl (fun b x =>
    putGranuleKey (handleAddr (Nat.xor (oxStage c.desc) copy) + slot * 4096 + 64 * x.2) x.1 b) b

/-- Stages what a unit has brought: for a gather the source blocks that its latches hold and that the unit has read; for the
other block commands the block of list entry `e` at sixteenth `e` mod 16 (R64, chapter 03). -/
def stageBlocks (op : Op) (c : Cmd) (copy : Nat) (o : CopyOut) (b : Blk) : Blk :=
  if op = .move ∧ !isGrid c.desc then b
  else
    let vals := fun (n : Nat) => (o.landed.filter (fun x => x.2.1 / 64 == n)).map (·.2.2)
    if op = .gather then
      let srcs := unitSources op c
      let read := (srcs.zip (gatherPlan c.staged [] srcs)).zipIdx.filter (fun x => x.1.2.isNone)
      (latchBlocks c.staged srcs).foldl (fun b x => match read.find? (fun y => y.1.1 == x.1) with
        | some y => stageBlock c copy x.2 (vals y.2) b
        | none => b) b
    else
      ((unitBlocks op c).map (·.1)).zipIdx.foldl (fun b x => stageBlock c copy (x.1 % 16) (vals x.2) b) b

/-! ### The commit -/

/-- The registers of this die that a unit writes, with the tags it leaves (R100). -/
def itemTags (b : Blk) (op : Op) (c : Cmd) : List (Nat × Tag) :=
  (copiesOf c.desc).flatMap (fun k =>
    if op = .move ∧ !isGrid c.desc then absRegTags b (twinGran k (dstGran op c.desc))
    else (blockRegs b ((unitBlocks op c).map (fun x => twinAddr k x.2.2))).map (fun r => (r, fullTag)))

/-- The marks a write of granule `n` leaves on its register: the full tag, or the plane's for a plain MOVE (R100,
R108). -/
def itemMark (op : Op) (d : Desc) (n : Nat) (key : Bool) : RegMark :=
  let t := if op = .move ∧ !isGrid d then planeTag (dstGran op d) (itemPlane op d n) else fullTag
  ⟨t.rows, t.cols, t.rstride, key, false⟩

/-- Writes one copy's granules; a destination on another die is sent there as a write (R108, R227). -/
def writeItems (op : Op) (c : Cmd) (key : Bool) (items : List Item) (copy : Nat) (o : CopyOut) (b : Blk) : Blk :=
  (items.zip o.landed).foldl (fun b e =>
    let a := twinAddr copy e.1.dst
    if copy = 1 ∧ a = e.1.dst then b
    else if isRemote b a then sendRequest (some c.id) a true e.2.2.2 (itemMark op c.desc e.2.2.1 key) b
    else match memKey b a with
      | some k => putGranuleKey k e.2.2.2 b
      | none => b) b

/-- Some cross-die write of a command is outstanding. -/
def writesOut (b : Blk) (id : Nat) : Bool := b.gal.xreq.any (fun e => e.2.cmd == some id && e.2.write)

/-- Commits a unit, and waits for the other dies' write responses when it wrote to any (R44, R95, R227). -/
def commitItems (op : Op) (c : Cmd) (outs : List CopyOut) (r0 r1 : Nat) (b : Blk) : Blk :=
  let key := c.farKey || keyClass b op c
  let items := unitItems op c
  let b := (outs.zipIdx).foldl (fun b x => countMoved c.port x.1.landed.length (writeItems op c key items x.2 x.1 b)) b
  let b := markWrites (itemTags b op c) key b
  let b := touchLines c.port (items.map (·.dst)) true b
  let c' := { c with
    res0 := (c.res0 + r0) % tallyM, res1 := (c.res1 + r1) % tallyM
    staged := if op = .gather then latchBlocks c.staged (unitSources op c) else c.staged }
  if writesOut b c.id then updCmd c.id (fun _ => { c' with st := .drain }) b
  else unitDone c' 0 0 b

/-! ### The checks -/

/-- Tally and twin checks of a unit that has no places (R253, R254, R260). -/
def checkItems (op : Op) (c : Cmd) (outs : List CopyOut) (b : Blk) : Blk × Option Code :=
  let ts := outs.map (fun o => tallied b op c o)
  let t0 := ts.headD ⟨[], false⟩
  match outs with
  | [_] => if t0.fails then (tallyRecord c (disPlaces t0.dis) (limbMask t0.dis) t0.z none c.unit b, some .tallyMismatch) else (b, none)
  | [o0, o1] =>
    let t1 := ts.getD 1 ⟨[], false⟩
    let diff := (firstDiffer o0.landed o1.landed).isSome
    if t0.fails || t1.fails || diff then
      let code := if t0.fails || t1.fails then Code.tallyMismatch else .twinMismatch
      (twinRecord c code (if t0.fails then t0.dis else t1.dis) t0.fails t1.fails diff 0 c.unit b, some code)
    else (b, none)
  | _ => (b, none)

/-- Ends a unit whose pages did not all answer. -/
def pageFails (c : Cmd) (x : Nat × Code) (b : Blk) : Blk :=
  match x.2 with
  | .faultResumable =>
    let c' := { c with faultAddr := some x.1 }
    haltOrEnd c' 1 1 0 (updCmd c.id (fun _ => c') b)
  | .parity => unitFails c .parity 0 0 (parityRecord (some c) 7 x.1 0 c.unit (allReplays b))
  | code => unitFails c code 0 0 b

/-- The pass-start code of the registers of other dies that a command reads (R101, R103, R119). -/
def farStart (op : Op) (c : Cmd) (l : List RegMark) : Option Code :=
  if l.any (·.part) then some .partialRead
  else if op = .move ∧ !isGrid c.desc ∧ !flagReshape c.desc
      ∧ !l.all (fun m => (List.range (srcGran op c.desc).planes).any (fun q =>
          tagMatches { rows := m.rows, cols := m.cols, rstride := m.rstride } (planeTag (srcGran op c.desc) q)))
    then some .shapeMismatch
  else none

/-- Every address of another die that a command reads in any unit, one for each register: reading it tells the
register's tag and flags (R103, R119). -/
def probes (b : Blk) (op : Op) (c : Cmd) : List Nat :=
  let addrs := if op = .move ∧ !isGrid c.desc then (unitItems op c).flatMap (fun i => i.srcs)
    else (c.blocks.filterMap id).flatMap (fun x => if isAccumulate op c.desc then [x.1, x.2] else [x.1])
  ((copiesOf c.desc).flatMap (fun k => addrs.map (twinAddr k))).foldl (fun l a =>
    if isRemote b a && !l.any (fun x => x / 0x40000 == a / 0x40000) then l ++ [a] else l) []

/-- The pass start of a block command or plain MOVE, over every register that it reads, on any die, before its first unit
(R66, R103, R104, R107, R119): none while other dies have not told their registers. The result is the command as it goes on,
or the code it ends with. -/
def startItems (op : Op) (c : Cmd) (b : Blk) : Option (Except Code Cmd) :=
  if c.started then some (.ok c)
  else match passStart b op c with
    | some code => some (.error code)
    | none =>
      let l := probes b op c
      if !readsHere b l then none
      else
        let marks := remoteMarks b l
        match farStart op c marks with
        | some code => some (.error code)
        | none => some (.ok { c with started := true, farKey := marks.any (·.key) })

/-- A granule that came from another die with wrong parity fails the attempt: it is asked for again, up to REPLAY_LIMIT
times (R232, R248, Table TLY-1). -/
def farFails (c : Cmd) (a : Nat) (reads : List Nat) (b : Blk) : Blk :=
  let c' := { c with attempts := c.attempts ++ [a] }
  let b := dropRemote reads (updCmd c.id (fun _ => c') b)
  if c'.attempts.length ≤ b.dict.replayLimit.toNat then requestReads c.id reads (countReplays 1 b)
  else unitFails c' .parity 0 0 (parityRecord (some c) 12 a 0 c.unit b)

/-- The passes of a block or plain MOVE unit, its pages and granules at hand (R44, R63 to R66, R72, R73). -/
def passItems (op : Op) (c : Cmd) (ev : UnitEvent) (reads : List Nat) (b : Blk) : Blk :=
  let outs := (copiesOf c.desc).map (itemCopy b op c ev)
  let b := touchLines c.port reads false b
  let b := readLatches (outs.flatMap (fun o => o.reads.map (·.2))) b
  let (b, lost) := meetParity c c.unit (tableFails b op c) (outs.flatMap (fun o => o.reads.map (·.2))) ev.parity b
  if lost then unitFails c .parity 0 0 (dropRemote reads b)
  else
    let b := (outs.zipIdx).foldl (fun b x => stageBlocks op c x.2 x.1 b) b
    let o0 := outs.headD {}
    let r0 := resSum (residueMod b op c) false o0.outs
    let r1 := resSum (residueMod b op c) true o0.outs
    let (b, bad) := checkItems op c outs b
    let b := dropRemote reads b
    match bad with
    | some code => unitFails c code r0 r1 b
    | none => commitItems op c outs r0 r1 b

/-- A block or plain MOVE unit: pass start, its pages, the granules of other dies, then its passes (R44, R103). -/
def runItems (op : Op) (c : Cmd) (ev : UnitEvent) (b : Blk) : Blk :=
  match startItems op c b with
  | none => requestReads c.id (probes b op c) b
  | some (.error code) => unitFails c code 0 0 (dropRemote (probes b op c) b)
  | some (.ok c') =>
    let b := if c.started then b
      else dropRemote (probes b op c) (emptyLatches ((usedTiles b c).filterMap (physOf b)) (updCmd c.id (fun _ => c') b))
    let items := unitItems op c'
    let reads := (copiesOf c.desc).flatMap (fun k => items.flatMap (itemReads k))
    match pageOutcome (refused b (reads ++ items.map (·.dst))) with
    | some x => pageFails c' x b
    | none =>
      if !readsHere b reads then requestReads c.id reads b
      else match remoteFails b reads with
        | a :: _ => farFails c' a reads b
        | [] => passItems op c' ev reads b

/-! ### The end of a unit -/

/-- COMMIT_UNIT: the passes of the present unit of a catalogue command end. Its earlier commands on the same
tiles have finished (R71, R78, R111). -/
def commitUnit (id : Nat) (ev : UnitEvent) (b : Blk) : Blk :=
  match cmdOf b id with
  | none => b
  | some c =>
    match opOf c.desc with
    | none => b
    | some op =>
      if c.st ≠ .ready ∨ !isCatalogue op ∨ !c.fetched ∨ mustWait b c then b
      else if op = .accClear then runClear c b
      else if isSetCmd op then runSet op c ev b
      else runItems op c ev b

/-- COMMIT_UNIT (R44). -/
def execCommitUnit (id : Nat) (ev : UnitEvent) (s : State) : Host.Outcome State Fault Refusal :=
  onBlk (onCmd id (commitUnit id ev)) s

/-- Asks a command to stop at its next boundary (R112, R126): a row command drains its rows, a command
between commit units halts at once, one whose unit is under way halts when it has ended, and a command
whose unit is the whole command runs on. -/
def interruptCmd (cause : Nat) (c : Cmd) (b : Blk) : Blk :=
  if isRowCmd c.desc ∧ c.st = .rows then updCmd c.id (fun x => { x with interrupt := cause }) b
  else if multiUnit c.desc ∧ c.home.isNone ∧ c.fetched then
    match c.st with
    | .ready =>
      if c.stepSent || c.step != 0 || c.reports != [] || b.gal.xreq.any (fun e => e.2.cmd == some c.id) then
        updCmd c.id (fun x => { x with interrupt := cause }) b
      else haltOrEnd c cause 1 0 b
    | .gallery => updCmd c.id (fun x => { x with interrupt := cause }) b
    | .drain => updCmd c.id (fun x => { x with interrupt := cause }) b
    | _ => b
  else b

/-- SCHEDULER_INTERRUPT (R112). The scheduler firmware has no hand in the Vault queue (R166). -/
def execSchedulerInterrupt (id : Nat) (s : State) : Host.Outcome State Fault Refusal :=
  onBlk (fun b => match cmdOf b id with
    | some c => if c.port = 5 then b else interruptCmd 2 c b
    | none => b) s

end Sys2Proof.Machine
end

