-- ==== Sys2Proof/Machine/Catalogue.lean ====
section
/-! DEFINITION. The decode of the permutation catalogue (chapter 02): each command's checks, then it waits for
its passes. -/
namespace Sys2Proof.Machine

/-- PERM_GEN (R46). -/
def execPermGen (p q : Nat) (d : Desc) (s : State) : Host.Outcome State Fault Refusal :=
  onBlk (decodeAs (· == .permGen) getReady p q d) s

/-- PERM_IDX (R60). -/
def execPermIdx (p q : Nat) (d : Desc) (s : State) : Host.Outcome State Fault Refusal :=
  onBlk (decodeAs (· == .permIdx) getReady p q d) s

/-- TRANSPOSE (R53). -/
def execTranspose (p q : Nat) (d : Desc) (s : State) : Host.Outcome State Fault Refusal :=
  onBlk (decodeAs (· == .transpose) getReady p q d) s

/-- BITREV (R54). -/
def execBitrev (p q : Nat) (d : Desc) (s : State) : Host.Outcome State Fault Refusal :=
  onBlk (decodeAs (· == .bitrev) getReady p q d) s

/-- LAYOUT (R55). -/
def execLayout (p q : Nat) (d : Desc) (s : State) : Host.Outcome State Fault Refusal :=
  onBlk (decodeAs (· == .layout) getReady p q d) s

/-- ROTACC (R67). -/
def execRotacc (p q : Nat) (d : Desc) (s : State) : Host.Outcome State Fault Refusal :=
  onBlk (decodeAs (· == .rotacc) getReady p q d) s

/-- ACC_DRAIN (R70). -/
def execAccDrain (p q : Nat) (d : Desc) (s : State) : Host.Outcome State Fault Refusal :=
  onBlk (decodeAs (· == .accDrain) getReady p q d) s

/-- ACC_CLEAR (R70). -/
def execAccClear (p q : Nat) (d : Desc) (s : State) : Host.Outcome State Fault Refusal :=
  onBlk (decodeAs (· == .accClear) getReady p q d) s

/-- GATHER_BLK (R63). -/
def execGatherBlk (p q : Nat) (d : Desc) (s : State) : Host.Outcome State Fault Refusal :=
  onBlk (decodeAs (· == .gather) getReady p q d) s

/-- SCATTER_BLK (R65). -/
def execScatterBlk (p q : Nat) (d : Desc) (s : State) : Host.Outcome State Fault Refusal :=
  onBlk (decodeAs (· == .scatter) getReady p q d) s

/-- MOVE in plain mode (R72). -/
def execMove (p q : Nat) (d : Desc) (s : State) : Host.Outcome State Fault Refusal :=
  onBlk (decodeAs (fun op => op == .move && !flagOpf0 d) getReady p q d) s

/-- MOVE in grid mode (R73). -/
def execGrid (p q : Nat) (d : Desc) (s : State) : Host.Outcome State Fault Refusal :=
  onBlk (decodeAs (fun op => op == .move && flagOpf0 d) getReady p q d) s

end Sys2Proof.Machine
end

