-- ==== Sys2Proof/Machine/Rows.lean ====
section
/-! DEFINITION. Row commands: LOAD.ROWS, STORE.ROWS, their rows and their stops (R109 to R113, R119, R363). -/
namespace Sys2Proof.Machine

/-- A row command that has passed its checks issues rows once earlier commands on its register are done
(R111). -/
def rowsGo (c : Cmd) (b : Blk) : Blk := updCmd c.id (fun x => { x with st := .rows }) b

/-- LOAD_ROWS (R109). -/
def execLoadRows (p q : Nat) (d : Desc) (s : State) : Host.Outcome State Fault Refusal :=
  onBlk (decodeAs (· == .loadRows) rowsGo p q d) s

/-- STORE_ROWS (R109). -/
def execStoreRows (p q : Nat) (d : Desc) (s : State) : Host.Outcome State Fault Refusal :=
  onBlk (decodeAs (· == .storeRows) rowsGo p q d) s

/-- LOAD.ROWS of a descriptor. -/
def isLoad (d : Desc) : Bool := opOf d == some .loadRows

/-- The source operand of a row command. -/
def rowSrc (d : Desc) : Gran := granOf d.opa 1

/-- The destination operand of a row command. -/
def rowDst (d : Desc) : Gran := granOf d.opb 1

/-- The side of a row command that lies in a register. -/
def rowSide (d : Desc) : Gran := if isLoad d then rowDst d else rowSrc d

/-- Rows of a row command. -/
def rowCount (d : Desc) : Nat := (rowSrc d).c1

/-- The addresses of a row's granules in an operand. -/
def rowAddrs (g : Gran) (row : Nat) : List Nat := (List.range g.c0).map (fun o => g.addr 0 (row * g.c0 + o))

/-- Some row has committed. -/
def anyRow (c : Cmd) : Bool := c.rowMask != 0

/-- The register that a LOAD.ROWS writes takes the tag of the command's shape; IN_USE and KEY once a row has
committed (R100, R104, R112, R363). -/
def stopMarks (c : Cmd) (part : Bool) (b : Blk) : Blk :=
  if isLoad c.desc then
    match rowReg b c.desc with
    | some k =>
      let t := shapeTag (rowDst c.desc)
      updReg k (fun r => { r with
        rows := t.rows, cols := t.cols, rstride := t.rstride
        inUse := r.inUse || anyRow c, part := r.part || part
        key := r.key || (flagKey c.desc && anyRow c) }) b
    | none => b
  else b

/-- PLACE of a restart record (Table TRG-3). -/
def rowPlace (d : Desc) : BitVec 16 :=
  let a := (rowSide d).base
  BitVec.ofNat 16 (addrTile a + addrDie a * 2 ^ 6 + addrReg a * 2 ^ 9)

/-- What a resumed row command's completion leaves: PARTIAL clear (R116, Table TRG-2). -/
def finishRows (c : Cmd) (code : Code) (b : Blk) : Blk :=
  finishCmd c code 0 0 (if wasHalted b c then clearPartial c b else b)

/-- The pass start of a STORE.ROWS (R101, R103, R119). -/
def rowStart (b : Blk) (c : Cmd) : Option Code :=
  if isLoad c.desc || c.started then none else tagCheck b c.desc (absRegTags b (rowSrc c.desc))

/-- Writes a row's granules, and counts them; a register side is read through its tile's latches (R107). -/
def moveRow (c : Cmd) (row : Nat) (b : Blk) : Blk :=
  let src := rowAddrs (rowSrc c.desc) row
  let vs := src.map (readGranule b)
  let b := ((rowAddrs (rowDst c.desc) row).zip vs).foldl (fun b x => writeBytes x.1 (leBytes 64 x.2.toNat) b) b
  let b := touchLines c.port (rowAddrs (rowDst c.desc) row) true (touchLines c.port src false b)
  countMoved c.port vs.length (readLatches (readKeys b src) b)

/-- A row whose granules have all come commits (R104, R105, R110); with the last row the command is done. -/
def landRow (c : Cmd) (row : Nat) (b : Blk) : Blk :=
  let c := { c with rowMask := setBit c.rowMask row true }
  let b := updCmd c.id (fun _ => c) (moveRow c row b)
  let b := if isLoad c.desc then markWrites (absRegTags b (rowDst c.desc)) (flagKey c.desc) b else b
  if (List.range (rowCount c.desc)).all (bitAt c.rowMask) ∧ c.faultAddr.isNone ∧ ¬ c.denied then finishRows c .ok b else b

/-- What a row's pages answer: it commits, or marks the stop it calls for (R110, R112, R363). -/
def rowLands (c : Cmd) (row : Nat) (ev : List ParityEvent) (b : Blk) : Blk :=
  let c := { c with started := true, unit := max c.unit (row + 1), issued := max c.issued (row + 1) }
  let src := rowAddrs (rowSrc c.desc) row
  match pageOutcome (refused b (src ++ rowAddrs (rowDst c.desc) row)) with
  | some (_, .notOwner) => updCmd c.id (fun _ => { c with denied := true, back := setBit c.back row true }) b
  | some (a, .faultResumable) =>
    updCmd c.id (fun _ => { c with faultAddr := some (c.faultAddr.getD a), back := setBit c.back row true }) b
  | some (a, _) => finishRows c .parity (parityRecord (some c) 7 a 0 row (allReplays b))
  | none =>
    let (b, lost) := meetParity c row false (readKeys b src) ev b
    if lost then finishRows c .parity b else landRow c row b

/-- ROW_COMMIT: row `row` of a row command, and so every row below it, has been issued, and it has come back from its pages
(R110, R113). The first row's return begins the command: it empties its tile's latches (R107). -/
def rowCommit (id row : Nat) (ev : List ParityEvent) (b : Blk) : Blk :=
  match cmdOf b id with
  | none => b
  | some c =>
    if c.st ≠ .rows ∨ rowCount c.desc ≤ row ∨ bitAt c.rowMask row ∨ bitAt c.back row ∨ mustWait b c then b
    else match rowStart b c with
      | some code => finishRows c code b
      | none => rowLands c row ev (if c.started then b else emptyLatches ((usedTiles b c).filterMap (physOf b)) b)

/-- ROW_COMMIT (R110). -/
def execRowCommit (id row : Nat) (parity : List ParityEvent) (s : State) : Host.Outcome State Fault Refusal :=
  onBlk (onCmd id (rowCommit id row parity)) s

/-- No row is in flight: every row issued has committed or has reported that it cannot (R112). -/
def rowsQuiet (c : Cmd) : Bool := (List.range c.issued).all (fun r => bitAt c.rowMask r || bitAt c.back r)

/-- Halts a row command once no row is in flight (R112, R114, R115). -/
def haltRows (c : Cmd) (cause : Nat) (b : Blk) : Blk := haltOrEnd c cause 0 (rowPlace c.desc) (stopMarks c true b)

/-- ROW_HALT: a row met a page not present, or the command was interrupted, and no row is in flight (R112). -/
def rowHalt (id : Nat) (b : Blk) : Blk :=
  match cmdOf b id with
  | some c =>
    if c.st = .rows ∧ ¬ c.denied ∧ rowsQuiet c then
      if c.faultAddr.isSome then haltRows c 1 b
      else if c.interrupt ≠ 0 then haltRows c c.interrupt b
      else b
    else b
  | none => b

/-- ROW_HALT (R112). -/
def execRowHalt (id : Nat) (s : State) : Host.Outcome State Fault Refusal := onBlk (rowHalt id) s

/-- ROW_DENIED: a row was denied and no row is in flight; the committed rows stay and the command completes
NOT_OWNER (R363). -/
def rowDenied (id : Nat) (b : Blk) : Blk :=
  match cmdOf b id with
  | some c => if c.st = .rows ∧ c.denied ∧ rowsQuiet c then finishRows c .notOwner (stopMarks c false b) else b
  | none => b

/-- ROW_DENIED (R363). -/
def execRowDenied (id : Nat) (s : State) : Host.Outcome State Fault Refusal := onBlk (rowDenied id) s

end Sys2Proof.Machine
end

