-- ==== Sys2Proof/Machine/Gallery.lean ====
section
/-! DEFINITION. Gallery commands between dies, and cross-die requests (R77, R78, R92, R95, R108, R155, R227,
R245). -/
namespace Sys2Proof.Machine

/-! ### Members, ranks and lost links -/

/-- A die's rank among the members: the bits of its number along the Gallery dimensions (R241). -/
def rankOf (members die : Nat) : Nat :=
  ((freeDims members).zipIdx.map (fun x => if natBit die x.1 then 2 ^ x.2 else 0)).foldl (· + ·) 0

/-- The ranks that have committed a Gallery command, as its home die knows them (R95). -/
def ranksCommitted (b : Blk) (c : Cmd) : Nat :=
  if c.commitSent then
    maskOf (((dieOf b :: otherDies b).filter (fun d => !c.acks.contains d)).map (rankOf b.gal.members.toNat))
  else 0

/-- The command's row of Table PRM-8 has LINK_LOST: LAYOUT, ACC.DRAIN and ACC.CLEAR, and NOP, have not (R74, R165,
R268). -/
def mayLoseLink (d : Desc) : Bool :=
  match opOf d with
  | some .layout | some .accDrain | some .accClear | some .nop => false
  | _ => true

/-- Completes a command that a lost link has cut, and tells the dies that can still be reached (R95, R155, R245). A command
whose row has no LINK_LOST completes ABORTED (DESIGN CHOICE, log entry 76). -/
def loseLink (c : Cmd) (b : Blk) : Blk :=
  let code : Code := if mayLoseLink c.desc then .linkLost else .aborted
  finishCmd c code 0 0 (sumpPut 0x14 (some code) c.port c.queue c.desc.tag.toNat 0
    (ranksCommitted b c + (if c.commitSent then 256 else 0)) (dropBulk (setTiles c.desc) (withdrawAll c b)))

/-! ### Forwarded commands -/

/-- A base address as the receiving die uses it: a tile-store address of the home die names this die (R77). -/
def localBase (b : Blk) (home : Nat) (v : BitVec 160) : BitVec 160 :=
  let a := field v 0 48
  if regionOf a = some .tile ∧ addrDie a = home then
    BitVec.ofNat 160 (v.toNat - a + (a % 0x100000000 + dieOf b * 0x100000000))
  else v

/-- A forwarded descriptor as the receiving die runs it (R77). -/
def localDesc (b : Blk) (home : Nat) (d : Desc) : Desc :=
  { d with opa := localBase b home d.opa, opb := localBase b home d.opb }

/-- What a forwarded command waits for once its share has passed the checks. -/
def forwardedGo (c : Cmd) (b : Blk) : Blk :=
  if opOf c.desc = some .nop then updCmd c.id (fun x => { x with st := .release }) b else b

/-- The checks of a die's share. The home die has compared the schedule epoch (R92, R162). -/
def judgeShare (c : Cmd) (op : Op) (b : Blk) : Blk :=
  let d := c.desc
  let errs := decodeErrs (ofCtx c.port b) c.port c.queue op { d with flags := setBit d.flags 4 false }
  if isModular op d && loadAhead b c then holdTable c errs b
  else match firstIn decodeOrder (errs ++ tableErrs b c.port op d) with
    | some code => failDecode c code [] b
    | none => passDecode c op forwardedGo b

/-- FORWARDED_DESCRIPTOR: a Gallery command of another die takes its place in order of arrival, and goes on to the dies that
this one stands between (R78, R92, R209). While the Gallery re-forms it is held at decode (R245). -/
def forwarded (die p homeCmd : Nat) (d : Desc) (b : Blk) : Blk :=
  match opOf d with
  | none => b
  | some op =>
    if !isPeer b die || !(decide (p < 6)) || !hasTset op d || (tsetOf d.tset).logD == 0 || b.pwr.inReset then b
    else
      let b := broadcast 4 die homeCmd b
      let c : Cmd := { id := b.nextId, port := p, queue := 0, desc := localDesc b die d, count := 0, t0 := b.clk.tc
                       mc := b.clk.mc, st := if b.gal.reforming then .held else .ready, home := some (die, homeCmd) }
      let b := landMail 4 die homeCmd { b with nextId := b.nextId + 1, cmds := b.cmds ++ [c] }
      if b.gal.reforming then b else judgeShare c op b

/-- FORWARDED_DESCRIPTOR (R92). -/
def execForwardedDescriptor (die p homeCmd : Nat) (d : Desc) (s : State) : Host.Outcome State Fault Refusal :=
  onBlk (forwarded die p homeCmd d) s

/-- Re-forming has ended: the forwarded descriptors that were held are decoded and checked (R245). -/
def releaseHeld (b : Blk) : Blk :=
  (b.cmds.filter (fun c => c.st == .held)).foldl (fun b c => match opOf c.desc with
    | some op => let c := { c with st := .ready }; judgeShare c op (updCmd c.id (fun _ => c) b)
    | none => b) b

/-- The command in flight that another die forwarded. -/
def forwardedOf (b : Blk) (die homeCmd : Nat) : Option Cmd := b.cmds.find? (fun c => c.home == some (die, homeCmd))

/-- Takes a forwarded command that its home die has ended out of flight; ZEROISED consumes this die's notices (R273). -/
def withdraw (c : Cmd) (r : ReportBody) (b : Blk) : Blk :=
  let b := if (r.error.map (·.2)) = some (codeVal .zeroised) then dropNotices c.port (setTiles c.desc) b else b
  dropBulk (setTiles c.desc) { b with cmds := b.cmds.filter (fun x => x.id ≠ c.id) }

/-- The home die's word on a forwarded command: it has ended, or its unit is repeated. The word goes on to the dies that
this one stands between (R92, R248, R272). -/
def homeWord (r : ReportBody) (b : Blk) : Blk :=
  let b := broadcast 5 r.home r.cmd (landMail 5 r.die r.cmd b)
  match forwardedOf b r.home r.cmd with
  | some c => if r.kind = .withdraw then withdraw c r b else replayShare c b
  | none => b

/-- A die's report on a command of this die: it takes the place of its word that it has begun (R92, R272). -/
def homeReport (r : ReportBody) (b : Blk) : Blk :=
  match cmdOf b r.cmd with
  | some c =>
    if c.home.isSome || !spansGallery c || c.reports.any (fun x => x.die == r.die && (x.kind != .begun || r.kind == .begun)) then b
    else decideGallery c.id (updCmd c.id (fun x => { x with reports := putReport r x.reports }) (landMail 5 r.die r.cmd b))
  | none => b

/-- REPORT: a report reaches the home die, or is passed on towards it; or the home die's word reaches another die (R92,
R95, R272). -/
def takeReport (r : ReportBody) (b : Blk) : Blk :=
  if r.kind = .withdraw ∨ r.kind = .replay then (if isPeer b r.home then homeWord r b else b)
  else if r.home = dieOf b then (if isPeer b r.die then homeReport r b else b)
  else if isPeer b r.home then sendMsg 5 (towardsDie b r.home) r.cmd (landMail 5 r.die r.cmd b)
  else b

/-- This die's last report on a forwarded command holds no error. -/
def reportedOk (c : Cmd) : Bool := c.st == .gallery && c.reports.all (fun r => r.error.isNone)

/-- GALLERY_COMMIT: a die commits its share, acknowledges, and passes the commit on to the dies it stands between; `key`
tells that some die's share read KEY data (R82, R92, R95, R104). -/
def galleryCommit (die homeCmd : Nat) (key : Bool) (b : Blk) : Blk :=
  match forwardedOf b die homeCmd with
  | some c =>
    match opOf c.desc with
    | some op =>
      if !reportedOk c then b
      else
        let b := broadcast 6 die homeCmd (landMail 6 die homeCmd b)
        let b := sendMsg 7 (towardsDie b die) homeCmd (commitShare op c key b)
        if c.unit + 1 < unitsOf c.desc then updCmd c.id (fun x => { (freshUnit x) with unit := x.unit + 1 }) b
        else { b with cmds := b.cmds.filter (fun x => x.id ≠ c.id) }
    | none => b
  | none => b

/-- GALLERY_COMMIT (R95). -/
def execGalleryCommit (die : Nat) (c : CommitBody) (s : State) : Host.Outcome State Fault Refusal :=
  onBlk (galleryCommit die c.cmd c.key) s

/-- COMMIT_ACKNOWLEDGEMENT: after the last one the unit, the release or the FLAG.SET is done; one for another die is passed
on towards it (R92, R95, R155). -/
def commitAck (home id die : Nat) (b : Blk) : Blk :=
  if home ≠ dieOf b then
    (if isPeer b home then sendMsg 7 (towardsDie b home) id (landMail 7 die id b) else b)
  else match cmdOf b id with
  | some c =>
    if c.st ≠ .drain ∨ !c.acks.contains die then b
    else
      let c' := { c with acks := c.acks.filter (· != die) }
      let b := updCmd id (fun _ => c') (landMail 7 die id b)
      if c'.acks ≠ [] then b
      else if opOf c.desc = some .flagSet then finishCmd c' .ok 0 0 b
      else unitDone c' 0 0 b
  | none => b

/-- COMMIT_ACKNOWLEDGEMENT (R95). -/
def execCommitAcknowledgement (c : CmdName) (die : Nat) (s : State) : Host.Outcome State Fault Refusal :=
  onBlk (commitAck c.home c.cmd die) s

/-! ### Requests of other dies (R227, Table BMX-3) -/

/-- The address of a remote request lies in this die's tile stores or Pantry, and something answers there. -/
def servesRemote (b : Blk) (a bytes : Nat) : Bool :=
  let ok := fun x => match regionOf x with
    | some .tile => addrDie x == dieOf b && (memKey b x).isSome
    | some .pantry => true
    | _ => false
  bytes % 64 == 0 && decide (bytes ≤ 256) && decide (0 < bytes) && (a % 64 == 0) && ok a && ok (a + bytes - 1)

/-- A remote request is turned away: nothing answers, or the Gallery re-forms (R208, R245). -/
def turnsAway (b : Blk) (k : Nat) (h : MsgHeader) : Bool :=
  b.gal.reforming || (portOf b k).state != .active || !servesRemote b h.addr h.len

/-- The tag and flags of a register as another die is told them. -/
def markOf (b : Blk) (a : Nat) : RegMark :=
  match regAt b a with
  | some k => let r := regOf b k; ⟨r.rows, r.cols, r.rstride, r.key, r.part⟩
  | none => noMark

/-- The header of a message can be taken: its reserved bits are zero and it has the operation, and the port exists (Table
GAL-3). No rule says what becomes of another: it is dropped (DESIGN CHOICE, log entry 77). -/
def headerTaken (b : Blk) (k op : Nat) (h : MsgHeader) : Bool := h.op == op && h.reservedZero && decide (k < 6) && hasLinks b

/-- A stored byte among some granules has bad parity: the flits that carry them are POISON (R232). -/
def poisonsAt (b : Blk) (a bytes : Nat) : Bool := (List.range (bytes / 64)).any (fun i => badHere b (a + 64 * i))

/-- Sends a response on the port its request came on (R227, Table GAL-3). -/
def answerPeer (k op die txn bytes : Nat) (poison : Bool) (b : Blk) : Blk := transmitBytes k 2 bytes poison (sendMsg op die txn b)

/-- LINK_READ: the data goes back on the same port, in POISON flits when its bytes have bad parity (R227, R232); a request
with no path gets an error response. -/
def linkRead (k : Nat) (h : MsgHeader) (b : Blk) : Blk :=
  if !headerTaken b k 0 h then b
  else if turnsAway b k h then answerPeer k 2 h.srcDie h.txn 16 false (busError (.li k) false h.addr b)
  else
    let poison := poisonsAt b h.addr h.len
    let b := busAnswer (ofLe (readBytes b h.addr h.len)) b
    answerPeer k 2 h.srcDie h.txn (16 + h.len) poison { b with out := { b.out with rmark := markOf b h.addr } }

/-- LINK_READ (R227). -/
def execLinkRead (k : Nat) (h : MsgHeader) (s : State) : Host.Outcome State Fault Refusal := onBlk (linkRead k h) s

/-- The marks a remote write leaves (R100, R104, R108). -/
def markRemote (a : Nat) (m : RegMark) (b : Blk) : Blk :=
  match regAt b a with
  | some k => if m.rows = 0 then updReg k (fun r => { r with inUse := true, key := r.key || m.key }) b
              else updReg k (markWrite ⟨m.rows, m.cols, m.rstride⟩ m.key) b
  | none => b

/-- Marks the stored bytes of some granules as having wrong parity (R232, R247). -/
def spoil (a bytes : Nat) (b : Blk) : Blk :=
  { b with bad := b.bad ++ (List.range (bytes / 64)).filterMap (fun i => memKey b (a + 64 * i)) }

/-- LINK_WRITE: the bytes of a POISON flit land with wrong parity, and meet it when they are read (R108, R227, R232). -/
def linkWrite (k : Nat) (h : MsgHeader) (data : BitVec 2048) (m : RegMark) (b : Blk) : Blk :=
  if !headerTaken b k 1 h then b
  else if turnsAway b k h then answerPeer k 3 h.srcDie h.txn 16 false (busError (.li k) true h.addr b)
  else
    let b := markRemote h.addr m (writeBytes h.addr (leBytes h.len data.toNat) b)
    let b := if h.poison then spoil h.addr h.len b else b
    answerPeer k 3 h.srcDie h.txn 16 false { b with out := { b.out with rerror := false } }

/-- LINK_WRITE (R227). -/
def execLinkWrite (k : Nat) (h : MsgHeader) (data : BitVec 2048) (mark : RegMark) (s : State) : Host.Outcome State Fault Refusal :=
  onBlk (linkWrite k h data mark) s

/-! ### Responses of other dies -/

/-- Takes an outstanding request out by its transaction number. -/
def takeReq (k txn : Nat) (b : Blk) : Blk × Option XReq :=
  match tabFind b.gal.xreq txn with
  | some r => if r.port = k then ({ b with gal := { b.gal with xreq := tabDel txn b.gal.xreq } }, some r) else (b, none)
  | none => (b, none)

/-- An error response ends the command it serves (R245). -/
def crossFails (id : Option Nat) (b : Blk) : Blk :=
  match id.bind (cmdOf b) with
  | some c => if c.st = .halted then b else loseLink c b
  | none => { b with out := { b.out with rerror := true } }

/-- READ_DATA: a granule another die was asked for has come, with wrong parity from a POISON flit (R227, R232). -/
def readData (k : Nat) (h : MsgHeader) (ok : Bool) (data : BitVec 2048) (m : RegMark) (b : Blk) : Blk :=
  if !headerTaken b k 2 h then b else
  match takeReq k h.txn b with
  | (b, some r) =>
    if r.write || r.discard then b
    else if !ok then crossFails r.cmd b
    else match r.cmd with
      | some id =>
        if (cmdOf b id).isNone then b
        else { b with gal := { b.gal with
          remote := tabIns r.addr (BitVec.ofNat 512 data.toNat) b.gal.remote
          remoteRegs := tabPut noMark b.gal.remoteRegs (r.addr / 0x40000) m
          remoteBad := if h.poison then b.gal.remoteBad ++ [r.addr] else b.gal.remoteBad } }
      | none => busAnswer data.toNat b
  | (b, none) => b

/-- READ_DATA (R227). -/
def execReadData (k : Nat) (h : MsgHeader) (ok : Bool) (data : BitVec 2048) (mark : RegMark) (s : State) :
    Host.Outcome State Fault Refusal := onBlk (readData k h ok data mark) s

/-- WRITE_RESPONSE: after the last one of a unit the unit is done (R95, R227). -/
def writeResponse (k : Nat) (h : MsgHeader) (ok : Bool) (b : Blk) : Blk :=
  if !headerTaken b k 3 h then b else
  match takeReq k h.txn b with
  | (b, some r) =>
    if !r.write || r.discard then b
    else if !ok then crossFails r.cmd b
    else match r.cmd.bind (cmdOf b) with
      | some c => if c.st = .drain ∧ !writesOut b c.id then unitDone c 0 0 b else b
      | none => b
  | (b, none) => b

/-- WRITE_RESPONSE (R227). -/
def execWriteResponse (k : Nat) (h : MsgHeader) (ok : Bool) (s : State) : Host.Outcome State Fault Refusal :=
  onBlk (writeResponse k h ok) s

end Sys2Proof.Machine
end

