-- ==== Sys2Proof/Machine/Bus.lean ====
section
/-! DEFINITION. The bus matrix and the Cellar: paths, arbitration, grants, holdback, lines, responses and master resets
(chapter 07, R187 to R189, R250, R266, R295, R296, R349), and the fragment view (R123 to R125). -/
namespace Sys2Proof.Machine

/-! ### Targets (Tables BMX-2, BMX-3, BMX-6)

Target ports are numbered: 0-31 Cellar banks, 32-47 memory ports, 48-64 tile-store ports, 65-81 Pantry ports, 82-87 link
egress, 88 control space, 89 Cellar diagnostic. -/

/-- Bytes a target port moves in one mc. -/
def portWidth (k : Nat) : Nat := if k < 48 then 128 else if k < 88 then 256 else 64

/-- The master a target port parks on. On S32 R361 parks PP8 to PP15 on FE0 to FE7, and says nothing of the Cellar banks that
Table BMX-2 parks on FE8 to FE15, which S32 lacks: they park on no engine there, so no request finds them parked (DESIGN
CHOICE, log entry 83). -/
def parkedOn (b : Blk) (k : Nat) : Master :=
  if k < 32 then .fe (4 * (k / 8) + k % 4) else if k < 48 then .cq ((k - 32) / 4) else if k < 65 then .fe (k - 48)
  else if k < 82 then .fe (if gradeOf b = .s32 ∧ 73 ≤ k ∧ k < 81 then k - 73 else k - 65) else if k < 88 then .fe (3 * (k - 82)) else if k = 88 then .cc 0 else .vault

/-- The TRP paths are open (R304, R305). -/
def trapOpen (b : Blk) : Bool := b.vlt.trapOpen && !b.fab.lat.sealed

/-- A fetch engine, the Vault, or the Trapdoor while its paths are open (Table BMX-3). -/
def isDataMaster (b : Blk) : Master → Bool
  | .fe n => masterPresent b (.fe n)
  | .vault => true
  | .trapdoor => trapOpen b
  | _ => false

/-- A link ingress that the grade has (R1, R203). -/
def isIngress (b : Blk) : Master → Bool
  | .li k => masterPresent b (.li k)
  | _ => false

/-- A byte range lies in another. -/
def within (a n base size : Nat) : Bool := decide (base ≤ a) && decide (a + n ≤ base + size)

/-- The external windows of a control core, each in the context of the port that owns the queue or the stream: rings and restart
areas of enabled queues, status records of armed streams; and the firmware's data region in the block's own (R297, R298). -/
def coreWindow (b : Blk) (ctx a n : Nat) : Bool :=
  b.qs.any (fun e => e.2.enable && e.1 / 4 == ctx && (within a n e.2.ringBase.toNat (64 * ringSize e.2)
      || within a n e.2.cplBase.toNat (16 * ringSize e.2) || within a n e.2.restartArea.toNat 64))
  || b.streams.any (fun e => e.2.state != .disarmed && e.2.port == ctx && within a n (sdescOf e.2.sd).status 64)
  || (ctx == 5 && within a n b.vlt.dataBase.toNat b.vlt.dataSize.toNat)

/-- The parts of control space (Table BMX-6). -/
inductive CtrlPart
  | sram | rom | vaultSram | page (p : Nat) | halt | dict (slot : Nat) | wbase (c : Nat) | mailbox (k : Nat)
  deriving DecidableEq, Repr

/-- The part an offset from the start of control space lies in. -/
def ctrlPart (o : Nat) : Option CtrlPart :=
  if o < 0x80000 then some .sram
  else if 0x100000 ≤ o ∧ o < 0x110000 then some .rom
  else if 0x200000 ≤ o ∧ o < 0x210000 then some .vaultSram
  else if 0x1000000 ≤ o ∧ o < 0x1005000 then some (.page ((o - 0x1000000) / 0x1000))
  else if 0x1800000 ≤ o ∧ o < 0x1800140 ∧ o % 0x40 < 0x20 then some .halt
  else if 0x2000000 ≤ o ∧ o < 0x2000C00 then some (.dict ((o - 0x2000000) / 512))
  else if 0x3000000 ≤ o ∧ o < 0x3000020 then some (.wbase ((o - 0x3000000) / 8))
  else if 0x4000000 ≤ o ∧ o < 0x4006000 then some (.mailbox ((o - 0x4000000) / 0x1000))
  else none

/-- The owner of a local dictionary slot (R313). -/
def slotOwner (slot : Nat) : Option Master :=
  match slot with
  | 0 => some .vault
  | 5 => some .trapdoor
  | s => if s ≤ 4 then some (.cc (s - 1)) else none

/-- A master may access a part of control space (Table BMX-6, R118, R313). -/
def ctrlAllows (b : Blk) (m : Master) (write : Bool) (c : CtrlPart) : Bool :=
  let core := match m with | .cc _ => true | _ => false
  let vlt := m == .vault
  let trp := m == .trapdoor && trapOpen b
  match c with
  | .sram => core || vlt || trp
  | .rom => !write && (core || vlt || trp)
  | .vaultSram => vlt || trp
  | .page _ => core || vlt || trp
  | .halt => core || vlt || (trp && !write)
  | .dict s => slotOwner s == some m && (m != .trapdoor || trp)
  | .wbase c => m == .cc c || vlt || trp
  | .mailbox k => if write then m == .li k && isIngress b m else core || vlt

/-- An address lies in the fragment view (R123). -/
def inFragView (a : Nat) : Bool := decide (0x4080000000 ≤ a) && decide (a < 0x40A2000000)

/-- A physical tile bound to a logical tile of an enabled tenant (R124). -/
def tenantTile (b : Blk) (p : Nat) : Bool :=
  (List.range 64).any (fun t => physOf b t == some p && (List.range 5).any (fun q => recEnabled (activeOf b q) && bitAt (activeOf b q).tiles t))

/-- The fragment view answers a master at an address (R124). -/
def fragOk (b : Blk) (m : Master) (a : Nat) : Bool :=
  let l := fragLoc a
  m == .vault && inFragView a && (decide (l.2.1 < 24) || (l.2.1 == 24 && hasAcc b)) && !physAbsent b l.1 && !tenantTile b l.1

/-- A CMD-class message: operations 4 to 8 of Table GAL-3 (R209). -/
def isCmdMsg (r : BusReq) : Bool := match r.cmdOp with | some o => decide (4 ≤ o) && decide (o ≤ 8) | none => false

/-- The target port a request has a path to, none where it has no path (R206, R208, R209, R220). -/
def targetOf (b : Blk) (r : BusReq) : Option Nat :=
  match regionOf r.addr with
  | some .external =>
    match r.master with
    | .cq n => if r.home / 4 = n ∧ r.home < 16 then some (32 + r.home) else none
    | .cc _ => if 5 ≤ r.tag ∧ coreWindow b (reqCtx r) r.addr r.bytes ∧ r.cmdOp.isNone then some (cellarBank b r.home r.addr) else none
    | m => if isDataMaster b m then some (cellarBank b r.home r.addr) else none
  | some .tile =>
    if addrDie r.addr ≠ dieOf b then
      match r.master with
      | .fe n => if masterPresent b (.fe n) then (requestPort b r.addr).map (82 + ·) else none
      | .vault => (requestPort b r.addr).map (82 + ·)
      | .cc _ => if isCmdMsg r then (requestPort b r.addr).map (82 + ·) else none
      | _ => none
    else if isDataMaster b r.master || isIngress b r.master then (physOf b (addrTile r.addr)).map (fun p => 48 + p / 4) else none
  | some .pantry =>
    if isDataMaster b r.master || isIngress b r.master then some (65 + addrHandle r.addr / 32) else none
  | some .control =>
    if inFragView r.addr then (if fragOk b r.master r.addr then some (48 + (fragLoc r.addr).1 / 4) else none)
    else match ctrlPart (r.addr - 0x4000000000) with
      | some c => if ctrlAllows b r.master r.write c then some 88 else none
      | none => none
  | some .cellarDiag => if r.master = .vault ∨ (r.master = .trapdoor ∧ trapOpen b) then some 89 else none
  | none => none

/-- A target port. -/
def busPort (b : Blk) (k : Nat) : BusPort := tabGet {} b.bus.ports k

/-- Changes a target port. -/
def updBusPort (k : Nat) (f : BusPort → BusPort) (b : Blk) : Blk := updBus (fun u => { u with ports := tabUpd {} u.ports k f }) b

/-- The block address of a control core's address, none where the core gets an error response (Table BMX-5, R219). -/
def coreAddr (b : Blk) (core a : Nat) : Option Nat :=
  let sram := if b.dict.bootswapNow then 0x100000 else 0
  let rom := if b.dict.bootswapNow then 0 else 0x100000
  if sram ≤ a ∧ a < sram + 0x80000 then some (0x4000000000 + (a - sram))
  else if rom ≤ a ∧ a < rom + 0x10000 then some (0x4000100000 + (a - rom))
  else if 0x40000000 ≤ a ∧ a < 0x80000000 then some (0x4000000000 + (a - 0x40000000))
  else if 0x80000000 ≤ a ∧ a < 0x100000000 then some ((tabGet 0 b.bus.wbase core).toNat + (a - 0x80000000))
  else none

/-! ### Cellar faults (R248, R250, R266) -/

/-- The line a request hits: both the address and the tag match (R295). -/
def hitLine (b : Blk) (r : BusReq) : Option Line := lineAt b.bus.cellar r.tag (lineOf r.addr)

/-- A quadrant leaves service: its dirty lines are written back (R266). -/
def quadrantLeaves (quad bank : Nat) (b : Blk) : Blk :=
  if bitAt b.bus.quadrantOut quad then b
  else
    let b := dropLines (fun l => l.home / 4 == quad) b
    let b := updBus (fun u => { u with quadrantOut := setBit u.quadrantOut quad true }) b
    raiseAlert 5 (sumpPut 0x22 none 6 0 0 quad bank (newEpoch 6 b))

/-- Counts a stored-line parity error of a bank (R266). -/
def bankFault (bank : Nat) (b : Blk) : Blk :=
  let l := recordTime b.clk.tick (tabGet [] b.bus.bankFaults bank)
  let b := updBus (fun u => { u with bankFaults := tabPut [] u.bankFaults bank l }) b
  if b.dict.retireLimit.toNat ≤ l.length then quadrantLeaves (bank / 8) bank b else b

/-- The sectors of a dirty line turn bad in the Cellar: their bytes have wrong parity from then on (R250). -/
def markSectors (l : Line) (sectors : BitVec 8) (b : Blk) : Blk :=
  let marks := (setBits sectors.toNat 8).map (fun s => extKey l.tag (l.addr * 512 + s * 64))
  { b with bad := b.bad ++ marks.filter (fun a => !b.bad.contains a) }

/-- A hit line whose parity fails: a clean one is dropped and fetched again, a dirty one written back with poison (R248, R250). -/
def badLine (l : Line) (r : BusReq) (b : Blk) : Blk :=
  let b := dropLines (fun x => x == l) (if l.dirty then markSectors l r.badSectors b else countReplays 1 b)
  bankFault (cellarBank b r.home r.addr) b

/-! ### The regulator at a bank (R187, R195) -/

/-- A refill of the line under the same tag is under way (R195). -/
def refilling (b : Blk) (r : BusReq) : Bool :=
  b.bus.flight.any (fun f => f.kind == .refill && f.req.tag == r.tag && lineOf f.req.addr == lineOf r.addr)

/-- A request misses and so is charged: repeats of a miss on its way hit when the line has come (R188, R195). -/
def misses (b : Blk) (r : BusReq) : Bool := ((hitLine b r).isNone && !refilling b r) || r.badSectors != 0

/-- The tenant's bucket can pay for a request at a Cellar bank; a hit and a SYS request cost nothing. -/
def canPay (b : Blk) (r : BusReq) : Bool :=
  decide (5 ≤ r.tag) || !misses b r || decide (slotCharge ≤ bucketOf b r.tag r.home)

/-- Takes a request's charge and counts it. -/
def charge (r : BusReq) (b : Blk) : Blk := if 5 ≤ r.tag then b else chargeSlot r.tag r.home r.bytes b

/-! ### Reading and writing at a target -/

/-- The keys behind a bus address: the fragment view's rows, or as a block address. -/
def busKey (b : Blk) (a : Nat) : Option Nat :=
  if inFragView a then (let l := fragLoc a; some (frameKey l.1 l.2.1 l.2.2)) else memKey b a

/-- A byte of a local dictionary slot (Table DIC-4). -/
def slotByte (x : Slot) (o : Nat) : Byte :=
  if o < 2 then BitVec.ofNat 8 (x.index.toNat / 2 ^ (8 * o))
  else if o = 2 then x.sub
  else if o = 3 then x.op
  else if o < 6 then BitVec.ofNat 8 (x.len.toNat / 2 ^ (8 * (o - 4)))
  else if o = 6 then x.status
  else if 0x40 ≤ o ∧ o < 0x140 then x.data.getD (o - 0x40) 0
  else 0

/-- A byte of a mailbox: the operation in bytes 0-1, the sending die in bytes 2-3, the command in bytes 4-7; the spec gives no
layout (DESIGN CHOICE, log entry 82). -/
def mailByte (b : Blk) (k o : Nat) : Byte :=
  match b.gal.mailbox.find? (fun x => x.port == k) with
  | some x => (leBytes 2 x.op ++ leBytes 2 x.die ++ leBytes 4 x.cmd).getD o 0
  | none => 0

/-- What a register page, a halt-control word, a window base or a mailbox holds at a byte. -/
def ctrlByte (b : Blk) (a : Nat) : Byte :=
  let o := a - 0x4000000000
  match ctrlPart o with
  | some (.page p) => BitVec.ofNat 8 (tenantRegRead b p (o % 0x1000 / 4 * 4) / 2 ^ (8 * (o % 4)))
  | some .halt => if o % 8 = 0 then BitVec.ofNat 8 (haltWord b ((o - 0x1800000) / 0x40) (o % 0x40 / 8)) else 0
  | some (.wbase c) => BitVec.ofNat 8 ((tabGet 0 b.bus.wbase c).toNat / 2 ^ (8 * (o % 8)))
  | some (.dict k) => slotByte (tabGet {} b.dict.slots k) (o % 512)
  | some (.mailbox k) => mailByte b k (o % 0x1000)
  | _ => memGet b.mem a

/-- Bytes read at a bus address. -/
def busRead (b : Blk) (a n : Nat) : Nat :=
  ofLe ((List.range n).map (fun i =>
    if regionOf (a + i) = some .control ∧ !inFragView (a + i) then ctrlByte b (a + i)
    else match busKey b (a + i) with
      | some k => memGet b.mem k
      | none => 0))

/-- A granule written over the halt-control words of a port: each word with a bit set is a write of that word (R118). -/
def writeHalts (m : Master) (p : Nat) (v : Granule) (b : Blk) : Blk :=
  (List.range 4).foldl (fun b q =>
    let w := field v (64 * q) 64
    if w = 0 then b else haltWrite m p q (BitVec.ofNat 64 w) b) b

/-- Writes a granule at a bus address: memory as memory, the halt-control words as their rows; the other registers of control
space have commands of their own. -/
def busPut (m : Master) (a : Nat) (v : Granule) (b : Blk) : Blk :=
  if regionOf a = some .control ∧ !inFragView a then
    match ctrlPart (a - 0x4000000000) with
    | some .sram => putGranuleKey a v b
    | some .vaultSram => putGranuleKey a v b
    | some .halt => writeHalts m ((a - 0x4001800000) / 0x40) v b
    | some (.mailbox k) => { b with gal := { b.gal with
        mailbox := b.gal.mailbox.filter (fun x => x.port != k) ++ [⟨k, field v 0 16, field v 16 16, field v 32 32⟩] } }
    | _ => b
  else match busKey b a with
    | some k => putGranuleKey k v b
    | none => b

/-- Writes the bytes of a segment, granule by granule. -/
def busWrite (m : Master) (a n : Nat) (data : Nat) (b : Blk) : Blk :=
  (List.range (n / 64)).foldl (fun b g => busPut m (a + 64 * g) (BitVec.ofNat 512 (data / 2 ^ (512 * g))) b) b

/-- Writes a request's segment in its translation context (R297). -/
def writeSeg (r : BusReq) (b : Blk) : Blk := inCtx (reqCtx r) (busWrite r.master r.addr r.bytes r.data.toNat) b

/-- Some byte read has bad parity. -/
def busBad (b : Blk) (a n : Nat) : Bool :=
  (List.range (n / 64)).any (fun g => match busKey b (a + 64 * g) with | some k => badAt b k | none => false)

/-- Answers a read; bytes with bad parity are no good answer. -/
def answerRead (r : BusReq) (b : Blk) : Blk :=
  let c := ofCtx (reqCtx r) b
  let b := busAnswer (busRead c r.addr r.bytes) b
  { b with out := { b.out with rerror := busBad c r.addr r.bytes } }

/-- The first response of a write: every master of the matrix can see it (R216). -/
def answerWrite (b : Blk) : Blk := { b with out := { b.out with rerror := false, seen := b.out.seen + 1 } }

/-! ### Serving a grant -/

/-- A Cellar bank serves a granted request. A write is seen by every later grant at the bank. A hit is answered at once; a miss
leaves the data path for the miss buffer, and a miss on a line that is on its way waits for it (R195, R206, R214, R216, R296). -/
def cellarServe (r : BusReq) (b : Blk) : Blk :=
  let b := if r.write then dropLines (fun l => l.addr == lineOf r.addr && l.tag != r.tag) b else b
  let b := match hitLine b r with
    | some l => if r.badSectors = 0 then b else badLine l r b
    | none => b
  let hit := hitLine b r
  let pays := misses b { r with badSectors := 0 }
  let b := if r.write then answerWrite (writeSeg r b) else b
  match hit with
  | some l =>
    let b := countAdd (cntKey 0x6000 6 0) 1 b
    let b := updBus (fun u => { u with cellar := { l with dirty := l.dirty || r.write } :: u.cellar.filter (fun x => x != l) }) b
    if r.write then b else answerRead r b
  | none =>
    let b := if 5 ≤ r.tag then b else if pays then charge r (countAdd (cntKey 0x6000 7 0) 1 b) else countAdd (cntKey 0x6000 6 0) 1 b
    let kind := if allocates b r.tag (r.home / 4) then Transfer.refill else .through
    updBus (fun u => { u with flight := u.flight ++ [{ req := r, kind := kind }] }) b

/-- A target serves a granted segment. -/
def serve (k : Nat) (r : BusReq) (b : Blk) : Blk :=
  if k < 32 then cellarServe r b
  else if 82 ≤ k ∧ k < 88 then
    if r.cmdOp.isSome then transmit (k - 82) 3 b
    else (List.range (r.bytes / 64)).foldl (fun b g =>
      sendRequestOf none (some r.master) (r.addr + 64 * g) r.write (BitVec.ofNat 512 (r.data.toNat / 2 ^ (512 * g))) noMark b) b
  else if r.write then answerWrite (writeSeg r b)
  else answerRead r b

/-- A segment whose beats failed parity is sent again up to REPLAY_LIMIT times; past that it has no effect, its master gets an
error response, and a PARITY record names it (R216, R248). -/
def serveBeats (k : Nat) (r : BusReq) (b : Blk) : Blk :=
  if r.badBeats ≤ b.dict.replayLimit.toNat then serve k r (countReplays r.badBeats b)
  else
    let b := parityRecord none 6 r.addr 0 0 (allReplays b)
    { b with out := { b.out with rerror := true, rdata := 0 } }

/-! ### Arbitration (R189, R210, R211, R218) -/

/-- A port arbitrates by requester tag. -/
def byTag (k : Nat) : Bool := decide (k < 48)

/-- A request's place in the cyclic order of its port. -/
def placeOf (k : Nat) (r : BusReq) : Nat := if byTag k then min r.tag 5 else masterNo r.master

/-- Places in the cyclic order. -/
def placesAt (k : Nat) : Nat := if byTag k then 6 else 33

/-- Everything that waits at a port or is in flight in the matrix, but for write-backs and for tenant writes, which have had
their response at the bank (R216). -/
def underWay (b : Blk) : List BusReq :=
  (b.bus.flight.filter (fun f => f.kind != .back && !(f.req.write && decide (f.req.tag < 5)))).map (·.req) ++ b.bus.ports.flatMap (fun e => e.2.waiting.map (·.1))

/-- The granule that the fetch side of a stream comes to, counted from the start of the sink's run. -/
def fetchedTo (x : Stream) (s : SDesc) : Nat :=
  (match x.ahead, x.turn with | true, some t => t.1 * s.segG | _, _ => 0) + x.fseg * s.segG + x.fpos

/-- A stream's time to empty as a fraction: granules fetched or in flight and not yet delivered, over its RATE; a stream with
detached receivers counts as empty (R189). -/
def timeToEmpty (b : Blk) (n : Nat) : Nat × Nat :=
  let x := streamOf b n
  let s := sdescOf x.sd
  if x.detached ≠ 0 then (0, 1)
  else
    let flying := (((underWay b).filter (fun r => r.stream == some n)).map (fun r => r.bytes / 64)).foldl (· + ·) 0
    (fetchedTo x s - (x.segment * s.segG + x.position) + flying, max 1 s.rate)

/-- The rank of a SYS request: the Vault, the control cores, the Trapdoor, then the quadrant (R210). -/
def sysRank : Master → Nat
  | .vault => 0 | .cc n => 1 + n | .trapdoor => 5 | .cq _ => 6 | .fe _ => 7 | .li _ => 8

/-- Within one requester, request `x` goes before `y` (R189, R210). -/
def goesFirst (b : Blk) (x y : BusReq) : Bool :=
  if 5 ≤ x.tag then decide (sysRank x.master < sysRank y.master)
  else match x.stream, y.stream with
    | none, none => false
    | none, some _ => true
    | some _, none => false
    | some n, some m =>
      let u := timeToEmpty b n
      let v := timeToEmpty b m
      if u.1 * v.2 ≠ v.1 * u.2 then decide (u.1 * v.2 < v.1 * u.2) else decide (n < m)

/-- The port is in hold mode (Table BMX-4). -/
def holdMode (b : Blk) (k : Nat) : Bool :=
  if k < 32 then bitAt b.dict.holdCb k else if k < 48 then bitAt b.dict.holdM (k - 32)
  else if k < 65 then bitAt b.dict.holdTs (k - 48) else if k < 82 then bitAt b.dict.holdPp (k - 65)
  else bitAt b.dict.holdOther (k - 82)

/-- Round robin among requests: the first place from the pointer that has one, and within a tag the one that goes first (R189,
R210). -/
def choose (b : Blk) (k : Nat) (l : List BusReq) : Option BusReq :=
  (List.range (placesAt k)).findSome? (fun i =>
    match l.filter (fun r => placeOf k r == ((busPort b k).ptr + i) % placesAt k) with
    | [] => none
    | r :: t => some (if byTag k then t.foldl (fun best y => if goesFirst b y best then y else best) r else r))

/-- Requests of a port presented before mc `t` that may be granted in it (R187, R211, R218). -/
def eligible (b : Blk) (k t : Nat) : List BusReq :=
  let x := busPort b k
  (x.waiting.filter (fun e => decide (e.2 < t) && (match x.owner with | some m => e.1.master == m | none => true)
    && (!decide (k < 32) || canPay b e.1))).map (·.1)

/-- The first segment of its burst at its target: of the burst, or of the burst's bytes in its line. -/
def firstAt (r : BusReq) : Bool :=
  r.off == 0 || (regionOf r.addr == some .external && r.addr / 512 != (r.addr - 256) / 512)

/-- A write whose beats can still be cut keeps the bytes it replaces. -/
def oldBytes (b : Blk) (r : BusReq) : BitVec 2048 :=
  if r.write then BitVec.ofNat 2048 (busRead (ofCtx (reqCtx r) b) r.addr r.bytes) else 0

/-- Grants a request at mc `t`: the data path is busy, the pointer moves on, and in hold mode, as it stood at the burst's start,
the port is kept until the burst's last segment is granted (R210, R211, R218). -/
def grant (k t : Nat) (r : BusReq) (b : Blk) : Blk :=
  let seg : Seg := ⟨r, t, oldBytes b r⟩
  let b := updBusPort k (fun x =>
    let hold := if firstAt r then holdMode b k else x.hold
    { x with
      ptr := (placeOf k r + 1) % placesAt k
      busy := t + ceilDiv r.bytes (portWidth k)
      cur := some seg
      waiting := x.waiting.eraseP (fun e => e.1 == r)
      hold := hold
      owner := if hold && !r.last then some r.master else none }) b
  let b := if r.last then updBus (fun u => { u with ports := u.ports.map (fun e =>
      (e.1, { e.2 with owner := if e.2.owner = some r.master then none else e.2.owner })) }) b else b
  serveBeats k r b

/-- One mc of a port other than a memory port: a free port grants (R210, R211). -/
def portMc (k t : Nat) (b : Blk) : Blk :=
  if t < (busPort b k).busy then b
  else match choose b k (eligible b k t) with
    | some r => grant k t r b
    | none => b

/-! ### Memory transactions (R213 to R215) -/

/-- A request that waits for the same line's refill needs no transaction of its own (R195). -/
def joins (before : List Flight) (f : Flight) : Bool :=
  f.kind == .refill && before.any (fun g => g.kind == .refill && g.req.tag == f.req.tag && lineOf g.req.addr == lineOf f.req.addr)

/-- Entries a quadrant holds, and those that refills hold (R213). -/
def entriesOf (l : List Flight) (quad : Nat) : Nat × Nat :=
  let q := l.filter (fun f => f.entry && f.req.home / 4 == quad)
  (q.length, (q.filter (fun f => f.kind == .refill)).length)

/-- An entry is free for a transaction: 512 in a quadrant, of which refills take 448 (R213). -/
def entryFree (l : List Flight) (f : Flight) : Bool :=
  let n := entriesOf l (f.req.home / 4)
  decide (n.1 < 512) && (f.kind != .refill || decide (n.2 < 448))

/-- Gives free entries to the misses that wait for one, in their order (R213, R214). -/
def giveEntries (b : Blk) : Blk :=
  updBus (fun u => { u with flight := u.flight.foldl (fun (l : List Flight) f =>
    l ++ [if !f.entry && !joins l f && entryFree (l ++ u.flight.drop l.length) f then { f with entry := true } else f]) [] }) b

/-- Transactions that a memory port may take: with an entry, and not yet taken, while it has fewer than 128 (R213). -/
def readyAt (b : Blk) (m : Nat) : List BusReq :=
  if 128 ≤ (b.bus.flight.filter (fun f => f.sent && f.req.home == m)).length then []
  else (b.bus.flight.filter (fun f => f.entry && !f.sent && f.req.home == m)).map (·.req)

/-- One mc of a memory port: it takes a line transfer, 4 mc of 128 bytes, round robin among the tags (R210, R211, R213). -/
def memoryMc (m t : Nat) (b : Blk) : Blk :=
  if t < (busPort b (32 + m)).busy then b
  else match choose b (32 + m) (readyAt b m) with
    | some r =>
      let b := updBusPort (32 + m) (fun x => { x with ptr := (placeOf (32 + m) r + 1) % placesAt (32 + m), busy := t + 4 }) b
      updBus (fun u => { u with flight := match u.flight.findIdx? (fun f => f.entry && !f.sent && f.req == r) with
        | some i => u.flight.modify i (fun f => { f with sent := true })
        | none => u.flight }) b
    | none => b

/-- The quadrants and their memory ports in one mc: free entries are given, and every free port takes a transfer. A memory port
is parked on the quadrant that serves it, so it takes a miss in the mc in which it leaves the bank (R211, R212). -/
def memoriesMc (t : Nat) (b : Blk) : Blk :=
  if b.bus.flight.all (·.sent) then b
  else (List.range 16).foldl (fun b m => memoryMc m t b) (giveEntries b)

/-! ### Presenting a request -/

/-- Requests in flight or waiting of a master at most (Table BMX-1). -/
def masterLimit : Master → Nat
  | .fe _ => 128 | .li _ => 64 | .cc _ => 16 | .vault => 16 | .trapdoor => 4 | .cq _ => 512

/-- Two byte ranges share a line of external memory, or a granule elsewhere (R215). -/
def sameUnit (a n a' n' : Nat) : Bool :=
  let w := if regionOf a = some .external then 512 else 64
  decide (a / w ≤ (a' + n' - 1) / w) && decide (a' / w ≤ (a + n - 1) / w)

/-- The requests of a master that have not had their response: address and bytes (R203, R215, R223). -/
def outstanding (b : Blk) (m : Master) : List (Nat × Nat) :=
  ((underWay b).filter (fun r => r.master == m)).map (fun r => (r.addr, r.bytes))
  ++ (b.gal.xreq.filter (fun e => e.2.master == some m)).map (fun e => (e.2.addr, 64))

/-- Ingress requests and the block's own have separate queues of 32 at a TS or PP port (R215). -/
def queueFull (b : Blk) (k : Nat) (r : BusReq) : Bool :=
  let li := fun (m : Master) => match m with | .li _ => true | _ => false
  decide (48 ≤ k) && decide (k < 82)
  && decide (32 ≤ ((busPort b k).waiting.filter (fun e => li e.1.master == li r.master)).length)

/-- An earlier request of the master is held back that this one may not pass: one on the same line or granule, or an earlier
segment of its burst (R215, R217). -/
def behindHeld (b : Blk) (r : BusReq) : Bool :=
  b.bus.held.any (fun e => e.1.master == r.master
    && (sameUnit e.1.addr e.1.bytes r.addr r.bytes || (e.1.addr - e.1.off == r.addr - r.off && decide (e.1.off < r.off))))

/-- The matrix holds the request back: its master has no response space or no request free, an earlier request on the same line
or granule has not had its response, a queue is full, or the quadrant sleeps (R203, R215, R217, R336). -/
def heldBack (b : Blk) (k : Nat) (r : BusReq) : Bool :=
  let o := outstanding b r.master
  decide (min (masterLimit r.master) (max 1 r.room) ≤ o.length) || o.any (fun x => sameUnit x.1 x.2 r.addr r.bytes)
  || behindHeld b r || queueFull b k r || (decide (k < 32) && tabGet 2 b.pwr.quadrants (r.home / 4) != 2)

/-- The segment's shape: segments of 256 bytes from the start of a burst of 64 to 4,096 bytes, a multiple of 64, that crosses no
4,096-byte boundary; only the last may be shorter (R217). A quadrant moves whole lines (R213). -/
def segmentOk (r : BusReq) : Bool :=
  match r.master with
  | .cq _ => r.addr % 512 == 0 && r.bytes == 512
  | _ =>
    r.addr % 64 == 0 && r.bytes % 64 == 0 && decide (64 ≤ r.bytes) && decide (r.bytes ≤ 256) && (r.last || r.bytes == 256)
    && r.off % 256 == 0 && decide (r.off ≤ r.addr) && (r.addr - r.off) / 4096 == (r.addr + r.bytes - 1) / 4096

/-- The port is idle and parked on the master in mc `t`: no segment in progress, nothing waiting from before, and no keeper but
the master (R211, R212). -/
def parkedFor (b : Blk) (k t : Nat) (m : Master) : Bool :=
  let x := busPort b k
  decide (x.busy ≤ t) && x.waiting.all (fun e => e.2 == t) && parkedOn b k == m && masterPresent b m && (x.owner.isNone || x.owner == some m)

/-- Puts a request to its target port: an idle port parked on the master grants at once, else it waits for a later mc (R211,
R212). -/
def present (k : Nat) (r : BusReq) (b : Blk) : Blk :=
  let t := b.clk.mc
  match r.master with
  | .cq _ => memoriesMc t (updBus (fun u => { u with flight := u.flight ++ [{ req := r, kind := if r.write then .back else .through }] }) b)
  | _ =>
    let now := parkedFor b k t r.master && (!decide (k < 32) || canPay b r)
    let b := updBusPort k (fun x => { x with waiting := x.waiting ++ [(r, t)] }) b
    if now then memoriesMc t (grant k t r b) else b

/-- A request of a control core with its core address turned into a block address (R219, R220, Table BMX-5); CMD messages name a
die by block address. -/
def coreReq (b : Blk) (r : BusReq) : Option BusReq :=
  match r.master with
  | .cc c =>
    if r.cmdOp.isSome then some r
    else match coreAddr b c r.addr, coreAddr b c (r.addr + r.bytes - 1) with
      | some a, some z => if z = a + r.bytes - 1 then some { r with addr := a } else none
      | _, _ => none
  | _ => some r

/-- The parts of a segment that go to different banks: what lies in its first line, and in the next (R204). -/
def lineParts (r : BusReq) : List BusReq :=
  let n := 512 - r.addr % 512
  match r.master with
  | .cq _ => [r]
  | _ =>
    if regionOf r.addr ≠ some .external ∨ r.bytes ≤ n then [r]
    else [{ r with bytes := n, last := false },
          { r with addr := r.addr + n, bytes := r.bytes - n, off := r.off + n, home := r.home2
                   data := BitVec.ofNat 2048 (r.data.toNat / 2 ^ (8 * n)) }]

/-- Presents a request, or holds it back; one with no path gets an error response (R208, R215). -/
def route (r : BusReq) (b : Blk) : Blk :=
  match targetOf b r with
  | none => busError r.master r.write r.addr b
  | some k => if heldBack b k r then updBus (fun u => { u with held := u.held ++ [(r, b.clk.mc)] }) b else present k r b

/-- A stream fetches nothing while its reservation has no empty handle (R189). -/
def streamMay (b : Blk) (r : BusReq) : Bool :=
  match r.stream with
  | some n =>
    let x := streamOf b n
    let s := sdescOf x.sd
    !(s.memSource && !s.touch && !r.write && x.detached == 0 && x.fpos % 1024 == 0 && (emptyHandle x).isNone)
  | none => true

/-- BUS_REQUEST: a master presents a segment (R208, R210 to R220). A segment of another shape, one of a master that the grade
lacks, and one of a stream with no empty handle are none of the matrix's requests and change nothing. -/
def busRequest (r : BusReq) (b : Blk) : Blk :=
  if !segmentOk r || b.pwr.inReset || !masterPresent b r.master || !streamMay b r then b
  else match coreReq b r with
    | none => busError r.master r.write r.addr b
    | some r => (lineParts r).foldl (fun b x => route x b) b

/-- BUS_REQUEST (R210). -/
def execBusRequest (r : BusReq) (s : State) : Host.Outcome State Fault Refusal := onBlk (busRequest r) s

/-! ### The matrix as time passes -/

/-- The requests held back are tried again, in their order; one whose path has gone gets an error response (R208, R215). -/
def retryHeld (t : Nat) (b : Blk) : Blk :=
  let l := b.bus.held
  l.foldl (fun b e => match targetOf b e.1 with
    | some k => if heldBack b k e.1 || decide (t ≤ e.2) then updBus (fun u => { u with held := u.held ++ [e] }) b
                else updBusPort k (fun x => { x with waiting := x.waiting ++ [e] }) b
    | none => busError e.1.master e.1.write e.1.addr b) (updBus (fun u => { u with held := [] }) b)

/-- What one mc of holding and of waiting for tokens counts (Table DIC-11). -/
def countHeld (b : Blk) : Blk :=
  let unentered := (b.bus.flight.zipIdx.filter (fun x => !x.1.entry && !joins (b.bus.flight.take x.2) x.1)).length
  let b := countAdd (cntKey 0x6000 2 0) (b.bus.held.length + unentered) b
  (List.range 5).foldl (fun b p =>
    let n := ((b.bus.ports.flatMap (fun e => if e.1 < 32 then e.2.waiting else [])).filter (fun e => e.1.tag == p && !canPay b e.1)).length
    if n = 0 then b else countAdd (cntKey 0x6000 3 0) n (countAdd (cntKey 0x6010 (p + 1) 3) n b)) b

/-- Mc `t` of the matrix: the buckets gain, held requests are tried, and every port that can grants once (R187, R210, R211,
R215). -/
def matrixMc (t : Nat) (b : Blk) : Blk :=
  let b := retryHeld t (fillBuckets 1 b)
  let b := (b.bus.ports.map (·.1)).foldl (fun b k => if 32 ≤ k ∧ k < 48 then b else portMc k t b) b
  countHeld (memoriesMc t b)

/-- Nothing in the matrix waits for a grant. -/
def matrixIdle (b : Blk) : Bool :=
  b.bus.held.isEmpty && b.bus.ports.all (fun e => e.2.waiting.isEmpty) && b.bus.flight.all (·.sent)

/-- The matrix over the `n` mc that end with mc `t`: one at a time while anything waits. -/
def runMatrix (t : Nat) : Nat → Blk → Blk
  | 0, b => b
  | n + 1, b => if matrixIdle b then fillBuckets (n + 1) b else runMatrix t n (matrixMc (t - n) b)

/-! ### Memory ports (R207, R349) -/

/-- Takes the bytes a memory port returned for a line, but for what is to be written over them: a dirty line's, and the writes
that wait for the line (R214, R216, R250). -/
def loadLine (ctx line : Nat) (data : List Byte) (b : Blk) : Blk :=
  if data.length ≠ 512 ∨ b.bus.cellar.any (fun l => l.addr == line && l.tag == ctx && l.dirty) then b
  else
    let b := { b with mem := memPutBytes b.mem (extKey ctx (line * 512)) data }
    (b.bus.flight.filter (fun f => f.req.write && f.kind != .back && reqCtx f.req == ctx && lineOf f.req.addr == line)).foldl
      (fun b f => writeSeg f.req b) b

/-- Answers a request whose line has come, or could not be had (R26, R206, R216, R223, R349). A write of SYS has its second
response when the memory port has passed it on. -/
def answerFlight (f : Flight) (status : RspStatus) (b : Blk) : Blk :=
  if f.discard ∨ f.kind = .back then b
  else if status ≠ .ok then { b with out := { b.out with rerror := true, rdata := 0 } }
  else if f.req.write then
    (if 5 ≤ f.req.tag then { b with out := { b.out with rerror := false, passed := b.out.passed + 1 } } else b)
  else answerRead f.req b

/-- The requests that one response answers: its own, and those that wait for the same refill (R195). -/
def answeredBy (b : Blk) (f : Flight) : List Flight :=
  f :: (if f.kind = .refill then (b.bus.flight.erase f).filter (fun g =>
    g.kind == .refill && g.req.tag == f.req.tag && lineOf g.req.addr == lineOf f.req.addr) else [])

/-- What a response does: a refill keeps its line, and every request that waited for it is answered in turn (R195, R206, R214,
R295). -/
def landResponse (f : Flight) (status : RspStatus) (b : Blk) : Blk :=
  let l := answeredBy b f
  let b := updBus (fun u => { u with flight := l.foldl (fun t g => t.erase g) u.flight }) b
  let b := if f.kind = .refill ∧ status = .ok then
      keepLine f.req.tag f.req.home (lineOf f.req.addr) (l.any (fun g => g.req.write)) b else b
  l.foldl (fun b g => answerFlight g status b) b

/-- A response that failed parity on every beat is asked for again, up to REPLAY_LIMIT times (R248, R349). -/
def askAgain (f : Flight) (b : Blk) : Blk :=
  countReplays 1 (updBus (fun u => { u with flight := match u.flight.findIdx? (· == f) with
    | some i => u.flight.modify i (fun g => { g with sent := false, tries := g.tries + 1 })
    | none => u.flight }) b)

/-- MEMORY_RESPONSE: a memory port answers for a line in a translation context (R26, R297, R349). -/
def memoryResponse (m ctx line : Nat) (status : RspStatus) (data : List Byte) (b : Blk) : Blk :=
  if regionOf (line * 512) ≠ some .external ∨ b.pwr.inReset then b
  else
    let f := b.bus.flight.find? (fun f => f.sent && f.req.home == m && reqCtx f.req == ctx && lineOf f.req.addr == line)
    match f, status with
    | some f, .error =>
      if f.tries < b.dict.replayLimit.toNat then askAgain f b
      else landResponse f .error { b with xlat := tabPut .ok b.xlat (extKey ctx (line * 512) / 512) .error }
    | _, _ =>
      let b := { b with xlat := tabPut .ok b.xlat (extKey ctx (line * 512) / 512) status }
      let b := if status = .ok then loadLine ctx line data b else b
      match f with
      | some f => landResponse f status b
      | none => b

/-- MEMORY_RESPONSE (R349). -/
def execMemoryResponse (m ctx line : Nat) (status : RspStatus) (data : List Byte) (s : State) : Host.Outcome State Fault Refusal :=
  onBlk (memoryResponse m ctx line status data) s

/-- LINE_INVALIDATE: another agent has written the line; every copy is dropped, under any tag, and no longer written back
(R207). -/
def lineInvalidate (line : Nat) (data : List Byte) (b : Blk) : Blk :=
  if regionOf (line * 512) ≠ some .external ∨ b.pwr.inReset then b
  else
    let b := updBus (fun u => { u with cellar := u.cellar.filter (fun l => !(l.addr == line)) }) b
    if data.length = 512 then (List.range 6).foldl (fun b p => inCtx p (writeBytes (line * 512) data) b) b else b

/-- LINE_INVALIDATE (R207). -/
def execLineInvalidate (m line : Nat) (data : List Byte) (s : State) : Host.Outcome State Fault Refusal :=
  onBlk (fun b => if m < 16 then lineInvalidate line data b else b) s

/-! ### Master resets (R221 to R224) -/

/-- Leaves granules undefined: free values (R224, log entry 5). -/
def undefine (addrs : List Nat) (b : Blk) : Blk :=
  drawFresh (addrs.foldl (fun x a => writeBytes a ((List.range 64).map (fun i => Config.freeByte b.clk.fresh (a + i))) x) b)

/-- The granules of the unit a cut command was writing: of a row command, the rows issued and neither committed nor refused
(R222, R224). -/
def cutAddrs (b : Blk) (c : Cmd) : List Nat :=
  let l := if isRowCmd c.desc then
      ((List.range c.issued).filter (fun r => !bitAt c.rowMask r && !bitAt c.back r)).flatMap (rowAddrs (rowDst c.desc))
    else (copiesOf c.desc).flatMap (fun k => (unitItems ((opOf c.desc).getD .nop) c).map (fun i => twinAddr k i.dst))
  l.filter (fun a => !isRemote b a)

/-- Traffic of a command goes over the matrix: its rows, its blocks or moves while its units run, its lists and streams before
(chapter 07). -/
def usesMatrix (c : Cmd) : Bool :=
  (isRowCmd c.desc && c.st == .rows)
  || ((opOf c.desc == some .move || opOf c.desc == some .gather || opOf c.desc == some .scatter) && c.fetched && (c.st == .ready || c.st == .drain))
  || (opOf c.desc == some .permIdx && c.st == .ready) || (c.st == .ready && !c.fetched && !(listSpans c).isEmpty)
  || c.st == .modtab

/-- A command of the quad whose fetch engine is reset. -/
def ofQuad (b : Blk) (n : Nat) (c : Cmd) : Bool :=
  (usedTiles b c).any (fun t => match physOf b t with | some p => p / 4 == n | none => false)

/-- A command's unit was being written when it was cut: none of a list that was being read. -/
def writing (c : Cmd) : Bool := isRowCmd c.desc || (c.fetched && (c.started || c.st == .drain) && opOf c.desc != some .permIdx)

/-- Completes a command whose traffic was cut ABORTED, its unit's destination undefined (R224). -/
def cutCmd (c : Cmd) (b : Blk) : Blk :=
  finishCmd c .aborted 0 0 (withdrawAll c (if writing c then inCtx c.port (undefine (cutAddrs b c)) b else b))

/-- A write segment in progress ends at a granule boundary: beats after the reset keep the old bytes (R222). -/
def cutSegment (k : Nat) (m : Master) (b : Blk) : Blk :=
  let x := busPort b k
  match x.cur with
  | some g =>
    if g.req.master ≠ m ∨ x.busy ≤ b.clk.mc + 1 ∨ !g.req.write then b
    else
      let done := (b.clk.mc + 1 - g.start) * (portWidth k / 64)
      let b := updBus (fun u => { u with flight := u.flight.map (fun f => if f.req = g.req then { f with req := { f.req with bytes := done * 64 } } else f) }) b
      inCtx (reqCtx g.req) (fun b => (List.range (g.req.bytes / 64)).foldl (fun b i =>
        if i < done then b else busPut m (g.req.addr + 64 * i) (BitVec.ofNat 512 (g.old.toNat / 2 ^ (512 * i))) b) b) b
  | none => b

/-- What every master reset does at the matrix: waiting and held requests are dropped, the responses of those in flight will be
discarded, also those of other dies, and no port stays kept (R222, R223). -/
def resetMaster (m : Master) (b : Blk) : Blk :=
  let b := (b.bus.ports.map (·.1)).foldl (fun b k => cutSegment k m b) b
  let b := { b with gal := { b.gal with xreq := b.gal.xreq.map (fun e => (e.1, if e.2.master = some m then { e.2 with discard := true } else e.2)) } }
  updBus (fun u => { u with
    ports := u.ports.map (fun e => (e.1, { e.2 with
      waiting := e.2.waiting.filter (fun r => r.1.master != m)
      cur := match e.2.cur with | some g => if g.req.master = m then none else some g | none => none
      owner := if e.2.owner = some m then none else e.2.owner }))
    held := u.held.filter (fun r => r.1.master != m)
    flight := u.flight.map (fun f => if f.req.master = m && f.kind != .back then { f with discard := true } else f) }) b

/-- A master reset with the commands it cuts (R224). -/
def masterReset (m : Master) (b : Blk) : Blk :=
  let b := resetMaster m b
  match m with
  | .fe n => (b.cmds.filter (fun c => usesMatrix c && ofQuad b n c)).foldl (fun b c => cutCmd c b) b
  | _ => b

/-- The masters that are reset on their own: the Vault and the Cellar quadrants are reset with the block only (Table BMX-8). -/
def resetAlone : Master → Bool
  | .vault => false
  | .cq _ => false
  | _ => true

/-- MASTER_RESET (R221, R222). -/
def execMasterReset (m : Master) (s : State) : Host.Outcome State Fault Refusal :=
  onBlk (fun b => if resetAlone m && masterPresent b m then masterReset m b else b) s

/-! ### Windows and the fragment view -/

/-- WBASE: the core's own, the Vault or the Trapdoor moves a core's window (R220, Table BMX-6). -/
def writeWbase (m : Master) (core : Nat) (v : BitVec 64) (b : Blk) : Blk :=
  if core < 4 ∧ ctrlAllows b m true (.wbase core) then
    updBus (fun u => { u with wbase := tabPut 0 u.wbase core (BitVec.ofNat 48 (v.toNat / 2 ^ 31 % 2 ^ 17 * 2 ^ 31)) }) b
  else busError m true (0x4003000000 + 8 * core) b

/-- WBASE (R220). -/
def execWbase (m : Master) (core : Nat) (v : BitVec 64) (s : State) : Host.Outcome State Fault Refusal := onBlk (writeWbase m core v) s

/-- FRAGMENT_VIEW_ACCESS: one granule of one lane of a frame, or an error response (R123 to R125). -/
def fragAccess (m : Master) (write : Bool) (addr : Nat) (data : Granule) (b : Blk) : Blk :=
  if !fragOk b m addr then busError m write addr b
  else
    let l := fragLoc (addr / 64 * 64)
    let k := frameKey l.1 l.2.1 l.2.2
    if write then { putGranuleKey k data b with out := { b.out with rerror := false } }
    else if badAt b k then
      let s := storedPlace k
      let b := parityRecord none s.1 addr s.2.2 0 b
      { b with out := { b.out with rerror := true, rdata := 0 } }
    else busAnswer (granuleAt b.mem k).toNat b

/-- FRAGMENT_VIEW_ACCESS (R123). -/
def execFragmentViewAccess (m : Master) (write : Bool) (addr : Nat) (data : Granule) (s : State) :
    Host.Outcome State Fault Refusal := onBlk (fragAccess m write addr data) s

end Sys2Proof.Machine
end

