-- ==== Sys2Proof/Machine/Links.lean ====
section
/-! DEFINITION. Link ports: flits, acknowledgement and replay, training, degradation, standby, loss of a neighbour
and discovery (chapter 08, R337, R338). -/
namespace Sys2Proof.Machine

/-! ### Loss of cross-die work (R245) -/

/-- A command whose work crosses dies and whose home is this die. -/
def crossesHere (b : Blk) (c : Cmd) : Bool :=
  c.home.isNone && c.st != .record && (spansGallery c
    || (opOf c.desc == some .flagSet && (tsetOf c.desc.tset).logD != 0)
    || ((opOf c.desc == some .move || opOf c.desc == some .gather || opOf c.desc == some .scatter)
        && ((operandBases ((opOf c.desc).getD .nop) c.desc) ++ blockAddrs c).any (isRemote b)))

/-- Ends this die's cross-die work: its own commands end as a lost link ends them, forwarded ones are dropped, and no request or
granule of another die is left; requests of the bus matrix get an error response (R95, R245). -/
def endCrossDie (b : Blk) : Blk :=
  let b := (b.cmds.filter (crossesHere b)).foldl (fun b c => loseLink c b) b
  let lost := b.gal.xreq.any (fun e => e.2.master.isSome && !e.2.discard)
  { b with cmds := b.cmds.filter (fun c => c.home.isNone)
           gal := { b.gal with xreq := [], remote := [], remoteRegs := [], remoteBad := [], bulk := [] }
           out := if lost then { b.out with rerror := true, rdata := 0 } else b.out }

/-- Floods a CTRL LOSS over every ACTIVE port (R245). -/
def floodLoss (b : Blk) : Blk := allPorts.foldl (fun b k => if (portOf b k).state = .active then transmit k 7 b else b) b

/-- Takes the loss of dies once: steps 1 to 3 of R245. -/
def takeLoss (mask : BitVec 8) (b : Blk) : Blk :=
  if mask &&& ~~~ b.gal.lost = 0 then b
  else
    let b := floodLoss (endCrossDie b)
    { b with gal := { b.gal with lost := b.gal.lost ||| mask, reforming := true } }

/-! ### Ports in and out of service -/

/-- Clears what a port keeps of its traffic. -/
def quietPort (x : LinkPort) : LinkPort :=
  { x with txSeq := 0, replay := [], rxSeq := 0, rxHeld := [], unacked := 0, dealt := 0, idle := 0, retraining := 0
           codewords := [], uncorr := [], identSent := 0, nakSent := false, credits := [], seen := [], freed := [], omitted := []
           standbySent := false, standbyGot := false }

/-- Every lane starts to train (Table GAL-6). -/
def startTraining (fromRetain : Bool) (x : LinkPort) : LinkPort :=
  { quietPort x with
    state := .training, fromRetain := fromRetain
    lanes := (List.range 8).map (fun l => (l, if natBit x.degraded.toNat l then LaneState.failed else .detect)) }

/-- The die count of the package (R237). -/
def dieCount (b : Blk) : Nat := if shapeDims b = 0 then 1 else 2 ^ shapeDims b

/-- The die may train port Lk: it is present and enabled, its rail is good, and the die's number lies in its package
(R237, R338, Table GAL-8). -/
def mayTrain (b : Blk) (k : Nat) : Bool :=
  hasLinks b && decide (k < 6) && bitAt b.dict.portEnable k && bitAt b.pwr.linkGood k && shapeDims b != 0
  && decide (dieOf b < dieCount b) && !b.pwr.inReset

/-- LINK_PWR_EN[k]: the port's rail is asked for while it is enabled and has not failed (R338). -/
def linkPwrEn (b : Blk) (k : Nat) : Bool :=
  hasLinks b && decide (k < 6) && bitAt b.dict.portEnable k && (portOf b k).state != .failed

/-- Sets a link port's power state: 0 OFF, 1 RETAIN, 2 RUN. -/
def portPower (k v : Nat) (b : Blk) : Blk := { b with pwr := { b.pwr with portPower := tabIns k v b.pwr.portPower } }

/-- Begins training a port from OFF. -/
def trainPort (k : Nat) (b : Blk) : Blk :=
  if mayTrain b k then portPower k 2 (updPort k (startTraining false) b) else b

/-- LINK_PWR_GOOD: the port may train; one whose training failed stays OFF until it is retrained (R238, R338). -/
def linkPwrGood (k : Nat) (b : Blk) : Blk :=
  if 6 ≤ k then b
  else
    let b := { b with pwr := { b.pwr with linkGood := setBit b.pwr.linkGood k true } }
    if (portOf b k).state = .off ∧ !(portOf b k).shut then trainPort k b else b

/-- LINK_PWR_GOOD (R338). -/
def execLinkPwrGood (k : Nat) (s : State) : Host.Outcome State Fault Refusal := onBlk (linkPwrGood k) s

/-- The lowest-numbered surviving port to the neighbour a port faces. -/
def survivor (b : Blk) (k : Nat) : Option Nat := (workingPorts b (portDim b k)).find? (· != k)

/-- A change of a port's capacity changes the epoch; events that reach one port in the same mc are taken together (R243). -/
def capacityEpoch (k cause : Nat) (b : Blk) : Blk :=
  if (portOf b k).eventMc = some b.clk.mc then b
  else newEpoch cause (updPort k (fun x => { x with eventMc := some b.clk.mc }) b)

/-- A port leaves service (R243 to R245): a surviving port takes its traffic after a HANDOVER, and with none the
neighbour is lost. -/
def portDown (k : Nat) (b : Blk) : Blk :=
  match survivor b k with
  | some s =>
    let b := transmit s 6 b
    capacityEpoch k 4 { b with gal := { b.gal with xreq := b.gal.xreq.map (fun e => (e.1, if e.2.port = k then { e.2 with port := s } else e.2)) } }
  | none => takeLoss (BitVec.ofNat 8 (2 ^ peerDie b k)) b

/-- A port fails: its record, its link ingress reset, and its traffic moved (R221, R243). A quiet lane mask keeps its
degraded lanes. -/
def failPort (k : Nat) (b : Blk) : Blk :=
  let b := resetMaster (.li k) (raiseAlert 6 (sumpPut 0x31 none 6 0 0 k 0 b))
  portDown k (portPower k 0 (updPort k (fun x => { x with
    state := .failed, lanes := [], active := 0, retraining := 0, rxHeld := [], standbySent := false, standbyGot := false }) b))

/-- Active lanes of a port. -/
def laneCount (x : LinkPort) : Nat := (setBits x.active.toNat 8).length

/-- A lane is degraded: the port runs on 7 lanes, or fails (Table GAL-7). -/
def degradeLane (k lane : Nat) (b : Blk) : Blk :=
  let fails := decide (laneCount (portOf b k) ≤ 7)
  let b := updPort k (fun x => { x with
    active := setBit x.active lane false, degraded := setBit x.degraded lane true, retraining := setBit x.retraining lane false }) b
  let b := raiseAlert 6 (sumpPut 0x30 none 6 0 0 (k + lane * 8) (if fails then 3 else 1) b)
  if fails then failPort k b else capacityEpoch k 3 b

/-- An active lane begins to retrain while its port stays ACTIVE: no flit is dealt to it, and its counts start again (R242). -/
def retrainLane (lane : Nat) (x : LinkPort) : LinkPort :=
  if x.state == .active && bitAt x.active lane && !standsBy x then
    { x with retraining := setBit x.retraining lane true, omitted := tabDel lane x.omitted, uncorr := tabDel lane x.uncorr }
  else x

/-- LANE_RETRAIN: a lane of an ACTIVE port loses codeword lock and retrains (`none`); or the retraining of a lane ends, with a
number of failures in succession: three degrade it, else it is dealt flits again (R242). -/
def laneRetrain (k lane : Nat) (failures : Option Nat) (b : Blk) : Blk :=
  let x := portOf b k
  if x.state ≠ .active ∨ !bitAt x.active lane ∨ standsBy x ∨ 8 ≤ lane then b
  else match failures with
    | none => updPort k (retrainLane lane) b
    | some n =>
      if !bitAt x.retraining lane then b
      else if 3 ≤ n then degradeLane k lane b
      else updPort k (fun x => pumpPort { x with retraining := setBit x.retraining lane false }) b

/-- LANE_RETRAIN (R242). -/
def execLaneRetrain (k lane : Nat) (failures : Option Nat) (s : State) : Host.Outcome State Fault Refusal :=
  onBlk (laneRetrain k lane failures) s

/-- PORT_SILENCE: nothing was received on any lane for 1 µs; a port in standby is not silent (R243, R337). -/
def portSilence (k : Nat) (b : Blk) : Blk :=
  let x := portOf b k
  if x.state = .active ∧ ¬ (x.standbySent ∧ x.standbyGot) then failPort k b else b

/-- PORT_SILENCE (R243). -/
def execPortSilence (k : Nat) (s : State) : Host.Outcome State Fault Refusal := onBlk (portSilence k) s

/-! ### Training -/

/-- A lane's state in training. -/
def laneOf (x : LinkPort) (lane : Nat) : LaneState := tabGet .idle x.lanes lane

/-- Good codewords in a row that lock a lane (R229). -/
def lockCodewords : Nat := 4

/-- The state after a completed one: LOCK needs its good codewords, and a lane whose skew exceeds 40 ns cannot be admitted
(R229, R231, Table GAL-6). -/
def nextLane (skewNs good : Nat) : LaneState → LaneState
  | .detect => .equalise
  | .equalise => .lock
  | .lock => if good < lockCodewords then .lock else if skewNs ≤ 40 then .identify else .failed
  | s => s

/-- Lanes of a training port that have not failed. -/
def hopeful (x : LinkPort) : Nat := ((List.range 8).filter (fun l => laneOf x l != .failed && laneOf x l != .idle)).length

/-- A training port with fewer than 7 lanes left stays OFF until it is retrained; one that woke from standby fails (R238,
R337). -/
def settleTraining (k : Nat) (b : Blk) : Blk :=
  let x := portOf b k
  if x.state ≠ .training ∨ 7 ≤ hopeful x then b
  else if x.fromRetain then failPort k b
  else portPower k 0 (updPort k (fun x => { x with state := .off, lanes := [], shut := true }) b)

/-- LANE_TRAINING: a lane completes a training state; in LOCK, `codewords` more codewords in a row have been good, none
starting the count again. A lane that enters IDENTIFY carries the port's own IDENT (R229, R238). -/
def laneTraining (k lane skewNs codewords : Nat) (b : Blk) : Blk :=
  let x := portOf b k
  if x.state ≠ .training ∨ 8 ≤ lane then b
  else
    let good := if codewords = 0 then 0 else tabGet 0 x.codewords lane + codewords
    let next := nextLane skewNs good (laneOf x lane)
    settleTraining k (updPort k (fun x => { x with
      lanes := tabPut .idle x.lanes lane next
      codewords := if laneOf x lane == .lock then tabPut 0 x.codewords lane good else x.codewords
      identSent := if next == .identify then setBit x.identSent lane true else x.identSent }) b)

/-- LANE_TRAINING (R238). -/
def execLaneTraining (k lane : Nat) (rx : LaneRx) (s : State) : Host.Outcome State Fault Refusal :=
  onBlk (laneTraining k lane rx.skewNs rx.codewords) s

/-- TRAINING_TIMEOUT: a lane has not reached its next state in twice its time (R238). -/
def trainingTimeout (k lane : Nat) (b : Blk) : Blk :=
  let x := portOf b k
  if x.state ≠ .training ∨ 8 ≤ lane ∨ laneOf x lane = .idle then b
  else settleTraining k (updPort k (fun x => { x with lanes := tabIns lane .failed x.lanes }) b)

/-- TRAINING_TIMEOUT (R238). -/
def execTrainingTimeout (k lane : Nat) (s : State) : Host.Outcome State Fault Refusal := onBlk (trainingTimeout k lane) s

/-- Flit buffers of a receiving port per class, BULK first (Table GAL-5). -/
def rxBuffers : List Nat := [512, 64, 128, 32]

/-- The IDENT that the port sends on every lane in IDENTIFY: its identity, and its buffers as initial credits (R235, R238, Table
GAL-4). -/
def ownIdent (b : Blk) (k : Nat) : IdentBody :=
  { packageId := b.fab.lat.packageId, die := dieOf b, port := k, shape := b.fab.lat.shape.toNat, grade := b.fab.lat.grade.toNat
    credits := rxBuffers }

/-- The IDENT is valid (R239). -/
def identOk (b : Blk) (k : Nat) (i : IdentBody) : Bool :=
  i.packageId == b.fab.lat.packageId && i.shape == b.fab.lat.shape.toNat && i.grade == 0 && i.die == peerDie b k && i.port == k

/-- The lanes admitted: those in IDENTIFY that received the IDENT. -/
def admitted (x : LinkPort) (lanes : BitVec 8) : BitVec 8 :=
  BitVec.ofNat 8 (maskOf ((List.range 8).filter (fun l => laneOf x l == .identify && bitAt lanes l)))

/-- A port comes into service (R235, R238). -/
def activate (lanes : BitVec 8) (i : IdentBody) (x : LinkPort) : LinkPort :=
  pumpPort { quietPort x with
    state := .active, active := lanes, lanes := (setBits lanes.toNat 8).map (fun l => (l, LaneState.active))
    credits := (i.credits.take 4).zipIdx.filterMap (fun e => if e.1 = 0 then none else some (e.2, e.1)) }

/-- IDENT: valid on at least 7 lanes, the port becomes ACTIVE; not valid, it stays OFF with a record of what came
(R238, R239). A retrained port changes the epoch (R244); one woken from standby does not (R337). -/
def takeIdent (k : Nat) (lanes : BitVec 8) (i : IdentBody) (b : Blk) : Blk :=
  let x := portOf b k
  let l := admitted x lanes
  if x.state ≠ .training ∨ l = 0 then b
  else if !identOk b k i then
    let b := portPower k 0 (updPort k (fun x => { quietPort x with state := .off, lanes := [], shut := true }) b)
    raiseAlert 6 (sumpPut 0x31 none 6 0 0 k (i.packageId.toNat + i.die % 8 * 2 ^ 32 + i.port % 8 * 2 ^ 35 + i.shape % 4 * 2 ^ 38
      + i.grade % 256 * 2 ^ 40) b)
  else if (setBits l.toNat 8).length < 7 then b
  else
    let b := portPower k 2 (updPort k (activate l i) b)
    let b := { b with gal := { b.gal with working := setBit (setBit b.gal.working (dieOf b) true) i.die true } }
    if x.retrained && !x.fromRetain then newEpoch 4 b else b

/-- IDENT (R239). -/
def execIdent (k : Nat) (lanes : BitVec 8) (i : IdentBody) (s : State) : Host.Outcome State Fault Refusal :=
  onBlk (takeIdent k lanes i) s

/-! ### Flits -/

/-- The header is good (R233). -/
def flitGood (f : Flit) : Bool := f.crcGood && f.reservedZero

/-- Flits that a receiver puts in order (R231). -/
def reorderWindow : Nat := 64

/-- How far a flit comes ahead of the next expected number. -/
def aheadBy (x : LinkPort) (f : Flit) : Nat := (f.seq - x.rxSeq).toNat

/-- The flit came ahead of its turn, within the window (R231). -/
def early (x : LinkPort) (f : Flit) : Bool := flitGood f && decide (0 < aheadBy x f) && decide (aheadBy x f < reorderWindow)

/-- The flit is the next one expected (R233). -/
def acceptable (x : LinkPort) (f : Flit) : Bool := flitGood f && aheadBy x f == 0

/-- Accepted flits after which an acknowledgement goes at the latest (R234). -/
def ackEvery : Nat := 64

/-- Accepts a flit; at least every 64 of them are acknowledged (R233, R234). -/
def acceptFlit (k : Nat) (b : Blk) : Blk :=
  let b := updPort k (fun x => { x with rxSeq := x.rxSeq + 1, unacked := x.unacked + 1, nakSent := false }) b
  if ackEvery ≤ (portOf b k).unacked then transmit k 4 b else b

/-- Discards a flit with those held ahead of their turn, which go-back-N brings again; the first discard after an accepted one
sends a NAK (R233, R234). -/
def discardFlit (k : Nat) (b : Blk) : Blk :=
  let b := updPort k (fun x => { x with rxHeld := [] }) b
  if (portOf b k).nakSent then b
  else transmit k 5 (updPort k (fun x => { x with nakSent := true }) b)

/-- The buffer of a class is freed, which the next CREDIT tells (R235). -/
def freeBuffer (k cls : Nat) (b : Blk) : Blk := updPort k (fun x => { x with freed := tabUpd 0 x.freed cls (· + 1) }) b

/-- Takes the runs of a BULK flit for the die exchange that waits for them, with the port they came by and whether their bytes
have wrong parity (R232, R234, R241). -/
def landRuns (k : Nat) (f : Flit) (runs : List BulkRun) (b : Blk) : Blk :=
  if f.cls ≠ 0 then b
  else { b with gal := { b.gal with bulk := b.gal.bulk ++ runs.map (fun r => ⟨k, f.poison, r⟩) } }

/-- The port carries flits. -/
def inService (b : Blk) (k : Nat) : Bool := (portOf b k).state == .active

/-- Ticks in one millisecond. -/
def oneMs : Nat := 25000

/-- Counts the codewords that a lane has corrected and could not correct; one with more than UNCORR_LIMIT of the latter within
1 ms retrains (R242, R246, Table DIC-11). -/
def countCodewords (k : Nat) (f : Flit) (b : Blk) : Blk :=
  let b := if f.corrected = 0 then b else countAdd (cntKey 0x6030 (k + 1) 0) f.corrected b
  if f.uncorrectable = 0 then b
  else
    let b := countAdd (cntKey 0x6030 (k + 1) 1) f.uncorrectable b
    let l := (List.replicate f.uncorrectable b.clk.tick ++ tabGet [] (portOf b k).uncorr f.lane).filter (fun t => decide (b.clk.tick - t < oneMs))
    let b := updPort k (fun x => { x with uncorr := tabPut [] x.uncorr f.lane l }) b
    if b.dict.uncorrLimit.toNat < l.length then updPort k (retrainLane f.lane) b else b

/-- Flits from the oldest to the acknowledged one leave the replay buffer (R234). -/
def dropAcked (ack : BitVec 12) : List TxFlit → List TxFlit
  | [] => []
  | e :: t => if (ack - e.seq).toNat < 2048 then dropAcked ack t else e :: t

/-- The credits a CTRL flit returns (R235). -/
def takeCredits (l : List (BitVec 16)) (x : LinkPort) : LinkPort :=
  (l.take 4).zipIdx.foldl (fun x e =>
    { x with credits := tabUpd 0 x.credits e.2 (· + (e.1 - tabGet 0 x.seen e.2).toNat), seen := tabPut 0 x.seen e.2 e.1 }) x

/-- The lanes a CTRL flit's LANES leaves out; one left out of 3 in succession retrains (R242). -/
def countOmitted (lanes : BitVec 8) (x : LinkPort) : LinkPort :=
  let x := { x with omitted := (List.range 8).foldl (fun t l =>
      tabPut 0 t l (if bitAt x.active l && !bitAt lanes l && !bitAt x.retraining l then tabGet 0 t l + 1 else 0)) x.omitted }
  (List.range 8).foldl (fun x l => if 3 ≤ tabGet 0 x.omitted l then retrainLane l x else x) x

/-- The port has sent and received STANDBY and every flit it sent is acknowledged (R337). -/
def enterStandby (k : Nat) (b : Blk) : Blk :=
  let x := portOf b k
  if x.standbySent ∧ x.standbyGot ∧ x.replay = [] then portPower k 1 b else b

/-- What every CTRL body does: acknowledge, return credits, and tell the lanes. -/
def ctrlBody (k : Nat) (c : CtrlBody) (b : Blk) : Blk :=
  enterStandby k (updPort k (fun x => pumpPort (countOmitted c.lanes (takeCredits c.credit { x with replay := dropAcked c.ack x.replay }))) b)

/-- Sends again every unacknowledged flit; one sent 8 times fails the port (R234). A flit goes to the lane that its number gives
among those that flits are dealt to now (R230, R242). -/
def resendAll (k : Nat) (b : Blk) : Blk :=
  let l := (portOf b k).replay
  if l = [] then b
  else if l.any (fun e => decide (8 ≤ e.times)) then failPort k b
  else countAdd (cntKey 0x6030 (k + 1) 2) l.length
    (updPort k (fun x => { x with replay := x.replay.map (fun e => { e with times := e.times + 1, lane := dealLane x e.seq }) }) b)

/-- What an accepted flit brings (R232 to R235): a DATA flit its body, whose buffer is freed; a CTRL flit its body, and with NAK
the replay. -/
def takeItem (k : Nat) (i : RxItem) (b : Blk) : Blk :=
  match i with
  | .data f runs => freeBuffer k (f.cls % 4) (landRuns k f runs b)
  | .ctrl c => ctrlBody k c b
  | .nak c => resendAll k (ctrlBody k c b)

/-- Takes the flits held ahead of their turn whose turn has come (R231). -/
def drainHeld (k : Nat) : Nat → Blk → Blk
  | 0, b => b
  | n + 1, b =>
    let x := portOf b k
    match x.rxHeld.find? (fun e => e.1 == x.rxSeq) with
    | some e =>
      drainHeld k n (takeItem k e.2 (acceptFlit k (updPort k (fun x => { x with rxHeld := x.rxHeld.filter (fun y => y.1 != e.1) }) b)))
    | none => b

/-- A sequenced flit arrives: it is accepted in its turn, held when it comes ahead of it, or discarded (R231, R233). -/
def takeFlit (k : Nat) (f : Flit) (i : RxItem) (b : Blk) : Blk :=
  if !inService b k then b
  else
    let b := countCodewords k f b
    let x := portOf b k
    if acceptable x f then drainHeld k reorderWindow (takeItem k i (acceptFlit k b))
    else if early x f then updPort k (fun x => { x with rxHeld := x.rxHeld.filter (fun y => y.1 != f.seq) ++ [(f.seq, i)] }) b
    else discardFlit k b

/-- DATA_FLIT (R231 to R234). -/
def execDataFlit (k : Nat) (f : Flit) (runs : List BulkRun) (s : State) : Host.Outcome State Fault Refusal :=
  onBlk (takeFlit k f (.data f runs)) s

/-- CTRL_FLIT (R235). -/
def execCtrlFlit (k : Nat) (f : Flit) (c : CtrlBody) (s : State) : Host.Outcome State Fault Refusal :=
  onBlk (takeFlit k f (.ctrl c)) s

/-- NAK: a CTRL flit with NAK set has everything from the named number on sent again (R234). -/
def execNak (k : Nat) (f : Flit) (c : CtrlBody) (s : State) : Host.Outcome State Fault Refusal := onBlk (takeFlit k f (.nak c)) s

/-- REPLAY_TIMER: the oldest unacknowledged flit has waited 2 µs (R234). -/
def replayTimer (k : Nat) (b : Blk) : Blk := if inService b k then resendAll k b else b

/-- REPLAY_TIMER (R234). -/
def execReplayTimer (k : Nat) (s : State) : Host.Outcome State Fault Refusal := onBlk (replayTimer k) s

/-- IDLE_FLIT: only the CRC counts; a bad one is counted, with what its lane's codewords met, and discarded (R233). -/
def idleFlit (k : Nat) (f : Flit) (b : Blk) : Blk :=
  if !inService b k then b
  else countCodewords k { f with uncorrectable := if f.crcGood then f.uncorrectable else max 1 f.uncorrectable } b

/-- IDLE_FLIT (R233). -/
def execIdleFlit (k : Nat) (f : Flit) (s : State) : Host.Outcome State Fault Refusal := onBlk (idleFlit k f) s

/-- HANDOVER: the failed port's flits after the named one are sent again on this port, ahead of its new traffic, as are those
that waited there. A port that its neighbour has seen fail first fails here too (R244). -/
def takeHandover (k failed : Nat) (lastSeq : BitVec 12) (b : Blk) : Blk :=
  if !inService b k || k == failed || 6 ≤ failed || portDim b k != portDim b failed then b
  else
    let b := acceptFlit k b
    let b := if (portOf b failed).state = .active then failPort failed b else b
    if (portOf b failed).state ≠ .failed then b
    else
      let left := (dropAcked lastSeq (portOf b failed).replay).map (fun e => (e.cls, e.poison)) ++ (portOf b failed).txWait
      let b := updPort failed (fun x => { x with replay := [], txWait := [] }) b
      countAdd (cntKey 0x6030 (failed + 1) 3) 1 (updPort k (fun x => pumpPort { x with txWait := left ++ x.txWait }) b)

/-- HANDOVER (R244). -/
def execHandover (k failed : Nat) (lastSeq : BitVec 12) (s : State) : Host.Outcome State Fault Refusal :=
  onBlk (takeHandover k failed lastSeq) s

/-- LOSS: a CTRL LOSS arrives and is forwarded once (R245). -/
def execLoss (k lostMask die : Nat) (s : State) : Host.Outcome State Fault Refusal :=
  onBlk (fun b => if inService b k && decide (die < 8) then takeLoss (BitVec.ofNat 8 lostMask) (acceptFlit k b) else b) s

/-! ### Standby (R337) -/

/-- STANDBY: the port's policy lets it: it has received STANDBY and sends its own, and enters standby once its flits are
acknowledged. -/
def takeStandby (k : Nat) (b : Blk) : Blk :=
  if !inService b k || !bitAt b.pwr.idlePolicy 2 then b
  else
    let b := acceptFlit k b
    let b := if (portOf b k).standbySent then b else transmit k 8 b
    enterStandby k (updPort k (fun x => { x with standbySent := true, standbyGot := true }) b)

/-- STANDBY (R337). -/
def execStandby (k : Nat) (s : State) : Host.Outcome State Fault Refusal := onBlk (takeStandby k) s

/-- The port is in standby. -/
def inStandby (b : Blk) (k : Nat) : Bool :=
  let x := portOf b k
  x.state == .active && x.standbySent && x.standbyGot && tabGet 0 b.pwr.portPower k == 1

/-- LINK_WAKE: traffic needs a port in standby; the standby ports of its neighbour wake together. -/
def linkWake (k : Nat) (b : Blk) : Blk :=
  if !inStandby b k then b
  else ((allPorts.filter (fun j => inStandby b j && portDim b j == portDim b k))).foldl
    (fun b j => portPower j 2 (updPort j (startTraining true) b)) b

/-- LINK_WAKE (R337). -/
def execLinkWake (k : Nat) (s : State) : Host.Outcome State Fault Refusal := onBlk (linkWake k) s

/-! ### Discovery (R240, R241, R246) -/

/-- The dies of the subcube through `base` with a free-dimension mask. -/
def subcube (base mask : Nat) : List Nat :=
  (List.range 8).filter (fun d => (List.range 3).all (fun e => natBit mask e || natBit d e == natBit base e))

/-- Active lanes between neighbours, zero where no port is ACTIVE. -/
def lanesBetween (s : PeerStates) (lower e : Nat) : Nat :=
  ((s.lanes.find? (fun x => x.1 == (lower, e))).map (·.2)).getD 0

/-- The pairs of neighbours in a subcube. -/
def neighbourPairs (mask : Nat) (dies : List Nat) : List (Nat × Nat) :=
  dies.flatMap (fun d => (List.range 3).filterMap (fun e => if natBit mask e && !natBit d e then some (d, e) else none))

/-- A candidate: its mask, dies and lanes. -/
structure Cube where
  mask : Nat
  dies : List Nat
  lanes : Nat
  deriving DecidableEq, Repr

/-- The candidates of R240 among the dies allowed, of at least two dies. -/
def candidates (dims : Nat) (allowed : Nat) (s : PeerStates) : List Cube :=
  (List.range 8).flatMap (fun mask => (List.range 8).filterMap (fun base =>
    let dies := subcube base mask
    let pairs := neighbourPairs mask dies
    if mask = 0 ∨ 2 ^ dims ≤ mask ∨ 2 ^ dims ≤ base ∨ dies.headD 0 ≠ base
        ∨ !dies.all (fun d => bitAt s.working d && natBit allowed d) ∨ !pairs.all (fun x => decide (0 < lanesBetween s x.1 x.2))
      then none
    else some ⟨mask, dies, (pairs.map (fun x => lanesBetween s x.1 x.2)).foldl (· + ·) 0⟩))

/-- Candidate `x` is chosen before `y`: more dies, more lanes, the lowest die, the smallest mask (R240). -/
def cubeBefore (x y : Cube) : Bool :=
  if x.dies.length ≠ y.dies.length then decide (y.dies.length < x.dies.length)
  else if x.lanes ≠ y.lanes then decide (y.lanes < x.lanes)
  else if x.dies.headD 0 ≠ y.dies.headD 0 then decide (x.dies.headD 0 < y.dies.headD 0)
  else decide (x.mask < y.mask)

/-- The chosen candidate. -/
def chosen (l : List Cube) : Option Cube :=
  l.foldl (fun best x => match best with
    | none => some x
    | some y => if cubeBefore x y then some x else some y) none

/-- The members of this die's Gallery after a discovery; alone when the choice leaves it out. -/
def chosenMembers (b : Blk) (allowed : Nat) (s : PeerStates) : Nat :=
  match chosen (candidates (shapeDims b) allowed s) with
  | some c => if c.dies.contains (dieOf b) then maskOf c.dies else 2 ^ dieOf b
  | none => 2 ^ dieOf b

/-- GALLERY_ACTIVE of each port's active record (R292). -/
def setGalleryActive (agree : List Bool) (logD : Nat) (b : Blk) : Blk :=
  (List.range 5).foldl (fun b p =>
    let r := activeOf b p
    let on := logD != 0 && bitAt r.flags 1 && recEnabled r && agree.getD p false
    { b with vlt := { b.vlt with active := tabPut {} b.vlt.active p { r with flags := setBit r.flags 7 on } } }) b

/-- The states of a discovery with this die's own ports in them: the lanes to its neighbours are those of its ACTIVE ports, and
it is working when it has completed IDENTIFY on one (R240). -/
def withOwn (b : Blk) (s : PeerStates) : PeerStates :=
  let mine := fun (e : Nat) => (min (dieOf b) (Nat.xor (dieOf b) (2 ^ e)), e)
  let own := (List.range (shapeDims b)).filterMap (fun e =>
    let n := pairLanes b (mine e)
    if n = 0 then none else some (mine e, n))
  { s with
    working := setBit s.working (dieOf b) (allPorts.any (fun k => (portOf b k).state == .active))
    lanes := s.lanes.filter (fun x => x.1.1 != dieOf b && Nat.xor x.1.1 (2 ^ x.1.2) != dieOf b) ++ own }

/-- Takes a new subcube and rank; the forwarded descriptors that were held are judged then (R240, R241, R245, R324). -/
def takeMembers (members : Nat) (s : PeerStates) (b : Blk) : Blk :=
  let old := b.gal.members.toNat
  let logD := (freeDims members).length
  let b := { b with gal := { b.gal with members := BitVec.ofNat 8 members, logD := logD, rank := rankOf members (dieOf b)
                                        working := s.working, reforming := false, formed := true, lost := 0, lanes := s.lanes } }
  let b := setGalleryActive s.agree logD b
  let e := max b.vlt.epoch.toNat s.epoch.toNat + 1
  let b := setEpochTo (BitVec.ofNat 32 e) 5 b
  releaseHeld (raiseAlert 7 (sumpPut 0x32 none 6 0 0 (old + members * 2 ^ 8 + logD * 2 ^ 16) e b))

/-- DISCOVERY: the Vaults have exchanged port states. Without a REFORM the Gallery only shrinks (R240, R245, R246). -/
def discovery (st : PeerStates) (b : Blk) : Blk :=
  let s := withOwn b st
  if !hasLinks b || b.pwr.inReset || !b.vlt.alive || shapeDims b == 0 then b
  else
    let allowed := if b.gal.formed then b.gal.members.toNat else 255
    let m := chosenMembers b allowed s
    if !b.gal.reforming && m == b.gal.members.toNat then
      setGalleryActive s.agree b.gal.logD { b with gal := { b.gal with working := s.working, formed := true } }
    else takeMembers m s b

/-- DISCOVERY (R240). -/
def execDiscovery (st : PeerStates) (s : State) : Host.Outcome State Fault Refusal := onBlk (discovery st) s

end Sys2Proof.Machine
end

