-- ==== Sys2Proof/Machine/Context.lean ====
section
/-! DEFINITION. Quiescing tiles, and saving and restoring their contexts (R126 to R131, R263, R364). -/
namespace Sys2Proof.Machine

/-! ### Quiescing (R126, R263) -/

/-- The command uses one of the tiles (R263). -/
def usesAny (b : Blk) (tiles : List Nat) (c : Cmd) : Bool := anyShared (usedTiles b c) tiles

/-- The commands a quiesce brings to rest, in decode order: those that use the tiles, and the earlier ones they wait
for. -/
def toSettle (b : Blk) (tiles : List Nat) : List Cmd :=
  b.cmds.foldr (fun c acc =>
    if c.st != .halted && (usesAny b tiles c || acc.any (fun x => conflicts b c x)) then c :: acc else acc) []

/-- Lets a command run to its end. -/
def runWhole (c : Cmd) (b : Blk) : Blk :=
  inCtx c.port (fun b =>
    if isRowCmd c.desc then
      rowDenied c.id (rowHalt c.id ((List.range (rowCount c.desc)).foldl (fun b r => rowCommit c.id r [] b) b))
    else (List.range (unitsOf c.desc)).foldl (fun b _ => commitUnit c.id ⟨[], []⟩ b) b) b

/-- Lets the rows in flight of a row command come back, and then halts it with CAUSE 3 unless they have ended it (R112,
R126). -/
def settleRows (id : Nat) (b : Blk) : Blk :=
  let issued := match cmdOf b id with | some c => c.issued | none => 0
  let b := (List.range issued).foldl (fun b r => rowCommit id r [] b) b
  match cmdOf b id with
  | some c =>
    if c.st ≠ .rows then b
    else if c.denied then rowDenied id b
    else haltRows c (if c.faultAddr.isSome then 1 else 3) b
  | none => b

/-- Brings one command to rest: a command that uses the tiles halts with CAUSE 3 at its next boundary when it has
one, and every other runs to completion. A Gallery command goes on with the other dies. -/
def settleOne (tiles : List Nat) (id : Nat) (b : Blk) : Blk :=
  match cmdOf b id with
  | none => b
  | some c =>
    match c.st with
    | .rows =>
      if !usesAny b tiles c then runWhole c b
      else inCtx c.port (settleRows id) b
    | .ready =>
      if usesAny b tiles c ∧ multiUnit c.desc ∧ c.home.isNone ∧ c.fetched then inCtx c.port (haltCmd c 3 1 0) b else runWhole c b
    | .release => releaseApply id b
    | _ => b

/-- A command's passes, rows or cross-die traffic may still be under way: it has begun, or nothing keeps it from beginning. -/
def atWork (b : Blk) (c : Cmd) : Bool :=
  c.st == .gallery || c.st == .drain || ((c.st == .ready || c.st == .rows) && (c.started || !mustWait b c))

/-- No command that uses the tiles is at work. -/
def quietTiles (b : Blk) (tiles : List Nat) : Bool := b.cmds.all (fun c => !(atWork b c && usesAny b tiles c))

/-- Quiesces tiles as far as they come at once (R126): nothing more is decoded for them, and every command that can come to
rest does. A Gallery command on them ends with the reports of the other dies. -/
def settleTiles (tiles : List Nat) (b : Blk) : Blk :=
  let b := { b with vlt := { b.vlt with quieting := (b.vlt.quieting ++ tiles).eraseDups } }
  (toSettle b tiles).foldl (fun b c => settleOne tiles c.id b) b

/-- Quiesces tiles and acts on them once they are quiet; until then the caller tries again as time passes. -/
def whenQuiet (tiles : List Nat) (act : Blk → Blk) (b : Blk) : Blk :=
  let b := settleTiles tiles b
  if quietTiles b tiles then act { b with vlt := { b.vlt with quieting := b.vlt.quieting.filter (fun t => !tiles.contains t) } }
  else b

/-- The halted command of a queue that the Vault interrupted on the tiles. -/
def vaultHalted (b : Blk) (p q : Nat) (tiles : List Nat) : Option Cmd :=
  match (queueOf b p q).restart with
  | some r => if r.cause = 3 then (cmdOf b r.cmd).filter (fun c => c.st == .halted && usesAny b tiles c) else none
  | none => none

/-- Acts on every command the Vault has halted on the tiles for a port. -/
def eachVaultHalt (p : Nat) (tiles : List Nat) (act : Cmd → Blk → Blk) (b : Blk) : Blk :=
  (List.range 4).foldl (fun b q => match vaultHalted b p q tiles with
    | some c => act c b
    | none => b) b

/-- The ports that may have commands on a tile: the tenants and the Vault queue. -/
def everyPort : List Nat := List.range 6

/-- Resumes what the Vault has halted on the tiles for a port: its commands and its streams (R131, R201). -/
def vaultResume (p : Nat) (tiles : List Nat) (b : Blk) : Blk :=
  eachVaultHalt p tiles (fun c => inCtx c.port (resumeHalted c)) (vaultResumeStreams p tiles b)

/-! ### Save (R127, R128) -/

/-- Bytes of one frame. -/
def frameSize : Nat := 0x40000

/-- The registers a save writes: those in use. -/
def savedRegs (b : Blk) (p : Nat) : List Nat := (List.range 16).filter (fun r => (regOf b (regKey p r)).inUse)

/-- The frames a save writes (Table TRG-5). -/
def savedFrames (b : Blk) (p : Nat) : List Nat := savedRegs b p ++ (if hasAcc b then [24] else [])

/-- A byte of the frame is stored with bad parity. -/
def frameBad (b : Blk) (p x : Nat) : Bool := b.bad.any (fun k => decide (frameKey p x 0 ≤ k) && decide (k < frameKey p x frameSize))

/-- The registers of a physical tile with a flag, as a mask. -/
def regMask (b : Blk) (p : Nat) (f : Reg → Bool) : Nat :=
  maskOf ((savedRegs b p).filter (fun r => f (regOf b (regKey p r))))

/-- A tile's context header (Table TRG-6), of physical tile `p` behind logical tile `t`. -/
def ctxHeader (b : Blk) (t p seq : Nat) : List Byte :=
  leBytes 2 0x0310 ++ leBytes 1 t ++ leBytes 1 (dieOf b) ++ leBytes 2 (maskOf (savedRegs b p))
    ++ leBytes 2 (regMask b p (·.key)) ++ leBytes 2 (regMask b p (·.part))
    ++ leBytes 1 (if hasAcc b then 1 + (if tabGet false b.accKey p then 2 else 0) else 0) ++ leBytes 1 0
    ++ leBytes 4 b.vlt.epoch.toNat ++ leBytes 8 seq ++ leBytes 40 0
    ++ (List.range 16).flatMap (fun r => leBytes 4 (if (savedRegs b p).contains r then tagWord (regOf b (regKey p r)) else 0))

/-- Bytes of a tile's image. -/
def imageSize (b : Blk) (p : Nat) : Nat := 4096 + frameSize * (savedFrames b p).length

/-- Copies the bytes kept from one key to another with their parity: what was stored bad stays bad (R247). -/
def copyKeys (src dst n : Nat) (b : Blk) : Blk :=
  { b with
    mem := memCopy b.mem src dst n
    bad := b.bad.filter (fun k => decide (k < dst) || decide (dst + n ≤ k))
      ++ (b.bad.filter (fun k => decide (src ≤ k) && decide (k < src + n))).map (fun k => k - src + dst) }

/-- Context traffic of a port over `n` bytes from an external address pays slot by slot (R293, R364). -/
def chargeImage (p a n : Nat) (b : Blk) : Blk :=
  (List.range (ceilDiv n 512)).foldl (fun b i => chargeContext p (Config.homePort p (lineOf a + i)).val b) b

/-- Writes a tile's image for port `o`, in its translation context and at its charge; a frame that cannot be read is written as
zero (R264), and any other keeps its bytes as they stand. -/
def saveTile (o t p seq base : Nat) (unreadable : List Nat) (b : Blk) : Blk :=
  let fr := savedFrames b p
  let n := imageSize b p
  let k := extKey o base
  let b := chargeImage o base n b
  let b := dropLines (fun l => decide (base ≤ l.addr * 512) && decide (l.addr * 512 < base + n)) (zeroKeys k n b)
  let b := inCtx o (writeBytes base (ctxHeader b t p seq)) b
  fr.zipIdx.foldl (fun b x =>
    if unreadable.contains x.1 then b
    else copyKeys (frameKey p x.1 0) (k + 4096 + frameSize * x.2) frameSize b) b

/-- The sequence number of a tenant's next save. -/
def nextSeq (b : Blk) (p : Nat) : Nat := tabGet 0 b.vlt.ctxSeq p + 1

/-- Saves a tenant's tiles, ascending, from the start of its context area (R128); the Vault records where and under
which number. -/
def saveTiles (p : Nat) (r : PartRec) (tiles unreadable : List Nat) (b : Blk) : Blk :=
  let seq := nextSeq b p
  let b := { b with vlt := { b.vlt with ctxSeq := tabPut 0 b.vlt.ctxSeq p seq } }
  (tiles.foldl (fun (acc : Blk × Nat) t =>
    match physOf acc.1 t with
    | some q =>
      let n := imageSize acc.1 q
      let b := saveTile p t q seq acc.2 unreadable acc.1
      ({ b with vlt := { b.vlt with saved := tabIns (p * 64 + t) ⟨seq, acc.2, []⟩ b.vlt.saved } }, acc.2 + n)
    | none => acc) (b, r.ctxBase.toNat)).1

/-! ### Restore (R127, R129) -/

/-- Every set bit of one mask is set in the other. -/
def maskWithin (x y : Nat) : Bool := (setBits x 16).all (natBit y)

/-- A field of an image's header. -/
def hdrField (b : Blk) (base off n : Nat) : Nat := readLe b (base + off) n

/-- The port's context reads every line of an image, and its header has good parity. -/
def imageReadable (b : Blk) (p base n : Nat) : Bool :=
  let k := extKey p base
  !(b.xlat.any (fun e => e.2 != .ok && decide (k / 512 ≤ e.1) && decide (e.1 ≤ (k + n - 1) / 512)))
  && !(b.bad.any (fun x => decide (k ≤ x) && decide (x < k + 128)))

/-- The Vault's check of a header against what it recorded at the save (R129): FORMAT, TILE, DIE and SEQ, the reserved bits
(those of the sixteen tags too, Table TRG-1), and KEYS and PARTIALS within SAVED. -/
def headerOk (b : Blk) (t : Nat) (s : Saved) : Bool :=
  let h := hdrField b s.addr
  h 0 2 == 0x0310 && h 2 1 == t && h 3 1 == dieOf b && h 16 8 == s.seq && h 11 1 == 0 && h 10 1 / 4 == 0 && h 24 40 == 0
  && maskWithin (h 6 2) (h 4 2) && maskWithin (h 8 2) (h 4 2)
  && (List.range 16).all (fun r => h (64 + 4 * r) 4 / 0x4000 % 4 == 0)

/-- The flags and tag of a restored register. -/
def savedReg (b : Blk) (s : Saved) (r : Nat) : Reg :=
  let w := hdrField b s.addr (64 + 4 * r) 4
  { rows := w % 128, cols := w / 128 % 128, rstride := sfield (BitVec.ofNat 32 w) 16 16, inUse := true
    key := natBit (hdrField b s.addr 6 2) r, part := natBit (hdrField b s.addr 8 2) r && !s.clear.contains r }

/-- The registers that an image in context `o` holds. -/
def imageRegs (b : Blk) (o base : Nat) : List Nat := setBits (hdrField (ofCtx o b) base 4 2) 16

/-- Bytes of a saved image: the header's page, and a frame for each saved register and ACC. -/
def imageBytes (b : Blk) (o base : Nat) : Nat :=
  4096 + frameSize * ((imageRegs b o base).length + (if hasAcc b && natBit (hdrField (ofCtx o b) base 10 1) 0 then 1 else 0))

/-- Restores a zeroised tile from the image of port `o`. -/
def loadImage (o p : Nat) (s : Saved) (b : Blk) : Blk :=
  let base := s.addr
  let regs := imageRegs b o base
  let acc := hdrField (ofCtx o b) base 10 1
  let first := extKey o base + 4096
  let b := regs.zipIdx.foldl (fun b x =>
    copyKeys (first + frameSize * x.2) (frameKey p x.1 0) frameSize
      (updReg (regKey p x.1) (fun _ => savedReg (ofCtx o b) s x.1) b)) b
  if hasAcc b && natBit acc 0 then
    let b := copyKeys (first + frameSize * regs.length) (frameKey p 24 0) frameSize b
    { b with accKey := tabPut false b.accKey p (natBit acc 1) }
  else b

/-- Restores one tile of a tenant at its charge: as saved, or as zero with a notice when the image cannot be read or its header
fails the check (R129, R364). A tile never saved stays zero. -/
def restoreTile (p t : Nat) (b : Blk) : Blk :=
  match tabFind b.vlt.saved (p * 64 + t), physOf b t with
  | some s, some q =>
    let n := imageBytes b p s.addr
    let ok := imageReadable b p s.addr n && headerOk (ofCtx p b) t s
    let b := chargeImage p s.addr (if ok then n else 128) b
    let b := if ok then loadImage p q s b else addNotice p t b
    { b with vlt := { b.vlt with saved := tabDel (p * 64 + t) b.vlt.saved } }
  | _, _ => b

/-- Zeroises the physical tiles behind logical tiles (R130, R291). -/
def zeroiseTiles (tiles : List Nat) (b : Blk) : Blk :=
  tiles.foldl (fun b t => match physOf b t with
    | some q => zeroiseTile q b
    | none => b) b

/-! ### Time slicing (R293) -/

/-- TIMESLICE of a record (Table VLT-1). -/
def recSliced (r : PartRec) : Bool := bitAt r.flags 2

/-- The partner port of a record. -/
def recPartner (r : PartRec) : Nat := field r.flags 3 3

/-- The tiles an enabled record holds, ascending. -/
def recTiles (r : PartRec) : List Nat := if recEnabled r then setBits r.tiles.toNat 64 else []

/-- Gives the shared tiles of a pair from port `p` to port `o`; the Vault queue's own commands on them go on. -/
def switchTo (p o : Nat) (tiles : List Nat) (b : Blk) : Blk :=
  let b := vaultHaltStreams 5 tiles (vaultHaltStreams p tiles b)
  let b := saveTiles p (activeOf b p) tiles [] b
  let b := tiles.foldl (fun b t => restoreTile o t b) (zeroiseTiles tiles b)
  let b := { b with vlt := { b.vlt with sliced := p :: b.vlt.sliced.filter (· != o), turning := b.vlt.turning.filter (· != p) } }
  vaultResume 5 tiles (vaultResume o tiles b)

/-- The port runs on tiles that its partner waits for. -/
def hasTurn (b : Blk) (p : Nat) : Bool :=
  let r := activeOf b p
  b.vlt.alive && !b.pwr.inReset && decide (p < 5) && recEnabled r && recSliced r && !b.vlt.sliced.contains p && b.vlt.sliced.contains (recPartner r)

/-- The turns that have ended pass on as their tiles come to rest. -/
def applyTurns (b : Blk) : Blk :=
  b.vlt.turning.foldl (fun b p =>
    if hasTurn b p then whenQuiet (recTiles (activeOf b p)) (switchTo p (recPartner (activeOf b p)) (recTiles (activeOf b p))) b
    else { b with vlt := { b.vlt with turning := b.vlt.turning.filter (· != p) } }) b

/-- TIME_SLICE: the QUANTUM of the running partner ends, and its tiles pass to the other once they are quiet (R126 to R130,
R293). -/
def timeSlice (p : Nat) (b : Blk) : Blk :=
  if !hasTurn b p then b
  else applyTurns { b with vlt := { b.vlt with turning := (b.vlt.turning ++ [p]).eraseDups } }

/-- TIME_SLICE (R293). -/
def execTimeSlice (p : Nat) (s : State) : Host.Outcome State Fault Refusal := onBlk (timeSlice p) s

end Sys2Proof.Machine
end

