-- ==== Sys2Proof/Machine/Repair.lean ====
section
/-! DEFINITION. Retiring, binding and scrubbing physical tiles, and the two SRAM parity errors with the firmware load
they call for (R249, R262 to R266, R300, R326). -/
namespace Sys2Proof.Machine

/-! ### Tiles (R263, R264, R326) -/

/-- The logical tile bound to a physical tile. -/
def logicalOf (b : Blk) (p : Nat) : Option Nat := (b.vlt.tileMap.find? (fun e => e.2 == p)).map (·.1)

/-- The running tenants that hold a logical tile. -/
def tileTenants (b : Blk) (t : Nat) : List Nat :=
  (List.range 5).filter (fun p => (recTiles (activeOf b p)).contains t && !b.vlt.sliced.contains p)

/-- Sets PHYS_STATE of a physical tile. -/
def setPhysState (p v : Nat) (b : Blk) : Blk := { b with vlt := { b.vlt with phys := tabPut 0 b.vlt.phys p v } }

/-- Binds a logical tile to a physical one. -/
def bindTile (t p : Nat) (b : Blk) : Blk :=
  setPhysState p 0 { b with vlt := { b.vlt with tileMap := tabIns t p b.vlt.tileMap } }

/-- Unbinds a logical tile, which then reads failed. -/
def unbindTile (t : Nat) (b : Blk) : Blk := { b with vlt := { b.vlt with tileMap := tabDel t b.vlt.tileMap } }

/-- The frames a copy cannot read. -/
def lostFrames (b : Blk) (p : Nat) (unreadable : List Nat) : List Nat :=
  (savedFrames b p).filter (fun x => frameBad b p x || unreadable.contains x)

/-- Copies every frame a save would write from one physical tile to a zeroised one; a lost frame stays zero with tag
NONE and its flags clear (step 3 of R263). -/
def copyFrames (p s : Nat) (unreadable : List Nat) (b : Blk) : Blk :=
  let lost := lostFrames b p unreadable
  (savedFrames b p).foldl (fun b x =>
    if lost.contains x then b
    else
      let b := copyKeys (frameKey p x 0) (frameKey s x 0) frameSize b
      if x = 24 then { b with accKey := tabPut false b.accKey s (tabGet false b.accKey p) }
      else updReg (regKey s x) (fun _ => regOf b (regKey p x)) b) b

/-- Steps 2 to 4 of R263 on a quiet tile: the copy, the new binding, the epoch, and a notice to its tenants when a
frame was lost. -/
def moveTile (t p s cause : Nat) (unreadable : List Nat) (b : Blk) : Blk :=
  let lost := lostFrames b p unreadable
  let b := copyFrames p s unreadable (zeroiseTile s b)
  let b := if lost = [] then b else (tileTenants b t).foldl (fun b q => addNotice q t b) b
  newEpoch cause (bindTile t s b)

/-- Halts the streams of tiles, acts, and resumes the streams and the commands the Vault halted (steps 1 and 5 of
R263). -/
def whileHalted (tiles : List Nat) (act : Blk → Blk) (b : Blk) : Blk :=
  let b := act ((everyPort.filter (fun p => !b.vlt.sliced.contains p)).foldl (fun b p => vaultHaltStreams p tiles b) b)
  (everyPort.filter (fun p => !b.vlt.sliced.contains p)).foldl (fun b p => vaultResume p tiles b) b

/-- A failed tile: zeroised, and its counts of faults done with (step 5 of R263). -/
def failTile (p : Nat) (b : Blk) : Blk :=
  let b := setPhysState p 2 (zeroiseTile p b)
  { b with vlt := { b.vlt with
      due := b.vlt.due.filter (· != p), retiring := tabDel p b.vlt.retiring
      faults := tabDel p b.vlt.faults, repeats := tabDel p b.vlt.repeats } }

/-- A TILE_RETIRE record (Table SMP-4). -/
def retireRecord (p t : Nat) (repl : Option Nat) (lost : List Nat) (left : Bool) (b : Blk) : Blk :=
  sumpPut 0x20 none 6 0 0 (p + (repl.getD 0x7F) * 2 ^ 7 + t * 2 ^ 14)
    (maskOf (lost.filter (fun x => decide (x < 16))) + (if lost.contains 24 then 2 ^ 16 else 0) + (if left then 2 ^ 17 else 0)) b

/-- Retires the tile behind a logical tile onto another physical tile. -/
def replaceTile (t p s alert : Nat) (unreadable : List Nat) (b : Blk) : Blk :=
  let lost := lostFrames b p unreadable
  failTile p (whileHalted [t] (fun b => raiseAlert alert (retireRecord p t (some s) lost false (moveTile t p s 1 unreadable b))) b)

/-- The highest-numbered bound logical tile of no tenant, other than the failing one (R264). -/
def donorOf (b : Blk) (t : Nat) : Option Nat :=
  (((List.range 64).filter (fun x => x != t && (physOf b x).isSome
    && (List.range 5).all (fun p => !(recTiles (activeOf b p)).contains x))).getLast?)

/-- Takes a logical tile out of the records of some ports. -/
def leavePorts (ps : List Nat) (t : Nat) (b : Blk) : Blk :=
  ps.foldl (fun b p =>
    let r := activeOf b p
    if !(recTiles r).contains t then b
    else { b with vlt := { b.vlt with
      active := tabPut {} b.vlt.active p { r with tiles := setBit r.tiles t false }
      saved := tabDel (p * 64 + t) b.vlt.saved } }) b

/-- Ends the streams of a tile. -/
def endTileStreams (t : Nat) (b : Blk) : Blk :=
  (List.range 512).foldl (fun b n =>
    let x := streamOf b n
    if streamTile n = t ∧ x.state ≠ .disarmed ∧ x.state ≠ .ending then endStream n .aborted b else b) b

/-- The frames of a quiet tile go to the context areas of the tenants that run on it, those of `lost` as zero, and its streams
and the commands the Vault halted on it end: the tile leaves its tenants (R264). -/
def vacateTile (t : Nat) (lost : List Nat) (b : Blk) : Blk :=
  let b := (tileTenants b t).foldl (fun b q => saveTiles q (activeOf b q) [t] lost b) b
  everyPort.foldl (fun b q => eachVaultHalt q [t] discardCmd b) (endTileStreams t b)

/-- No tile can take the failing one's place: the logical tile reads failed and leaves its tenant, whose frames go to
its context area (R264). -/
def loseTile (t p : Nat) (unreadable : List Nat) (b : Blk) : Blk :=
  let lost := lostFrames b p unreadable
  let held := tileTenants b t != []
  let b := unbindTile t (leavePorts (List.range 5) t (vacateTile t lost b))
  failTile p (raiseAlert 3 (retireRecord p t none lost held (newEpoch 1 b)))

/-- The free spare that a retirement takes: the lowest; on S32 the lowest of 64 to 67 (R263, R361). -/
def spareFor (b : Blk) : Option Nat := ((freeSpares b).filter (fun p => gradeOf b != .s32 || decide (64 ≤ p))).head?

/-- The physical tile that takes a failing one's place, with the logical tile that gives it up: a free spare, or a
tile of no tenant (R263, R264). On S32 a logical tile that loses its physical tile takes a free spare of 64 to 67 or reads
failed (R361). -/
def replacement (b : Blk) (t : Nat) : Option (Nat × Option Nat) :=
  match if b.dict.autoSpare then spareFor b else none with
  | some s => some (s, none)
  | none => if gradeOf b == .s32 then none else (donorOf b t).bind (fun d => (physOf b d).map (fun s => (s, some d)))

/-- Retires a due physical tile behind a logical tile, once what it touches is quiet (R262 to R264). -/
def retireTile (p : Nat) (unreadable : List Nat) (b : Blk) : Blk :=
  match logicalOf b p with
  | none => b
  | some t =>
    match replacement b t with
    | none => whenQuiet [t] (loseTile t p unreadable) b
    | some (s, none) => whenQuiet [t] (replaceTile t p s 2 unreadable) b
    | some (s, some d) => whenQuiet [t, d] (fun b => replaceTile t p s 3 unreadable (unbindTile d b)) b

/-- The retirements begun go on as their tiles come to rest. -/
def applyRetire (b : Blk) : Blk := b.vlt.retiring.foldl (fun b e => retireTile e.1 e.2 b) b

/-- TILE_RETIRE: the Vault retires a tile bound to a logical tile once its faults call for it (R262 to R264). -/
def tileRetire (p : Nat) (unreadable : List Nat) (b : Blk) : Blk :=
  if !b.vlt.alive ∨ b.pwr.inReset ∨ !b.vlt.due.contains p ∨ (logicalOf b p).isNone then b
  else retireTile p unreadable { b with vlt := { b.vlt with retiring := tabIns p unreadable b.vlt.retiring } }

/-- TILE_RETIRE (R263). -/
def execTileRetire (t : Nat) (unreadable : List Nat) (s : State) : Host.Outcome State Fault Refusal :=
  onBlk (tileRetire t unreadable) s

/-! ### What the Vaults of a Gallery agree (R265, R292, R324) -/

/-- The ports with GALLERY set that hold a logical tile. -/
def galleryHolders (b : Blk) (t : Nat) : List Nat :=
  (List.range 5).filter (fun p => (recTiles (activeOf b p)).contains t && bitAt (activeOf b p).flags 1)

/-- A quiet tile leaves the Gallery tenants that lost it on another die: their frames go to their context areas, and the tile is
zeroised (R265, R291). -/
def leaveGallery (t : Nat) (b : Blk) : Blk :=
  let ps := galleryHolders b t
  if ps = [] then { b with vlt := { b.vlt with leaving := b.vlt.leaving.filter (· != t) } }
  else
    let b := zeroiseTiles [t] (leavePorts ps t (vacateTile t [] b))
    { b with vlt := { b.vlt with leaving := b.vlt.leaving.filter (· != t) } }

/-- The tiles that other dies have lost leave as they come to rest. -/
def applyLeave (b : Blk) : Blk := b.vlt.leaving.foldl (fun b t => whenQuiet [t] (leaveGallery t) b) b

/-- What another member's Vault tells: GALLERY_ACTIVE follows the records of all members, the epoch is the largest of all, and a
tile that a Gallery tenant lost there leaves it here too (R265, R292, R324). -/
def takeNews (n : VaultNews) (b : Blk) : Blk :=
  let b := { b with gal := { b.gal with working := n.states.working, lanes := n.states.lanes } }
  let b := setGalleryActive n.states.agree b.gal.logD b
  let b := if b.vlt.epoch < n.states.epoch then setEpochTo n.states.epoch n.cause b else b
  applyLeave { b with vlt := { b.vlt with leaving := (b.vlt.leaving ++ n.lost).eraseDups } }

/-- A message of operation 5: a report on a command, or what another Vault tells (R92, R265). -/
def takeMessage (r : ReportBody) (b : Blk) : Blk :=
  match r.kind, r.news with
  | .vault, some n => if isPeer b r.die && b.vlt.alive then takeNews n (landMail 5 r.die r.cmd b) else b
  | .vault, none => b
  | _, _ => takeReport r b

/-- REPORT (R92). -/
def execReport (r : ReportBody) (s : State) : Host.Outcome State Fault Refusal := onBlk (takeMessage r) s

/-- SPARE_SCRUB: the Vault, which wakes TQ16 for it, tests each free spare; one that fails is retired in its place
with no change of epoch (R266, R323, R336). -/
def spareScrub (bad : List Nat) (b : Blk) : Blk :=
  if !b.vlt.alive || b.pwr.inReset then b
  else
    let b := { b with pwr := { b.pwr with quads := tabPut 2 b.pwr.quads 16 2 } }
    ((freeSpares b).filter bad.contains).foldl (fun b p => raiseAlert 4 (sumpPut 0x21 none 6 0 0 p 0 (setPhysState p 2 b))) b

/-- SPARE_SCRUB (R266). -/
def execSpareScrub (bad : List Nat) (s : State) : Host.Outcome State Fault Refusal := onBlk (spareScrub bad) s

/-! ### Firmware (R300) -/

/-- The first address of the control SRAM (Table BMX-6). -/
def sramBase : Nat := 0x4000000000

/-- Bytes of the control SRAM. -/
def sramSize : Nat := 0x80000

/-- Bytes of an image header (Table VLT-4). -/
def fwHeaderSize : Nat := 256

/-- LENGTH of the image at an address. -/
def fwLength (b : Blk) (a : Nat) : Nat := readLe (ofCtx 5 b) (a + 12) 4

/-- The image was read with good parity and translation, in the block's own context (R297). -/
def fwReadOk (b : Blk) (a n : Nat) (readOk : Bool) : Bool :=
  let k := extKey 5 a
  readOk && !(b.xlat.any (fun e => e.2 != .ok && decide (k / 512 ≤ e.1) && decide (e.1 ≤ (k + n - 1) / 512)))
  && !(b.bad.any (fun x => decide (k ≤ x) && decide (x < k + n)))

/-- The bytes `n` from offset `off` of the copy in control SRAM. -/
def sramBytes (b : Blk) (off n : Nat) : List Byte := memGetBytes b.mem (sramBase + off) n

/-- A little-endian field of the header in control SRAM. -/
def fwField (b : Blk) (off n : Nat) : Nat := ofLe (sramBytes b off n)

/-- MAGIC, LENGTH and the reserved bytes (Table VLT-4). -/
def fwShapeOk (b : Blk) : Bool :=
  let n := fwField b 12 4
  fwField b 0 4 == 0x334D494B && n % 64 == 0 && decide (64 ≤ n) && decide (n ≤ 507904)
  && fwField b 21 3 == 0 && fwField b 121 7 == 0 && fwField b 224 32 == 0

/-- The key slot of the header is programmed and not revoked. -/
def fwSlotOk (b : Blk) : Bool :=
  let k := fwField b 20 1
  decide (k < 4) && bitAt b.fab.lat.programmed k && !bitAt b.fab.lat.revoked k

/-- The checks of Table VLT-5 on the copy in control SRAM, in order: the reason of the first that fails, 0 for none. -/
def fwReason (b : Blk) (readOk : Bool) : Nat :=
  let pub := sramBytes b 24 97
  if !readOk then 6
  else if !fwShapeOk b then 1
  else if !fwSlotOk b then 2
  else if Config.sha384 pub ≠ tabGet 0 b.fab.lat.keyHash (fwField b 20 1) then 3
  else if !Config.ecdsaVerify pub (Config.sha384 (sramBytes b 0 128 ++ sramBytes b fwHeaderSize (fwField b 12 4)))
      (sramBytes b 128 48) (sramBytes b 176 48) then 4
  else if fwField b 8 4 < b.fab.lat.rollback then 5
  else 0

/-- Copies the image into a zeroised control SRAM: the header, then the body when its LENGTH fits. -/
def fwCopy (a : Nat) (b : Blk) : Blk :=
  let n := min (fwLength b a) (sramSize - fwHeaderSize) + fwHeaderSize
  let b' := zeroKeys sramBase sramSize b
  { b' with mem := memCopy b'.mem (extKey 5 a) sramBase n }

/-- Loads and verifies the firmware at FW_BASE: the cores run from ENTRY, or stay in reset with a FIRMWARE record
(R219, R298, R300). -/
def loadFirmware (readOk : Bool) (b : Blk) : Blk :=
  let a := b.dict.fwBase.toNat
  let inPlace := a % 64 == 0 && regionOf a == some .external
  let good := inPlace && fwReadOk b a (fwHeaderSize + min (fwLength b a) sramSize) readOk
  let b := (List.range 4).foldl (fun b c => resetMaster (.cc c) b) b
  let b := if inPlace then fwCopy a b else zeroKeys sramBase sramSize b
  match fwReason b good with
  | 0 =>
    { b with
      vlt := { b.vlt with fwState := 2, fwReason := 0, coreState := 0x55, decodeHeld := false
                          dataBase := b.dict.fwDataBase, dataSize := b.dict.fwDataSize }
      dict := { b.dict with bootswapNow := b.dict.bootswap } }
  | r =>
    raiseAlert 9 (sumpPut 0x41 none 6 0 0 a r { b with vlt := { b.vlt with fwState := 3, fwReason := r, coreState := 0 } })

/-- CONTROL_SRAM_PARITY: decoding is held on every queue while the Vault reloads and verifies the firmware and
restarts the cores; commands in flight go on and every halted one stays halted (R249). -/
def controlSramParity (addr : Nat) (readOk : Bool) (b : Blk) : Blk :=
  if b.pwr.inReset ∨ addr < sramBase ∨ sramBase + sramSize ≤ addr then b
  else
    let b := raiseAlert 1 (sumpPut 0x40 none 6 0 0 addr 0 { b with vlt := { b.vlt with decodeHeld := true } })
    if b.vlt.alive then loadFirmware readOk b else b

/-- CONTROL_SRAM_PARITY (R249). -/
def execControlSramParity (addr : Nat) (readOk : Bool) (s : State) : Host.Outcome State Fault Refusal :=
  onBlk (controlSramParity addr readOk) s

/-- VAULT_SRAM_PARITY: the Vault stops until a block reset; the Lantern writes the record (R249, R362). -/
def vaultSramParity (addr : Nat) (b : Blk) : Blk :=
  if b.pwr.inReset ∨ addr < 0x4000200000 ∨ 0x4000210000 ≤ addr then b
  else raiseAlert 0 (sumpPut 0x40 none 6 0 0 addr 1 { b with vlt := { b.vlt with alive := false } })

/-- VAULT_SRAM_PARITY (R249). -/
def execVaultSramParity (addr : Nat) (s : State) : Host.Outcome State Fault Refusal := onBlk (vaultSramParity addr) s

end Sys2Proof.Machine
end

