-- ==== Sys2Proof/Machine/Partition.lean ====
section
/-! DEFINITION. Partition records, the checks of a commit and its application, and the tenant reset (R201, R288 to R293,
R341). -/
namespace Sys2Proof.Machine

/-! ### Records (Table VLT-1) -/

/-- The 64 bytes of a record. -/
def recBytes (r : PartRec) : List Byte :=
  leBytes 8 r.tiles.toNat ++ leBytes 8 r.shelves.toNat ++ leBytes 2 r.handleFirst.toNat ++ leBytes 2 r.handleCount.toNat
    ++ leBytes 2 r.share.toNat ++ leBytes 2 r.cellar.toNat ++ leBytes 1 r.flags.toNat ++ leBytes 3 0
    ++ leBytes 4 r.quantum.toNat ++ leBytes 8 r.ctxBase.toNat ++ leBytes 4 r.ctxSize.toNat ++ leBytes 20 0

/-- A little-endian field of a byte list. -/
def leField (l : List Byte) (off n : Nat) : Nat := ofLe ((l.drop off).take n)

/-- The record that 64 bytes spell. -/
def recOf (l : List Byte) : PartRec :=
  { tiles := BitVec.ofNat 64 (leField l 0 8), shelves := BitVec.ofNat 64 (leField l 8 8)
    handleFirst := BitVec.ofNat 16 (leField l 16 2), handleCount := BitVec.ofNat 16 (leField l 18 2)
    share := BitVec.ofNat 16 (leField l 20 2), cellar := BitVec.ofNat 16 (leField l 22 2)
    flags := BitVec.ofNat 8 (leField l 24 1), quantum := BitVec.ofNat 32 (leField l 28 4)
    ctxBase := BitVec.ofNat 64 (leField l 32 8), ctxSize := BitVec.ofNat 32 (leField l 40 4) }

/-- The reserved bytes of a record are zero. -/
def recPadsOk (l : List Byte) : Bool := leField l 25 3 == 0 && leField l 44 20 == 0

/-- The fields of a record lie in their ranges, its reserved bit and GALLERY_ACTIVE are clear (R288). -/
def recRangesOk (r : PartRec) : Bool :=
  decide (r.handleFirst.toNat ≤ 511) && decide (r.handleCount.toNat ≤ 512) && decide (r.share.toNat ≤ 8192)
  && r.cellar.toNat % 4 == 0 && !bitAt r.flags 6 && !bitAt r.flags 7
  && (if recSliced r then decide (100 ≤ r.quantum.toNat) && decide (r.quantum.toNat ≤ 1000000) else r.quantum == 0)
  && r.ctxSize.toNat % 4096 == 0

/-! ### The nine conditions (R289) -/

/-- The staged record of a port. -/
def stagedOf (b : Blk) (p : Nat) : PartRec := tabGet {} b.vlt.staged p

/-- The tenant ports. -/
def tenantPorts : List Nat := List.range 5

/-- The staged records with ENABLE. -/
def stagedEnabled (b : Blk) : List (Nat × PartRec) :=
  (tenantPorts.map (fun p => (p, stagedOf b p))).filter (fun e => recEnabled e.2)

/-- A property of every pair of different enabled staged records. -/
def stagedPairs (b : Blk) (ok : Nat × PartRec → Nat × PartRec → Bool) : Bool :=
  (stagedEnabled b).all (fun x => (stagedEnabled b).all (fun y => x.1 == y.1 || ok x y))

/-- TILES is a union of aligned groups of four. -/
def groupsOfFour (v : BitVec 64) : Bool :=
  (List.range 16).all (fun g => let n := field v (4 * g) 4; n == 0 || n == 15)

/-- Two records are partners: both TIMESLICE, each naming the other, with equal TILES and QUANTUM. -/
def arePartners (x y : Nat × PartRec) : Bool :=
  recSliced x.2 && recSliced y.2 && recPartner x.2 == y.1 && recPartner y.2 == x.1
  && x.2.tiles == y.2.tiles && x.2.quantum == y.2.quantum

/-- Two records share a handle. -/
def shareHandle (x y : PartRec) : Bool :=
  decide (x.handleFirst.toNat < y.handleFirst.toNat + y.handleCount.toNat)
  && decide (y.handleFirst.toNat < x.handleFirst.toNat + x.handleCount.toNat)
  && decide (0 < x.handleCount.toNat) && decide (0 < y.handleCount.toNat)

/-- Condition 1 does not refuse. -/
def cond1 (b : Blk) : Bool :=
  (stagedEnabled b).all (fun e => decide (4 ≤ (recTiles e.2).length) && groupsOfFour e.2.tiles
    && !(gradeOf b == .s32 && decide (2 ^ 32 ≤ e.2.tiles.toNat)))

/-- Condition 2 does not refuse: no tile reads absent or failed. -/
def cond2 (b : Blk) : Bool := (stagedEnabled b).all (fun e => (recTiles e.2).all (fun t => (physOf b t).isSome))

/-- Condition 3 does not refuse. -/
def cond3 (b : Blk) : Bool := stagedPairs b (fun x y => (x.2.tiles &&& y.2.tiles) == 0 || arePartners x y)

/-- Condition 4 does not refuse. -/
def cond4 (b : Blk) : Bool :=
  stagedPairs b (fun x y => (x.2.shelves &&& y.2.shelves) == 0 && !shareHandle x.2 y.2)
  && (stagedEnabled b).all (fun e => decide (e.2.handleFirst.toNat + e.2.handleCount.toNat ≤ 512))

/-- A sum over the enabled staged records. -/
def stagedSum (b : Blk) (f : PartRec → Nat) : Nat := ((stagedEnabled b).map (fun e => f e.2)).foldl (· + ·) 0

/-- Condition 5 does not refuse. -/
def cond5 (b : Blk) : Bool := decide (stagedSum b (·.share.toNat) ≤ 8192)

/-- Condition 6 does not refuse. -/
def cond6 (b : Blk) : Bool := decide (stagedSum b (·.cellar.toNat) ≤ 4 * quadrantUnits b)

/-- Condition 7 does not refuse. -/
def cond7 (b : Blk) : Bool := hasLinks b || (stagedEnabled b).all (fun e => !bitAt e.2.flags 1)

/-- Bytes of the largest save image of a tile (R289). -/
def largestImage : Nat := 4460544

/-- Condition 8 does not refuse, of the enabled records. -/
def cond8 (b : Blk) : Bool :=
  (stagedEnabled b).all (fun e => e.2.ctxBase.toNat % 4096 == 0 && regionOf e.2.ctxBase.toNat == some .external
    && decide ((recTiles e.2).length * largestImage ≤ e.2.ctxSize.toNat))

/-- Condition 9 does not refuse. -/
def cond9 (b : Blk) : Bool := tenantPorts.all (fun p => recRangesOk (stagedOf b p))

/-- COMMIT is accepted (R289). -/
def commitOk (b : Blk) : Bool :=
  cond1 b && cond2 b && cond3 b && cond4 b && cond5 b && cond6 b && cond7 b && cond8 b && cond9 b

/-! ### Ending a tenant's work (R201, R341) -/

/-- Ends one command of a port that is reset: a unit whose checks have passed is committed, a Gallery command is
withdrawn everywhere, and every other completes ABORTED (R276, R341). FENCE and FLAG.SET, which never complete ABORTED,
find nothing left to wait for (R165; DESIGN CHOICE, log entry 76). -/
def abortCmd (c : Cmd) (b : Blk) : Blk :=
  match c.st with
  | .fence => finishCmd c .ok 0 0 b
  | .flagSet => finishCmd c .ok 0 0 b
  | .drain => if c.unit + 1 < unitsOf c.desc then finishCmd c .aborted 0 0 b else finishCmd c .ok c.res0 c.res1 b
  | .halted => discardCmd c b
  | _ => if spansGallery c && c.fetched then galleryFails c .aborted b else finishCmd c .aborted 0 0 b

/-- A forwarded command of the port, which its home die must hear is over, unless it has reported its share good. -/
def abortForwarded (c : Cmd) (b : Blk) : Blk := if reportedOk c then b else reportError c 3 .aborted 0 b

/-- Ends every command of a port in flight; without records nothing is written for them (R341). -/
def endCommands (p : Nat) (records : Bool) (b : Blk) : Blk :=
  let own := b.cmds.filter (fun c => c.port == p && c.home.isNone)
  let b := (b.cmds.filter (fun c => c.port == p && c.home.isSome)).foldl (fun b c => abortForwarded c b) b
  if records then
    own.foldl (fun b c => match cmdOf b c.id with
      | some c => abortCmd c b
      | none => b) b
  else
    let b := (own.filter (fun c => c.fetched && c.st != .drain)).foldl (fun b c => withdrawAll c b) b
    { b with cmds := b.cmds.filter (fun c => !(c.port == p && c.home.isNone)) }

/-- Completes the arms, pushes and pops of a port that wait, ABORTED (R201, R341). -/
def abortWaits (p : Nat) (b : Blk) : Blk :=
  (b.cmds.filter (fun c => c.port == p && (c.st == .grant || c.st == .push || c.st == .pop))).foldl
    (fun b c => finishCmd c .aborted 0 0 b) b

/-- The Pantry handles of a record. -/
def recHandles (r : PartRec) : List Nat :=
  if recEnabled r then (List.range r.handleCount.toNat).map (· + r.handleFirst.toNat) else []

/-- The Shelf queues of a record. -/
def recShelves (r : PartRec) : List Nat := if recEnabled r then setBits r.shelves.toNat 64 else []

/-- Clears a port's moduli table (R22). -/
def clearModuli (p : Nat) (b : Blk) : Blk := { b with moduli := tabKeep (fun k => k / 64 != p) b.moduli }

/-- Clears a port's flags (R154). -/
def clearFlags (p : Nat) (b : Blk) : Blk := { b with flags := tabKeep (fun k => k / 256 != p) b.flags }

/-- A port's queues become DISABLED with every register zero (R340, R341). -/
def clearQueues (p : Nat) (b : Blk) : Blk :=
  { b with qs := tabKeep (fun k => decide (20 ≤ k) || k / 4 != p) b.qs, served := tabDel p b.served, deadTc := tabDel p b.deadTc }

/-- Drops every Cellar line of a port. -/
def dropTenantLines (p : Nat) (b : Blk) : Blk := dropLines (fun l => l.tag == p) b

/-- Forgets the contexts saved for a port. -/
def dropSaved (p : Nat) (b : Blk) : Blk :=
  { b with vlt := { b.vlt with saved := tabKeep (fun k => k / 64 != p) b.vlt.saved } }

/-- TENANT_RESET from TP_RST_N (R341): the active record stays; a time-slicing port that is not running loses its
saved context, and its tiles are its partner's. -/
def tenantReset (p : Nat) (b : Blk) : Blk :=
  if 5 ≤ p ∨ b.pwr.inReset then b
  else
    let r := activeOf b p
    let b := abortStreams p (endCommands p false b)
    let b := if b.vlt.sliced.contains p then b else zeroiseTiles (recTiles r) b
    let b := dropTenantLines p ((recHandles r).foldl (fun b h => zeroiseHandle h b) b)
    clearQueues p (dropSaved p (clearModuli p (clearFlags p b)))

/-- TENANT_RESET (R341). -/
def execTenantReset (p : Nat) (s : State) : Host.Outcome State Fault Refusal := onBlk (tenantReset p) s

/-! ### Applying a commit (R290) -/

/-- The record a commit installs: the staged one, with GALLERY_ACTIVE kept where TILES and GALLERY are unchanged
(R292). -/
def installed (old new : PartRec) : PartRec :=
  let keep := old.tiles == new.tiles && bitAt old.flags 1 == bitAt new.flags 1 && recEnabled new
  { new with flags := setBit new.flags 7 (keep && bitAt old.flags 7) }

/-- A record with GALLERY_ACTIVE clear. -/
def plainRec (r : PartRec) : PartRec := { r with flags := setBit r.flags 7 false }

/-- The ports whose records change, with their staged records. -/
def changedRecs (b : Blk) : Tab PartRec :=
  (tenantPorts.filter (fun p => plainRec (activeOf b p) != stagedOf b p)).map (fun p => (p, stagedOf b p))

/-- Only SHARE or CELLAR changes, so steps 1 to 4 are skipped. -/
def onlyShare (old new : PartRec) : Bool := { plainRec old with share := new.share, cellar := new.cellar } == new

/-- Elements of the first list that the second lacks. -/
def without (x y : List Nat) : List Nat := x.filter (fun a => !y.contains a)

/-- What a commit is about to change: the changed ports with their new records, those of them that take steps 1 to 4,
and which ports wait for a time-slice turn afterwards. -/
structure Change where
  all : Tab PartRec
  full : Tab PartRec
  sliced : List Nat
  deriving DecidableEq, Repr

/-- The record a port will have. -/
def Change.newOf (g : Change) (b : Blk) (p : Nat) : PartRec := (tabFind g.all p).getD (activeOf b p)

/-- The ports that wait for their turn under new records: of a pair that is not changed the one that waits now, of a
new pair the higher-numbered (log entry 7). -/
def slicedAfter (b : Blk) (chg : Tab PartRec) : List Nat :=
  let newOf := fun p => (tabFind chg p).getD (activeOf b p)
  tenantPorts.filter (fun p =>
    let r := newOf p
    let o := recPartner r
    let paired := decide (o < 5) && o != p && recEnabled r && recEnabled (newOf o) && arePartners (p, plainRec r) (o, plainRec (newOf o))
    let kept := [p, o].all (fun x => match tabFind chg x with | some n => onlyShare (activeOf b x) n | none => true)
    paired && (if kept then b.vlt.sliced.contains p else decide (o < p)))

/-- The change a set of new records makes. -/
def changeOf (b : Blk) (chg : Tab PartRec) : Change :=
  ⟨chg, chg.filter (fun e => !onlyShare (activeOf b e.1) e.2), slicedAfter b chg⟩

/-- The tiles a port loses. -/
def lostTiles (b : Blk) (e : Nat × PartRec) : List Nat := without (recTiles (activeOf b e.1)) (recTiles e.2)

/-- The tiles a port gains. -/
def gainedTiles (b : Blk) (e : Nat × PartRec) : List Nat := without (recTiles e.2) (recTiles (activeOf b e.1))

/-- The tiles a port time-slices before or after. -/
def slicedTiles (b : Blk) (e : Nat × PartRec) : List Nat :=
  (if recSliced (activeOf b e.1) then recTiles (activeOf b e.1) else []) ++ (if recSliced e.2 then recTiles e.2 else [])

/-- ENABLE clears. -/
def disables (b : Blk) (e : Nat × PartRec) : Bool := recEnabled (activeOf b e.1) && !recEnabled e.2

/-- ENABLE sets. -/
def enables (b : Blk) (e : Nat × PartRec) : Bool := !recEnabled (activeOf b e.1) && recEnabled e.2

/-- The port begins to wait for turns on tiles it keeps. -/
def startsWaiting (b : Blk) (g : Change) (p : Nat) : Bool := g.sliced.contains p && !b.vlt.sliced.contains p

/-- The port stops waiting for turns. -/
def stopsWaiting (b : Blk) (g : Change) (p : Nat) : Bool := b.vlt.sliced.contains p && !g.sliced.contains p

/-- The tiles the port keeps. -/
def keptTiles (b : Blk) (g : Change) (p : Nat) : List Nat :=
  (recTiles (activeOf b p)).filter (fun t => (recTiles (g.newOf b p)).contains t)

/-- A port runs on a tile before and after the change, so its contents stay. -/
def staysOn (b : Blk) (g : Change) (t : Nat) : Bool :=
  tenantPorts.any (fun p => (keptTiles b g p).contains t && !b.vlt.sliced.contains p && !g.sliced.contains p)

/-- The tiles step 1 quiesces. -/
def quietSet (b : Blk) (g : Change) : List Nat :=
  (g.full.flatMap (fun e => lostTiles b e ++ gainedTiles b e ++ slicedTiles b e)).eraseDups

/-- The tiles step 4 zeroises. -/
def zeroSet (b : Blk) (g : Change) : List Nat :=
  let moved := g.full.flatMap (fun e => lostTiles b e ++ gainedTiles b e)
  let turned := (tenantPorts.filter (fun p => startsWaiting b g p || stopsWaiting b g p)).flatMap (keptTiles b g)
  ((moved ++ turned).eraseDups).filter (fun t => !staysOn b g t)

/-- Discards the halted commands of a port, ABORTED (R131). -/
def discardHalted (p : Nat) (b : Blk) : Blk :=
  (List.range 4).foldl (fun b q => match haltedOf b p q with
    | some c => discardCmd c b
    | none => b) b

/-- Step 2: saves what a port loses, and what it keeps but must now wait for. A waiting port's context is saved
already. -/
def saveLost (g : Change) (e : Nat × PartRec) (b : Blk) : Blk :=
  let tiles := if b.vlt.sliced.contains e.1 then [] else
    lostTiles b e ++ (if startsWaiting b g e.1 then keptTiles b g e.1 else [])
  if tiles = [] then b else saveTiles e.1 (activeOf b e.1) tiles [] b

/-- Step 3: a port that loses a stream, a handle or a Shelf queue has all its streams ended (R201). -/
def endLost (e : Nat × PartRec) (b : Blk) : Blk :=
  let old := activeOf b e.1
  if lostTiles b e = [] ∧ without (recHandles old) (recHandles e.2) = [] ∧ without (recShelves old) (recShelves e.2) = [] then b
  else abortStreams e.1 (abortWaits e.1 b)

/-- Step 5: lines beyond the new quota are written back and dropped, all of them when ENABLE clears. -/
def trimTenant (e : Nat × PartRec) (b : Blk) : Blk :=
  if recEnabled e.2 then
    if e.2.cellar.toNat < (activeOf b e.1).cellar.toNat then
      let surplus := (List.range 4).flatMap (fun q => (linesIn b.bus.cellar e.1 q).drop (32 * e.2.cellar.toNat))
      dropLines (fun l => surplus.contains l) b
    else b
  else dropTenantLines e.1 b

/-- Step 6. -/
def clearTables (e : Nat × PartRec) (b : Blk) : Blk :=
  let b := if disables b e then clearFlags e.1 (clearModuli e.1 b) else b
  if enables b e then clearFlags e.1 b else b

/-- A command held at its table check is checked against the new record (R290). -/
def rejudgeHeld (p : Nat) (b : Blk) : Blk :=
  { b with cmds := b.cmds.map (fun c =>
      if c.port = p ∧ c.st = .table ∧ c.home.isNone then
        match opOf c.desc with
        | some op => { c with early := firstIn decodeOrder (c.early.toList ++ (decodeErrs b p c.queue op c.desc).filter (· == .notOwner)) }
        | none => c
      else c) }

/-- Step 7 for one port. -/
def installRec (e : Nat × PartRec) (b : Blk) : Blk :=
  let cleared := disables b e
  let stale := without (recTiles (activeOf b e.1)) (recTiles e.2)
  let b := { b with vlt := { b.vlt with
      active := tabPut {} b.vlt.active e.1 (installed (activeOf b e.1) e.2)
      saved := tabKeep (fun k => !(k / 64 == e.1 && (stale.contains (k % 64) || cleared))) b.vlt.saved
      applying := tabDel e.1 b.vlt.applying } }
  rejudgeHeld e.1 (if cleared then clearQueues e.1 b else b)

/-- Steps 2 to 7 on quiet tiles. What the quiesce halted of ports that do not change goes on (R131), and the members of a
Gallery compare their records (R292). -/
def applyQuiet (g : Change) (b : Blk) : Blk :=
  let zero := zeroSet b g
  let quiet := quietSet b g
  let waits := tenantPorts.filter (startsWaiting b g)
  let back := (tenantPorts.filter (stopsWaiting b g)).map (fun p => (p, keptTiles b g p))
  let handles := g.full.flatMap (fun e => without (recHandles (activeOf b e.1)) (recHandles e.2))
  let b := g.full.foldl (fun b e => discardHalted e.1 b) b
  let b := waits.foldl (fun b p => vaultHaltStreams p (keptTiles b g p) b) b
  let b := g.full.foldl (fun b e => saveLost g e b) b
  let b := g.full.foldl (fun b e => endLost e b) b
  let b := handles.foldl (fun b h => zeroiseHandle h b) (zeroiseTiles zero b)
  let b := g.all.foldl (fun b e => trimTenant e b) b
  let b := g.all.foldl (fun b e => clearTables e b) b
  let b := back.foldl (fun b x => x.2.foldl (fun b t => restoreTile x.1 t b) b) b
  let b := g.all.foldl (fun b e => installRec e b) b
  let b := { b with vlt := { b.vlt with sliced := g.sliced } }
  let b := back.foldl (fun b x => vaultResumeStreams x.1 x.2 b) b
  let rest := everyPort.filter (fun p => !g.full.any (fun e => e.1 == p) && !b.vlt.sliced.contains p)
  tellVaults (rest.foldl (fun b p => vaultResume p quiet b) b)

/-- Applies the commit under way once every tile it concerns is quiet (R290). -/
def applyCommit (b : Blk) : Blk :=
  if b.vlt.applying = [] then b
  else
    let g := changeOf b b.vlt.applying
    let b' := (g.full.filter (disables b)).foldl (fun b e => endCommands e.1 true b) b
    whenQuiet (quietSet b' g) (applyQuiet g) b'

/-- COMMIT: all nine conditions pass, the generation count advances, and the changed records are applied (R289,
R290). -/
def commitRecords (b : Blk) : Blk :=
  applyCommit { b with vlt := { b.vlt with generation := b.vlt.generation + 1, applying := changedRecs b } }

/-- Disables every tenant, as a commit of disabled records does (R304). -/
def disableAll (b : Blk) : Blk :=
  applyCommit { b with vlt := { b.vlt with
    applying := (tenantPorts.filter (fun p => recEnabled (activeOf b p))).map (fun p =>
      (p, plainRec { activeOf b p with flags := setBit (activeOf b p).flags 0 false })) } }

end Sys2Proof.Machine
end

