-- ==== Sys2Proof/Machine/Power.lean ====
section
/-! DEFINITION. Power and clocks, resets and starts, the presence window and the Trapdoor's TAP (chapter 13, R301, R302,
R305, R306). -/
namespace Sys2Proof.Machine

/-- Changes the power registers. -/
def updPwr (f : Pwr → Pwr) (b : Blk) : Blk := { b with pwr := f b.pwr }

/-! ### Fuses (R306, Table VLT-7) -/

/-- Two of three. -/
def majority {w : Nat} (x y z : BitVec w) : BitVec w := (x &&& y) ||| (x &&& z) ||| (y &&& z)

/-- A value row as it reads. -/
def senseRow (r : FuseRow) : BitVec 65 := majority r.a r.b r.c

/-- The row's commit bit reads 1. -/
def rowProgrammed (b : Blk) (n : Nat) : Bool := bitAt (senseRow (tabGet {} b.fab.rows n)) 64

/-- A row's 64 data bits; an unprogrammed row reads zero. -/
def rowValue (b : Blk) (n : Nat) : Nat :=
  if rowProgrammed b n then (senseRow (tabGet {} b.fab.rows n)).toNat % 2 ^ 64 else 0

/-- A flag bit: two of its three fuses are blown. -/
def flagBlown (b : Blk) (n : Nat) : Bool :=
  let v := tabGet 0 b.fab.flagFuses n
  (bitAt v 0 && bitAt v 1) || (bitAt v 0 && bitAt v 2) || (bitAt v 1 && bitAt v 2)

/-- The value rows of key slot `s`. -/
def slotRows (s : Nat) : List Nat := (List.range 6).map (fun i => 3 + 6 * s + i)

/-- The 384-bit hash of a slot, its first row lowest. -/
def slotHash (b : Blk) (s : Nat) : BitVec 384 :=
  BitVec.ofNat 384 ((slotRows s).foldr (fun n acc => rowValue b n + acc * 2 ^ 64) 0)

/-- What the Lantern latches at a cold start. -/
def senseFuses (b : Blk) : Latched :=
  let r0 := rowValue b 0
  { packageId := BitVec.ofNat 32 r0, shape := BitVec.ofNat 2 (r0 / 2 ^ 32), grade := BitVec.ofNat 2 (r0 / 2 ^ 34)
    factoryRetired := BitVec.ofNat 68 (rowValue b 1 + rowValue b 2 * 2 ^ 64)
    keyHash := (List.range 4).foldl (fun t s => tabPut 0 t s (slotHash b s)) []
    programmed := BitVec.ofNat 4 (maskOf ((List.range 4).filter (fun s => (slotRows s).all (rowProgrammed b))))
    revoked := BitVec.ofNat 4 (maskOf ((List.range 4).filter (flagBlown b)))
    rollback := ((List.range 64).filter (fun i => flagBlown b (4 + i))).length
    sealed := flagBlown b 68 }

/-! ### Resets (R339, R340, R343 to R347) -/

/-- An address outside the block's stores, whose bytes a reset leaves alone: external memory and the boot ROM. -/
def outsideStores (a : Nat) : Bool :=
  decide (0x800000000000 ≤ a) || (decide (0x4000100000 ≤ a) && decide (a < 0x4000110000))

/-- The external bytes that commands in flight, and dirty lines, leave undefined when a reset loses them, each in its own
translation context (R224, R347). -/
def cutMemory (b : Blk) : Blk :=
  let lost := (b.cmds.filter usesMatrix).map (fun c => (c.port, cutAddrs b c))
    ++ (b.bus.cellar.filter (·.dirty)).map (fun l => (l.tag, (List.range 8).map (fun i => l.addr * 512 + i * 64)))
  lost.foldl (fun b e =>
    let l : List Nat := e.2.filter (fun a => regionOf a == some .external)
    if l.isEmpty then b else inCtx e.1 (undefine l) b) b

/-- The cause of the capacity that a start will find changed, none 0: a quadrant back in service, a port or lane back,
or the Gallery left (R346). -/
def capacityBack (b : Blk) : Nat :=
  if b.bus.quadrantOut != 0 then 6
  else if b.link.any (fun e => e.2.state == .failed || e.2.degraded != 0) then 4
  else if b.gal.logD ≠ 0 then 5
  else b.pwr.before

/-- Every master in a segment is reset. -/
def resetMasters (b : Blk) : Blk :=
  (b.bus.ports.filterMap (fun e => e.2.cur.map (·.req.master))).eraseDups.foldl (fun b m => resetMaster m b) b

/-- The block held in block reset: what the Lantern keeps, every other register at its default, every store zero
(Table PWR-4). -/
def heldInReset (b : Blk) : Blk :=
  let d : Blk := {}
  { d with
    clk := b.clk
    fab := { b.fab with fuseStatus := 0, blocked := 0 }
    pwr := { b.pwr with inReset := true, iso := true, portPower := d.pwr.portPower, quads := [], quadrants := [], before := capacityBack b }
    out := { b.out with sent := [], rdata := 0, rerror := false, rmark := d.out.rmark }
    sump := b.sump
    pres := b.pres
    vlt := { d.vlt with
      alive := false, tileMap := b.vlt.tileMap, phys := b.vlt.phys, epoch := b.vlt.epoch, epochCause := b.vlt.epochCause, tap := b.vlt.tap }
    dict := { d.dict with select := b.dict.select }
    mem := tabKeep outsideStores b.mem
    bad := b.bad.filter outsideStores
    xlat := b.xlat
    gal := { d.gal with members := BitVec.ofNat 8 (2 ^ dieOf b) } }

/-- BLOCK_RESET: BLOCK_RST_N or CORE_PWR_GOOD falls (R340, R342, R347). Commands in flight are lost. -/
def blockReset (b : Blk) : Blk := if b.pwr.inReset then b else heldInReset (cutMemory (resetMasters b))

/-- BLOCK_RESET (R340). -/
def execBlockReset (s : State) : Host.Outcome State Fault Refusal := onBlk blockReset s

/-- CLOCK_ABSENT: which MP_CLK and TP_CLK inputs are absent now; while any is, the block stays in block reset
(R331). -/
def clockAbsent (mask : BitVec 21) (b : Blk) : Blk :=
  let b := updPwr (fun x => { x with clkAbsent := mask }) b
  if mask = 0 then b else blockReset b

/-- CLOCK_ABSENT (R331). -/
def execClockAbsent (mask : BitVec 21) (s : State) : Host.Outcome State Fault Refusal := onBlk (clockAbsent mask) s

/-- Ports whose rails are good begin to train; a die whose number lies outside its package keeps its ports OFF and
writes a record (R237, R343). -/
def startPorts (b : Blk) : Blk :=
  if hasLinks b && shapeDims b != 0 && decide (dieCount b ≤ dieOf b) then sumpPut 0x31 none 6 0 0 0 0 b
  else allPorts.foldl (fun b k => trainPort k b) b

/-- The end of a start: ready (R344). -/
def becomeReady (b : Blk) : Blk :=
  let b := { b with vlt := { b.vlt with alive := true } }
  startPorts (updPwr (fun x => { x with inReset := false, iso := false, wake := false, before := 0 }) b)

/-- BLOCK_START: BLOCK_RST_N is released and the block is ready 40 µs later, alone; the epoch changes once when
capacity differs from before the reset (R344, R346). -/
def blockStart (b : Blk) : Blk :=
  if !b.pwr.inReset ∨ !b.pwr.standby ∨ !b.pwr.coreGood ∨ b.pwr.clkAbsent ≠ 0 then b
  else
    let cause := b.pwr.before
    let b := becomeReady (elapse 1000 b)
    let b := { b with gal := { b.gal with formed := true } }
    if cause = 0 then b else newEpoch cause b

/-- BLOCK_START (R344). -/
def execBlockStart (s : State) : Host.Outcome State Fault Refusal := onBlk blockStart s

/-- A physical tile that may be bound: present, good, not retired at manufacture. -/
def goodTile (b : Blk) (bad : List Nat) (p : Nat) : Bool := !physAbsent b p && !bad.contains p && !bitAt b.fab.lat.factoryRetired p

/-- The tile map of a cold start: logical tile t on physical tile t when that is good, the others on the lowest good
spares (R343, R361). -/
def coldMap (b : Blk) (bad : List Nat) : Tab Nat :=
  let own := (List.range 64).filter (fun t => !tileAbsent b t)
  let spares := [64, 65, 66, 67].filter (goodTile b bad)
  let lack := own.filter (fun t => !goodTile b bad t)
  own.filterMap (fun t =>
    if goodTile b bad t then some (t, t) else (spares[lack.idxOf t]?).map (fun p => (t, p)))

/-- PHYS_STATE of a cold start. -/
def coldPhys (b : Blk) (bad : List Nat) (map : Tab Nat) : Tab Nat :=
  (List.range 68).foldl (fun t p =>
    tabPut 0 t p (if physAbsent b p then 0 else if bitAt b.fab.lat.factoryRetired p then 3 else if bad.contains p then 2
      else if map.any (fun e => e.2 == p) then 0 else 1)) []

/-- Everything a loss of the standby rail or LANTERN_RST_N takes: only fuses, straps and what lies outside the block
stay (R322, R340, R347). -/
def coldBlk (b : Blk) : Blk :=
  let d : Blk := {}
  let b := cutMemory b
  { d with
    clk := { d.clk with fresh := b.clk.fresh }
    fab := { b.fab with fuseStatus := 0, blocked := 0, lat := senseFuses b }
    pwr := { d.pwr with clkAbsent := b.pwr.clkAbsent, linkGood := b.pwr.linkGood }
    pres := { d.pres with low := b.pres.low }
    mem := tabKeep outsideStores b.mem
    bad := b.bad.filter outsideStores
    xlat := b.xlat
    gal := { d.gal with members := BitVec.ofNat 8 (2 ^ dieOf b) } }

/-- COLD_RESET: LANTERN_RST_N or the standby rail; the cold start runs to ready, with the tiles that fail its
self-test (R343). -/
def coldReset (bad : List Nat) (b : Blk) : Blk :=
  let b := coldBlk b
  let map := coldMap b bad
  let b := { b with vlt := { b.vlt with tileMap := map, phys := coldPhys b bad map } }
  if b.pwr.clkAbsent = 0 then startPorts b
  else { updPwr (fun x => { x with inReset := true, iso := true }) b with vlt := { b.vlt with alive := false } }

/-- COLD_RESET (R343). -/
def execColdReset (bad : List Nat) (s : State) : Host.Outcome State Fault Refusal := onBlk (coldReset bad) s

/-- POWER_LOSS: every volatile state is lost, and nothing runs until a cold reset (R347). -/
def powerLoss (b : Blk) : Blk :=
  let b := coldBlk b
  let off := fun (n : Nat) => (List.range n).map (fun i => (i, 0))
  let b := updPwr (fun x => { x with standby := false, coreGood := false, inReset := true, iso := true
                                     quads := off 17, quadrants := off 4, linkGood := 0 }) b
  { b with vlt := { b.vlt with alive := false } }

/-- POWER_LOSS (R347). -/
def execPowerLoss (s : State) : Host.Outcome State Fault Refusal := onBlk powerLoss s

/-! ### Unit power states (R334 to R338) -/

/-- The physical tiles of a quad. -/
def quadTiles (n : Nat) : List Nat := (List.range 4).map (· + 4 * n)

/-- The Pantry handles of a quad. -/
def quadHandles (n : Nat) : List Nat := if n < 16 then (List.range 32).map (· + 32 * n) else []

/-- Some stream of the quad's tiles is in a state other than DISARMED. -/
def quadStreams (b : Blk) (n : Nat) : Bool :=
  b.streams.any (fun e => e.2.state != .disarmed && (match physOf b (streamTile e.1) with | some p => p / 4 == n | none => false))

/-- The quad is idle: no command in flight needs its tiles or its Pantry, and its streams are DISARMED (R335). -/
def quadIdle (b : Blk) (n : Nat) : Bool :=
  !(b.cmds.any (fun c => ofQuad b n c || (namedHandles c).any (quadHandles n).contains)) && !quadStreams b n

/-- None of the quad's tiles is bound to a tile of an enabled partition, and no handle of one lies in its Pantry. -/
def quadFree (b : Blk) (n : Nat) : Bool :=
  tenantPorts.all (fun p =>
    !((recTiles (activeOf b p)).any (fun t => match physOf b t with | some q => q / 4 == n | none => false))
    && !((recHandles (activeOf b p)).any (quadHandles n).contains))

/-- A quad enters OFF: its contents are lost, and its fetch engine is reset (Tables PWR-2, BMX-8). -/
def quadOff (n : Nat) (b : Blk) : Blk :=
  let b := (quadHandles n).foldl (fun b h => zeroiseHandle h b) ((quadTiles n).foldl (fun b p => zeroiseTile p b) b)
  updPwr (fun x => { x with quads := tabPut 2 x.quads n 0 }) (resetMaster (.fe n) b)

/-- A quad enters RETAIN: everything but its latches is kept. -/
def quadRetain (n : Nat) (b : Blk) : Blk :=
  let b := { b with latches := tabKeep (fun p => p / 4 != n) b.latches }
  updPwr (fun x => { x with quads := tabPut 2 x.quads n 1 }) b

/-- The quad's idle delay ends. -/
def quadDelay (n : Nat) (b : Blk) : Blk :=
  if 17 ≤ n ∨ tabGet 2 b.pwr.quads n ≠ 2 ∨ !quadIdle b n then b
  else if bitAt b.pwr.idlePolicy 1 && quadFree b n then quadOff n b
  else if bitAt b.pwr.idlePolicy 0 then quadRetain n b
  else b

/-- No request has reached the quadrant's banks. -/
def quadrantIdle (b : Blk) (n : Nat) : Bool :=
  b.bus.flight.all (fun f => f.req.home / 4 != n) && (List.range 8).all (fun i => (busPort b (8 * n + i)).waiting.isEmpty)

/-- The quadrant's idle delay ends: it enters RETAIN, every line kept. -/
def quadrantDelay (n : Nat) (b : Blk) : Blk :=
  if 4 ≤ n ∨ tabGet 2 b.pwr.quadrants n ≠ 2 ∨ !quadrantIdle b n then b
  else updPwr (fun x => { x with quadrants := tabPut 2 x.quadrants n 1 }) b

/-- The port's idle delay ends: it sends STANDBY (R337). -/
def portDelay (k : Nat) (b : Blk) : Blk :=
  if !inService b k || !bitAt b.pwr.idlePolicy 2 || standsBy (portOf b k) then b
  else enterStandby k (updPort k (fun x => { x with standbySent := true }) (transmit k 8 b))

/-- IDLE_DELAY: a unit has been idle for IDLE_DELAY (R335, R337, R338). -/
def idleDelay (u : PowerUnit) (b : Blk) : Blk :=
  if b.pwr.inReset then b
  else match u with
    | .quad n => quadDelay n b
    | .quadrant n => quadrantDelay n b
    | .port k => portDelay k b

/-- IDLE_DELAY (R335). -/
def execIdleDelay (u : PowerUnit) (s : State) : Host.Outcome State Fault Refusal := onBlk (idleDelay u) s

/-! ### Presence (R301, R302) -/

/-- Ticks of 40 ns in one second. -/
def tickRate : Nat := 25000000

/-- Ticks of the 50 ms hold. -/
def holdTicks : Nat := 1250000

/-- The tick in which an open window ends. -/
def windowEnd (b : Blk) : Option Nat := b.pres.opened.map (fun t => t + b.pres.length * tickRate)

/-- A presence window is open in the present tick (R277, R301). -/
def windowOpen (b : Blk) : Bool := match windowEnd b with | some t => decide (b.clk.tick ≤ t) | none => false

/-- WAKE_REQ rises while the core is unpowered or in reset (R344). -/
def raiseWake (b : Blk) : Blk := if b.pwr.inReset then updPwr (fun x => { x with wake := true }) b else b

/-! ### The TAP -/

/-- TAP_INSTRUCTION: after the seal only IDCODE, BYPASS, SAMPLE/PRELOAD and EXTEST are left, and every other
instruction selects the bypass register (R305). -/
def tapInstruction (i : Nat) (b : Blk) : Blk :=
  if !b.pwr.standby then b else { b with vlt := { b.vlt with tap := if b.fab.lat.sealed && decide (4 ≤ i) then 1 else i } }

/-- TAP_INSTRUCTION (R305). -/
def execTapInstruction (i : Nat) (s : State) : Host.Outcome State Fault Refusal := onBlk (tapInstruction i) s

end Sys2Proof.Machine
end

