-- ==== Sys2Proof/Machine/Entries.lean ====
section
/-! DEFINITION. The entries of the object dictionary: types, access, sizes, defaults and ranges (chapter 12, Tables
DIC-5 to DIC-12 and the tables they name), the order of NEXT, and what each entry reads. -/
namespace Sys2Proof.Machine

/-! ### Entries -/

/-- Types (Table DIC-5). -/
inductive DType
  | u8 | u16 | u32 | u64 | i32 | bool | bits32 | str | record (n : Nat)
  deriving DecidableEq, Repr

/-- TYPE of a DESCRIBE. -/
def typeCode : DType → Nat
  | .u8 => 1 | .u16 => 2 | .u32 => 3 | .u64 => 4 | .i32 => 5 | .bool => 6 | .bits32 => 7 | .str => 8 | .record _ => 9

/-- Bytes of a value. -/
def typeSize : DType → Nat
  | .u8 => 1 | .u16 => 2 | .u32 => 4 | .u64 => 8 | .i32 => 4 | .bool => 1 | .bits32 => 4 | .str => 32 | .record n => n

/-- Access rights (Table DIC-5). -/
inductive DAcc
  | ro | rw | rwp | vo | wo
  deriving DecidableEq, Repr

/-- ACCESS of a DESCRIBE. -/
def accCode : DAcc → Nat
  | .ro => 0 | .rw => 1 | .rwp => 2 | .vo => 3 | .wo => 4

/-- An entry's fixed metadata. -/
structure Entry where
  ty : DType
  acc : DAcc
  dflt : Nat
  min : Nat
  max : Nat
  deriving DecidableEq, Repr

/-- Eight bytes of ones: MAX where no range is stated. -/
def noMax : Nat := 2 ^ 64 - 1

/-- An entry with no stated range. -/
def plainEntry (t : DType) (a : DAcc) (d : Nat) : Entry := ⟨t, a, d, 0, noMax⟩

/-- An entry with a stated range. -/
def rangedEntry (t : DType) (a : DAcc) (d lo hi : Nat) : Entry := ⟨t, a, d, lo, hi⟩

/-- A BOOL. -/
def boolEntry (a : DAcc) (d : Nat) : Entry := ⟨.bool, a, d, 0, 1⟩

/-- A BOOL that accepts only 1 (R320). -/
def actEntry (a : DAcc) : Entry := ⟨.bool, a, 0, 1, 1⟩

/-- 0x1000 to 0x1FFF (Table DIC-7), each index with its entries from sub-index 1. -/
def identEntries : List (Nat × List Entry) :=
  [(0x1000, [plainEntry .str .ro 0, plainEntry .str .ro 0, plainEntry .u32 .ro 0, plainEntry .u8 .ro 0, plainEntry .u32 .ro 0,
      plainEntry .u32 .ro 0, plainEntry .u16 .ro 0x0312]),
   (0x1010, [plainEntry .u8 .ro 0, plainEntry .u64 .ro 0, plainEntry .u64 .ro 0, plainEntry (.record 64) .ro 0, plainEntry .bits32 .ro 0,
      plainEntry .bits32 .ro 0, plainEntry (.record 68) .ro 0, plainEntry .u8 .ro 0]),
   (0x1020, [plainEntry .u32 .ro 1, plainEntry .bits32 .ro 0]),
   (0x1030, [plainEntry .u32 .ro 0, plainEntry .u16 .ro 0, plainEntry .u16 .ro 1600, plainEntry .u16 .ro 0])]

/-- 0x2000 to 0x2FFF (Tables DIC-8, BMX-4, TLY-2). -/
def configEntries : List (Nat × List Entry) :=
  [(0x2010, [boolEntry .rw 0]),
   (0x2020, [rangedEntry .u32 .rw 2048 64 65535]),
   (0x2030, List.replicate 5 (plainEntry .bits32 .rwp 0)),
   (0x2040, [rangedEntry .u8 .rw 2 0 7, rangedEntry .u8 .rwp 3 1 255, boolEntry .rwp 1]),
   (0x2050, [plainEntry .u64 .rw 0, actEntry .wo, plainEntry .u64 .rw 0, plainEntry .u32 .rw 0, plainEntry .bits32 .ro 0])]

/-- 0x3000 to 0x3FFF (Tables DIC-9, VLT-1, VLT-6). -/
def tenancyEntries : List (Nat × List Entry) :=
  [(0x3000, [actEntry .rwp, plainEntry .u32 .ro 0, plainEntry .bits32 .ro 0]),
   (0x3010, List.replicate 5 (plainEntry (.record 64) .rwp 0)),
   (0x3020, List.replicate 5 (plainEntry (.record 64) .ro 0)),
   (0x3030, [plainEntry (.record 2) .rwp 0, plainEntry .u8 .rwp 0, plainEntry .bits32 .ro 0]),
   (0x3040, [plainEntry (.record 40) .vo 0]),
   (0x3050, [rangedEntry .u16 .rwp 120 30 600]),
   (0x3060, [plainEntry .bits32 .ro 0, plainEntry .u8 .ro 0, boolEntry .ro 0]),
   (0x3070, [plainEntry (.record 49) .rwp 0, plainEntry .bits32 .ro 0])]

/-- 0x4000 to 0x5FFF (Tables DIC-10, GAL-8). -/
def powerEntries : List (Nat × List Entry) :=
  [(0x4000, [rangedEntry .u16 .rw 0 0 1800, plainEntry .u16 .ro 0, rangedEntry .u16 .rw 1600 400 1600, plainEntry .u16 .ro 0]),
   (0x4010, [plainEntry .u64 .ro 0, plainEntry .u8 .ro 0, plainEntry .u16 .ro 0, plainEntry .bits32 .rw 7,
      rangedEntry .u32 .rw 100 10 1000000]),
   (0x5000, [plainEntry .bits32 .rwp 0x3F, plainEntry .bits32 .wo 0]),
   (0x5001, [rangedEntry .u32 .rw 4 1 1000]),
   (0x5002, List.replicate 6 (plainEntry .bits32 .ro 0)),
   (0x5003, [plainEntry .bits32 .ro 0, plainEntry .bits32 .ro 0]),
   (0x5004, [actEntry .rwp])]

/-- 0x6000 to 0x8FFF (Tables DIC-11, SMP-5, VLT-6, DIC-12). -/
def observeEntries : List (Nat × List Entry) :=
  [(0x6000, List.replicate 9 (plainEntry .u64 .ro 0)),
   (0x6010, List.replicate 5 (plainEntry (.record 32) .ro 0)),
   (0x6020, List.replicate 5 (plainEntry .u64 .ro 0)),
   (0x6030, List.replicate 6 (plainEntry (.record 32) .ro 0)),
   (0x7000, [plainEntry .u32 .ro 0, rangedEntry .u16 .rw 0 0 1023, plainEntry (.record 32) .ro 0, plainEntry .u32 .ro 0, actEntry .rwp]),
   (0x7001, [plainEntry (.record 32) .ro 0]),
   (0x7002, [plainEntry .bits32 .rw 0, plainEntry .bits32 .rw 0x7FF]),
   (0x7003, [plainEntry .bits32 .ro 0, plainEntry .u32 .ro 0, actEntry .wo]),
   (0x8000, [boolEntry .rwp 0, plainEntry .bits32 .ro 0]),
   (0x8010, List.replicate 5 (plainEntry (.record 64) .ro 0)),
   (0x8020, [plainEntry .bits32 .ro 0])]

/-- Every index, ascending. -/
def dictIndexes : List (Nat × List Entry) := identEntries ++ configEntries ++ tenancyEntries ++ powerEntries ++ observeEntries

/-- The entry is present: the link range and link counters only with links, TRAPDOOR_EN only before the seal
(Table DIC-12). -/
def entryPresent (b : Blk) (index sub : Nat) : Bool :=
  (hasLinks b || !(index / 0x1000 == 5 || index == 0x6030)) && !(index == 0x8000 && sub == 1 && b.fab.lat.sealed)

/-- An entry; sub-index 0 holds the highest sub-index (R314). -/
def entryOf (b : Blk) (index sub : Nat) : Option Entry :=
  match dictIndexes.find? (fun e => e.1 == index) with
  | none => none
  | some g =>
    if !entryPresent b index sub then none
    else if sub = 0 then some (plainEntry .u8 .ro g.2.length)
    else g.2[sub - 1]?

/-- Every entry present, ascending. -/
def presentEntries (b : Blk) : List (Nat × Nat) :=
  (dictIndexes.flatMap (fun g => (List.range (g.2.length + 1)).map (fun s => (g.1, s)))).filter (fun x => entryPresent b x.1 x.2)

/-- The entry that follows (R310). -/
def entryAfter (b : Blk) (index sub : Nat) : Option (Nat × Nat) :=
  (presentEntries b).find? (fun x => decide (index < x.1) || (x.1 == index && decide (sub < x.2)))

/-- The 32 bytes of a DESCRIBE (Table DIC-5). -/
def describeBytes (e : Entry) : List Byte :=
  leBytes 1 (typeCode e.ty) ++ leBytes 1 (accCode e.acc) ++ leBytes 2 (typeSize e.ty) ++ leBytes 4 0
    ++ leBytes 8 e.dflt ++ leBytes 8 e.min ++ leBytes 8 e.max

/-! ### Values -/

/-- A string of character codes, padded with zeros (R315). -/
def strBytes (l : List Nat) : List Byte := (List.range 32).map (fun i => BitVec.ofNat 8 (l.getD i 0))

/-- The 32 bytes of a Sump record (Table SMP-3). -/
def sumpBytes (r : SumpRec) : List Byte :=
  leBytes 4 r.seq.toNat ++ leBytes 6 r.time.toNat ++ leBytes 1 r.event.toNat ++ leBytes 1 r.code.toNat ++ leBytes 2 r.source.toNat
    ++ leBytes 2 r.tag.toNat ++ leBytes 8 r.where_.toNat ++ leBytes 8 r.detail.toNat

/-- Bytes that the spec gives no value: free (log entry 5). -/
def freeBytes (b : Blk) (n : Nat) : List Byte := (List.range n).map (Config.freeByte b.clk.fresh)

/-- A record, or zeros; one whose stored bytes have wrong parity reads as no rule states (R247, log entry 85). -/
def sumpOrZero (b : Blk) (r : Option SumpRec) : List Byte :=
  match r with
  | some x => if x.bad then freeBytes b 32 else sumpBytes x
  | none => leBytes 32 0

/-- The copy of SELECT that belongs to a path (R317). -/
def selectKey : Path → Nat
  | .mgmt => 0 | .vault => 1 | .core c => 2 + c | .trapdoor => 6

/-- A counter. -/
def counter (b : Blk) (index sub f : Nat) : Nat := tabGet 0 b.cnt (cntKey index sub f)

/-- A record of four counters. -/
def fourCounters (b : Blk) (index sub : Nat) : List Byte := (List.range 4).flatMap (fun f => leBytes 8 (counter b index sub f))

/-- Two bits for each of a row of units. -/
def twoBits (l : List Nat) : Nat := l.foldr (fun v acc => v + 4 * acc) 0

/-- The mask of the logical tiles with a property. -/
def tileMask (ok : Nat → Bool) : Nat := maskOf ((List.range 64).filter ok)

/-- GRADE (Table DIC-7). -/
def gradeVal : Grade → Nat
  | .g64 => 0 | .s64 => 1 | .s32 => 2

/-- UNITS (Table DIC-7). -/
def unitsWord (b : Blk) : Nat :=
  (if hasAcc b then 1 else 0) + (if hasTwin b then 2 else 0) + (if hasLinks b then 0x3F * 4 else 0) + 0xF * 0x100
    + (0xF - b.bus.quadrantOut.toNat) * 0x1000

/-- CELLAR_BANKS: S32 has four banks in each quadrant (R361). -/
def banksWord (b : Blk) : Nat := if gradeOf b = .s32 then 0x0F0F0F0F else 0xFFFFFFFF

/-- Identity and capability values (Table DIC-7). -/
def identValue (b : Blk) (index sub : Nat) : List Byte :=
  if index = 0x1000 then
    match sub with
    | 1 => strBytes [75, 108, 111, 119, 97, 114, 100]
    | 2 => strBytes [73, 109, 110, 117, 115, 32, 51]
    | 3 => leBytes 4 b.fab.stepping.toNat
    | 4 => leBytes 1 (dieOf b)
    | 5 => leBytes 4 b.fab.lat.packageId.toNat
    | 6 => leBytes 4 b.fab.iana.toNat
    | _ => leBytes 2 0x0312
  else if index = 0x1010 then
    match sub with
    | 1 => leBytes 1 (gradeVal (gradeOf b))
    | 2 => leBytes 8 (tileMask (tileAbsent b))
    | 3 => leBytes 8 (tileMask (tileFailed b))
    | 4 => (List.range 64).map (fun t => BitVec.ofNat 8 ((physOf b t).getD 0xFF))
    | 5 => leBytes 4 (unitsWord b)
    | 6 => leBytes 4 (banksWord b)
    | 7 => (List.range 68).map (fun p => BitVec.ofNat 8 (physState b p))
    | _ => leBytes 1 (freeSpares b).length
  else if index = 0x1020 then
    if sub = 1 then leBytes 4 b.vlt.epoch.toNat else leBytes 4 b.vlt.epochCause.toNat
  else
    match sub with
    | 1 => leBytes 4 (fetchW b)
    | 2 => leBytes 2 b.gal.linkMin
    | 3 => leBytes 2 b.pwr.clockFloor.toNat
    | _ => leBytes 2 (cellarUnits b)

/-- Configuration values (Tables DIC-8, BMX-4, TLY-2). -/
def configValue (b : Blk) (index sub : Nat) : List Byte :=
  let d := b.dict
  if index = 0x2010 then leBytes 1 (if d.bootswap then 1 else 0)
  else if index = 0x2020 then leBytes 4 d.patience.toNat
  else if index = 0x2030 then
    match sub with
    | 1 => leBytes 4 d.holdCb.toNat
    | 2 => leBytes 4 d.holdTs.toNat
    | 3 => leBytes 4 d.holdPp.toNat
    | 4 => leBytes 4 d.holdM.toNat
    | _ => leBytes 4 d.holdOther.toNat
  else if index = 0x2040 then
    match sub with
    | 1 => leBytes 1 d.replayLimit.toNat
    | 2 => leBytes 1 d.retireLimit.toNat
    | _ => leBytes 1 (if d.autoSpare then 1 else 0)
  else
    match sub with
    | 1 => leBytes 8 d.fwBase.toNat
    | 3 => leBytes 8 d.fwDataBase.toNat
    | 4 => leBytes 4 d.fwDataSize.toNat
    | _ => leBytes 4 (b.vlt.fwState + b.vlt.fwReason * 256)

/-- Tenancy, tile-map and fuse values (Table DIC-9). A read of TILE_BIND, TILE_RETURN or FUSE_PROGRAM has no stated
value. -/
def tenancyValue (b : Blk) (index sub : Nat) : List Byte :=
  let v := b.vlt
  if index = 0x3000 then
    match sub with
    | 1 => leBytes 1 0
    | 2 => leBytes 4 v.generation.toNat
    | _ => leBytes 4 ((if v.applying = [] then 0 else 1) + 2 * maskOf (v.applying.map (·.1)))
  else if index = 0x3010 then recBytes (stagedOf b (sub - 1))
  else if index = 0x3020 then recBytes (activeOf b (sub - 1))
  else if index = 0x3030 then
    match sub with
    | 1 => freeBytes b 2
    | 2 => freeBytes b 1
    | _ => leBytes 4 v.mapStatus.toNat
  else if index = 0x3040 then (List.range 5).flatMap (fun p => leBytes 8 (tabGet 0 v.ctxSeq p))
  else if index = 0x3050 then leBytes 2 b.pres.window.toNat
  else if index = 0x3060 then
    match sub with
    | 1 => leBytes 4 (b.fab.lat.programmed.toNat + 16 * b.fab.lat.revoked.toNat)
    | 2 => leBytes 1 b.fab.lat.rollback
    | _ => leBytes 1 (if b.fab.lat.sealed then 1 else 0)
  else if sub = 1 then freeBytes b 49
  else leBytes 4 (b.fab.fuseStatus.toNat + 256 * b.fab.blocked.toNat)

/-- Power values (Table DIC-10). -/
def powerValue (b : Blk) (index sub : Nat) : List Byte :=
  let x := b.pwr
  if index = 0x4000 then
    match sub with
    | 1 => leBytes 2 x.cap.toNat
    | 2 => leBytes 2 x.powerNow.toNat
    | 3 => leBytes 2 x.clockFloor.toNat
    | _ => leBytes 2 x.clockNow.toNat
  else
    match sub with
    | 1 => leBytes 8 (twoBits ((List.range 17).map (tabGet 2 x.quads)))
    | 2 => leBytes 1 (twoBits ((List.range 4).map (tabGet 2 x.quadrants)))
    | 3 => leBytes 2 (twoBits ((List.range 6).map (tabGet 0 x.portPower)))
    | 4 => leBytes 4 x.idlePolicy.toNat
    | _ => leBytes 4 x.idleDelay.toNat

/-- The value of a link port state (Table GAL-8). -/
def linkStateVal : LinkState → Nat
  | .off => 0 | .training => 1 | .active => 2 | .failed => 3

/-- PORT_STATE (Table GAL-8). -/
def portStateWord (b : Blk) (k : Nat) : Nat :=
  let x := portOf b k
  linkStateVal x.state + x.active.toNat * 8 + x.degraded.toNat * 0x800 + peerDie b k % 8 * 0x80000

/-- GALLERY (Table GAL-8): LOG_D, rank, members, and the lowest member as leader. -/
def galleryWord (b : Blk) : Nat :=
  let m := b.gal.members.toNat
  b.gal.logD + b.gal.rank * 4 + m * 32 + (((List.range 8).find? (natBit m)).getD 0) * 0x2000

/-- Link values (Table GAL-8). -/
def linkValue (b : Blk) (index sub : Nat) : List Byte :=
  if index = 0x5000 then leBytes 4 b.dict.portEnable.toNat
  else if index = 0x5001 then leBytes 4 b.dict.uncorrLimit.toNat
  else if index = 0x5002 then leBytes 4 (portStateWord b (sub - 1))
  else if index = 0x5003 then
    if sub = 1 then leBytes 4 (galleryWord b) else leBytes 4 b.gal.working.toNat
  else leBytes 1 0

/-- Counters (Table DIC-11). -/
def counterValue (b : Blk) (index sub : Nat) : List Byte :=
  if index = 0x6010 ∨ index = 0x6030 then fourCounters b index sub else leBytes 8 (counter b index sub 0)

/-- Milliseconds left in the presence window, rounded down (Table VLT-6). -/
def remainingMs (b : Blk) : Nat :=
  match windowEnd b with
  | some t => (t - b.clk.tick) / 25000
  | none => 0

/-- Sump, alert and presence values (Tables SMP-5, VLT-6). -/
def alertValue (b : Blk) (path : Path) (index sub : Nat) : List Byte :=
  let s := b.sump
  let sel := tabGet 0 b.dict.select (selectKey path)
  if index = 0x7000 then
    match sub with
    | 1 => leBytes 4 s.written.toNat
    | 2 => leBytes 2 sel.toNat
    | 3 => sumpOrZero b (tabFind s.ring sel.toNat)
    | 4 => leBytes 4 s.suppressed.toNat
    | _ => leBytes 1 0
  else if index = 0x7001 then sumpOrZero b s.first
  else if index = 0x7002 then
    if sub = 1 then leBytes 4 s.alertCause.toNat else leBytes 4 s.alertMask.toNat
  else if sub = 1 then
    leBytes 4 ((if windowOpen b then 1 else 0) + (if b.pres.low then 2 else 0) + (if b.pres.stuck then 4 else 0))
  else leBytes 4 (remainingMs b)

/-- QUEUE_VIEW of a port (Table DIC-12). -/
def queueView (b : Blk) (p : Nat) : List Byte :=
  (List.range 4).flatMap (fun q =>
    let r := queueOf b p q
    leBytes 4 (stateWord r) ++ leBytes 6 r.count.toNat ++ leBytes 2 (inFlight b p q).length ++ leBytes 4 r.schedEpoch.toNat)

/-- Debug values (Table DIC-12). -/
def debugValue (b : Blk) (index sub : Nat) : List Byte :=
  if index = 0x8000 then
    if sub = 1 then leBytes 1 (if b.vlt.trapEn then 1 else 0)
    else leBytes 4 ((if b.fab.lat.sealed then 1 else 0) + (if trapOpen b then 2 else 0))
  else if index = 0x8010 then queueView b (sub - 1)
  else leBytes 4 b.vlt.coreState.toNat

/-- What a present entry reads on a path (R314, R317, R318). -/
def entryValue (b : Blk) (path : Path) (index sub : Nat) : List Byte :=
  if sub = 0 then leBytes 1 (match entryOf b index 0 with | some e => e.dflt | none => 0)
  else match index / 0x1000 with
    | 1 => identValue b index sub
    | 2 => configValue b index sub
    | 3 => tenancyValue b index sub
    | 4 => powerValue b index sub
    | 5 => linkValue b index sub
    | 6 => counterValue b index sub
    | 7 => alertValue b path index sub
    | _ => debugValue b index sub

/-- The entry has no stated value to read, so each read takes a fresh one. -/
def readsFree (b : Blk) (path : Path) (index sub : Nat) : Bool :=
  let bad := fun (r : Option SumpRec) => match r with | some x => x.bad | none => false
  (index == 0x3030 && (sub == 1 || sub == 2)) || (index == 0x3070 && sub == 1)
  || (index == 0x7000 && sub == 3 && bad (tabFind b.sump.ring (tabGet 0 b.dict.select (selectKey path)).toNat))
  || (index == 0x7001 && sub == 1 && bad b.sump.first)

end Sys2Proof.Machine
end

