-- ==== Sys2Proof/Machine/Dict.lean ====
section
/-! DEFINITION. Dictionary requests: the two paths, the checks in their order, the responses, and the requests that start
no process (R308 to R321). -/
namespace Sys2Proof.Machine

/-! ### Status (Table DIC-3) -/

/-- Dictionary statuses. -/
inductive DStatus
  | ok | badRequest | noEntry | noAccess | badLength | unavailable | noPresence | busy | badValue
  deriving DecidableEq, Repr

/-- The value of a status. -/
def dstatusVal : DStatus → Nat
  | .ok => 0x00 | .badRequest => 0x08 | .noEntry => 0x01 | .noAccess => 0x02 | .badLength => 0x04 | .unavailable => 0x07
  | .noPresence => 0x03 | .busy => 0x06 | .badValue => 0x05

/-- The operations of Table DIC-1. -/
inductive DOp
  | read | write | describe | next
  deriving DecidableEq, Repr

/-- The OP byte of an operation. -/
def dopVal : DOp → Nat
  | .read => 1 | .write => 2 | .describe => 3 | .next => 4

/-! ### Paths -/

/-- A path is the management path. -/
def isMgmt (p : Path) : Bool := p == .mgmt

/-- A path is a control core's. -/
def isCore : Path → Bool
  | .core _ => true
  | _ => false

/-- The local slot of a path (R313). -/
def pathSlot : Path → Nat
  | .mgmt => 6 | .vault => 0 | .core c => 1 + c | .trapdoor => 5

/-- A slot of the local port. -/
def slotOf (b : Blk) (k : Nat) : Slot := tabGet {} b.dict.slots k

/-- The slot that a request fills. -/
def slotFor (op : Nat) (r : DictReq) : Slot :=
  { index := BitVec.ofNat 16 r.index, sub := BitVec.ofNat 8 r.sub, op := BitVec.ofNat 8 op, len := BitVec.ofNat 16 r.len
    status := 0xFF, data := r.data.take 256 }

/-- The request has reached the Lantern: over the management port, or pending in its slot (R308, R313, R340). -/
def arrived (b : Blk) (op : DOp) (r : DictReq) : Bool :=
  b.pwr.standby
  && (isMgmt r.path || (!b.pwr.inReset && decide (pathSlot r.path < 6) && (r.path != .core 4) && slotOf b (pathSlot r.path) == slotFor (dopVal op) r))

/-- The DATA bytes: those of the message, or LENGTH bytes of the slot. -/
def reqData (r : DictReq) : List Byte :=
  if isMgmt r.path then r.data else (List.range r.len).map (fun i => r.data.getD i 0)

/-- The value of the DATA bytes (R7). -/
def reqValue (r : DictReq) : Nat := ofLe (reqData r)

/-! ### The checks (R311) -/

/-- Table DIC-6, with SELECT for the control cores and PORT_COUNTS for the management path only. -/
def accessOk (path : Path) (op : DOp) (index sub : Nat) (a : DAcc) : Bool :=
  match op with
  | .describe => true
  | .next => true
  | .read =>
    (match a with
      | .wo => false
      | .vo => path == .vault
      | _ => true)
    && !(index == 0x6010 && (isCore path || (!isMgmt path && sub != 0)))
  | .write =>
    match a with
    | .ro => false
    | .rw => !isCore path || (index == 0x7000 && sub == 2)
    | .rwp => path == .mgmt || path == .vault
    | .vo => path == .vault
    | .wo => !isCore path

/-- LENGTH and DATA fit the operation (R309, R315). -/
def lengthOk (op : DOp) (size : Nat) (r : DictReq) : Bool :=
  (match op with
    | .write => r.len == size
    | _ => r.len == 0)
  && (!isMgmt r.path || (r.data.length == r.len && decide (12 + r.data.length ≤ 272)))

/-- The Vault serves the entry: the 0x3000 range, FW_LOAD, TILE_BIND, and TRAPDOOR_EN's process (R304, R321). -/
def needsVault (op : DOp) (index sub : Nat) : Bool :=
  index / 0x1000 == 3 || (index == 0x2050 && sub == 2) || (index == 0x8000 && sub == 1 && op == .write)

/-- The unit that serves the entry runs (R321). -/
def unitRuns (b : Blk) (op : DOp) (index sub : Nat) : Bool :=
  match op with
  | .describe => true
  | .next => true
  | _ =>
    if needsVault op index sub then b.vlt.alive && !b.pwr.inReset
    else match index / 0x1000 with
      | 2 => !b.pwr.inReset
      | 8 => !b.pwr.inReset
      | 5 => op == .read || allPorts.any (fun k => (portOf b k).state != .off)
      | _ => true

/-- An action under way that the write must wait for (R320). -/
def actionBusy (b : Blk) (index sub : Nat) : Bool :=
  let reforms := b.gal.reforming || b.gal.regrow.isSome
  (index == 0x3000 && sub == 1 && b.vlt.applying != [])
  || (index == 0x3030 && sub == 1 && (b.vlt.binding.isSome || reforms))
  || (index == 0x5000 && sub == 2 && reforms)
  || (index == 0x5004 && sub == 1 && reforms)
  || (index == 0x8000 && sub == 1 && b.vlt.applying != [])

/-- The request queue is full, or an earlier action is in progress (R312, R320). -/
def requestBusy (b : Blk) (op : DOp) (r : DictReq) : Bool :=
  (isMgmt r.path && decide (8 ≤ r.ahead)) || (op == .write && actionBusy b r.index r.sub)

/-- The checks of Table DIC-3 from NO_ENTRY to BUSY, in order. -/
def requestStatus (b : Blk) (op : DOp) (r : DictReq) : DStatus :=
  match entryOf b r.index r.sub with
  | none => .noEntry
  | some e =>
    if !accessOk r.path op r.index r.sub e.acc then .noAccess
    else if !lengthOk op (typeSize e.ty) r then .badLength
    else if !unitRuns b op r.index r.sub then .unavailable
    else if op = .write ∧ e.acc = .rwp ∧ !windowOpen b then .noPresence
    else if requestBusy b op r then .busy
    else .ok

/-! ### Responses -/

/-- The response body on the management port (Table DIC-2). -/
def responseBytes (b : Blk) (op : DOp) (r : DictReq) (st : DStatus) (data : List Byte) : List Byte :=
  leBytes 1 0x7F ++ (leBytes 4 b.fab.iana.toNat).reverse ++ leBytes 1 r.inst.toNat ++ leBytes 1 (dopVal op) ++ leBytes 1 r.sub
    ++ leBytes 2 r.index ++ leBytes 1 (dstatusVal st) ++ leBytes 1 0 ++ leBytes 2 data.length ++ data

/-- Answers a request on its path; nothing but the status when it is not OK. -/
def respond (op : DOp) (r : DictReq) (st : DStatus) (data : List Byte) (b : Blk) : Blk :=
  let data := if st = .ok then data else []
  let x := slotOf b (pathSlot r.path)
  let kept := (List.range 256).map (fun i => data.getD i (x.data.getD i 0))
  let x := { x with status := BitVec.ofNat 8 (dstatusVal st), len := BitVec.ofNat 16 data.length, data := kept }
  { b with
    out := if isMgmt r.path then { b.out with mgmtTx := some (responseBytes b op r st data) } else b.out
    dict := if isMgmt r.path then b.dict else { b.dict with slots := tabPut {} b.dict.slots (pathSlot r.path) x } }

/-- Answers with a status; one that a reset keeps unavailable also asks for power (R344). -/
def refuse (op : DOp) (r : DictReq) (st : DStatus) (b : Blk) : Blk :=
  let b := respond op r st [] b
  if st = .unavailable then raiseWake b else b

/-- A request in its turn: its checks, then its answer and its effect. -/
def serveReq (op : DOp) (r : DictReq) (go : Blk → Blk) (b : Blk) : Blk :=
  if !arrived b op r then b
  else match requestStatus b op r with
    | .ok => go b
    | st => refuse op r st b

/-- A write to an entry: its value is judged last, and an accepted write is answered before what it starts (R320). -/
def serveWrite (mine : Nat → Nat → Bool) (r : DictReq) (valueOk : Blk → Bool) (act : Blk → Blk) (b : Blk) : Blk :=
  if !mine r.index r.sub then b
  else serveReq .write r (fun b => if valueOk b then act (respond .write r .ok [] b) else refuse .write r .badValue b) b

/-! ### READ, DESCRIBE and NEXT -/

/-- READ. -/
def dictRead (r : DictReq) (b : Blk) : Blk :=
  serveReq .read r (fun b =>
    let b' := respond .read r .ok (entryValue b r.path r.index r.sub) b
    if readsFree b r.path r.index r.sub then drawFresh b' else b') b

/-- READ (R318). -/
def execRead (r : DictReq) (s : State) : Host.Outcome State Fault Refusal := onBlk (dictRead r) s

/-- DESCRIBE. -/
def dictDescribe (r : DictReq) (b : Blk) : Blk :=
  serveReq .describe r (fun b => respond .describe r .ok ((entryOf b r.index r.sub).elim [] describeBytes) b) b

/-- DESCRIBE (R316). -/
def execDescribe (r : DictReq) (s : State) : Host.Outcome State Fault Refusal := onBlk (dictDescribe r) s

/-- The checks of NEXT: it names no entry of its own (R310, R315). -/
def nextStatus (b : Blk) (r : DictReq) : DStatus :=
  if (entryAfter b r.index r.sub).isNone then .noEntry
  else if !lengthOk .next 0 r then .badLength
  else if requestBusy b .next r then .busy
  else .ok

/-- NEXT. -/
def dictNext (r : DictReq) (b : Blk) : Blk :=
  if !arrived b .next r then b
  else respond .next r (nextStatus b r) ((entryAfter b r.index r.sub).elim [] (fun x => leBytes 2 x.1 ++ leBytes 1 x.2)) b

/-- NEXT (R310). -/
def execNext (r : DictReq) (s : State) : Host.Outcome State Fault Refusal := onBlk (dictNext r) s

/-! ### Writes -/

/-- Changes the dictionary's own registers. -/
def updDict (f : Dict → Dict) (b : Blk) : Blk := { b with dict := f b.dict }

/-- An unsigned value lies in its entry's range; a BOOL's range is 0 to 1 (R315). -/
def inRange (b : Blk) (r : DictReq) : Bool :=
  match entryOf b r.index r.sub with
  | some e => decide (e.min ≤ reqValue r) && decide (reqValue r ≤ e.max)
  | none => false

/-- No bit is set beyond the low `n` (R315). -/
def bitsWithin (n : Nat) (r : DictReq) : Bool := decide (reqValue r < 2 ^ n)

/-- One entry's number. -/
def isEntry (index sub : Nat) (i s : Nat) : Bool := i == index && s == sub

/-- Entries whose writes have commands of their own. -/
def ownCommand (i s : Nat) : Bool :=
  isEntry 0x2010 1 i s || (i == 0x2030 && decide (1 ≤ s) && decide (s ≤ 5)) || isEntry 0x2050 2 i s || isEntry 0x3000 1 i s
  || (i == 0x3010 && decide (1 ≤ s) && decide (s ≤ 5)) || isEntry 0x3030 1 i s || isEntry 0x3030 2 i s || isEntry 0x3070 1 i s
  || isEntry 0x4000 1 i s || isEntry 0x4000 3 i s || isEntry 0x5000 2 i s || isEntry 0x5004 1 i s || isEntry 0x7000 2 i s
  || isEntry 0x7000 5 i s || isEntry 0x7002 1 i s || isEntry 0x7003 3 i s || isEntry 0x8000 1 i s

/-- The reserved bits and multiples that Tables DIC-8, DIC-10, GAL-8 and SMP-5 state, beyond the range. -/
def plainValueOk (b : Blk) (r : DictReq) : Bool :=
  inRange b r &&
  (if isEntry 0x2050 3 r.index r.sub || isEntry 0x2050 4 r.index r.sub then reqValue r % 4096 == 0
   else if isEntry 0x4010 4 r.index r.sub then bitsWithin 3 r
   else if isEntry 0x5000 1 r.index r.sub then bitsWithin 6 r
   else if isEntry 0x7002 2 r.index r.sub then bitsWithin 11 r
   else true)

/-- PORT_ENABLE: a port newly enabled whose rail is good begins to train (R238, Table GAL-8). -/
def writePortEnable (v : Nat) (b : Blk) : Blk :=
  let old := b.dict.portEnable
  let b := updDict (fun d => { d with portEnable := BitVec.ofNat 32 v }) b
  allPorts.foldl (fun b k => if !bitAt old k && (portOf b k).state == .off then trainPort k b else b) b

/-- CTX_SEQ: the five sequence numbers (R128). -/
def writeCtxSeq (l : List Byte) (b : Blk) : Blk :=
  { b with vlt := { b.vlt with ctxSeq := (List.range 5).foldl (fun t p => tabPut 0 t p (leField l (8 * p) 8)) b.vlt.ctxSeq } }

/-- Stores the value of an entry whose write has no command of its own. -/
def storeEntry (index sub v : Nat) (l : List Byte) (b : Blk) : Blk :=
  match index, sub with
  | 0x2020, 1 => updDict (fun d => { d with patience := BitVec.ofNat 32 v }) b
  | 0x2040, 1 => updDict (fun d => { d with replayLimit := BitVec.ofNat 8 v }) b
  | 0x2040, 2 => updDict (fun d => { d with retireLimit := BitVec.ofNat 8 v }) b
  | 0x2040, 3 => updDict (fun d => { d with autoSpare := v == 1 }) b
  | 0x2050, 1 => updDict (fun d => { d with fwBase := BitVec.ofNat 64 v }) b
  | 0x2050, 3 => updDict (fun d => { d with fwDataBase := BitVec.ofNat 64 v }) b
  | 0x2050, 4 => updDict (fun d => { d with fwDataSize := BitVec.ofNat 32 v }) b
  | 0x3040, 1 => writeCtxSeq l b
  | 0x3050, 1 => { b with pres := { b.pres with window := BitVec.ofNat 16 v } }
  | 0x4010, 4 => updPwr (fun x => { x with idlePolicy := BitVec.ofNat 32 v }) b
  | 0x4010, 5 => updPwr (fun x => { x with idleDelay := BitVec.ofNat 32 v }) b
  | 0x5000, 1 => writePortEnable v b
  | 0x5001, 1 => updDict (fun d => { d with uncorrLimit := BitVec.ofNat 32 v }) b
  | 0x7002, 2 => { b with sump := { b.sump with alertMask := BitVec.ofNat 32 v } }
  | _, _ => b

/-- The value of a write is accepted: a RECORD states no range here. -/
def storeOk (b : Blk) (r : DictReq) : Bool := isEntry 0x3040 1 r.index r.sub || plainValueOk b r

/-- WRITE. -/
def dictWrite (r : DictReq) (b : Blk) : Blk :=
  serveWrite (fun i s => !ownCommand i s) r (fun b => storeOk b r) (storeEntry r.index r.sub (reqValue r) (reqData r)) b

/-- WRITE (R315). -/
def execWrite (r : DictReq) (s : State) : Host.Outcome State Fault Refusal := onBlk (dictWrite r) s

/-- SELECT: the copy of the path that writes it. -/
def writeSelect (r : DictReq) (b : Blk) : Blk :=
  serveWrite (isEntry 0x7000 2) r (fun b => inRange b r)
    (updDict (fun d => { d with select := tabPut 0 d.select (selectKey r.path) (BitVec.ofNat 16 (reqValue r)) })) b

/-- SELECT (R317). -/
def execSelect (r : DictReq) (s : State) : Host.Outcome State Fault Refusal := onBlk (writeSelect r) s

/-- BOOTSWAP: the control cores take it at their next release from reset. -/
def writeBootswap (r : DictReq) (b : Blk) : Blk :=
  serveWrite (isEntry 0x2010 1) r (fun b => inRange b r) (updDict (fun d => { d with bootswap := reqValue r == 1 })) b

/-- BOOTSWAP (R219). -/
def execBootswap (r : DictReq) (s : State) : Host.Outcome State Fault Refusal := onBlk (writeBootswap r) s

/-- Bits that a hold-mode entry has (Table BMX-4). -/
def holdBits (sub : Nat) : Nat :=
  match sub with
  | 1 => 32 | 2 => 17 | 3 => 17 | 4 => 16 | _ => 8

/-- Stores a hold-mode entry; a target already inside a burst keeps its owner until the burst's end. -/
def storeHold (sub v : Nat) (d : Dict) : Dict :=
  let x := BitVec.ofNat 32 v
  match sub with
  | 1 => { d with holdCb := x }
  | 2 => { d with holdTs := x }
  | 3 => { d with holdPp := x }
  | 4 => { d with holdM := x }
  | _ => { d with holdOther := x }

/-- HOLD_MODE. -/
def writeHold (r : DictReq) (b : Blk) : Blk :=
  serveWrite (fun i s => i == 0x2030 && decide (1 ≤ s) && decide (s ≤ 5)) r (fun _ => bitsWithin (holdBits r.sub) r)
    (updDict (storeHold r.sub (reqValue r))) b

/-- HOLD_MODE (R218). -/
def execHoldMode (r : DictReq) (s : State) : Host.Outcome State Fault Refusal := onBlk (writeHold r) s

/-- CLEAR: every record and FIRST become zero; WRITTEN keeps counting. -/
def writeClear (r : DictReq) (b : Blk) : Blk :=
  serveWrite (isEntry 0x7000 5) r (fun b => inRange b r) (fun b => { b with sump := { b.sump with ring := [], first := none } }) b

/-- CLEAR (R282). -/
def execClear (r : DictReq) (s : State) : Host.Outcome State Fault Refusal := onBlk (writeClear r) s

/-- CLOSE: the window ends in this tick. -/
def writeClose (r : DictReq) (b : Blk) : Blk :=
  serveWrite (isEntry 0x7003 3) r (fun b => inRange b r) (fun b => { b with pres := { b.pres with opened := none } }) b

/-- CLOSE (R301). -/
def execClose (r : DictReq) (s : State) : Host.Outcome State Fault Refusal := onBlk (writeClose r) s

/-- ALERT_CAUSE: ones clear, and a cause raised in the same cycle stays set (R278). -/
def writeAlertCause (r : DictReq) (raised : BitVec 32) (b : Blk) : Blk :=
  serveWrite (isEntry 0x7002 1) r (fun _ => bitsWithin 11 r) (fun b =>
    { b with sump := { b.sump with
      alertCause := (b.sump.alertCause &&& ~~~ (BitVec.ofNat 32 (reqValue r))) ||| (raised &&& 0x7FF) } }) b

/-- ALERT_CAUSE (R278). -/
def execAlertCause (r : DictReq) (raised : BitVec 32) (s : State) : Host.Outcome State Fault Refusal :=
  onBlk (writeAlertCause r raised) s

/-- POWER_CAP: 0, or 200 to 1,800; a write of zero clears the hold and raises the clock at once (R333). -/
def writePowerCap (r : DictReq) (b : Blk) : Blk :=
  let v := reqValue r
  serveWrite (isEntry 0x4000 1) r (fun _ => v == 0 || (decide (200 ≤ v) && decide (v ≤ 1800)))
    (updPwr (fun x => if v = 0 then { x with cap := 0, hold := 0, clockNow := 1600 } else { x with cap := BitVec.ofNat 16 v })) b

/-- POWER_CAP (R333). -/
def execPowerCap (r : DictReq) (s : State) : Host.Outcome State Fault Refusal := onBlk (writePowerCap r) s

/-- Epoch values from which four writes are refused (R324). -/
def epochLimit : Nat := 0xFFF00000

/-- The epoch leaves room for a change by a write (R324). -/
def epochRoom (b : Blk) : Bool := decide (b.vlt.epoch.toNat < epochLimit)

/-- A new CLOCK_FLOOR: a change of tile capacity (R327). -/
def setClockFloor (v : Nat) (b : Blk) : Blk :=
  if v = b.pwr.clockFloor.toNat then b
  else newEpoch 7 (updPwr (fun x => { x with
    clockFloor := BitVec.ofNat 16 v, clockNow := if x.clockNow.toNat < v then BitVec.ofNat 16 v else x.clockNow }) b)

/-- CLOCK_FLOOR. -/
def writeClockFloor (r : DictReq) (b : Blk) : Blk :=
  let v := reqValue r
  serveWrite (isEntry 0x4000 3) r (fun b => inRange b r && v % 25 == 0 && epochRoom b) (setClockFloor v) b

/-- CLOCK_FLOOR (R327). -/
def execClockFloor (r : DictReq) (s : State) : Host.Outcome State Fault Refusal := onBlk (writeClockFloor r) s

/-! ### The local port and bad messages -/

/-- The operation of an OP byte. -/
def knownOp (op : Nat) : Bool := decide (1 ≤ op) && decide (op ≤ 4)

/-- LOCAL_DICTIONARY_REQUEST: a master fills a slot and writes its OP. Another master's access is an error; a write
while the slot is pending is ignored; an unknown OP is answered BAD_REQUEST (R313). -/
def localRequest (m : Master) (slot op : Nat) (r : DictReq) (b : Blk) : Blk :=
  let bad := slotOwner slot != some m || decide (6 ≤ slot) || (m == .trapdoor && !trapOpen b)
  if b.pwr.inReset then b
  else if bad then busError m true (0x4002000000 + 512 * slot) b
  else if op = 0 ∨ (slotOf b slot).status = 0xFF then b
  else
    let x := slotFor op r
    let x := if knownOp op then x else { x with status := BitVec.ofNat 8 (dstatusVal .badRequest), len := 0 }
    { b with dict := { b.dict with slots := tabPut {} b.dict.slots slot x } }

/-- LOCAL_DICTIONARY_REQUEST (R313). -/
def execLocalDictionaryRequest (m : Master) (slot op : Nat) (r : DictReq) (s : State) : Host.Outcome State Fault Refusal :=
  onBlk (localRequest m slot op r) s

/-- The header of a management message is a request's (Table DIC-1, R309). -/
def headerGood (b : Blk) (l : List Byte) : Bool :=
  leField l 0 1 == 0x7F && ofBe ((l.drop 1).take 4) == b.fab.iana.toNat && leField l 5 1 / 32 == 4 && knownOp (leField l 6 1)

/-- The response to a message whose header is not a request's: TYPE and IANA as it had them. -/
def badResponse (l : List Byte) : List Byte :=
  l.take 5 ++ leBytes 1 (leField l 5 1 % 32) ++ (l.drop 6).take 4 ++ leBytes 1 (dstatusVal .badRequest) ++ leBytes 3 0

/-- BAD_REQUEST: a message with a bad header is answered, one too short for a header is dropped (R309, R312). -/
def badRequest (l : List Byte) (b : Blk) : Blk :=
  if !b.pwr.standby ∨ l.length < 12 ∨ headerGood b l then b
  else { b with out := { b.out with mgmtTx := some (badResponse l) } }

/-- BAD_REQUEST (R309). -/
def execBadRequest (body : List Byte) (s : State) : Host.Outcome State Fault Refusal := onBlk (badRequest body) s

end Sys2Proof.Machine
end

