-- ==== Sys2Proof/Machine/Actions.lean ====
section
/-! DEFINITION. The dictionary writes that start a process: partitions, firmware, fuses, links, the tile map and the
Trapdoor (R246, R288, R289, R300, R304, R307, R320, R326). -/
namespace Sys2Proof.Machine

/-! ### Partitions and firmware -/

/-- COMMIT: refused with BAD_VALUE when a condition of R289 fails. -/
def writeCommit (r : DictReq) (b : Blk) : Blk :=
  serveWrite (isEntry 0x3000 1) r (fun b => inRange b r && commitOk b) commitRecords b

/-- COMMIT (R289). -/
def execCommit (r : DictReq) (s : State) : Host.Outcome State Fault Refusal := onBlk (writeCommit r) s

/-- The staged record as written is in range (R288). -/
def stagedOk (r : DictReq) : Bool := recPadsOk (reqData r) && recRangesOk (recOf (reqData r))

/-- STAGED_RECORD: stored without effect on service. -/
def writeStaged (r : DictReq) (b : Blk) : Blk :=
  serveWrite (fun i s => i == 0x3010 && decide (1 ≤ s) && decide (s ≤ 5)) r (fun _ => stagedOk r)
    (fun b => { b with vlt := { b.vlt with staged := tabPut {} b.vlt.staged (r.sub - 1) (recOf (reqData r)) } }) b

/-- STAGED_RECORD (R288). -/
def execStagedRecord (r : DictReq) (s : State) : Host.Outcome State Fault Refusal := onBlk (writeStaged r) s

/-- FW_LOAD. -/
def writeFwLoad (r : DictReq) (readOk : Bool) (b : Blk) : Blk :=
  serveWrite (isEntry 0x2050 2) r (fun b => inRange b r) (loadFirmware readOk) b

/-- FW_LOAD (R300). -/
def execFwLoad (r : DictReq) (readOk : Bool) (s : State) : Host.Outcome State Fault Refusal := onBlk (writeFwLoad r readOk) s

/-! ### Fuses (R306, R307, R326) -/

/-- One 10 µs pulse: a copy of a bit of a value row, or one of a flag's three fuses. -/
structure Pulse where
  flag : Bool
  n : Nat
  copy : Nat
  bit : Nat
  deriving DecidableEq, Repr

/-- A copy of a value row. -/
def rowCopy (r : FuseRow) : Nat → BitVec 65
  | 0 => r.a
  | 1 => r.b
  | _ => r.c

/-- Blows one bit of a copy. -/
def blowRow (copy bit : Nat) (r : FuseRow) : FuseRow :=
  match copy with
  | 0 => { r with a := setBit r.a bit true }
  | 1 => { r with b := setBit r.b bit true }
  | _ => { r with c := setBit r.c bit true }

/-- The fuse of a pulse is blown already. -/
def isBlown (b : Blk) (x : Pulse) : Bool :=
  if x.flag then bitAt (tabGet 0 b.fab.flagFuses x.n) x.copy else bitAt (rowCopy (tabGet {} b.fab.rows x.n) x.copy) x.bit

/-- Blows one fuse. -/
def blow (x : Pulse) (b : Blk) : Blk :=
  if x.flag then { b with fab := { b.fab with flagFuses := tabUpd 0 b.fab.flagFuses x.n (fun v => setBit v x.copy true) } }
  else { b with fab := { b.fab with rows := tabUpd {} b.fab.rows x.n (blowRow x.copy x.bit) } }

/-- The copies, A first. -/
def fuseCopies : List Nat := [0, 1, 2]

/-- The data words of a hash, the slot's first row lowest. -/
def hashWords (l : List Byte) : List Nat := (List.range 6).map (fun i => leField l (1 + 8 * i) 8)

/-- The pulses of a value field: data bits copy by copy, then the commit bits A, B and C. -/
def slotPulses (s : Nat) (l : List Byte) : List Pulse :=
  fuseCopies.flatMap (fun c => ((slotRows s).zip (hashWords l)).flatMap (fun x => (setBits x.2 64).map (fun i => ⟨false, x.1, c, i⟩)))
    ++ fuseCopies.flatMap (fun c => (slotRows s).map (fun n => ⟨false, n, c, 64⟩))

/-- The lowest ROLLBACK bit that does not read blown. -/
def nextRollback (b : Blk) : Option Nat := (List.range 64).find? (fun i => !flagBlown b (4 + i))

/-- The flag that a field programs: keys 0 to 3 KEY_REVOKE, 4 to 67 ROLLBACK, 68 TRAPDOOR_SEAL. -/
def fieldFlag (b : Blk) (field : Nat) : Option Nat :=
  if field < 8 then some (field - 4) else if field = 8 then (nextRollback b).map (· + 4) else some 68

/-- The pulses of a field, in order. -/
def fieldPulses (b : Blk) (field : Nat) (l : List Byte) : List Pulse :=
  if field < 4 then slotPulses field l
  else match fieldFlag b field with
    | some n => fuseCopies.map (fun c => ⟨true, n, c, 0⟩)
    | none => []

/-- A row of the field is programmed already, or no ROLLBACK bit is left. -/
def fuseTaken (b : Blk) (field : Nat) : Bool :=
  if field < 4 then (slotRows field).any (rowProgrammed b) else (fieldFlag b field).isNone

/-- A blown data bit would have to be cleared (R307). -/
def fuseClash (b : Blk) (field : Nat) (l : List Byte) : Bool :=
  decide (field < 4) && ((slotRows field).zip (hashWords l)).any (fun x => fuseCopies.any (fun c =>
    (List.range 64).any (fun i => bitAt (rowCopy (tabGet {} b.fab.rows x.1) c) i && !natBit x.2 i)))

/-- Sets FUSE_STATUS. -/
def fuseStatus (v : BitVec 3) (b : Blk) : Blk := { b with fab := { b.fab with fuseStatus := v } }

/-- KEY_REVOKE and TRAPDOOR_SEAL are sensed again at once; a new seal removes every TRP path (R221, R305). -/
def senseAgain (b : Blk) : Blk :=
  let l := senseFuses b
  let newSeal := l.sealed && !b.fab.lat.sealed
  let b := { b with fab := { b.fab with lat := { b.fab.lat with revoked := l.revoked, sealed := l.sealed } } }
  if newSeal then
    let b := resetMaster .trapdoor b
    { b with vlt := { b.vlt with trapOpen := false, tap := if 4 ≤ b.vlt.tap then 1 else b.vlt.tap } }
  else b

/-- Programs a field; `supply` is the number of pulses that VFUSE lasted for, none when it lasted for all. -/
def programFuse (l : List Byte) (supply : Option Nat) (b : Blk) : Blk :=
  let field := leField l 0 1
  if fuseTaken b field then fuseStatus 4 b
  else if fuseClash b field l then
    fuseStatus 4 { b with fab := { b.fab with blocked := setBit b.fab.blocked field true } }
  else
    let todo := (fieldPulses b field l).filter (fun x => !isBlown b x)
    let n := min (supply.getD todo.length) todo.length
    let b := (todo.take n).foldl (fun b x => blow x b) b
    senseAgain (fuseStatus (if n = todo.length then 2 else 3) b)

/-- FUSE_PROGRAM: a field above 9, or a nonzero byte beyond its value, is refused; every other refusal is in
FUSE_STATUS (R326). -/
def writeFuse (r : DictReq) (supply : Option Nat) (b : Blk) : Blk :=
  let l := reqData r
  serveWrite (isEntry 0x3070 1) r (fun _ => decide (leField l 0 1 ≤ 9) && (decide (leField l 0 1 < 4) || leField l 1 48 == 0))
    (programFuse l supply) b

/-- FUSE_PROGRAM (R307). -/
def execFuseProgram (r : DictReq) (supplyOkPulses : Option Nat) (s : State) : Host.Outcome State Fault Refusal :=
  onBlk (writeFuse r supplyOkPulses) s

/-! ### Links (R244, R246) -/

/-- The tiles of the Gallery tenants. -/
def galleryTiles (b : Blk) : List Nat :=
  (tenantPorts.flatMap (fun p => if bitAt (activeOf b p).flags 1 then recTiles (activeOf b p) else [])).eraseDups

/-- Grows the Gallery once its tenants are quiet (R246). -/
def applyReform (b : Blk) : Blk :=
  match b.gal.regrow with
  | none => b
  | some s =>
    whenQuiet (galleryTiles b) (whileHalted (galleryTiles b) (fun b =>
      let s := withOwn b s
      takeMembers (chosenMembers b 255 s) s { b with gal := { b.gal with regrow := none } })) b

/-- REFORM begins: commands that cross dies are held at decode while the Gallery re-forms. -/
def startReform (s : PeerStates) (b : Blk) : Blk :=
  applyReform { b with gal := { b.gal with reforming := true, regrow := some s } }

/-- REFORM. -/
def writeReform (r : DictReq) (s : PeerStates) (b : Blk) : Blk :=
  serveWrite (isEntry 0x5004 1) r (fun b => inRange b r && epochRoom b) (startReform s) b

/-- REFORM (R246). -/
def execReform (r : DictReq) (st : PeerStates) (s : State) : Host.Outcome State Fault Refusal := onBlk (writeReform r st) s

/-- What a port has not had acknowledged goes to the surviving port, ahead of its new traffic. -/
def passTraffic (k : Nat) (b : Blk) : Blk :=
  match survivor b k with
  | none => b
  | some s =>
    let x := portOf b k
    let left := x.replay.map (fun e => (e.cls, e.poison)) ++ x.txWait
    updPort s (fun y => pumpPort { y with txWait := left ++ y.txWait }) b

/-- Retrains one port with all 8 lanes: it leaves service when it carried traffic, and trains from OFF. -/
def retrainPort (k : Nat) (b : Blk) : Blk :=
  if !mayTrain b k then b
  else
    let up := inService b k
    let b := if up then passTraffic k (resetMaster (.li k) b) else b
    let b := updPort k (fun x => { quietPort x with
      state := .off, lanes := [], active := 0, degraded := 0, txWait := [], retrained := true, fromRetain := false, shut := false }) b
    trainPort k (if up then portDown k b else b)

/-- PORT_RETRAIN. -/
def writeRetrain (r : DictReq) (b : Blk) : Blk :=
  serveWrite (isEntry 0x5000 2) r (fun b => bitsWithin 6 r && epochRoom b)
    (fun b => (setBits (reqValue r) 6).foldl (fun b k => retrainPort k b) b) b

/-- PORT_RETRAIN (R244). -/
def execPortRetrain (r : DictReq) (s : State) : Host.Outcome State Fault Refusal := onBlk (writeRetrain r) s

/-! ### The tile map (R326) -/

/-- TILE_MAP_STATUS. -/
def mapStatus (state p : Nat) (b : Blk) : Blk := { b with vlt := { b.vlt with mapStatus := BitVec.ofNat 32 (state + 4 * p) } }

/-- A bound tile moves to the spare, and its old physical tile becomes a free spare. -/
def bindMoved (t q p : Nat) (unreadable : List Nat) (b : Blk) : Blk :=
  let lost := lostFrames b q unreadable
  let b := whileHalted [t] (fun b => raiseAlert 2 (retireRecord q t (some p) lost false (moveTile t q p 2 unreadable b))) b
  setPhysState q 1 (zeroiseTile q b)

/-- A logical tile that read failed returns to service on the spare. -/
def bindFailed (t p : Nat) (b : Blk) : Blk := retireRecord 0x7F t (some p) [] false (newEpoch 2 (bindTile t p (zeroiseTile p b)))

/-- Binds as TILE_BIND asked, once the logical tile is quiet and while the spare is still free. -/
def applyBind (b : Blk) : Blk :=
  match b.vlt.binding with
  | none => b
  | some (t, p, u) =>
    let ended := fun (state : Nat) (b : Blk) => { mapStatus state p b with vlt := { (mapStatus state p b).vlt with binding := none } }
    if physState b p ≠ 1 then ended 3 b
    else match physOf b t with
      | none => ended 2 (bindFailed t p b)
      | some q => whenQuiet [t] (fun b => ended 2 (bindMoved t q p u b)) b

/-- TILE_BIND begins. -/
def startBind (t p : Nat) (unreadable : List Nat) (b : Blk) : Blk :=
  let b := mapStatus 1 p b
  applyBind { b with vlt := { b.vlt with binding := some (t, p, unreadable) } }

/-- TILE_BIND: byte 0 a logical tile that is not absent, byte 1 a free spare. -/
def writeTileBind (r : DictReq) (unreadable : List Nat) (b : Blk) : Blk :=
  let t := leField (reqData r) 0 1
  let p := leField (reqData r) 1 1
  serveWrite (isEntry 0x3030 1) r (fun b => !tileAbsent b t && decide (p < 68) && physState b p == 1 && epochRoom b)
    (startBind t p unreadable) b

/-- TILE_BIND (R326). -/
def execTileBind (r : DictReq) (unreadable : List Nat) (s : State) : Host.Outcome State Fault Refusal :=
  onBlk (writeTileBind r unreadable) s

/-- The test of TILE_RETURN ends: a good tile becomes a free spare. -/
def returnTile (p : Nat) (good : Bool) (b : Blk) : Blk :=
  if good then mapStatus 2 p (setPhysState p 1 (zeroiseTile p b)) else mapStatus 3 p b

/-- TILE_RETURN: a physical tile that reads failed and was not retired at manufacture. -/
def writeTileReturn (r : DictReq) (good : Bool) (b : Blk) : Blk :=
  let p := reqValue r
  serveWrite (isEntry 0x3030 2) r (fun b => decide (p < 68) && physState b p == 2) (returnTile p good) b

/-- TILE_RETURN (R326). -/
def execTileReturn (r : DictReq) (good : Bool) (s : State) : Host.Outcome State Fault Refusal := onBlk (writeTileReturn r good) s

/-! ### The Trapdoor (R304) -/

/-- Every store of the block is zero: tiles, Pantry, Cellar, control and Vault SRAM. -/
def zeroStores (b : Blk) : Blk :=
  { b with
    mem := tabKeep outsideStores b.mem
    bad := b.bad.filter outsideStores
    regs := [], accKey := [], latches := []
    bus := { b.bus with
      cellar := [], flight := b.bus.flight.map (fun f => { f with discard := true })
      ports := b.bus.ports.map (fun e => (e.1, { e.2 with cur := e.2.cur.map (fun g => { g with old := 0 }) })) }
    gal := { b.gal with remote := [], remoteRegs := [], remoteBad := [], bulk := [] } }

/-- The firmware went with the control SRAM: the cores are held in reset. -/
def dropFirmware (b : Blk) : Blk :=
  let b := (List.range 4).foldl (fun b c => resetMaster (.cc c) b) b
  { b with vlt := { b.vlt with fwState := 0, fwReason := 0, coreState := 0, decodeHeld := false } }

/-- Every command in flight ends, those of the Vault queue too. -/
def endAllCommands (b : Blk) : Blk :=
  let b := (List.range 6).foldl (fun b p => endCommands p true b) b
  { b with cmds := [] }

/-- TRAPDOOR_EN set: no tenant is left enabled and every store is zero, and only then the paths open. -/
def openTrapdoor (b : Blk) : Blk :=
  if b.vlt.trapEn then b
  else
    let b := zeroStores (dropFirmware (disableAll (endAllCommands b)))
    { b with vlt := { b.vlt with trapEn := true, trapOpen := true } }

/-- TRAPDOOR_EN clear: the paths close. -/
def closeTrapdoor (b : Blk) : Blk :=
  let b := resetMaster .trapdoor b
  { b with vlt := { b.vlt with trapEn := false, trapOpen := false } }

/-- TRAPDOOR_EN. -/
def writeTrapdoorEn (r : DictReq) (b : Blk) : Blk :=
  serveWrite (isEntry 0x8000 1) r (fun b => inRange b r) (if reqValue r = 1 then openTrapdoor else closeTrapdoor) b

/-- TRAPDOOR_EN (R304). -/
def execTrapdoorEn (r : DictReq) (s : State) : Host.Outcome State Fault Refusal := onBlk (writeTrapdoorEn r) s

end Sys2Proof.Machine
end

