-- ==== Sys2Proof/Machine/Time.lean ====
section
/-! DEFINITION. Time: what one Lantern tick of 40 ns does (log entry 3), and the commands that name a span of time: timeouts,
patience, the watchdog, FLAG_DEADLOCK, throttling, wakes, the presence window (R156, R158, R199, R221, R281, R301, R302, R333,
R336). -/
namespace Sys2Proof.Machine

/-! ### One tick -/

/-- Tile cycles of R158's condition that declare FLAG_DEADLOCK. -/
def deadLimit : Nat := 4096

/-- `n` tile cycles of R158's condition for a port: counted while it holds without a break, and declared when the count is
full. -/
def countDead (n : Nat) (b : Blk) (p : Nat) : Blk :=
  let count := if deadlocked b p then tabGet 0 b.deadTc p + n else 0
  if deadLimit ≤ count then declareDeadlock p (count - deadLimit) { b with deadTc := tabDel p b.deadTc }
  else { b with deadTc := tabPut 0 b.deadTc p count }

/-- A tick of R158's condition, for every tenant. -/
def tickDeadlock (b : Blk) : Blk := tenantPorts.foldl (countDead (tcPerTick b)) b

/-- Some queue holds work that R140 keeps from decoding. -/
def roomHeld (b : Blk) : Bool :=
  b.qs.any (fun e => e.2.enable && e.2.state == .running && holdsWork e.2 && !roomFor b (if e.1 < 20 then e.1 / 4 else 5) (e.1 % 4))

/-- A tenant queue could decode but for the decode hold (R327, R333). -/
def powerHeld (b : Blk) : Bool :=
  inHold b && tenantPorts.any (fun p => (List.range 4).any (fun q => canServe b p q))

/-- DECODE_HOLD_TC and POWER_HOLD_TC (Table DIC-11). -/
def tickCounters (b : Blk) : Blk :=
  let n := tcPerTick b
  let b := if roomHeld b then countAdd (cntKey 0x6000 4 0) n b else b
  if powerHeld b then countAdd (cntKey 0x6000 5 0) n b else b

/-- A link port's tick: what it has accepted is acknowledged within 100 ns, and lanes with nothing to send carry IDLE flits
(R230, R234). -/
def tickPort (k : Nat) (b : Blk) : Blk :=
  let b := if inService b k ∧ 0 < (portOf b k).unacked then transmit k 4 b else b
  updPort k fillIdle b

/-- The link ports' tick. -/
def tickPorts (b : Blk) : Blk := (b.link.map (·.1)).foldl (fun b k => tickPort k b) b

/-- What the Vault waits to do once tiles are quiet. -/
def tickVault (b : Blk) : Blk :=
  if b.vlt.alive then
    applyLeave (applyRetire (applyTurns (applyReform (applyBind (applyCommit { b with vlt := { b.vlt with quieting := [] } })))))
  else b

/-- One tick of a block that runs: the clocks, arrivals in the matrix, expiries, declarations, and the Vault's waiting work
(R274). -/
def tickOnce (b : Blk) : Blk :=
  let b := elapse 1 b
  tickVault (tickDeadlock (expireWaits (tickCounters (tickPorts (runMatrix b.clk.mc 80 b)))))

/-- The Vault has nothing waiting. -/
def vaultIdle (b : Blk) : Bool :=
  b.vlt.applying.isEmpty && b.vlt.binding.isNone && b.gal.regrow.isNone && b.vlt.turning.isEmpty && b.vlt.retiring.isEmpty
  && b.vlt.leaving.isEmpty && b.vlt.quieting.isEmpty

/-- Nothing but the clocks and the token buckets would change in a tick. -/
def atRest (b : Blk) : Bool :=
  matrixIdle b && vaultIdle b && b.deadTc.isEmpty && tenantPorts.all (fun p => !deadlocked b p)
  && b.cmds.all (fun c => c.st != .flagWait || (deadlineOf c).isNone) && !roomHeld b
  && (b.pwr.hold == 0 || tenantPorts.all (fun p => (List.range 4).all (fun q => !canServe b p q)))
  && b.link.all (fun e => e.2.unacked == 0 && fillIdle e.2 == e.2)

/-- Lets `n` ticks pass, one at a time until the block is at rest. -/
def passTicks : Nat → Blk → Blk
  | 0, b => b
  | n + 1, b => if atRest b then fillBuckets (80 * (n + 1)) (elapse (n + 1) b) else passTicks n (tickOnce b)

/-- Lets `n` ticks of 40 ns pass: the Lantern alone runs while the block is in reset, and nothing runs without its rail. -/
def pass (n : Nat) (b : Blk) : Blk :=
  if !b.pwr.standby then b else if b.pwr.inReset then elapse n b else passTicks n b

/-- Lets time pass until the tick counter has reached a deadline. -/
def passTo (t : Nat) (b : Blk) : Blk := pass (t - b.clk.tick) b

/-- Lets `n` tile cycles pass, up to the end of the tick in which the last of them falls (log entry 4). -/
def passTc (n : Nat) (b : Blk) : Blk := pass (ceilDiv n (tcPerTick b)) b

/-- What one step does while no command waits (log entry 3). -/
def idleTick (b : Blk) : Blk := pass 1 b

/-! ### Waits (R156, R158) -/

/-- FLAG_WAIT_TIMEOUT: the wait's limit comes. A wait that ends before it is left alone. -/
def flagWaitTimeout (id : Nat) (b : Blk) : Blk :=
  match cmdOf b id with
  | some c =>
    match c.st, deadlineOf c with
    | .flagWait, some t =>
      let b := passTc (t - b.clk.tc) b
      match cmdOf b id with
      | some c => if c.st = .flagWait then expireWait c b else b
      | none => b
    | _, _ => b
  | none => b

/-- FLAG_WAIT_TIMEOUT (R156). -/
def execFlagWaitTimeout (id : Nat) (s : State) : Host.Outcome State Fault Refusal := onBlk (flagWaitTimeout id) s

/-- FLAG_DEADLOCK: the rest of the 4,096 tc of R158's condition pass, and the declaration comes with the last of them unless a
wait's limit ends the condition first. -/
def flagDeadlock (p : Nat) (b : Blk) : Blk :=
  if p < 5 ∧ deadlocked b p then passTc (deadLimit - tabGet 0 b.deadTc p) b else b

/-- FLAG_DEADLOCK (R158). -/
def execFlagDeadlock (p : Nat) (s : State) : Host.Outcome State Fault Refusal := onBlk (flagDeadlock p) s

/-! ### Streams and engines (R199, R221) -/

/-- MULTICAST_DETACH: a multicast stays stalled for PATIENCE tc, and its slowest receivers are detached in the next (R197 to
R200). -/
def multicastDetach (n : Nat) (positions : List (Nat × Nat)) (b : Blk) : Blk :=
  if stalledAt n (streamOf b n) positions then
    let b := passTc (b.dict.patience.toNat + 1) b
    if stalledAt n (streamOf b n) positions then onStream n (detachSlow n positions) b else b
  else b

/-- MULTICAST_DETACH (R199). -/
def execMulticastDetach (n : Nat) (positions : List (Nat × Nat)) (s : State) : Host.Outcome State Fault Refusal :=
  onBlk (multicastDetach n positions) s

/-- A fetch engine's requests in the matrix: those that wait at a port, those held back, and those in flight. -/
def engineTraffic (b : Blk) (n : Nat) : List BusReq × List BusReq × List Flight :=
  ((b.bus.ports.flatMap (fun e => (e.2.waiting.map (·.1)) ++ (e.2.cur.map (·.req)).toList)).filter (fun r => r.master == .fe n),
   (b.bus.held.map (·.1)).filter (fun r => r.master == .fe n), b.bus.flight.filter (fun f => f.req.master == .fe n))

/-- Work waits for a fetch engine: a command of its quad that uses the matrix, or a request of its own. -/
def engineWaits (b : Blk) (n : Nat) : Bool :=
  b.cmds.any (fun c => usesMatrix c && ofQuad b n c) || !(engineTraffic b n).1.isEmpty || !(engineTraffic b n).2.1.isEmpty
  || !(engineTraffic b n).2.2.isEmpty

/-- FE_WATCHDOG: work waits for a fetch engine, which issues and retires nothing for 1 ms; the Vault resets it (R221, R224). -/
def feWatchdog (n : Nat) (b : Blk) : Blk :=
  if !b.vlt.alive ∨ b.pwr.inReset ∨ !masterPresent b (.fe n) ∨ !engineWaits b n then b
  else
    let late := pass oneMs b
    if engineTraffic late n = engineTraffic b n ∧ engineWaits late n = true then masterReset (.fe n) late else late

/-- FE_WATCHDOG (R221). -/
def execFeWatchdog (n : Nat) (s : State) : Host.Outcome State Fault Refusal := onBlk (feWatchdog n) s

/-! ### Throttling (R332, R333) -/

/-- Ticks in 100 µs. -/
def capInterval : Nat := 2500

/-- One comparison of POWER_NOW with POWER_CAP (R333). -/
def capStep (now : Nat) (x : Pwr) : Pwr :=
  let cap := x.cap.toNat
  if cap = 0 then x
  else if cap < now then
    if x.clockFloor.toNat < x.clockNow.toNat then { x with clockNow := x.clockNow - 25 } else { x with hold := min 90 (x.hold + 10) }
  else if 20 * now ≤ 19 * cap then
    if x.hold ≠ 0 then { x with hold := x.hold - 10 }
    else if x.clockNow.toNat < 1600 then { x with clockNow := x.clockNow + 25 } else x
  else x

/-- POWER_CAP_CHECK: the Lantern's comparison at the next multiple of 100 µs. -/
def powerCapCheck (now : BitVec 16) (b : Blk) : Blk :=
  if !b.pwr.standby then b
  else updPwr (fun x => capStep now.toNat { x with powerNow := now }) (passTo ((b.clk.tick / capInterval + 1) * capInterval) b)

/-- POWER_CAP_CHECK (R333). -/
def execPowerCapCheck (powerNow : BitVec 16) (s : State) : Host.Outcome State Fault Refusal := onBlk (powerCapCheck powerNow) s

/-! ### Wakes (R336, Table PWR-2) -/

/-- A quad reaches RUN, 2 µs after RETAIN, or 12 µs after OFF with its zeroise. -/
def quadWake (n : Nat) (b : Blk) : Blk :=
  let v := tabGet 2 b.pwr.quads n
  if 17 ≤ n ∨ v = 2 then b
  else updPwr (fun x => { x with quads := tabPut 2 x.quads n 2 }) (pass (if v = 1 then 50 else 300) b)

/-- A quadrant reaches RUN 1 µs after RETAIN. -/
def quadrantWake (n : Nat) (b : Blk) : Blk :=
  if 4 ≤ n ∨ tabGet 2 b.pwr.quadrants n = 2 then b
  else updPwr (fun x => { x with quadrants := tabPut 2 x.quadrants n 2 }) (pass 25 b)

/-- UNIT_WAKE: work wakes a unit, and the unit reaches RUN (R336, Table PWR-2). -/
def unitWake (u : PowerUnit) (b : Blk) : Blk :=
  if b.pwr.inReset then b
  else match u with
    | .quad n => quadWake n b
    | .quadrant n => quadrantWake n b
    | .port k => linkWake k b

/-- UNIT_WAKE (R336). -/
def execUnitWake (u : PowerUnit) (s : State) : Host.Outcome State Fault Refusal := onBlk (unitWake u) s

/-! ### Presence (R301, R302) -/

/-- PRESENCE_WINDOW_OPEN: the 1,250,000th low sample in a row (R301). -/
def openWindow (b : Blk) : Blk :=
  if !b.pwr.standby ∨ b.pres.stuck then b
  else
    let b := pass holdTicks b
    raiseWake { b with pres := { b.pres with opened := some b.clk.tick, length := b.pres.window.toNat, low := true } }

/-- PRESENCE_WINDOW_OPEN (R301). -/
def execPresenceWindowOpen (s : State) : Host.Outcome State Fault Refusal := onBlk openWindow s

/-- WINDOW_EXPIRY: WINDOW seconds have passed from the opening (R301). -/
def expireWindow (b : Blk) : Blk :=
  match windowEnd b with
  | some t => let b := passTo (t + 1) b; { b with pres := { b.pres with opened := none } }
  | none => b

/-- WINDOW_EXPIRY (R301). -/
def execWindowExpiry (s : State) : Host.Outcome State Fault Refusal := onBlk expireWindow s

/-- STUCK: PRESENCE_N has been low for 30 s in succession (R302). -/
def becomeStuck (b : Blk) : Blk :=
  if !b.pwr.standby ∨ b.pres.stuck then b
  else
    let b := match b.pres.opened with
      | some t => passTo (t + 30 * tickRate - holdTicks) b
      | none => b
    { b with pres := { b.pres with opened := none, stuck := true, low := true } }

/-- STUCK (R302). -/
def execStuck (s : State) : Host.Outcome State Fault Refusal := onBlk becomeStuck s

/-- STUCK_CLEAR: PRESENCE_N has been high for 50 ms in succession (R302). -/
def clearStuck (b : Blk) : Blk :=
  if b.pres.stuck then (let b := pass holdTicks b; { b with pres := { b.pres with stuck := false, low := false } }) else b

/-- STUCK_CLEAR (R302). -/
def execStuckClear (s : State) : Host.Outcome State Fault Refusal := onBlk clearStuck s

/-! ### The Sump's interval -/

/-- SUMP_INTERVAL: the next boundary of 25,000 ticks, at which every port's count restarts (R281). -/
def sumpInterval (b : Blk) : Blk := if b.pwr.standby then passTo ((b.clk.tick / 25000 + 1) * 25000) b else b

/-- SUMP_INTERVAL (R281). -/
def execSumpInterval (s : State) : Host.Outcome State Fault Refusal := onBlk sumpInterval s

end Sys2Proof.Machine
end

