-- ==== Sys2Proof/Machine/Dispatch.lean ====
section
/-! DEFINITION. One arm per command: the meaning it calls. -/
namespace Sys2Proof.Machine

/-- The meaning of each command (spec/opcode_table.json). -/
def exec (i : Instr) (s : State) : Host.Outcome State Fault Refusal :=
  match i with
  | .nop p q d => Sys2Proof.Machine.execNop p q d s
  | .release p q d => Sys2Proof.Machine.execRelease p q d s
  | .releaseApply id => Sys2Proof.Machine.execReleaseApply id s
  | .setEpoch p q d => Sys2Proof.Machine.execSetEpoch p q d s
  | .fence p q d => Sys2Proof.Machine.execFence p q d s
  | .fenceEnd id => Sys2Proof.Machine.execFenceEnd id s
  | .flagSet p q d => Sys2Proof.Machine.execFlagSet p q d s
  | .flagSetApply id => Sys2Proof.Machine.execFlagSetApply id s
  | .flagWait p q d => Sys2Proof.Machine.execFlagWait p q d s
  | .flagWaitTimeout id => Sys2Proof.Machine.execFlagWaitTimeout id s
  | .flagDeadlock p => Sys2Proof.Machine.execFlagDeadlock p s
  | .resume p q d => Sys2Proof.Machine.execResume p q d s
  | .discard p q d => Sys2Proof.Machine.execDiscard p q d s
  | .debugBreak p q d => Sys2Proof.Machine.execDebugBreak p q d s
  | .modtabLoad p q d => Sys2Proof.Machine.execModtabLoad p q d s
  | .modtabTakeEffect id => Sys2Proof.Machine.execModtabTakeEffect id s
  | .permGen p q d => Sys2Proof.Machine.execPermGen p q d s
  | .permIdx p q d => Sys2Proof.Machine.execPermIdx p q d s
  | .transpose p q d => Sys2Proof.Machine.execTranspose p q d s
  | .bitrev p q d => Sys2Proof.Machine.execBitrev p q d s
  | .layout p q d => Sys2Proof.Machine.execLayout p q d s
  | .rotacc p q d => Sys2Proof.Machine.execRotacc p q d s
  | .accDrain p q d => Sys2Proof.Machine.execAccDrain p q d s
  | .accClear p q d => Sys2Proof.Machine.execAccClear p q d s
  | .gatherBlk p q d => Sys2Proof.Machine.execGatherBlk p q d s
  | .scatterBlk p q d => Sys2Proof.Machine.execScatterBlk p q d s
  | .move p q d => Sys2Proof.Machine.execMove p q d s
  | .grid p q d => Sys2Proof.Machine.execGrid p q d s
  | .loadRows p q d => Sys2Proof.Machine.execLoadRows p q d s
  | .storeRows p q d => Sys2Proof.Machine.execStoreRows p q d s
  | .rowCommit id row parity => Sys2Proof.Machine.execRowCommit id row parity s
  | .rowHalt id => Sys2Proof.Machine.execRowHalt id s
  | .rowDenied id => Sys2Proof.Machine.execRowDenied id s
  | .commitUnit id ev => Sys2Proof.Machine.execCommitUnit id ev s
  | .streamArm p q d => Sys2Proof.Machine.execStreamArm p q d s
  | .streamGrant p => Sys2Proof.Machine.execStreamGrant p s
  | .streamRearm p q d => Sys2Proof.Machine.execStreamRearm p q d s
  | .rearmBoundary n => Sys2Proof.Machine.execRearmBoundary n s
  | .segmentStart n => Sys2Proof.Machine.execSegmentStart n s
  | .segmentDone n => Sys2Proof.Machine.execSegmentDone n s
  | .runEnd n => Sys2Proof.Machine.execRunEnd n s
  | .streamHalt n pos => Sys2Proof.Machine.execStreamHalt n pos s
  | .streamDisarm n => Sys2Proof.Machine.execStreamDisarm n s
  | .handleReturn h => Sys2Proof.Machine.execHandleReturn h s
  | .multicastDetach n positions => Sys2Proof.Machine.execMulticastDetach n positions s
  | .handlePush p q d => Sys2Proof.Machine.execHandlePush p q d s
  | .handlePushRoom id => Sys2Proof.Machine.execHandlePushRoom id s
  | .handlePop p q d => Sys2Proof.Machine.execHandlePop p q d s
  | .handlePopArrival id => Sys2Proof.Machine.execHandlePopArrival id s
  | .sqTail p q v => Sys2Proof.Machine.execSqTail p q v s
  | .cqHead p q v => Sys2Proof.Machine.execCqHead p q v s
  | .enable p q config => Sys2Proof.Machine.execEnable p q config s
  | .disable p q config => Sys2Proof.Machine.execDisable p q config s
  | .start p q control => Sys2Proof.Machine.execStart p q control s
  | .stop p q control => Sys2Proof.Machine.execStop p q control s
  | .tenantRegisterWrite p off v => Sys2Proof.Machine.execTenantRegisterWrite p off v s
  | .haltResume m p q v => Sys2Proof.Machine.execHaltResume m p q v s
  | .haltDiscard m p q v => Sys2Proof.Machine.execHaltDiscard m p q v s
  | .wbase m core v => Sys2Proof.Machine.execWbase m core v s
  | .fragmentViewAccess m write addr data => Sys2Proof.Machine.execFragmentViewAccess m write addr data s
  | .busRequest r => Sys2Proof.Machine.execBusRequest r s
  | .memoryResponse m tag line status data => Sys2Proof.Machine.execMemoryResponse m tag line status data s
  | .lineInvalidate m line data => Sys2Proof.Machine.execLineInvalidate m line data s
  | .masterReset m => Sys2Proof.Machine.execMasterReset m s
  | .feWatchdog n => Sys2Proof.Machine.execFeWatchdog n s
  | .forwardedDescriptor die p homeCmd d => Sys2Proof.Machine.execForwardedDescriptor die p homeCmd d s
  | .report r => Sys2Proof.Machine.execReport r s
  | .galleryCommit die c => Sys2Proof.Machine.execGalleryCommit die c s
  | .commitAcknowledgement c die => Sys2Proof.Machine.execCommitAcknowledgement c die s
  | .flagSetMessage p m => Sys2Proof.Machine.execFlagSetMessage p m s
  | .linkRead k h => Sys2Proof.Machine.execLinkRead k h s
  | .linkWrite k h data mark => Sys2Proof.Machine.execLinkWrite k h data mark s
  | .readData k h ok data mark => Sys2Proof.Machine.execReadData k h ok data mark s
  | .writeResponse k h ok => Sys2Proof.Machine.execWriteResponse k h ok s
  | .dataFlit k f runs => Sys2Proof.Machine.execDataFlit k f runs s
  | .ctrlFlit k f b => Sys2Proof.Machine.execCtrlFlit k f b s
  | .nak k f b => Sys2Proof.Machine.execNak k f b s
  | .replayTimer k => Sys2Proof.Machine.execReplayTimer k s
  | .ident k lanes ib => Sys2Proof.Machine.execIdent k lanes ib s
  | .handover k failed lastSeq => Sys2Proof.Machine.execHandover k failed lastSeq s
  | .loss k lostMask die => Sys2Proof.Machine.execLoss k lostMask die s
  | .standby k => Sys2Proof.Machine.execStandby k s
  | .linkWake k => Sys2Proof.Machine.execLinkWake k s
  | .laneTraining k lane rx => Sys2Proof.Machine.execLaneTraining k lane rx s
  | .trainingTimeout k lane => Sys2Proof.Machine.execTrainingTimeout k lane s
  | .laneRetrain k lane failures => Sys2Proof.Machine.execLaneRetrain k lane failures s
  | .portSilence k => Sys2Proof.Machine.execPortSilence k s
  | .discovery ps => Sys2Proof.Machine.execDiscovery ps s
  | .linkPwrGood k => Sys2Proof.Machine.execLinkPwrGood k s
  | .tileRetire t unreadable => Sys2Proof.Machine.execTileRetire t unreadable s
  | .spareScrub bad => Sys2Proof.Machine.execSpareScrub bad s
  | .timeSlice p => Sys2Proof.Machine.execTimeSlice p s
  | .controlSramParity addr readOk => Sys2Proof.Machine.execControlSramParity addr readOk s
  | .vaultSramParity addr => Sys2Proof.Machine.execVaultSramParity addr s
  | .powerCapCheck powerNow => Sys2Proof.Machine.execPowerCapCheck powerNow s
  | .idleDelay u => Sys2Proof.Machine.execIdleDelay u s
  | .unitWake u => Sys2Proof.Machine.execUnitWake u s
  | .coldReset bad => Sys2Proof.Machine.execColdReset bad s
  | .blockReset => Sys2Proof.Machine.execBlockReset s
  | .blockStart => Sys2Proof.Machine.execBlockStart s
  | .tenantReset p => Sys2Proof.Machine.execTenantReset p s
  | .powerLoss => Sys2Proof.Machine.execPowerLoss s
  | .presenceWindowOpen => Sys2Proof.Machine.execPresenceWindowOpen s
  | .windowExpiry => Sys2Proof.Machine.execWindowExpiry s
  | .stuck => Sys2Proof.Machine.execStuck s
  | .sumpInterval => Sys2Proof.Machine.execSumpInterval s
  | .tapInstruction ib => Sys2Proof.Machine.execTapInstruction ib s
  | .read r => Sys2Proof.Machine.execRead r s
  | .write r => Sys2Proof.Machine.execWrite r s
  | .describe r => Sys2Proof.Machine.execDescribe r s
  | .next r => Sys2Proof.Machine.execNext r s
  | .commit r => Sys2Proof.Machine.execCommit r s
  | .stagedRecord r => Sys2Proof.Machine.execStagedRecord r s
  | .fwLoad r readOk => Sys2Proof.Machine.execFwLoad r readOk s
  | .fuseProgram r supplyOkPulses => Sys2Proof.Machine.execFuseProgram r supplyOkPulses s
  | .reform r ps => Sys2Proof.Machine.execReform r ps s
  | .portRetrain r => Sys2Proof.Machine.execPortRetrain r s
  | .tileBind r unreadable => Sys2Proof.Machine.execTileBind r unreadable s
  | .tileReturn r good => Sys2Proof.Machine.execTileReturn r good s
  | .trapdoorEn r => Sys2Proof.Machine.execTrapdoorEn r s
  | .clear r => Sys2Proof.Machine.execClear r s
  | .close r => Sys2Proof.Machine.execClose r s
  | .alertCause r raised => Sys2Proof.Machine.execAlertCause r raised s
  | .select r => Sys2Proof.Machine.execSelect r s
  | .powerCap r => Sys2Proof.Machine.execPowerCap r s
  | .clockFloor r => Sys2Proof.Machine.execClockFloor r s
  | .bootswap r => Sys2Proof.Machine.execBootswap r s
  | .holdMode r => Sys2Proof.Machine.execHoldMode r s
  | .localDictionaryRequest m slot op r => Sys2Proof.Machine.execLocalDictionaryRequest m slot op r s
  | .schedulerInterrupt id => Sys2Proof.Machine.execSchedulerInterrupt id s
  | .clockAbsent mask => Sys2Proof.Machine.execClockAbsent mask s
  | .idleFlit k f => Sys2Proof.Machine.execIdleFlit k f s
  | .badRequest body => Sys2Proof.Machine.execBadRequest body s
  | .stuckClear => Sys2Proof.Machine.execStuckClear s

end Sys2Proof.Machine
end

