-- ==== Sys2Proof/Safety.lean ====
section
/-! DEFINITION. What statements about the block are said in: when a descriptor is accepted and what its decode takes,
what a completion leaves, the invariants of a run, and what no command takes back. -/
namespace Sys2Proof.Machine

/-! ### Decoding -/

/-- The row of the command table that the decode of a descriptor with an opcode is (Table CMD-6): NOP, RELEASE and
SET_EPOCH share an opcode, as do RESUME and DISCARD, and MOVE and GRID. -/
def rowOf (op : Op) (p q : Nat) (d : Desc) : Instr :=
  match op with
  | .nop => if oxRelease d ≠ 0 then .release p q d else if flagOpf0 d then .setEpoch p q d else .nop p q d
  | .fence => .fence p q d
  | .flagSet => .flagSet p q d
  | .flagWait => .flagWait p q d
  | .resume => if flagOpf0 d then .discard p q d else .resume p q d
  | .debugBreak => .debugBreak p q d
  | .modtabLoad => .modtabLoad p q d
  | .permGen => .permGen p q d
  | .permIdx => .permIdx p q d
  | .transpose => .transpose p q d
  | .bitrev => .bitrev p q d
  | .layout => .layout p q d
  | .rotacc => .rotacc p q d
  | .accDrain => .accDrain p q d
  | .accClear => .accClear p q d
  | .gather => .gatherBlk p q d
  | .scatter => .scatterBlk p q d
  | .move => if flagOpf0 d then .grid p q d else .move p q d
  | .loadRows => .loadRows p q d
  | .storeRows => .storeRows p q d
  | .streamArm => .streamArm p q d
  | .streamRearm => .streamRearm p q d
  | .handlePush => .handlePush p q d
  | .handlePop => .handlePop p q d

/-- Every command in flight has a number below the next one. -/
def numbered (b : Blk) : Prop := ∀ c ∈ b.cmds, c.id < b.nextId

/-- What one decode changes in its queue's registers: SQ_HEAD and COUNT, and with BARRIER the wait on the command
(R139, R152). -/
def takenQueue (d : Desc) (id : Nat) (r : Queue) : Queue :=
  let r := { r with sqHead := r.sqHead + 1, count := r.count + 1, brkSkip := false }
  if flagBarrier d && opOf d != some .resume then
    { r with blockedBy := some id, state := if r.state = .running then .blocked else r.state }
  else r

/-- The block after a descriptor's decode, with its command in flight as `c`. -/
def decoded (b : Blk) (p q : Nat) (d : Desc) (c : Cmd) : Blk :=
  { b with
    qs := tabUpd {} b.qs (qKey p q) (takenQueue d b.nextId)
    served := tabPut 3 b.served p q
    nextId := b.nextId + 1
    cmds := b.cmds ++ [c] }

/-- Queue `q` of port `p` decodes the descriptor next: it can decode, the ring slot is read, and no break matches. -/
def servesNext (b : Blk) (p q : Nat) (d : Desc) : Prop :=
  let a := slotAddr (queueOf b p q) (queueOf b p q).sqHead
  canDecode b p q d = true ∧ breakHits (queueOf b p q) d = false ∧ numbered b
  ∧ xstat (ofCtx p b) a = .ok ∧ badHere (ofCtx p b) a = false

/-- The queue decodes the descriptor next, and its opcode is `op`. -/
def takesNext (b : Blk) (p q : Nat) (d : Desc) (op : Op) : Prop := opOf d = some op ∧ servesNext b p q d

/-- The decode stage finds no error in the descriptor (R143 to R147, R269). -/
def passesDecode (b : Blk) (p q : Nat) (d : Desc) (op : Op) : Prop :=
  let b1 := decoded b p q d (freshCmd b p q d)
  decodeErrs (ofCtx p b1) p q op d = [] ∧ tableErrs b1 p op d = [] ∧ (isModular op d && loadAhead b1 (freshCmd b p q d)) = false

/-- What the fetch check of a descriptor just decoded finds (R270). -/
def fetchFound (b : Blk) (p q : Nat) (d : Desc) (op : Op) : FetchOut :=
  fetchCheck (ofCtx p (decoded b p q d (freshCmd b p q d))) p op d [] none

/-- The descriptor is decoded next and passes its decode and its fetch check on one die. -/
def accepts (b : Blk) (p q : Nat) (d : Desc) (op : Op) : Prop :=
  takesNext b p q d op ∧ passesDecode b p q d op ∧ spansGallery (freshCmd b p q d) = false
  ∧ firstIn fetchOrder (fetchFound b p q d op).errs = none

/-- The command of an accepted descriptor, with the list entries the fetch engine read. -/
def acceptedCmd (b : Blk) (p q : Nat) (d : Desc) (op : Op) : Cmd :=
  let f := fetchFound b p q d op
  { freshCmd b p q d with entries := f.entries, blocks := f.blocks, header := f.header, fetched := true }

/-- The block once an accepted descriptor's command is in flight: its slot is taken, and the lines of its lists and sources
are on their way (R167). -/
def entered (b : Blk) (p q : Nat) (d : Desc) (op : Op) : Blk :=
  fetchAhead (acceptedCmd b p q d op) (decoded b p q d (acceptedCmd b p q d op))

/-- The same, with the command in a state of its own. -/
def entersAs (st : CmdState) (b : Blk) (p q : Nat) (d : Desc) (op : Op) : Blk :=
  updCmd b.nextId (fun x => { x with st := st }) (entered b p q d op)

/-- The opcodes of the permutation catalogue (chapter 02). -/
def catalogueOps : List Op :=
  [.permGen, .permIdx, .transpose, .bitrev, .layout, .rotacc, .accDrain, .accClear, .gather, .scatter, .move]

/-! ### Completing -/

/-- The command is in flight, and its record is not waiting to be written. -/
def isFlying (c : Cmd) (b : Blk) : Prop :=
  c.home = none ∧ c.st ≠ .record ∧ ∃ y, cmdOf b c.id = some y ∧ y.port = c.port ∧ y.queue = c.queue ∧ y.desc = c.desc

/-- The command is in flight, its queue has a ring, no record waits for START, and the ring slot is written (R135, R137). -/
def canComplete (c : Cmd) (b : Blk) : Prop :=
  isFlying c b ∧ (queueOf b c.port c.queue).logEntries ≠ 0 ∧ (queueOf b c.port c.queue).cplWait = []
  ∧ xstat (ofCtx c.port b) (cplAddr (queueOf b c.port c.queue) (queueOf b c.port c.queue).cqTail) = .ok

/-- The record of a completion: residues are written for OK and TALLY_MISMATCH only (R148). -/
def completion (c : Cmd) (code : Code) (r0 r1 : Nat) (b : Blk) : Cpl :=
  { tag := c.desc.tag, code := code, cycles := cyclesOf c b, cmd := some c.id
    res0 := if code = .ok ∨ code = .tallyMismatch then r0 else 0
    res1 := if code = .ok ∨ code = .tallyMismatch then r1 else 0 }

/-- Another command of the queue is in flight beside `c`. -/
def othersLeft (c : Cmd) (b : Blk) : Bool := (inFlight b c.port c.queue).any (fun x => x.id != c.id)

/-- A command's queue once the command has completed: CQ_TAIL counts the record, and the queue settles. -/
def completedQueue (c : Cmd) (code : Code) (b : Blk) (r : Queue) : Queue :=
  settleQueue c code (othersLeft c b) { r with cqTail := r.cqTail + 1 }

/-- The block after a command has completed: one record at CQ_TAIL, the counters, the queue, and the interrupts
(R148, R149, R283). -/
def completed (c : Cmd) (code : Code) (r0 r1 : Nat) (b : Blk) : Blk :=
  let r := queueOf b c.port c.queue
  let x := { inCtx c.port (writeBytes (cplAddr r r.cqTail) (cplBytes r c.queue r.cqTail (completion c code r0 r1 b))) b with
    cnt := (countCode c.port code b).cnt
    qs := tabUpd {} b.qs (qKey c.port c.queue) (completedQueue c code b)
    cmds := b.cmds.filter (fun y => y.id ≠ c.id) }
  let x := if r.cqTail = r.cqHead then tenantInt c.port x else x
  if r.state ≠ .stopped ∧ (completedQueue c code b r).state = .stopped then tenantInt c.port x else x

/-- The command in flight that a follow-up names, in the state it waits in. -/
def waitsAs (st : CmdState) (b : Blk) (id : Nat) (c : Cmd) : Prop := cmdOf b id = some c ∧ c.st = st

/-- No command is held at its table check. -/
def noneHeld (b : Blk) : Prop := ∀ c ∈ b.cmds, c.st ≠ .table

/-- A halted command that was past its fetch check, put back to work; a row command counts the rows it issues anew, and
keeps NEXT (R112, R116, R148). -/
def resumed (b : Blk) (h : Cmd) (st : CmdState) : Cmd :=
  { h with t0 := b.clk.tc, faultAddr := none, denied := false, interrupt := 0, st := st
           issued := if st = .rows then 0 else h.issued, back := if st = .rows then 0 else h.back }

/-! ### Halting, and running units -/

/-- A record written at CQ_TAIL of a queue, and the interrupt on a ring that was empty (R148, R149, R283). -/
def posted (p q : Nat) (r : Cpl) (b : Blk) : Blk :=
  let k := queueOf b p q
  let x := { inCtx p (writeBytes (cplAddr k k.cqTail) (cplBytes k q k.cqTail r)) b with
    qs := tabUpd {} b.qs (qKey p q) (fun x => { x with cqTail := x.cqTail + 1 }) }
  if k.cqTail = k.cqHead then tenantInt p x else x

/-- The restart record a halt leaves (Table TRG-3): `kind` 0 for a row command, which has a row mask and a place, and 1
for a command with commit units, which has the residues of the committed units. -/
def haltRecord (c : Cmd) (cause kind : Nat) (place : BitVec 16) : Restart :=
  { cmd := c.id, opcode := c.desc.opcode, tag := c.desc.tag, port := c.port, queue := c.queue, cause := cause, kind := kind
    count := c.count, next := c.unit, faultAddr := if cause = 1 then c.faultAddr.getD 0 else 0
    rowMask := if kind = 0 then c.rowMask else 0, place := if kind = 0 then place else 0
    res0 := if kind = 0 then 0 else c.res0, res1 := if kind = 0 then 0 else c.res1 }

/-- A queue with its command halted. -/
def haltedQueue (rr : Restart) (r : Queue) : Queue :=
  { r with
    restart := some rr, state := .halted, cause := rr.cause
    pendingStop := if r.state = .stopped then some r.cause else r.pendingStop }

/-- The block after a command has halted: the restart record and its copy, the queue HALTED, a CMD_HALT record, the
tenant's interrupt, and for CAUSE 1 an interim completion record FAULT_RESUMABLE (R112, R114, R115). -/
def haltsAs (c : Cmd) (cause kind : Nat) (place : BitVec 16) (b : Blk) : Blk :=
  let rr := haltRecord c cause kind place
  let r := queueOf b c.port c.queue
  let x := { inCtx c.port (writeBytes r.restartArea.toNat (restartBytes rr)) b with
    qs := tabUpd {} b.qs (qKey c.port c.queue) (haltedQueue rr)
    cmds := b.cmds.map (fun y => if y.id = c.id then { y with st := .halted, interrupt := 0 } else y) }
  let y := sumpPut 0x01 (if cause = 1 then some .faultResumable else none) c.port c.queue c.desc.tag.toNat rr.faultAddr
    (rr.next + cause * 2 ^ 32 + c.desc.opcode.toNat * 2 ^ 40) x
  let z := if r.state = .halted then y else tenantInt c.port y
  if cause = 1 then posted c.port c.queue ⟨c.desc.tag, .faultResumable, 0, 0, cyclesOf c b, none⟩ z else z

/-- The queue is enabled, the copy of the restart record can be written, and so can an interim completion record (R114, R115). -/
def canHalt (c : Cmd) (b : Blk) : Prop :=
  let r := queueOf b c.port c.queue
  r.enable = true ∧ (c.port = 5 ∨ regionOf r.restartArea.toNat = some .external)
  ∧ xstat (ofCtx c.port b) r.restartArea.toNat = .ok ∧ r.cplWait = [] ∧ xstat (ofCtx c.port b) (cplAddr r r.cqTail) = .ok

/-- A catalogue command whose checks have passed and whose earlier commands have finished: the passes of its present
unit can end (R71, R78, R111). -/
def passesDue (b : Blk) (id : Nat) (c : Cmd) (op : Op) : Prop :=
  waitsAs .ready b id c ∧ opOf c.desc = some op ∧ c.fetched = true ∧ mustWait b c = false

/-- What the silicon meets when nothing goes wrong. -/
def cleanRun : UnitEvent := ⟨[], []⟩

/-- A row command issuing rows that waits for no earlier command, one of its rows not yet come back (R110, R111). -/
def rowDue (b : Blk) (id row : Nat) (c : Cmd) : Prop :=
  waitsAs .rows b id c ∧ row < rowCount c.desc ∧ bitAt c.rowMask row = false ∧ bitAt c.back row = false ∧ mustWait b c = false

/-! ### What no command takes back -/

/-- Every bit set in one vector is set in the other. -/
def bitsStay {w : Nat} (x y : BitVec w) : Prop := x &&& y = x

/-- Every fuse blown in one fuse array is blown in the other (R306, R307). -/
def fusesStay (x y : Fab) : Prop :=
  (∀ n, let u := tabGet {} x.rows n; let v := tabGet {} y.rows n
        bitsStay u.a v.a ∧ bitsStay u.b v.b ∧ bitsStay u.c v.c)
  ∧ (∀ n, bitsStay (tabGet 0 x.flagFuses n) (tabGet 0 y.flagFuses n))

/-- The latched seal is one that the fuses hold (R305, R306). -/
def sealHeld (b : Blk) : Prop := b.fab.lat.sealed = true → flagBlown b 68 = true

/-- The straps and ties, which nothing changes. -/
def strapsSame (x y : Fab) : Prop := y.dieId = x.dieId ∧ y.iana = x.iana ∧ y.stepping = x.stepping

end Sys2Proof.Machine
end

