-- ==== Sys2Proof/Certificates/Slice0/Obligations.lean ====
section
/-! DEFINITION. The statements about the block, one `def Obligations.<Name> : Prop` each. -/
section
open Sys2Proof Sys2Proof.Machine

/-- A step on a state whose queue holds a command at the front is exec of that command on the state with the rest of
the queue. (opcode_table.json) -/
def Obligations.StepTakesFrontCommand : Prop :=
  ∀ (c : Instr) (rest : List Instr) (b : Blk),
    Sys2Proof.Machine.step { pending := c :: rest, blk := b } = Sys2Proof.Machine.exec c { pending := rest, blk := b }

/-- On an empty queue a step lets one Lantern tick of 40 ns pass (the model's choice, log entry 3): without the
standby rail nothing changes; in block reset only the clocks move; in a block at rest the clocks move and the token
buckets of the streams gain for 80 mc; else the clocks move, the matrix runs for 80 mc, and the ports, the
counters, the waits, the deadlock counts and the Vault's waiting work follow, in that order. (R330, R331) -/
def Obligations.EmptyQueueLetsOneTickPass : Prop :=
  ∀ b : Blk,
    let e := elapse 1 b
    (b.pwr.standby = false → Sys2Proof.Machine.step { pending := [], blk := b } = .next { pending := [], blk := b })
    ∧ (b.pwr.standby = true → b.pwr.inReset = true →
        Sys2Proof.Machine.step { pending := [], blk := b } = .next { pending := [], blk := e })
    ∧ (b.pwr.standby = true → b.pwr.inReset = false → atRest b = true →
        Sys2Proof.Machine.step { pending := [], blk := b } = .next { pending := [], blk := fillBuckets 80 e })
    ∧ (b.pwr.standby = true → b.pwr.inReset = false → atRest b = false →
        Sys2Proof.Machine.step { pending := [], blk := b }
          = .next { pending := [], blk := tickVault (tickDeadlock (expireWaits (tickCounters (tickPorts
              (runMatrix (b.clk.mc + 80) 80 e))))) })

/-- exec answers a next state for every command in every state, and leaves the queue of waiting commands as it was:
nothing stops the block with a fault or a refusal. (opcode_table.json, R268) -/
def Obligations.EveryCommandAnswersANextState : Prop :=
  ∀ (c : Instr) (s : State), ∃ b : Blk, Sys2Proof.Machine.exec c s = .next { s with blk := b }

/-- From every state whose memory is in canonical form (keys strictly rising, no entry equal to what an unlisted
byte reads as), a step gives a state whose memory is too. (R7, R344) -/
def Obligations.MemoryKeepsItsCanonicalForm : Prop :=
  ∀ s t : State, Memory.wf s.blk.mem = true → Sys2Proof.Machine.step s = .next t → Memory.wf t.blk.mem = true

/-- Whatever command runs, every fuse that was blown stays blown in every copy of every value row and flag bit, and
the straps and ties stay as they are. (R306, R307) -/
def Obligations.NoFuseIsEverUnblown : Prop :=
  ∀ s t : State, Sys2Proof.Machine.step s = .next t →
    fusesStay s.blk.fab t.blk.fab ∧ strapsSame s.blk.fab t.blk.fab

/-- From every state in which the latched seal is one the fuses hold, a step gives such a state, and a seal that was
latched stays latched: neither a reset nor a fuse command takes it back. (R305, R306, R307) -/
def Obligations.TheTrapdoorSealStaysLatched : Prop :=
  ∀ s t : State, sealHeld s.blk → Sys2Proof.Machine.step s = .next t →
    sealHeld t.blk ∧ (s.blk.fab.lat.sealed = true → t.blk.fab.lat.sealed = true)

/-- From every state in which each command in flight has a number below the next number to give, a step gives such a
state, so a newly decoded command never shares its number with one in flight. (R139, R140) -/
def Obligations.CommandsStayNumbered : Prop :=
  ∀ s t : State, numbered s.blk → Sys2Proof.Machine.step s = .next t → numbered t.blk

/-- At State.reset memory is in canonical form, no command is in flight, and no seal is latched that the fuses do
not hold; the queue of waiting commands is empty. (R343, R344) -/
def Obligations.ResetMeetsTheInvariants : Prop :=
  Memory.wf State.reset.blk.mem = true ∧ numbered State.reset.blk ∧ sealHeld State.reset.blk ∧ State.reset.pending = []

/-- Right after reset: the capability epoch is 1, every queue is DISABLED, every logical tile is bound to the
physical tile of its number with spares 64 to 67 free, ALERT_MASK is 0x7FF and ALERT_CAUSE 0, WINDOW is 120,
PATIENCE 2048, REPLAY_LIMIT 2, RETIRE_LIMIT 3, PORT_ENABLE 0x3F, the local clock floor 1600 MHz, and every stored
byte reads zero. (R343, R344, R361, Table DIC-9, Table DIC-10) -/
def Obligations.ResetLeavesWhatTheSpecGives : Prop :=
  State.reset.blk.vlt.epoch = 1
  ∧ (∀ p q, (queueOf State.reset.blk p q).state = .disabled)
  ∧ (∀ t, t < 64 → physOf State.reset.blk t = some t) ∧ (∀ t, 64 ≤ t → t < 68 → physState State.reset.blk t = 1)
  ∧ State.reset.blk.sump.alertMask = 0x7FF ∧ State.reset.blk.sump.alertCause = 0
  ∧ State.reset.blk.pres.window = 120 ∧ State.reset.blk.dict.patience = 2048 ∧ State.reset.blk.dict.replayLimit = 2
  ∧ State.reset.blk.dict.retireLimit = 3 ∧ State.reset.blk.dict.portEnable = 0x3F
  ∧ State.reset.blk.pwr.clockFloor = 1600 ∧ ∀ k, memGet State.reset.blk.mem k = 0

/-- For PERM_GEN, PERM_IDX, TRANSPOSE, BITREV, LAYOUT, ROTACC, ACC_DRAIN, ACC_CLEAR, GATHER_BLK, SCATTER_BLK, MOVE
and GRID: a descriptor that its queue decodes next, that passes its decode and its fetch check and that runs on one
die takes its slot, advances SQ_HEAD and COUNT and, with BARRIER, makes the queue wait; its command is in flight,
ready for its passes, with the list entries the fetch engine read, and the lines of its lists and sources are on
their way into the Cellar; everything else is as before. (R135, R139, R140, R147, R152, R167, R270) -/
def Obligations.CatalogueCommandsEnterFlight : Prop :=
  ∀ (s : State) (p q : Nat) (d : Desc) (op : Op), op ∈ catalogueOps → accepts s.blk p q d op →
    Sys2Proof.Machine.exec (rowOf op p q d) s = .next { s with blk := entered s.blk p q d op }

/-- An accepted row command is in flight issuing rows; MODTAB_LOAD waits for the tenant's earlier commands; FLAG_SET
waits while its queue goes on; FENCE waits and blocks its queue; RELEASE waits for earlier commands that name a
masked register, and loads the schedule epoch when SET_EPOCH is set beside its mask. Nothing else changes than what
every decode takes, and the source lines that a row command's fetch engine requests ahead. (R21, R106, R109, R139,
R147, R153, R155, R162, R167) -/
def Obligations.WaitingCommandsEnterFlight : Prop :=
  ∀ (s : State) (p q : Nat) (d : Desc),
    (accepts s.blk p q d .loadRows →
      Sys2Proof.Machine.exec (.loadRows p q d) s = .next { s with blk := entersAs .rows s.blk p q d .loadRows })
    ∧ (accepts s.blk p q d .storeRows →
      Sys2Proof.Machine.exec (.storeRows p q d) s = .next { s with blk := entersAs .rows s.blk p q d .storeRows })
    ∧ (accepts s.blk p q d .modtabLoad →
      Sys2Proof.Machine.exec (.modtabLoad p q d) s = .next { s with blk := entersAs .modtab s.blk p q d .modtabLoad })
    ∧ (accepts s.blk p q d .flagSet →
      Sys2Proof.Machine.exec (.flagSet p q d) s = .next { s with blk := entersAs .flagSet s.blk p q d .flagSet })
    ∧ (accepts s.blk p q d .fence →
      Sys2Proof.Machine.exec (.fence p q d) s
        = .next { s with blk := blockOn (acceptedCmd s.blk p q d .fence) (entersAs .fence s.blk p q d .fence) })
    ∧ (accepts s.blk p q d .nop → oxRelease d ≠ 0 →
      Sys2Proof.Machine.exec (.release p q d) s
        = .next { s with blk := loadEpoch (acceptedCmd s.blk p q d .nop) (entersAs .release s.blk p q d .nop) })

/-- An accepted NOP with neither mask nor SET_EPOCH completes OK with one record and no other effect than every
decode and completion has. SET_EPOCH completes so too, with bytes 8 to 11 in the queue's schedule epoch. DEBUG_BREAK
completes so too, with MODE, TAG, MASK and COUNT in the break of the queue it names. (R147, R148, R149, R159, R162)
-/
def Obligations.NopSetEpochAndBreakComplete : Prop :=
  ∀ (s : State) (p q : Nat) (d : Desc),
    let c := acceptedCmd s.blk p q d .nop
    let k := acceptedCmd s.blk p q d .debugBreak
    let onNop := decoded s.blk p q d c
    let onEpoch := updQueue p q (fun r => { r with schedEpoch := d.w8 }) onNop
    let onBreak := updQueue p (ox d 0 2) (fun r => { r with
      brkMode := ox d 8 8, brkTag := BitVec.ofNat 16 (ox d 16 16)
      brkMask := BitVec.ofNat 16 (ox d 32 16), brkCount := BitVec.ofNat 48 (ox d 48 48) }) (decoded s.blk p q d k)
    (accepts s.blk p q d .nop → oxRelease d = 0 → flagOpf0 d = false → canComplete c onNop →
      Sys2Proof.Machine.exec (.nop p q d) s = .next { s with blk := completed c .ok 0 0 onNop })
    ∧ (accepts s.blk p q d .nop → oxRelease d = 0 → flagOpf0 d = true → canComplete c onEpoch →
      Sys2Proof.Machine.exec (.setEpoch p q d) s = .next { s with blk := completed c .ok 0 0 onEpoch })
    ∧ (accepts s.blk p q d .debugBreak → canComplete k onBreak →
      Sys2Proof.Machine.exec (.debugBreak p q d) s = .next { s with blk := completed k .ok 0 0 onBreak })

/-- For every row that decodes a descriptor: when its queue decodes it next and the decode stage finds errors, the
command completes with the code that stands first in the order of R269, its residues zero, and nothing else changes
than what every decode and completion changes; ZEROISED also consumes the notices of the tiles it names. A
descriptor whose opcode Table CMD-6 does not name completes SHAPE, whichever row it is given as. (R143, R145, R147,
R269, R273) -/
def Obligations.RejectedDescriptorCompletesWithItsFirstCode : Prop :=
  ∀ (s : State) (p q : Nat) (d : Desc),
    let c := freshCmd s.blk p q d
    let b := decoded s.blk p q d c
    (∀ (op : Op) (code : Code), takesNext s.blk p q d op →
      (isModular op d && loadAhead b c) = false →
      firstIn decodeOrder (decodeErrs (ofCtx p b) p q op d ++ tableErrs b p op d) = some code →
      let e := if code = .zeroised then dropNotices p (namedTiles b op d) b else b
      canComplete c e →
      Sys2Proof.Machine.exec (rowOf op p q d) s = .next { s with blk := completed c code 0 0 e })
    ∧ (∀ op : Op, opOf d = none → servesNext s.blk p q d → canComplete c b →
      Sys2Proof.Machine.exec (rowOf op p q d) s = .next { s with blk := completed c .shape 0 0 b })

/-- An accepted FLAG_WAIT whose flag is clear is in flight, waiting, and its queue is BLOCKED on it. With the flag
set and no other wait on it, the command completes OK at once, and a CONSUME wait leaves the flag clear. (R154,
R156, R157) -/
def Obligations.FlagWaitWaitsOrCompletes : Prop :=
  ∀ (s : State) (p q : Nat) (d : Desc),
    let c := { acceptedCmd s.blk p q d .flagWait with st := .flagWait }
    let b := blockOn c (entersAs .flagWait s.blk p q d .flagWait)
    let e := if isConsume d then putFlag p (oxFlag d) false b else b
    accepts s.blk p q d .flagWait →
    (flagOf s.blk p (oxFlag d) = false →
      Sys2Proof.Machine.exec (.flagWait p q d) s = .next { s with blk := b })
    ∧ (flagOf s.blk p (oxFlag d) = true → q < 4 → waitsOn s.blk p (oxFlag d) = [] → canComplete c e →
      Sys2Proof.Machine.exec (.flagWait p q d) s = .next { s with blk := completed c .ok 0 0 e })

/-- RESUME takes its slot, leaves no command of its own in flight, and resumes the halted command; DISCARD completes
it ABORTED instead, with PARTIAL cleared. HALT_RESUME and HALT_DISCARD do the same from a master whose halt it is; a
word with neither bit has no effect; from any other master, and with both bits, the write is an error response. A
resumed row command issues every row whose mask bit is clear, any other command past its fetch check goes on from
its next unit, a MODTAB_LOAD waits again, and CYCLES counts from now. The discards are stated with no command held
at its table check, for a command of one die, and the resumptions with a restart record whose parity is good.
(R116, R117, R118, R148) -/
def Obligations.HaltedCommandsGoOnOrAreDiscarded : Prop :=
  ∀ (s : State) (p q : Nat) (h : Cmd) (d : Desc) (m : Master) (v : BitVec 64),
    let b := { decoded s.blk p q d (freshCmd s.blk p q d) with cmds := s.blk.cmds }
    (haltedOf s.blk p q = some h → h.st = .halted →
      (accepts s.blk p q d .resume → flagOpf0 d = false → restartBad s.blk h = false →
        Sys2Proof.Machine.exec (.resume p q d) s = .next { s with blk := inCtx p (resumeCmd h) b })
      ∧ (accepts s.blk p q d .resume → flagOpf0 d = true → noneHeld s.blk → spansGallery h = false →
          canComplete h (clearPartial h b) →
        Sys2Proof.Machine.exec (.discard p q d) s = .next { s with blk := completed h .aborted 0 0 (clearPartial h b) })
      ∧ (haltMatches m s.blk p q = true → bitAt v 0 = true → bitAt v 1 = false → restartBad s.blk h = false →
        Sys2Proof.Machine.exec (.haltResume m p q v) s = .next { s with blk := inCtx p (resumeCmd h) s.blk })
      ∧ (haltMatches m s.blk p q = true → bitAt v 1 = true → bitAt v 0 = false → noneHeld s.blk → spansGallery h = false →
          canComplete h (clearPartial h s.blk) →
        Sys2Proof.Machine.exec (.haltDiscard m p q v) s
          = .next { s with blk := completed h .aborted 0 0 (clearPartial h s.blk) }))
    ∧ (haltMatches m s.blk p q = true → bitAt v 0 = false → bitAt v 1 = false →
      Sys2Proof.Machine.exec (.haltResume m p q v) s = .next s ∧ Sys2Proof.Machine.exec (.haltDiscard m p q v) s = .next s)
    ∧ (haltMatches m s.blk p q = false ∨ (bitAt v 0 = true ∧ bitAt v 1 = true) →
      Sys2Proof.Machine.exec (.haltResume m p q v) s = .next { s with blk := busError m true (haltWordAddr p q) s.blk }
      ∧ Sys2Proof.Machine.exec (.haltDiscard m p q v) s = .next { s with blk := busError m true (haltWordAddr p q) s.blk })
    ∧ (∀ (e : Blk) (op : Op), opOf h.desc = some op → op ≠ .streamArm →
      (op = .loadRows ∨ op = .storeRows → resumeCmd h e = updCmd h.id (fun _ => { resumed e h .rows with
        reports := if h.fetched then h.reports else [] }) e)
      ∧ (op = .modtabLoad → resumeCmd h e = updCmd h.id (fun _ => { resumed e h .modtab with
        reports := if h.fetched then h.reports else [] }) e)
      ∧ (op ≠ .loadRows → op ≠ .storeRows → op ≠ .modtabLoad → h.fetched = true →
        resumeCmd h e = updCmd h.id (fun _ => resumed e h .ready) e))

/-- A catalogue command with a nonzero LOG_D that passes its decode is sent as a forwarded descriptor over the Gallery's
links towards every other die, before its own fetch check; when that passes too, the command is in flight on this
die, ready for its passes, with the lines of its lists and sources on their way. On a die alone nothing is sent.
(R75, R92, R167, R227) -/
def Obligations.GalleryCommandIsForwarded : Prop :=
  ∀ (s : State) (p q : Nat) (d : Desc) (op : Op),
    let c := freshCmd s.blk p q d
    let home := decoded s.blk p q d c
    let b := broadcast 4 (dieOf home) c.id home
    let f := fetchCheck (ofCtx p b) p op d [] none
    let k := { c with entries := f.entries, blocks := f.blocks, header := f.header, fetched := true }
    op ∈ catalogueOps → takesNext s.blk p q d op → passesDecode s.blk p q d op → spansGallery c = true →
    firstIn fetchOrder f.errs = none →
    Sys2Proof.Machine.exec (rowOf op p q d) s = .next { s with blk := fetchAhead k (updCmd c.id (fun _ => k) b) }

/-- An accepted STREAM_ARM whose descriptor page answers with good parity leaves the stream WAITING with the
descriptor, its bases and the handles it wants, and the command waiting for the grant; a page not present halts the
queue and a denied one completes NOT_OWNER. STREAM_GRANT gives the oldest waiting arm its whole reservation when
enough handles are FREE, handles of its quad first and ascending: they are GRANTED to the stream, which is RUNNING,
its status record is written, its fetch side begins, and the arm completes OK; with too few, nothing happens.
(R169, R172, R174, R176, R178, R202) -/
def Obligations.StreamArmWaitsForItsGrant : Prop :=
  ∀ (s : State) (p q : Nat) (d : Desc),
    let c := acceptedCmd s.blk p q d .streamArm
    let b := decoded s.blk p q d c
    let n := oxStream d
    let a := oxBase d
    let v := readSdesc (ofCtx p b) a
    let near := inCtx p (touchLine p a 64 false) b
    let waiting := fun (c : Cmd) (v : BitVec 512) => ({
      state := .waiting, port := p, sd := v, dbase := (sdescOf v).dbase, ibase := (sdescOf v).ibase
      want := oxHandles d, armCmd := c.id } : Machine.Stream)
    (accepts s.blk p q d .streamArm → listStat (ofCtx p b) a = .ok → (streamOf s.blk n).state = .disarmed →
      firstIn decodeOrder (armErrs (touchLine p a 64 false (ofCtx p b)) p n (oxHandles d) v) = none →
        Sys2Proof.Machine.exec (.streamArm p q d) s = .next { s with
          blk := updCmd c.id (fun x => { x with st := .grant })
            { near with streams := tabPut {} near.streams n (waiting c v) } })
    ∧ (accepts s.blk p q d .streamArm → listStat (ofCtx p b) a = .notPresent →
        Sys2Proof.Machine.exec (.streamArm p q d) s
          = .next { s with blk := inCtx p (haltCmd { c with faultAddr := some a } 1 1 0) b })
    ∧ (accepts s.blk p q d .streamArm → listStat (ofCtx p b) a = .denied → canComplete c b →
        Sys2Proof.Machine.exec (.streamArm p q d) s = .next { s with blk := completed c .notOwner 0 0 b })
    ∧ (∀ k, oldestArm s.blk p = some k →
        let m := oxStream k.desc
        let want := (streamOf s.blk m).want
        let take := (grantOrder m (grantable s.blk p)).take want
        let e := { s.blk with
          handles := take.foldl (fun t h => tabUpd {} t h (fun _ => { cond := .granted, owner := some m })) s.blk.handles
          streams := tabUpd {} s.blk.streams m (fun x => { x with state := .running, home := take, reserved := want }) }
        let x := streamOf e m
        let told := inCtx x.port (writeBytes (sdescOf x.sd).status (statusBytes m x)) e
        (want ≤ (grantable s.blk p).length → xstat (ofCtx x.port s.blk) (sdescOf x.sd).status = .ok →
            canComplete k (fillHandles m told) →
          Sys2Proof.Machine.exec (.streamGrant p) s = .next { s with blk := completed k .ok 0 0 (fillHandles m told) })
        ∧ ((grantable s.blk p).length < want → Sys2Proof.Machine.exec (.streamGrant p) s = .next s))

/-- An accepted STREAM_REARM completes OK. On a WAITING stream it changes the bases, or with DBASE 0 lets a
persistent stream end after its run. On a RUNNING one it leaves a pending REARM whose boundary is the first segment
no request has been issued for, or with DBASE 0 drops it and lets a persistent stream end. A PARKED stream begins a
new run at the new bases. A HALTED one runs again, with a pending REARM unless DBASE is 0, when it has none. An ERROR
stream ends, as a PARKED one does with DBASE 0. REARM_BOUNDARY, once the fetch side has reached the boundary, lets
the fetch side begin the new run at the new bases; the sink follows when it has delivered the old one.
(R171, R185, R194) -/
def Obligations.RearmActsByStreamState : Prop :=
  ∀ (s : State) (p q : Nat) (d : Desc) (n : Nat),
    let c := acceptedCmd s.blk p q d .streamRearm
    let b := decoded s.blk p q d c
    let m := ox d 0 16
    let db := field d.opa 0 48
    let ib := field d.opb 0 48
    let x := streamOf s.blk m
    let done := fun e : Blk => completed c .ok 0 0 e
    (accepts s.blk p q d .streamRearm → canComplete c b →
      (x.state = .waiting → db = 0 → Sys2Proof.Machine.exec (.streamRearm p q d) s = .next { s with
        blk := done (updStream m (fun x => { x with endAfter := (sdescOf x.sd).persist }) b) })
      ∧ (x.state = .waiting → db ≠ 0 → Sys2Proof.Machine.exec (.streamRearm p q d) s = .next { s with
        blk := done (updStream m (fun x => { takeBases x db ib with endAfter := false }) b) })
      ∧ (x.state = .running → db = 0 → Sys2Proof.Machine.exec (.streamRearm p q d) s = .next { s with
        blk := done (updStream m (fun x => { x with endAfter := (sdescOf x.sd).persist, rearm := none }) b) })
      ∧ (x.state = .running → db ≠ 0 → Sys2Proof.Machine.exec (.streamRearm p q d) s = .next { s with
        blk := done (updStream m (fun x => { x with
          rearm := some (db, ib), endAfter := false
          boundary := min (max x.fetched (if x.turn = none then x.segment else 0)) (sdescOf x.sd).segments }) b) })
      ∧ (x.state = .halted → db = 0 → Sys2Proof.Machine.exec (.streamRearm p q d) s = .next { s with
        blk := done (updStream m (fun x => { x with state := .running, code := .ok, faultAddr := 0, rearm := none }) b) })
      ∧ (x.state = .halted → db ≠ 0 → Sys2Proof.Machine.exec (.streamRearm p q d) s = .next { s with
        blk := done (updStream m (fun x => pendRearm { x with state := .running, code := .ok, faultAddr := 0 } db ib) b) }))
    ∧ (accepts s.blk p q d .streamRearm → x.state = .parked → db ≠ 0 →
        let e := fillHandles m (updStream m (fun x => newRun x db ib) b)
        canComplete c e → Sys2Proof.Machine.exec (.streamRearm p q d) s = .next { s with blk := done e })
    ∧ (accepts s.blk p q d .streamRearm → canComplete c b → x.state = .error ∨ (x.state = .parked ∧ db = 0) →
        xstat (ofCtx x.port s.blk) (sdescOf x.sd).status = .ok →
        let y := { x with state := .ending, rearm := none, turn := none, buffer := [] }
        Sys2Proof.Machine.exec (.streamRearm p q d) s = .next { s with
          blk := done (inCtx x.port (writeBytes (sdescOf x.sd).status (statusBytes m y))
            (updStream m (fun _ => y) (emptyHandles x.buffer b))) })
    ∧ (∀ u v,
        let z := streamOf s.blk n
        z.rearm = some (u, v) → z.state = .running → z.turn = none → z.fpos = 0 → z.boundary ≤ z.fseg →
        Sys2Proof.Machine.exec (.rearmBoundary n) s = .next { s with
          blk := fillHandles n (updStream n (fun x => turnSink { x with
            rearm := none, turn := some (x.boundary, (takeBases z u v).dbase, (takeBases z u v).ibase)
            ahead := true, fseg := 0, fetched := 0 }) s.blk) })

/-- SEGMENT_START on a RUNNING stream between segments, whose memory side is in order, lets the fetch side run; its
wait flag set when it has one, it marks the segment begun and clears the wait flag. A memory side in error puts the
stream in ERROR. SEGMENT_DONE, once every receiver has the whole segment, counts it, gives kept Shelf handles back,
goes to the next at position 0, or to the run of a REARM, and sets the done flag, which satisfies the waits on it.
RUN_END after the last segment parks a persistent stream and ends any other, writing its status record. (R172, R174,
R194, R200) -/
def Obligations.SegmentsStartFinishAndEndTheRun : Prop :=
  ∀ (s : State) (n : Nat),
    let x := streamOf s.blk n
    let d := sdescOf x.sd
    let here := ofCtx x.port s.blk
    let back := fun e : Blk => { e with ctx := s.blk.ctx }
    let opened := openSegment n false x.segment here
    (x.state = .running → x.segStarted = false → x.segment < d.segments → s.blk.vlt.sliced.contains x.port = false →
      (opened.2 = .done → d.waitEn = true → flagOf opened.1 x.port d.waitFlag = false →
        Sys2Proof.Machine.exec (.segmentStart n) s = .next { s with blk := back (fillHandles n opened.1) })
      ∧ (opened.2 = .done → (d.waitEn = true → flagOf opened.1 x.port d.waitFlag = true) →
        let e := if d.waitEn then putFlag x.port d.waitFlag false opened.1 else opened.1
        Sys2Proof.Machine.exec (.segmentStart n) s = .next { s with
          blk := back (fillHandles n (updStream n (fun x => { x with
            segStarted := true, detached := 0, behind := [], code := .ok
            fetched := if d.shelfSource then max x.fetched (x.segment + 1) else x.fetched
            fseg := if d.shelfSource then x.segment + 1 else x.fseg }) e)) })
      ∧ (∀ code a, opened.2 = .bad code a → code ≠ .parity →
        Sys2Proof.Machine.exec (.segmentStart n) s = .next { s with blk := back (streamError n code a opened.1) }))
    ∧ (∀ e, x.state = .running → x.segStarted = true → deliverAll n here = (e, .done) →
        let y := streamOf e n
        let f := updStream n (fun x => turnSink { x with
          segment := x.segment + 1, position := 0, segStarted := false
          segsDone := min (x.segsDone + 1) 0xFFFFFFFF, detached := 0, behind := [], kept := 0
          entries := tabDel (entryKey false x.segment) x.entries }) (shelfTaken (sdescOf y.sd).srcShelf y.kept e)
        let g := if (sdescOf y.sd).doneEn ∧ y.port < 5 then setFlag y.port (sdescOf y.sd).doneFlag f else f
        Sys2Proof.Machine.exec (.segmentDone n) s = .next { s with blk := back (fillHandles n g) })
    ∧ (x.state = .running → x.segStarted = false → d.segments ≤ x.segment → x.rearm = none → x.turn = none →
        xstat here d.status = .ok →
        let parks := d.persist && !x.endAfter
        let y := if parks then { x with state := .parked } else { x with state := .ending, buffer := [] }
        Sys2Proof.Machine.exec (.runEnd n) s = .next { s with
          blk := inCtx x.port (writeBytes d.status (statusBytes n y))
            (updStream n (fun _ => y) (if parks then s.blk else emptyHandles x.buffer s.blk)) })

/-- STREAM_HALT, once the granules before the missing line have reached the sink, drops what was fetched beyond them and
leaves the stream HALTED with FAULT_RESUMABLE, the address of the line and its position, writes the status record and
a Sump record, and interrupts the tenant. STREAM_DISARM on an ENDING stream with a descriptor whose handles are all
home frees them, writes the status record and leaves no stream; while a handle is out, nothing happens. (R176, R185,
R191) -/
def Obligations.StreamsHaltAndDisarm : Prop :=
  ∀ (s : State) (n pos : Nat),
    let x := streamOf s.blk n
    let d := sdescOf x.sd
    let opened := openSegment n false x.segment (ofCtx x.port s.blk)
    let a := sideAddr (streamOf opened.1 n) false x.segment pos
    (∀ e, x.state = .running → x.segStarted = true → d.hasMem = true → x.position ≤ pos → pos < d.segG →
      opened.2 = .done → xstat opened.1 a = .notPresent → deliver n pos d.segG opened.1 = (e, .done) →
      let f := updStream n (fun x => { x with state := .halted, code := .faultResumable, faultAddr := a }) (dropFetched n e)
      let y := streamOf f n
      let told := inCtx y.port (writeBytes (sdescOf y.sd).status (statusBytes n y)) f
      xstat (ofCtx y.port f) (sdescOf y.sd).status = .ok →
      Sys2Proof.Machine.exec (.streamHalt n pos) s = .next { s with
        blk := { tenantInt y.port (sumpPut 0x02 (some .faultResumable) y.port 0 0 a (n + y.segment % 2 ^ 32 * 2 ^ 16) told)
          with ctx := s.blk.ctx } })
    ∧ (x.state = .ending → x.home.length = x.reserved → xstat (ofCtx x.port s.blk) d.status = .ok →
        let y := { x with state := .disarmed, home := [], buffer := [], reserved := 0 }
        Sys2Proof.Machine.exec (.streamDisarm n) s = .next { s with
          blk := { inCtx x.port (writeBytes d.status (statusBytes n y)) s.blk with
            handles := x.home.foldl (fun t h => tabUpd {} t h (fun _ => {})) s.blk.handles
            streams := tabDel n (tabPut {} s.blk.streams n y) } })
    ∧ (x.home.length ≠ x.reserved → Sys2Proof.Machine.exec (.streamDisarm n) s = .next s)

/-- A pushed handle that is LENT from that Shelf goes back to its owner; a FREE one, or one LENT from another Shelf,
goes to the end of the queue while it holds fewer than 32, and the command completes OK, else it waits for room and
does the same once room appears. A pop takes the oldest handle, which becomes LENT, its number in RES0, and waits on
an empty queue until a handle arrives. Nothing else changes. (R182, R183, R184) -/
def Obligations.HandlesArePushedAndPopped : Prop :=
  ∀ (s : State) (p q : Nat) (d : Desc) (id : Nat) (c : Cmd),
    let k := oxShelf c.desc
    let h := oxHandle c.desc
    let shelve := fun b : Blk => { b with
      shelves := tabPut [] b.shelves k (shelfOf b k ++ [h])
      handles := tabUpd {} b.handles h (fun y => { y with cond := .shelved k, delivered := false }) }
    let lend := fun (b : Blk) (x : Nat) (l : List Nat) => { b with
      shelves := tabPut [] b.shelves k l, handles := tabUpd {} b.handles x (fun y => { y with cond := .lent k }) }
    (∀ b, accepts s.blk p q d .handlePush → c = acceptedCmd s.blk p q d .handlePush → b = decoded s.blk p q d c →
      ((handleOf b h).cond = .lent k → canComplete c (returnHandle h b) →
        Sys2Proof.Machine.exec (.handlePush p q d) s = .next { s with blk := completed c .ok 0 0 (returnHandle h b) })
      ∧ (pushable b h = true → (handleOf b h).cond ≠ .lent k → (shelfOf b k).length < 32 → canComplete c b →
        Sys2Proof.Machine.exec (.handlePush p q d) s = .next { s with blk := completed c .ok 0 0 (shelve b) })
      ∧ (pushable b h = true → (handleOf b h).cond ≠ .lent k → 32 ≤ (shelfOf b k).length →
        Sys2Proof.Machine.exec (.handlePush p q d) s = .next { s with blk := entersAs .push s.blk p q d .handlePush }))
    ∧ (waitsAs .push s.blk id c → pushable s.blk h = true → (handleOf s.blk h).cond ≠ .lent k →
        (shelfOf s.blk k).length < 32 → canComplete c s.blk →
        Sys2Proof.Machine.exec (.handlePushRoom id) s = .next { s with blk := completed c .ok 0 0 (shelve s.blk) })
    ∧ (∀ b, accepts s.blk p q d .handlePop → c = acceptedCmd s.blk p q d .handlePop → b = decoded s.blk p q d c →
      (∀ x l, shelfOf b k = x :: l → canComplete c b →
        Sys2Proof.Machine.exec (.handlePop p q d) s = .next { s with blk := completed c .ok x 0 (lend b x l) })
      ∧ (shelfOf b k = [] →
        Sys2Proof.Machine.exec (.handlePop p q d) s = .next { s with blk := entersAs .pop s.blk p q d .handlePop }))
    ∧ (∀ x l, waitsAs .pop s.blk id c → shelfOf s.blk k = x :: l → canComplete c s.blk →
        Sys2Proof.Machine.exec (.handlePopArrival id) s = .next { s with blk := completed c .ok x 0 (lend s.blk x l) })

/-- A handle on a Shelf queue that its consumer has delivered leaves the queue and goes back: to the reservation of
the stream that owns it, GRANTED and empty, or FREE to the pool when no stream owns it. One not delivered stays.
(R181, R182) -/
def Obligations.DeliveredHandlesGoHome : Prop :=
  ∀ (s : State) (h k : Nat),
    let y := handleOf s.blk h
    let shelves := tabPut [] s.blk.shelves k ((shelfOf s.blk k).filter (· != h))
    y.cond = .shelved k →
    (y.delivered = false → Sys2Proof.Machine.exec (.handleReturn h) s = .next s)
    ∧ (y.delivered = true → y.owner = none →
        Sys2Proof.Machine.exec (.handleReturn h) s
          = .next { s with blk := { s.blk with shelves := shelves, handles := tabPut {} s.blk.handles h {} } })
    ∧ (∀ n, y.delivered = true → y.owner = some n →
        Sys2Proof.Machine.exec (.handleReturn h) s = .next { s with blk := { s.blk with
          shelves := shelves
          handles := tabUpd {} s.blk.handles h (fun y => { y with cond := .granted, fill := 0, delivered := false })
          streams := tabUpd {} s.blk.streams n (fun x => { x with home := x.home ++ [h] }) } })

/-- When a running multicast segment stays stalled for PATIENCE tile cycles and one more, its fastest attached receiver
64 granules ahead of its slowest, the receivers at the slowest position and no others are detached: every attached
receiver first gets the granules up to the slowest position, the detached ones are marked with their position, the
others go on to the fastest position, the stream's code reads MULTICAST_DETACH, the status record and a Sump record
are written, and the tenant is interrupted. When every attached receiver is as slow, nothing happens. (R198, R199,
R200) -/
def Obligations.SlowReceiversAreDetached : Prop :=
  ∀ (s : State) (n : Nat) (pos : List (Nat × Nat)),
    let late := passTc (s.blk.dict.patience.toNat + 1) s.blk
    let x := streamOf late n
    let d := sdescOf x.sd
    let out := slowOnes n x pos
    (stalledAt n (streamOf s.blk n) pos = false → Sys2Proof.Machine.exec (.multicastDetach n pos) s = .next s)
    ∧ ((slowOnes n (streamOf s.blk n) pos).2.length = (attached n (streamOf s.blk n)).length →
        stalledAt n (streamOf s.blk n) pos = false)
    ∧ (stalledAt n (streamOf s.blk n) pos = true → stalledAt n x pos = false →
        Sys2Proof.Machine.exec (.multicastDetach n pos) s = .next { s with blk := late })
    ∧ (∀ e g, stalledAt n (streamOf s.blk n) pos = true → stalledAt n x pos = true →
        deliver n out.1 d.segG (ofCtx x.port late) = (e, .done) →
        let marked := updStream n (fun x => { x with
          detached := out.2.foldl (fun m t => setBit m t true) x.detached
          behind := out.2.foldl (fun l t => tabIns t out.1 l) x.behind }) e
        deliver n (out.1 + 64) d.segG marked = (g, .done) →
        let k := updStream n (fun x => { x with code := .multicastDetach }) g
        Sys2Proof.Machine.exec (.multicastDetach n pos) s = .next { s with
          blk := { tenantInt x.port (streamRecord 0x03 (some .multicastDetach) n (streamOf k n).detached.toNat (writeStatus n k))
            with ctx := late.ctx } })

/-- A FENCE completes OK once no earlier command of its queue or of QMASK is in flight, and stays until then. A
release completes OK and releases every masked register on this die once no earlier command that is not halted names
one, PARTIAL_READ with nothing released when one is PARTIAL. A FLAG_SET with no earlier command of its queue in flight
sets its flag and completes OK when no wait stands on it; over a Gallery it sends the set towards every other die and
waits for their answers. FLAG_WAIT_TIMEOUT: a timed FLAG_WAIT completes ABORTED once TIMEOUT tile cycles have passed
since its decode, with the ticks that pass before doing what they do; and a tick ends a wait whose limit lies before
it. (R106, R153, R155, R156) -/
def Obligations.WaitsEndWhenTheirWorkIsDone : Prop :=
  ∀ (s : State) (id : Nat) (c : Cmd),
    let b := s.blk
    let f := oxFlag c.desc
    let late := passTc (c.t0 + oxTimeout c.desc - b.clk.tc) b
    (waitsAs .fence b id c → earlierOn b c (fenceQueues c) = false → canComplete c b →
      Sys2Proof.Machine.exec (.fenceEnd id) s = .next { s with blk := completed c .ok 0 0 b })
    ∧ (waitsAs .fence b id c → earlierOn b c (fenceQueues c) = true → Sys2Proof.Machine.exec (.fenceEnd id) s = .next s)
    ∧ (waitsAs .release b id c → earlierNaming b c (maskedRegs b c.desc) = false → slicedOut b c = false →
        (tsetOf c.desc.tset).logD = 0 → opOf c.desc = some .nop → spansGallery c = false →
        (anyPartial b (maskedRegs b c.desc) = true → canComplete c b →
          Sys2Proof.Machine.exec (.releaseApply id) s = .next { s with blk := completed c .partialRead 0 0 b })
        ∧ (anyPartial b (maskedRegs b c.desc) = false → canComplete c (releaseAll c b) →
          Sys2Proof.Machine.exec (.releaseApply id) s = .next { s with blk := completed c .ok 0 0 (releaseAll c b) }))
    ∧ (waitsAs .flagSet b id c → earlierOn b c [c.queue] = false →
        ((tsetOf c.desc.tset).logD = 0 ∨ otherDies b = [] → waitsOn b c.port f = [] → canComplete c b →
          Sys2Proof.Machine.exec (.flagSetApply id) s = .next { s with blk := completed c .ok 0 0 (putFlag c.port f true b) })
        ∧ ((tsetOf c.desc.tset).logD ≠ 0 → otherDies b ≠ [] →
          let e := broadcast 8 (dieOf b) f b
          Sys2Proof.Machine.exec (.flagSetApply id) s = .next { s with
            blk := setFlag c.port f (updCmd c.id (fun x => { x with st := .drain, acks := otherDies e }) e) }))
    ∧ (waitsAs .flagWait b id c → oxTimeout c.desc ≠ 0 →
        (∀ k, waitsAs .flagWait late id k → canComplete { k with t0 := late.clk.tc - oxTimeout k.desc } late →
          Sys2Proof.Machine.exec (.flagWaitTimeout id) s = .next { s with
            blk := completed { k with t0 := late.clk.tc - oxTimeout k.desc } .aborted 0 0 late })
        ∧ (cmdOf late id = none → Sys2Proof.Machine.exec (.flagWaitTimeout id) s = .next { s with blk := late }))
    ∧ (waitsDue b (fun t => decide (t < b.clk.tc)) = [c] → canComplete { c with t0 := b.clk.tc - oxTimeout c.desc } b →
        expireWaits b = completed { c with t0 := b.clk.tc - oxTimeout c.desc } .aborted 0 0 b)

/-- A flag set from another die of the Gallery sets the flag of a tenant, is passed on to the dies this one stands
between, and is acknowledged. With no wait on it the flag stays set. One plain wait completes OK and leaves it set;
one CONSUME wait completes OK and leaves it clear. A message about a port or flag that does not exist, or from a die
that is no member, changes nothing. (R92, R154, R155, R157, R209) -/
def Obligations.ASetFlagEndsItsWaits : Prop :=
  ∀ (s : State) (p f die cmd : Nat) (c : Cmd),
    let near := broadcast 8 die f (landMail 8 die cmd s.blk)
    let b := putFlag p f true near
    let answered := sendMsg 7 (towardsDie s.blk die) cmd
    (p < 5 → f < 256 → isPeer s.blk die = true →
      (waitsOn near p f = [] →
        Sys2Proof.Machine.exec (.flagSetMessage p ⟨f, ⟨die, cmd⟩⟩) s = .next { s with blk := answered b })
      ∧ (waitsOn near p f = [c] → isConsume c.desc = false → canComplete c near →
        Sys2Proof.Machine.exec (.flagSetMessage p ⟨f, ⟨die, cmd⟩⟩) s
          = .next { s with blk := answered (completed c .ok 0 0 b) })
      ∧ (waitsOn near p f = [c] → isConsume c.desc = true → c.queue < 4 → canComplete c near →
        Sys2Proof.Machine.exec (.flagSetMessage p ⟨f, ⟨die, cmd⟩⟩) s
          = .next { s with blk := answered (completed c .ok 0 0 (putFlag p f false b)) }))
    ∧ (5 ≤ p ∨ 256 ≤ f ∨ isPeer s.blk die = false →
        Sys2Proof.Machine.exec (.flagSetMessage p ⟨f, ⟨die, cmd⟩⟩) s = .next s)

/-- FLAG_DEADLOCK on a tenant in R158's condition lets the rest of the 4,096 tile cycles pass; a tick that fills the
count declares, and the declaration writes one FLAG_DEADLOCK record that names the flags awaited, and each waiting
FLAG_WAIT completes FLAG_DEADLOCK and its queue is STOPPED with stop cause 2. A break of the condition takes the count
back to zero. Where the tenant is not deadlocked nothing happens. (R158, R275) -/
def Obligations.DeadlockStopsTheWaitingQueues : Prop :=
  ∀ (s : State) (p : Nat),
    let b := s.blk
    (p < 5 → deadlocked b p = true →
      Sys2Proof.Machine.exec (.flagDeadlock p) s = .next { s with blk := passTc (4096 - tabGet 0 b.deadTc p) b })
    ∧ (deadlocked b p = false ∨ 5 ≤ p → Sys2Proof.Machine.exec (.flagDeadlock p) s = .next s)
    ∧ (∀ (e : Blk) (n : Nat),
        (deadlocked e p = true → 4096 ≤ tabGet 0 e.deadTc p + n →
          countDead n e p = declareDeadlock p (tabGet 0 e.deadTc p + n - 4096) { e with deadTc := tabDel p e.deadTc })
        ∧ (deadlocked e p = true → tabGet 0 e.deadTc p + n < 4096 →
          countDead n e p = { e with deadTc := tabPut 0 e.deadTc p (tabGet 0 e.deadTc p + n) })
        ∧ (deadlocked e p = false → countDead n e p = { e with deadTc := tabPut 0 e.deadTc p 0 }))
    ∧ (∀ (e : Blk) (late q : Nat) (c : Cmd),
        let waits := (List.range 4).filterMap (fun q => (waitOfQueue e p q).map (fun c => (q, c)))
        let told := sumpPut 0x15 (some .flagDeadlock) p q c.desc.tag.toNat 0 (deadlockDetail waits) e
        waits.head? = some (q, c) →
        declareDeadlock p late e
          = waits.foldl (fun b w => stopQueue p w.1 2 (finishCmd { w.2 with t0 := w.2.t0 + late } .flagDeadlock 0 0 b)) told)

/-- Once no earlier command of the tenant is in flight, a MODTAB_LOAD whose image is read and whose 64 entries are
all well formed becomes the tenant's moduli table, each entry with its modulus, VALID and Barrett constant, and
completes OK. An image with an entry that is not well formed completes INDEX_RANGE, a denied line NOT_OWNER, and a
line not present halts the queue: the table is unchanged in all three. Stated with no command held at its table
check, and the halt for a queue that is enabled. (R17, R21, R137) -/
def Obligations.ModtabLoadTakesEffect : Prop :=
  ∀ (s : State) (id : Nat) (c : Cmd) (a : Nat),
    let b := s.blk
    let here := ofCtx c.port b
    let image := oxBase c.desc
    let good := (List.range 64).all (fun i => entryOk (readLe here (image + 16 * i) 8) (readLe here (image + 16 * i + 8) 8))
    let table := (List.range 64).foldl (fun t i => tabPut {} t (c.port * 64 + i)
      { q := BitVec.ofNat 64 (readLe here (image + 16 * i) 8 % 2 ^ 63), valid := natBit (readLe here (image + 16 * i) 8) 63
        mu := BitVec.ofNat 64 (readLe here (image + 16 * i + 8) 8) }) b.moduli
    waitsAs .modtab b id c → earlierOfTenant b c = false → noneHeld b →
    (imagePage here image = none → canComplete c b →
      (good = true →
        Sys2Proof.Machine.exec (.modtabTakeEffect id) s = .next { s with blk := completed c .ok 0 0 { b with moduli := table } })
      ∧ (good = false → Sys2Proof.Machine.exec (.modtabTakeEffect id) s = .next { s with blk := completed c .indexRange 0 0 b }))
    ∧ (imagePage here image = some (a, .denied) → canComplete c b →
        Sys2Proof.Machine.exec (.modtabTakeEffect id) s = .next { s with blk := completed c .notOwner 0 0 b })
    ∧ (imagePage here image = some (a, .notPresent) → (queueOf b c.port c.queue).enable = true →
        Sys2Proof.Machine.exec (.modtabTakeEffect id) s
          = .next { s with blk := inCtx c.port (haltCmd { c with faultAddr := some a } 1 1 0) b })

/-- A row of a row command, at its turn: with every page answering and no parity error, its granules are copied from
the source row to the destination row, the row mask takes the row, a LOAD marks its register, the granules moved are
counted, their external lines are brought and the register side is read through its tile's latches; with the last row
the command completes OK, PARTIAL cleared if it had been halted. A page not present leaves its address in the
command, the first one found, a denied page the mark of it, and nothing moves. A page that failed every replay
completes PARITY with its record. A STORE whose register fails the pass start completes with that code. The first row
begins the command and empties the latches of its tile. (R101, R103, R104, R107, R110, R111, R113, R363) -/
def Obligations.RowsCommitAsTheirPagesCome : Prop :=
  ∀ (s : State) (id row : Nat) (c : Cmd),
    let b := ofCtx c.port s.blk
    let back := fun e : Blk => { e with ctx := s.blk.ctx }
    let src := rowAddrs (rowSrc c.desc) row
    let dst := rowAddrs (rowDst c.desc) row
    let begun := if c.started then b else emptyLatches ((usedTiles b c).filterMap (physOf b)) b
    let pages := pageOutcome (refused b (src ++ dst))
    let seen := { c with started := true, unit := max c.unit (row + 1), issued := max c.issued (row + 1) }
    let done := { seen with rowMask := setBit c.rowMask row true }
    let copied := (dst.zip (src.map (readGranule begun))).foldl (fun x y => writeBytes y.1 (leBytes 64 y.2.toNat) x) begun
    let lines := touchLines c.port dst true (touchLines c.port src false copied)
    let kept := updCmd c.id (fun _ => done) (countMoved c.port src.length (readLatches (readKeys lines src) lines))
    let e := if isLoad c.desc then markWrites (absRegTags kept (rowDst c.desc)) (flagKey c.desc) kept else kept
    let fin := fun x : Blk => if wasHalted x c then clearPartial c x else x
    rowDue s.blk id row c →
    (rowStart b c = none →
      (pages = none → firstBad b (readKeys b src) = none →
        (((List.range (rowCount c.desc)).all (bitAt done.rowMask) = false ∨ c.faultAddr ≠ none ∨ c.denied = true) →
          Sys2Proof.Machine.exec (.rowCommit id row []) s = .next { s with blk := back e })
        ∧ ((List.range (rowCount c.desc)).all (bitAt done.rowMask) = true → c.faultAddr = none → c.denied = false →
            canComplete done (fin e) →
          Sys2Proof.Machine.exec (.rowCommit id row []) s = .next { s with blk := back (completed done .ok 0 0 (fin e)) }))
      ∧ (∀ a ev, pages = some (a, .faultResumable) → Sys2Proof.Machine.exec (.rowCommit id row ev) s
          = .next { s with blk := back (updCmd c.id (fun _ => { seen with
              faultAddr := some (c.faultAddr.getD a), back := setBit c.back row true }) begun) })
      ∧ (∀ a ev, pages = some (a, .notOwner) → Sys2Proof.Machine.exec (.rowCommit id row ev) s
          = .next { s with blk := back (updCmd c.id (fun _ => { seen with denied := true, back := setBit c.back row true }) begun) })
      ∧ (∀ a ev, pages = some (a, .parity) →
          let k := parityRecord (some c) 7 a 0 row (allReplays begun)
          canComplete seen (fin k) →
          Sys2Proof.Machine.exec (.rowCommit id row ev) s = .next { s with blk := back (completed seen .parity 0 0 (fin k)) }))
    ∧ (∀ code ev, rowStart b c = some code → canComplete c (fin b) →
        Sys2Proof.Machine.exec (.rowCommit id row ev) s = .next { s with blk := back (completed c code 0 0 (fin b)) })

/-- Once every row issued has come back, a row command that met a page not present halts with CAUSE 1, its fault
address and its row mask in the restart record; one asked to stop halts with the cause asked for; a LOAD leaves its
register with the tag of its shape, PARTIAL, IN_USE once a row has committed, KEY as then due. One denied completes
NOT_OWNER with the rows kept and no PARTIAL. While a row is out nothing happens. SCHEDULER_INTERRUPT asks a row
command to stop with cause 2 and halts a command of several commit units between two of them; one whose unit is the
whole command runs on, and so does the Vault queue's. (R104, R112, R114, R115, R166, R363) -/
def Obligations.StoppedRowsHaltOrAreDenied : Prop :=
  ∀ (s : State) (id : Nat) (c : Cmd),
    let b := s.blk
    let t := shapeTag (rowDst c.desc)
    let mark := fun part : Bool => match (if isLoad c.desc then rowReg b c.desc else none) with
      | some k => { b with regs := tabUpd {} b.regs k (fun r => { r with
          rows := t.rows, cols := t.cols, rstride := t.rstride, inUse := r.inUse || c.rowMask != 0
          part := r.part || part, key := r.key || (flagKey c.desc && c.rowMask != 0) }) }
      | none => b
    let kept := if wasHalted b c then clearPartial c (mark false) else mark false
    (waitsAs .rows b id c → rowsQuiet c = true → c.denied = false → c.faultAddr ≠ none → canHalt c b →
      Sys2Proof.Machine.exec (.rowHalt id) s = .next { s with blk := haltsAs c 1 0 (rowPlace c.desc) (mark true) })
    ∧ (waitsAs .rows b id c → rowsQuiet c = true → c.denied = false → c.faultAddr = none → 2 ≤ c.interrupt → canHalt c b →
      Sys2Proof.Machine.exec (.rowHalt id) s = .next { s with blk := haltsAs c c.interrupt 0 (rowPlace c.desc) (mark true) })
    ∧ (waitsAs .rows b id c → rowsQuiet c = true → c.denied = true → canComplete c b →
      Sys2Proof.Machine.exec (.rowDenied id) s = .next { s with blk := completed c .notOwner 0 0 kept })
    ∧ (cmdOf b id = some c → rowsQuiet c = false →
      Sys2Proof.Machine.exec (.rowHalt id) s = .next s ∧ Sys2Proof.Machine.exec (.rowDenied id) s = .next s)
    ∧ (waitsAs .rows b id c → isRowCmd c.desc = true → c.port ≠ 5 →
      Sys2Proof.Machine.exec (.schedulerInterrupt id) s
        = .next { s with blk := updCmd c.id (fun x => { x with interrupt := 2 }) b })
    ∧ (waitsAs .ready b id c → multiUnit c.desc = true → c.home = none → c.fetched = true → c.port ≠ 5 → c.stepSent = false →
        c.step = 0 → c.reports = [] → (∀ e ∈ b.gal.xreq, e.2.cmd ≠ some c.id) → canHalt c b →
      Sys2Proof.Machine.exec (.schedulerInterrupt id) s = .next { s with blk := haltsAs c 2 1 0 b })
    ∧ (cmdOf b id = some c → (isRowCmd c.desc = false ∧ multiUnit c.desc = false) ∨ c.port = 5 →
      Sys2Proof.Machine.exec (.schedulerInterrupt id) s = .next s)

/-- On one die, the unit of ACC_CLEAR completes OK with every byte of the accumulator frame of each bound tile of
its set zero, the ACC KEY flag clear and the tile's reuse latches empty; besides what a completion changes, nothing
else changes. (R70, R107, R122, R149) -/
def Obligations.ClearedAccumulatorsReadZero : Prop :=
  ∀ (s : State) (id : Nat) (ev : UnitEvent) (c : Cmd),
    let b := s.blk
    let begun := emptyLatches (setPhys b c.desc) b
    let zeroed := (setPhys b c.desc).foldl (fun x p => { x with
      mem := memClear x.mem (frameKey p 24 0) 0x40000
      bad := x.bad.filter (fun k => decide (k < frameKey p 24 0) || decide (frameKey p 24 0 + 0x40000 ≤ k))
      accKey := tabPut false x.accKey p false }) begun
    passesDue b id c .accClear → (tsetOf c.desc.tset).logD = 0 → canComplete c b →
      Sys2Proof.Machine.exec (.commitUnit id ev) s
        = .next { s with blk := completed c .ok (c.res0 % tallyM) (c.res1 % tallyM) zeroed }
      ∧ (∀ p ∈ setPhys b c.desc, ∀ k, frameKey p 24 0 ≤ k → k < frameKey p 24 0 + 0x40000 → memGet zeroed.mem k = 0)

/-- For PERM_GEN, PERM_IDX, TRANSPOSE, BITREV, LAYOUT, ROTACC and ACC_DRAIN on one die, with the pass start passed,
every page of a phase-control stream answering, and no parity error: where the tally and twin checks pass, the
landed granules of every copy are committed, the residues are added, the latches hold the last granules read, and
the command completes OK or goes on to its next unit. Where a check fails, the command completes TALLY_MISMATCH or
TWIN_MISMATCH, and no byte of memory and no register tag or flag of this block is changed before the completion
record is written. Stated with no interruption asked for. (R44, R82, R92, R107, R253, R255, R260) -/
def Obligations.TileSetUnitsCommitOrFailWhole : Prop :=
  ∀ (s : State) (id : Nat) (c : Cmd) (op : Op) (e : Blk),
    let b := ofCtx c.port s.blk
    let back := fun x : Blk => { x with ctx := s.blk.ctx }
    let begun := if c.started then b else emptyLatches (setPhys b c.desc) b
    let now := { c with started := true }
    let ready := updCmd c.id (fun _ => now) begun
    let outs := (copiesOf c.desc).map (setCopy ready op now cleanRun)
    let keys := outs.flatMap (fun o => o.reads.map (·.2))
    let read := readLatches keys ready
    let landed := outs.zipIdx.foldl (fun x o => countMoved c.port o.1.landed.length (fillBanks c.desc o.2 o.1.landed x)) read
    let put := commitSet op now (keyClass landed op now) landed
    let r0 := resSum (residueMod read op now) false (outs.headD {}).outs
    let r1 := resSum (residueMod read op now) true (outs.headD {}).outs
    let t0 := (c.res0 + r0) % tallyM
    let t1 := (c.res1 + r1) % tallyM
    let after := { (freshUnit now) with unit := c.unit + 1, res0 := t0, res1 := t1 }
    let failed := fun code => if multiUnit c.desc then completed now code c.res0 c.res1 e else completed now code r0 r1 e
    passesDue s.blk id c op → isSetCmd op = true → op ≠ .accClear → (tsetOf c.desc.tset).logD = 0 → c.interrupt = 0 →
    (c.started = true ∨ passStart b op c = none) → sectionOutcome b op now = none →
    tableFails read op now = false → firstBad read keys = none →
    (checkSet op now outs read = (e, none) →
      (unitsOf c.desc ≤ c.unit + 1 → canComplete now put →
        Sys2Proof.Machine.exec (.commitUnit id cleanRun) s = .next { s with blk := back (completed now .ok t0 t1 put) })
      ∧ (c.unit + 1 < unitsOf c.desc →
        Sys2Proof.Machine.exec (.commitUnit id cleanRun) s = .next { s with blk := back (updCmd c.id (fun _ => after) put) }))
    ∧ (∀ code, checkSet op now outs read = (e, some code) → canComplete now e →
        (code = .tallyMismatch ∨ code = .twinMismatch) ∧ e.mem = s.blk.mem ∧ e.regs = s.blk.regs
        ∧ Sys2Proof.Machine.exec (.commitUnit id cleanRun) s = .next { s with blk := back (failed code) })

/-- With the pass start passed, every page answering, nothing on another die, and no parity error: where the tally
and twin checks pass, the blocks are staged, every granule of the unit is written at its destination in each copy,
the registers written are marked, the residues are added, and the command completes OK or goes on to its next unit.
Where a check fails the command completes with its code, and only the staging handles have been written before the
completion record. A page not present halts the command at the unit, a denied one completes NOT_OWNER, and nothing
moves. Stated with no interruption asked for. (R44, R63, R64, R65, R66, R72, R73, R253, R255, R260, R363) -/
def Obligations.BlockUnitsCommitOrFailWhole : Prop :=
  ∀ (s : State) (id : Nat) (c : Cmd) (op : Op) (e : Blk),
    let b := ofCtx c.port s.blk
    let back := fun x : Blk => { x with ctx := s.blk.ctx }
    let now := if c.started then c else { c with started := true, farKey := false }
    let ready := if c.started then b
      else emptyLatches ((usedTiles b c).filterMap (physOf b)) (updCmd c.id (fun _ => now) b)
    let items := unitItems op now
    let reads := (copiesOf c.desc).flatMap (fun k => items.flatMap (itemReads k))
    let pages := pageOutcome (refused b (reads ++ items.map (·.dst)))
    let outs := (copiesOf c.desc).map (itemCopy ready op now cleanRun)
    let keys := outs.flatMap (fun o => o.reads.map (·.2))
    let read := readLatches keys (touchLines c.port reads false ready)
    let staged := outs.zipIdx.foldl (fun x o => stageBlocks op now o.2 o.1 x) read
    let r0 := resSum (residueMod staged op now) false (outs.headD {}).outs
    let r1 := resSum (residueMod staged op now) true (outs.headD {}).outs
    let key := now.farKey || keyClass staged op now
    let written := outs.zipIdx.foldl (fun x o =>
      countMoved c.port o.1.landed.length (writeItems op now key items o.2 o.1 x)) staged
    let put := touchLines c.port (items.map (·.dst)) true (markWrites (itemTags written op now) key written)
    let held := if op = .gather then latchBlocks c.staged (unitSources op now) else c.staged
    let t0 := ((c.res0 + r0) % tallyM + 0) % tallyM
    let t1 := ((c.res1 + r1) % tallyM + 0) % tallyM
    let after := { (freshUnit now) with unit := c.unit + 1, res0 := t0, res1 := t1, staged := held }
    let failed := fun code => if multiUnit c.desc then completed now code c.res0 c.res1 e else completed now code r0 r1 e
    let at_ := fun a => { now with faultAddr := some a }
    passesDue s.blk id c op → isCatalogue op = true → isSetCmd op = false →
    (c.started = true ∨ (passStart b op c = none ∧ probes b op c = [])) →
    b.gal.remote = [] → b.gal.remoteRegs = [] → b.gal.remoteBad = [] →
    (pages = none → (∀ a ∈ reads ++ items.flatMap (fun i => [i.dst, twinAddr 1 i.dst]), isRemote b a = false) →
      b.gal.xreq = [] → c.interrupt = 0 → tableFails read op now = false → firstBad read keys = none →
      (checkItems op now outs staged = (e, none) →
        (unitsOf c.desc ≤ c.unit + 1 → canComplete now put →
          Sys2Proof.Machine.exec (.commitUnit id cleanRun) s = .next { s with blk := back (completed now .ok t0 t1 put) })
        ∧ (c.unit + 1 < unitsOf c.desc →
          Sys2Proof.Machine.exec (.commitUnit id cleanRun) s = .next { s with blk := back (updCmd c.id (fun _ => after) put) }))
      ∧ (∀ code, checkItems op now outs staged = (e, some code) → canComplete now e →
          e.mem = staged.mem ∧ e.regs = s.blk.regs
          ∧ Sys2Proof.Machine.exec (.commitUnit id cleanRun) s = .next { s with blk := back (failed code) }))
    ∧ (∀ a ev, pages = some (a, .faultResumable) → canHalt c s.blk → Sys2Proof.Machine.exec (.commitUnit id ev) s
        = .next { s with blk := back (haltsAs (at_ a) 1 1 0 (updCmd c.id (fun _ => at_ a) ready)) })
    ∧ (∀ a ev, pages = some (a, .notOwner) → canComplete now ready → Sys2Proof.Machine.exec (.commitUnit id ev) s
        = .next { s with blk := back (if multiUnit c.desc then completed now .notOwner c.res0 c.res1 ready
            else completed now .notOwner 0 0 ready) })

/-- A write to SQ_TAIL whose distance from SQ_HEAD exceeds 2^LOG_ENTRIES leaves SQ_TAIL as it was, stops the queue
with stop cause 6 (a DISABLED queue, which only ENABLE leaves, stays DISABLED) and writes a QUEUE_STOP record with
stop cause 6 and the refused value. A write to CQ_HEAD that CQ_TAIL is further ahead of than 2^LOG_ENTRIES leaves
every register and writes a QUEUE_STOP record with stop cause 0, the refused value in DETAIL [35:4] and zero in
WHERE. A write within the ring is taken. Nothing else changes. (R136) -/
def Obligations.PointerWritesBeyondTheRingAreRefused : Prop :=
  ∀ (s : State) (p q : Nat) (v : BitVec 32),
    let b := s.blk
    let r := queueOf b p q
    let put := fun y : Queue => { b with qs := tabPut {} b.qs (qKey p q) y }
    let stopped := { r with state := .stopped, cause := 6 }
    let record := fun (cause : Nat) (x : Blk) => sumpPut 0x04 none p q 0 0 (cause + v.toNat * 16) x
    queueExists p q = true →
    (2 ^ r.logEntries.toNat < (v - r.sqHead).toNat →
      (r.state = .disabled → Sys2Proof.Machine.exec (.sqTail p q v) s = .next { s with blk := record 6 b })
      ∧ (r.state ≠ .disabled → Sys2Proof.Machine.exec (.sqTail p q v) s
          = .next { s with blk := record 6 (if r.state = .stopped then put stopped else tenantInt p (put stopped)) }))
    ∧ ((v - r.sqHead).toNat ≤ 2 ^ r.logEntries.toNat →
        Sys2Proof.Machine.exec (.sqTail p q v) s = .next { s with blk := put { r with sqTail := v } })
    ∧ (2 ^ r.logEntries.toNat < (r.cqTail - v).toNat →
        Sys2Proof.Machine.exec (.cqHead p q v) s = .next { s with blk := record 0 b })
    ∧ ((r.cqTail - v).toNat ≤ 2 ^ r.logEntries.toNat →
        Sys2Proof.Machine.exec (.cqHead p q v) s = .next { s with blk := put { r with cqHead := v } })

/-- A CONFIG write with ENABLE on a disabled queue takes LOG_ENTRIES; when the port is enabled, both ring bases lie
where its rings lie (external memory, or the Vault's SRAM for the Vault queue) and are multiples of 4,096, the
restart area is 64-byte aligned and LOG_ENTRIES is 4 to 15, the queue is RUNNING with every pointer, COUNT, the
schedule epoch and the break zero; otherwise ENABLE stays clear and the stop cause reads 7. A CONFIG write with
ENABLE clear stops decoding: the queue reads DISABLED once nothing of it is in flight, and a halted command is
discarded, which completes it ABORTED. On a queue that is not enabled it writes LOG_ENTRIES, which takes effect only
while DISABLED. The discard is stated with no command held at its table check, for a command of one die; that STATE
reads STOPPED while it drains is the model's choice (log entry 69). (R134, R138, R166, R290) -/
def Obligations.QueuesAreEnabledUnderTheirConditions : Prop :=
  ∀ (s : State) (p q : Nat) (config : BitVec 32),
    let b := s.blk
    let r := queueOf b p q
    let put := fun y : Queue => { b with qs := tabPut {} b.qs (qKey p q) y }
    let x := if r.state = .disabled then { r with logEntries := BitVec.ofNat 5 (config.toNat % 32) } else r
    let lies := fun v : BitVec 64 => v.toNat % 4096 = 0
      ∧ (if p = 5 then 0x4000200000 ≤ v.toNat ∧ v.toNat < 0x4000210000 else regionOf v.toNat = some .external)
    let good := portEnabled b p = true ∧ x.state = .disabled ∧ lies x.ringBase ∧ lies x.cplBase ∧ x.restartArea.toNat % 64 = 0
      ∧ 4 ≤ x.logEntries.toNat ∧ x.logEntries.toNat ≤ 15
    let fresh : Queue :=
      { ringBase := x.ringBase, cplBase := x.cplBase, restartArea := x.restartArea, logEntries := x.logEntries
        enable := true, state := .running }
    let off := { r with enable := false, pendingStop := none }
    queueExists p q = true →
    (bitAt config 8 = true →
      (r.enable = true → Sys2Proof.Machine.exec (.enable p q config) s = .next { s with blk := put r })
      ∧ (r.enable = false → good → Sys2Proof.Machine.exec (.enable p q config) s = .next { s with blk := put fresh })
      ∧ (r.enable = false → ¬ good → Sys2Proof.Machine.exec (.enable p q config) s = .next { s with blk := put { x with cause := 7 } }))
    ∧ (bitAt config 8 = false →
      (r.enable = false → Sys2Proof.Machine.exec (.disable p q config) s = .next { s with blk := put x })
      ∧ (r.enable = true → r.restart = none → r.state ≠ .halted → r.state ≠ .disabled → r.logEntries ≠ 0 →
          (inFlight b p q = [] → r.cplWait = [] →
            Sys2Proof.Machine.exec (.disable p q config) s = .next { s with blk := put { off with state := .disabled, cause := 0 } })
          ∧ (inFlight b p q ≠ [] → Sys2Proof.Machine.exec (.disable p q config) s = .next { s with blk := put off }))
      ∧ (∀ h, r.enable = true → r.state = .halted → haltedOf b p q = some h → h.port = p → h.queue = q → noneHeld b →
          spansGallery h = false → canComplete h b →
          Sys2Proof.Machine.exec (.disable p q config) s
            = .next { s with blk := completed h .aborted 0 0 (clearPartial h (put { off with state := .stopped })) }))

/-- CONTROL.STOP moves a RUNNING or BLOCKED queue to STOPPED with stop cause 4, which interrupts the tenant, and
leaves a halted one HALTED with the stop pending; it does nothing to a STOPPED or DISABLED queue. CONTROL.START
moves a STOPPED queue back to BLOCKED while a wait is pending, else to RUNNING, with the stop cause zero; a record
that could not be written is written then, and its command leaves flight. It does nothing in any other state. Stated
for START with no restart record and at most one record held back. (R137, R138, R283) -/
def Obligations.StartAndStopMoveTheQueue : Prop :=
  ∀ (s : State) (p q : Nat) (control : BitVec 32),
    let b := s.blk
    let r := queueOf b p q
    let put := fun y : Queue => { b with qs := tabPut {} b.qs (qKey p q) y }
    let started := { r with state := if r.blockedBy.isSome then .blocked else .running, cause := 0, cplWait := [] }
    queueExists p q = true →
    (bitAt control 1 = true → bitAt control 0 = false →
      (r.state = .running ∨ r.state = .blocked →
        Sys2Proof.Machine.exec (.stop p q control) s
          = .next { s with blk := tenantInt p (put { r with state := .stopped, cause := 4 }) })
      ∧ (r.state = .halted → Sys2Proof.Machine.exec (.stop p q control) s
          = .next { s with blk := put { r with pendingStop := some 4 } })
      ∧ (r.state = .disabled ∨ r.state = .stopped → Sys2Proof.Machine.exec (.stop p q control) s = .next s))
    ∧ (bitAt control 0 = true → bitAt control 1 = false →
      (r.state = .stopped → r.restart = none → r.enable = true →
        (r.cplWait = [] → Sys2Proof.Machine.exec (.start p q control) s = .next { s with blk := put started })
        ∧ (∀ k, r.cplWait = [k] → xstat (ofCtx p b) (cplAddr r r.cqTail) = .ok → (∀ id ∈ k.cmd, cmdOf b id = none) →
            Sys2Proof.Machine.exec (.start p q control) s = .next { s with blk := posted p q k (put started) })
        ∧ (∀ k c, r.cplWait = [k] → xstat (ofCtx p b) (cplAddr r r.cqTail) = .ok → k.cmd = some c.id → cmdOf b c.id = some c →
            c.port = p → c.queue = q →
            let x := leaveFlight c k.code (countCode p k.code (posted p q k (put started)))
            Sys2Proof.Machine.exec (.start p q control) s = .next { s with blk := x } ∧ cmdOf x c.id = none))
      ∧ (r.state ≠ .stopped → Sys2Proof.Machine.exec (.start p q control) s = .next s))

/-- A write to RING_BASE, CPL_BASE or RESTART_AREA of a DISABLED queue gives it the value written; in any other
state the queue keeps its registers, as it does for an offset of the queue's page that names no register of these
three; an offset beyond the queues changes nothing. (R133, R134) -/
def Obligations.RegisterWritesTakeEffectWhileDisabled : Prop :=
  ∀ (s : State) (p off : Nat) (v : BitVec 64),
    let b := s.blk
    let q := off / 0x40
    let r := queueOf b p q
    let put := fun y : Queue => { b with qs := tabPut {} b.qs (qKey p q) y }
    (off < 0x100 → queueExists p q = true →
      (r.state = .disabled → off % 0x40 = 0x00 →
        Sys2Proof.Machine.exec (.tenantRegisterWrite p off v) s = .next { s with blk := put { r with ringBase := v } })
      ∧ (r.state = .disabled → off % 0x40 = 0x08 →
        Sys2Proof.Machine.exec (.tenantRegisterWrite p off v) s = .next { s with blk := put { r with cplBase := v } })
      ∧ (r.state = .disabled → off % 0x40 = 0x10 →
        Sys2Proof.Machine.exec (.tenantRegisterWrite p off v) s = .next { s with blk := put { r with restartArea := v } })
      ∧ (r.state ≠ .disabled ∨ off % 0x40 ∉ [0x00, 0x08, 0x10] →
        Sys2Proof.Machine.exec (.tenantRegisterWrite p off v) s = .next { s with blk := put r }))
    ∧ (0x100 ≤ off ∨ queueExists p q = false → Sys2Proof.Machine.exec (.tenantRegisterWrite p off v) s = .next s)

/-- A segment of the shape of R217, of a master the grade has, goes to its target as a block address: a control core's
through its window, and one that runs into the next line of external memory in two parts. One with no path to its
address has no effect but an error response and a BUS_ERROR record with the master and the address. With a path it is
held back where R203, R215, R217 or R336 say so; it is granted at once when its port is idle and parked on its master
and the requester can pay; else it waits at its port. A grant moves the port's pointer past the requester, occupies
the data path for the segment's length at the port's width, and keeps the port for the burst in hold mode until its
last segment. At a tile store, the Pantry or control space a granted read answers the bytes, as an error where one
has bad parity, and a write stores them. (R204, R208, R210, R211, R212, R215, R216, R217, R218, R220) -/
def Obligations.RequestsAreGrantedHeldOrRefused : Prop :=
  ∀ (s : State) (r : BusReq) (k : Nat),
    let b := s.blk
    let t := b.clk.mc
    let queued := { b with bus := { b.bus with ports := tabUpd {} b.bus.ports k (fun x => { x with waiting := x.waiting ++ [(r, t)] }) } }
    let kept := fun x : BusPort => if firstAt r then holdMode b k else x.hold
    let taken := { queued with bus := { queued.bus with ports := tabUpd {} queued.bus.ports k (fun x => { x with
      ptr := (placeOf k r + 1) % placesAt k
      busy := t + ceilDiv r.bytes (portWidth k)
      cur := some ⟨r, t, oldBytes queued r⟩
      waiting := x.waiting.eraseP (fun e => e.1 == r)
      hold := kept x
      owner := if kept x && !r.last then some r.master else none }) } }
    let freed := if r.last then { taken with bus := { taken.bus with ports := taken.bus.ports.map (fun e =>
      (e.1, { e.2 with owner := if e.2.owner = some r.master then none else e.2.owner })) } } else taken
    let now := parkedFor b k t r.master = true ∧ (32 ≤ k ∨ canPay b r = true)
    let told := sumpPut 0x05 none 6 0 0 r.addr (masterNo r.master % 64 + (if r.write then 64 else 0)) b
    (segmentOk r = true → b.pwr.inReset = false → masterPresent b r.master = true → streamMay b r = true →
      (∀ x, coreReq b r = some x → Sys2Proof.Machine.exec (.busRequest r) s
        = .next { s with blk := (lineParts x).foldl (fun b x => route x b) b })
      ∧ (coreReq b r = some r → lineParts r = [r] → (∀ q, r.master ≠ .cq q) →
        (targetOf b r = none → Sys2Proof.Machine.exec (.busRequest r) s
          = .next { s with blk := { told with out := { told.out with rerror := true, rdata := 0 } } })
        ∧ (targetOf b r = some k →
          (heldBack b k r = true → Sys2Proof.Machine.exec (.busRequest r) s
            = .next { s with blk := { b with bus := { b.bus with held := b.bus.held ++ [(r, t)] } } })
          ∧ (heldBack b k r = false → ¬ now → Sys2Proof.Machine.exec (.busRequest r) s = .next { s with blk := queued })
          ∧ (heldBack b k r = false → now → r.badBeats = 0 → Sys2Proof.Machine.exec (.busRequest r) s
            = .next { s with blk := memoriesMc t (serve k r freed) }))))
    ∧ (∀ e : Blk, 48 ≤ k → k < 82 ∨ k = 88 ∨ k = 89 →
        let wrote := inCtx (reqCtx r) (busWrite r.master r.addr r.bytes r.data.toNat) e
        let seen := ofCtx (reqCtx r) e
        serve k r e = if r.write then { wrote with out := { wrote.out with rerror := false, seen := wrote.out.seen + 1 } }
          else { e with out := { e.out with
            rerror := busBad seen r.addr r.bytes, rdata := BitVec.ofNat 2048 (busRead seen r.addr r.bytes) } })

/-- An answer for an external line in a translation context is what translation and memory last said of it there; with
OK, the 512 bytes are the line's in that context, unless the Cellar holds it dirty or a write waits for it. The first
request in flight of that port, context and line leaves flight: one whose master was reset is discarded, a refused
one gets an error response, a granted read that is not kept gets its bytes, and a refill is kept and answers. A line
that fails parity is asked for again up to REPLAY_LIMIT times. Another agent's write drops every Cellar line of that
address and gives the line its bytes in every context (log entry 84). Memory outside the line keeps its bytes. (R26,
R206, R207, R223, R248, R297, R349) -/
def Obligations.MemoryAnswersForItsLines : Prop :=
  ∀ (s : State) (m ctx line : Nat) (status : RspStatus) (data : List Byte) (f : Flight),
    let b := s.blk
    let key := extKey ctx (line * 512)
    let known := { b with xlat := tabPut .ok b.xlat (key / 512) status }
    let e := if status = .ok then loadLine ctx line data known else known
    let found := b.bus.flight.find? (fun f => f.sent && f.req.home == m && reqCtx f.req == ctx && lineOf f.req.addr == line)
    let done := { e with bus := { e.bus with flight := e.bus.flight.erase f } }
    let cut := { b with bus := { b.bus with cellar := b.bus.cellar.filter (fun l => !(l.addr == line)) } }
    regionOf (line * 512) = some .external → b.pwr.inReset = false →
    (found = none → Sys2Proof.Machine.exec (.memoryResponse m ctx line status data) s = .next { s with blk := e })
    ∧ (found = some f → status = .error → f.tries < b.dict.replayLimit.toNat →
        Sys2Proof.Machine.exec (.memoryResponse m ctx line status data) s = .next { s with blk := askAgain f b })
    ∧ (found = some f → (status = .error → b.dict.replayLimit.toNat ≤ f.tries) →
        (f.kind ≠ .refill → f.discard = true →
          Sys2Proof.Machine.exec (.memoryResponse m ctx line status data) s = .next { s with blk := done })
        ∧ (f.kind = .through → f.discard = false → status ≠ .ok →
          Sys2Proof.Machine.exec (.memoryResponse m ctx line status data) s
            = .next { s with blk := { done with out := { done.out with rerror := true, rdata := 0 } } })
        ∧ (f.kind = .through → f.discard = false → status = .ok → f.req.write = false →
          Sys2Proof.Machine.exec (.memoryResponse m ctx line status data) s = .next { s with blk := answerRead f.req done })
        ∧ (f.kind = .refill → answeredBy e f = [f] → f.discard = false → status = .ok → f.req.write = false →
          Sys2Proof.Machine.exec (.memoryResponse m ctx line status data) s
            = .next { s with blk := answerRead f.req (keepLine f.req.tag f.req.home (lineOf f.req.addr) false done) }))
    ∧ (data.length = 512 → b.bus.cellar.any (fun l => l.addr == line && l.tag == ctx && l.dirty) = false →
        (∀ g ∈ b.bus.flight, g.req.write = false) → loadLine ctx line data b = { b with mem := memPutBytes b.mem key data })
    ∧ (m < 16 → data.length = 512 → Sys2Proof.Machine.exec (.lineInvalidate m line data) s
        = .next { s with blk := (List.range 6).foldl (fun e p => inCtx p (writeBytes (line * 512) data) e) cut })
    ∧ (∀ a, a < key ∨ key + 512 ≤ a → data.length = 512 → memGet (memPutBytes b.mem key data) a = memGet b.mem a)

/-- With no write of the master in progress, a reset of a master that can be reset alone drops its waiting and held
requests, frees the ports it kept, marks its requests in flight, also those to other dies, to be discarded and changes
nothing else at the matrix; no other master's requests are touched. For a fetch engine with one command of its quad on
the matrix, that command completes ABORTED with the destination of the unit it was writing left undefined. The Vault
and the quadrants are not reset alone. FE_WATCHDOG resets a fetch engine for which work waits when 1 ms passes with
nothing issued or retired, and does nothing where no work waits. (R221, R222, R223, R224) -/
def Obligations.AResetMasterLosesItsRequests : Prop :=
  ∀ (s : State) (m : Master) (n : Nat) (c : Cmd),
    let lose := fun (m : Master) (b : Blk) => { b with
      gal := { b.gal with xreq := b.gal.xreq.map (fun e => (e.1, if e.2.master = some m then { e.2 with discard := true } else e.2)) }
      bus := { b.bus with
        ports := b.bus.ports.map (fun e => (e.1, { e.2 with
          waiting := e.2.waiting.filter (fun r => r.1.master != m)
          cur := match e.2.cur with | some g => if g.req.master = m then none else some g | none => none
          owner := if e.2.owner = some m then none else e.2.owner }))
        held := b.bus.held.filter (fun r => r.1.master != m)
        flight := b.bus.flight.map (fun f => if f.req.master = m && f.kind != .back then { f with discard := true } else f) } }
    let quiet := fun m => ∀ k g, (busPort s.blk k).cur = some g → g.req.master = m → g.req.write = false
    let ofFe := fun b : Blk => b.cmds.filter (fun c => usesMatrix c && ofQuad b n c)
    let e := lose (.fe n) s.blk
    let unknown := if writing c then inCtx c.port (undefine (cutAddrs e c)) e else e
    let late := pass 25000 s.blk
    let starved := engineTraffic late n = engineTraffic s.blk n ∧ engineWaits late n = true
    (resetAlone m = true → masterPresent s.blk m = true → quiet m → (∀ n, m ≠ .fe n) →
      Sys2Proof.Machine.exec (.masterReset m) s = .next { s with blk := lose m s.blk })
    ∧ (m = .vault ∨ (∃ q, m = .cq q) ∨ masterPresent s.blk m = false → Sys2Proof.Machine.exec (.masterReset m) s = .next s)
    ∧ (masterPresent s.blk (.fe n) = true → quiet (.fe n) →
        (ofFe e = [] → Sys2Proof.Machine.exec (.masterReset (.fe n)) s = .next { s with blk := e })
        ∧ (ofFe e = [c] → spansGallery c = false → canComplete c unknown →
            Sys2Proof.Machine.exec (.masterReset (.fe n)) s = .next { s with blk := completed c .aborted 0 0 unknown }))
    ∧ (s.blk.vlt.alive = true → s.blk.pwr.inReset = false → masterPresent s.blk (.fe n) = true → engineWaits s.blk n = true →
        (starved → Sys2Proof.Machine.exec (.feWatchdog n) s = .next { s with blk := masterReset (.fe n) late })
        ∧ (¬ starved → Sys2Proof.Machine.exec (.feWatchdog n) s = .next { s with blk := late }))
    ∧ (s.blk.vlt.alive = false ∨ s.blk.pwr.inReset = true ∨ masterPresent s.blk (.fe n) = false ∨ engineWaits s.blk n = false →
        Sys2Proof.Machine.exec (.feWatchdog n) s = .next s)

/-- A core's window base takes bits 47 to 31 of the value written by that core, the Vault or the open Trapdoor. The
fragment view lets the Vault write or read one granule of a frame of a present physical tile that no enabled tenant
holds; a granule with bad parity is read as an error with a PARITY record. Any other master or place gets an error
response and a BUS_ERROR record, and nothing is written; a master that the grade lacks accesses nothing. (R3, R123,
R124, R125, R208, R220) -/
def Obligations.WindowsAndFragmentsAnswerTheirMasters : Prop :=
  ∀ (s : State) (m : Master) (core : Nat) (v : BitVec 64) (write : Bool) (a : Nat) (g : Granule),
    let b := s.blk
    let l := fragLoc (a / 64 * 64)
    let k := frameKey l.1 l.2.1 l.2.2
    let own := core < 4 ∧ (m = .cc core ∨ m = .vault ∨ (m = .trapdoor ∧ trapOpen b = true))
    let refused := fun (write : Bool) (a : Nat) =>
      let t := sumpPut 0x05 none 6 0 0 a (masterNo m % 64 + (if write then 64 else 0)) b
      if masterPresent b m then { t with out := { t.out with rerror := true, rdata := 0 } } else b
    let stored := { b with
      mem := memPutBytes b.mem k (leBytes 64 g.toNat)
      bad := b.bad.filter (fun x => !(decide (k ≤ x) && decide (x < k + 64)))
      out := { b.out with rerror := false } }
    let lost := parityRecord none (storedPlace k).1 a (storedPlace k).2.2 0 b
    (own → Sys2Proof.Machine.exec (.wbase m core v) s = .next { s with blk := { b with bus := { b.bus with
        wbase := tabPut 0 b.bus.wbase core (BitVec.ofNat 48 (v.toNat / 2 ^ 31 % 2 ^ 17 * 2 ^ 31)) } } })
    ∧ (¬ own → Sys2Proof.Machine.exec (.wbase m core v) s = .next { s with blk := refused true (0x4003000000 + 8 * core) })
    ∧ (fragOk b m a = false → Sys2Proof.Machine.exec (.fragmentViewAccess m write a g) s = .next { s with blk := refused write a })
    ∧ (fragOk b m a = true →
      (Sys2Proof.Machine.exec (.fragmentViewAccess m true a g) s = .next { s with blk := stored })
      ∧ (badAt b k = false → Sys2Proof.Machine.exec (.fragmentViewAccess m false a g) s
          = .next { s with blk := { b with out := { b.out with rerror := false, rdata := BitVec.ofNat 2048 (granuleAt b.mem k).toNat } } })
      ∧ (badAt b k = true → Sys2Proof.Machine.exec (.fragmentViewAccess m false a g) s
          = .next { s with blk := { lost with out := { lost.out with rerror := true, rdata := 0 } } }))

/-- A Gallery command that another member forwards enters flight in order of arrival with its home die's number, its
home die's tile addresses named here, and goes on to the dies this one stands between. While the Gallery re-forms it is
held; else, when its checks pass, its lines are brought; when a decode check fails, the first code in the order of R269
goes to the home die instead. GALLERY_COMMIT commits the share that this die has reported without error, acknowledges
and is passed on; the command leaves flight with its last unit. A REPORT from the home die takes the command out of
flight with nothing committed, ZEROISED dropping this die's notices, or has its unit repeated; a report bound for
another die is passed on towards it. Each message stands in the mailbox of its port. (R77, R78, R92, R95, R209, R245,
R248, R272, R273) -/
def Obligations.ForwardedCommandsRunTheirShare : Prop :=
  ∀ (s : State) (die p homeCmd : Nat) (d : Desc) (op : Op) (key : Bool) (r : ReportBody),
    let b := s.blk
    let far := broadcast 4 die homeCmd b
    let c : Cmd :=
      { id := far.nextId, port := p, queue := 0, desc := localDesc far die d, count := 0, t0 := far.clk.tc, mc := far.clk.mc
        st := .ready, home := some (die, homeCmd) }
    let entered := fun c : Cmd => landMail 4 die homeCmd { far with nextId := far.nextId + 1, cmds := far.cmds ++ [c] }
    let e := entered c
    let errs := decodeErrs (ofCtx p e) p 0 op { c.desc with flags := setBit c.desc.flags 4 false } ++ tableErrs e p op c.desc
    let f := fetchCheck (ofCtx p e) p op c.desc [] none
    let taken := { c with entries := f.entries, blocks := f.blocks, header := f.header, fetched := true }
    let refused := fun code : Code => { c with
      st := .gallery
      reports := [{ home := die, cmd := homeCmd, die := dieOf b, kind := .stopped, error := some (0, codeVal code) }] }
    (opOf d = some op → isPeer b die = true → p < 6 → hasTset op d = true → (tsetOf d.tset).logD ≠ 0 → b.pwr.inReset = false →
      (b.gal.reforming = true → Sys2Proof.Machine.exec (.forwardedDescriptor die p homeCmd d) s
        = .next { s with blk := entered { c with st := .held } })
      ∧ (b.gal.reforming = false → (isModular op c.desc && loadAhead e c) = false →
        (errs = [] → firstIn fetchOrder f.errs = none → op ≠ .nop →
          Sys2Proof.Machine.exec (.forwardedDescriptor die p homeCmd d) s
            = .next { s with blk := fetchAhead taken (updCmd c.id (fun _ => taken) e) })
        ∧ (∀ code, firstIn decodeOrder errs = some code →
          Sys2Proof.Machine.exec (.forwardedDescriptor die p homeCmd d) s
            = .next { s with blk := sendMsg 5 (towardsDie e die) homeCmd (updCmd c.id (fun _ => refused code) e) })))
    ∧ (∀ k, forwardedOf b die homeCmd = some k → opOf k.desc = some op →
      let near := broadcast 6 die homeCmd (landMail 6 die homeCmd b)
      let z := sendMsg 7 (towardsDie near die) homeCmd (commitShare op k key near)
      (reportedOk k = true → unitsOf k.desc ≤ k.unit + 1 → Sys2Proof.Machine.exec (.galleryCommit die ⟨homeCmd, key⟩) s
        = .next { s with blk := { z with cmds := z.cmds.filter (fun x => x.id ≠ k.id) } })
      ∧ (reportedOk k = true → k.unit + 1 < unitsOf k.desc → Sys2Proof.Machine.exec (.galleryCommit die ⟨homeCmd, key⟩) s
        = .next { s with blk := updCmd k.id (fun x => { freshUnit x with unit := x.unit + 1 }) z })
      ∧ (reportedOk k = false → Sys2Proof.Machine.exec (.galleryCommit die ⟨homeCmd, key⟩) s = .next s))
    ∧ (∀ k, isPeer b r.home = true → forwardedOf b r.home r.cmd = some k →
      let near := broadcast 5 r.home r.cmd (landMail 5 r.die r.cmd b)
      let n := if r.error.map (·.2) = some 0x50 then dropNotices k.port (setTiles k.desc) near else near
      (r.kind = .withdraw → Sys2Proof.Machine.exec (.report r) s
        = .next { s with blk := dropBulk (setTiles k.desc) { n with cmds := n.cmds.filter (fun x => x.id ≠ k.id) } })
      ∧ (r.kind = .replay → Sys2Proof.Machine.exec (.report r) s = .next { s with blk := replayShare k near }))
    ∧ (isPeer b r.home = true → r.home ≠ dieOf b → r.kind ∉ [ReportKind.withdraw, .replay, .vault] →
      Sys2Proof.Machine.exec (.report r) s = .next { s with
        blk := sendMsg 5 (towardsDie b r.home) r.cmd (landMail 5 r.die r.cmd b) })

/-- A report joins those the home die has; until every die has reported nothing more happens. Then the
earliest-stage first-ranked error ends the command on every die with that code and no commit, or a parity error that may
be met again has every die repeat the unit; with no error and tally sums of some limb that disagree over all dies the
command completes TALLY_MISMATCH; with none, the home die tells every die to commit, commits its own share, adds the
residues of all dies and waits for their acknowledgements. After the last one the command completes OK, or goes on to
its next unit; a FLAG.SET completes OK. One bound for another die is passed on towards it. Stated with another die in
the Gallery, and with no interruption asked for. (R92, R95, R155, R248, R253, R255, R272) -/
def Obligations.TheHomeDieDecidesForTheGallery : Prop :=
  ∀ (s : State) (id die home : Nat) (r : ReportBody) (c : Cmd) (op : Op),
    let b := s.blk
    let got := { c with reports := putReport r c.reports }
    let in_ := updCmd c.id (fun x => { x with reports := putReport r x.reports }) (landMail 5 r.die r.cmd b)
    let ended := fun e : Blk => dropBulk (setTiles c.desc) (broadcast 5 (dieOf in_) c.id e)
    let put := commitShare op got (got.reports.any (·.key)) (broadcast 6 (dieOf in_) c.id in_)
    let sum := galleryRes got.reports
    let dis := galleryDis in_ op got got.reports
    let told := tallyRecord got [] (maskOf (dis.filter (fun x => decide (x < 64)))) false none c.unit in_
    let res := if multiUnit c.desc then (c.res0, c.res1) else sum
    let again := got.reports.any (fun r => r.kind == .result && r.error.map (·.2) == some (codeVal .parity) || r.kind == .stopped) = false
    let waits := { got with
      st := .drain, acks := otherDies put, commitSent := true, reports := []
      res0 := (c.res0 + sum.1) % tallyM, res1 := (c.res1 + sum.2) % tallyM }
    let left := { c with acks := c.acks.filter (· != die) }
    let acked := updCmd id (fun _ => left) (landMail 7 die id b)
    let next := { freshUnit left with
      unit := c.unit + 1, res0 := (c.res0 + 0) % tallyM, res1 := (c.res1 + 0) % tallyM }
    (cmdOf b r.cmd = some c → c.home = none → opOf c.desc = some op → spansGallery c = true → isPeer b r.die = true →
      r.home = dieOf b → r.kind ∉ [ReportKind.withdraw, .replay, .vault] →
      c.reports.any (fun x => x.die == r.die && (x.kind != .begun || r.kind == .begun)) = false →
      (c.st ∉ [CmdState.gallery, .ready] ∨ allReported in_ got = false →
        Sys2Proof.Machine.exec (.report r) s = .next { s with blk := in_ })
      ∧ (c.st ∈ [CmdState.gallery, .ready] → allReported in_ got = true →
        (∀ code, chooseCode got.reports = some code → code ∉ [Code.faultResumable, .zeroised] → ¬ (code = .parity ∧ again) →
          canComplete got (ended in_) →
          Sys2Proof.Machine.exec (.report r) s = .next { s with blk := completed got code res.1 res.2 (ended in_) })
        ∧ (chooseCode got.reports = some .parity → again →
          Sys2Proof.Machine.exec (.report r) s = .next { s with blk := replayShare got (broadcast 5 (dieOf in_) c.id in_) })
        ∧ (chooseCode got.reports = none → dis ≠ [] → canComplete got (ended told) →
          Sys2Proof.Machine.exec (.report r) s
            = .next { s with blk := completed got .tallyMismatch res.1 res.2 (ended told) })
        ∧ (chooseCode got.reports = none → dis = [] → otherDies put ≠ [] →
          Sys2Proof.Machine.exec (.report r) s = .next { s with blk := updCmd c.id (fun _ => waits) put })))
    ∧ (waitsAs .drain b id c → c.acks.contains die = true →
      (left.acks ≠ [] → Sys2Proof.Machine.exec (.commitAcknowledgement ⟨dieOf b, id⟩ die) s = .next { s with blk := acked })
      ∧ (left.acks = [] → opOf c.desc = some .flagSet → canComplete left b →
          Sys2Proof.Machine.exec (.commitAcknowledgement ⟨dieOf b, id⟩ die) s
            = .next { s with blk := completed left .ok 0 0 acked })
      ∧ (left.acks = [] → opOf c.desc ≠ some .flagSet → unitsOf c.desc ≤ c.unit + 1 → canComplete left b →
          Sys2Proof.Machine.exec (.commitAcknowledgement ⟨dieOf b, id⟩ die) s
            = .next { s with blk := completed left .ok ((c.res0 + 0) % tallyM) ((c.res1 + 0) % tallyM) acked })
      ∧ (left.acks = [] → opOf c.desc ≠ some .flagSet → c.unit + 1 < unitsOf c.desc → c.interrupt = 0 →
          Sys2Proof.Machine.exec (.commitAcknowledgement ⟨dieOf b, id⟩ die) s
            = .next { s with blk := updCmd c.id (fun _ => next) acked }))
    ∧ (home ≠ dieOf b → isPeer b home = true → Sys2Proof.Machine.exec (.commitAcknowledgement ⟨home, id⟩ die) s
        = .next { s with blk := sendMsg 7 (towardsDie b home) id (landMail 7 die id b) })

/-- A read or write of another die with a good header is served and answered on its port when something answers here: a
read with the bytes and the tag and flags of their register, in POISON flits when a byte has bad parity; a write by
storing the bytes, marking the register and, from a POISON flit, marking them as having wrong parity. One with no path,
or while the Gallery re-forms, has no effect but an error response. READ_DATA of an outstanding read keeps the granule,
its register's marks and its POISON for the command that asked; a good WRITE_RESPONSE ends the unit after the last one;
an error response ends the command LINK_LOST or ABORTED. A response on another port, or to no outstanding request,
changes nothing. (R95, R100, R104, R108, R208, R227, R232, R245) -/
def Obligations.CrossDieAccessesAreAnswered : Prop :=
  ∀ (s : State) (k : Nat) (h : MsgHeader) (data : BitVec 2048) (m : RegMark) (x : XReq) (c : Cmd),
    let b := s.blk
    let value := BitVec.ofNat 2048 (ofLe (readBytes b h.addr h.len))
    let answer := { b with out := { b.out with rerror := false, rdata := value, rmark := markOf b h.addr } }
    let wrote := writeBytes h.addr (leBytes h.len data.toNat) b
    let marked := markRemote h.addr m wrote
    let stored := if h.poison then spoil h.addr h.len marked else marked
    let done := { stored with out := { stored.out with rerror := false } }
    let taken := { b with gal := { b.gal with xreq := tabDel h.txn b.gal.xreq } }
    (headerTaken b k 0 h = true →
      (turnsAway b k h = false → Sys2Proof.Machine.exec (.linkRead k h) s = .next { s with
        blk := transmitBytes k 2 (16 + h.len) (poisonsAt b h.addr h.len) (sendMsg 2 h.srcDie h.txn answer) })
      ∧ (turnsAway b k h = true → Sys2Proof.Machine.exec (.linkRead k h) s = .next { s with
        blk := transmitBytes k 2 16 false (sendMsg 2 h.srcDie h.txn (busError (.li k) false h.addr b)) }))
    ∧ (headerTaken b k 1 h = true →
      (turnsAway b k h = false → Sys2Proof.Machine.exec (.linkWrite k h data m) s = .next { s with
        blk := transmitBytes k 2 16 false (sendMsg 3 h.srcDie h.txn done) })
      ∧ (turnsAway b k h = true → Sys2Proof.Machine.exec (.linkWrite k h data m) s = .next { s with
        blk := transmitBytes k 2 16 false (sendMsg 3 h.srcDie h.txn (busError (.li k) true h.addr b)) }))
    ∧ (tabFind b.gal.xreq h.txn = some x → x.port = k → x.discard = false → x.cmd = some c.id → cmdOf b c.id = some c →
      (headerTaken b k 2 h = true → x.write = false →
        Sys2Proof.Machine.exec (.readData k h true data m) s = .next { s with blk := { b with gal := { b.gal with
          xreq := tabDel h.txn b.gal.xreq
          remote := tabIns x.addr (BitVec.ofNat 512 data.toNat) b.gal.remote
          remoteRegs := tabPut noMark b.gal.remoteRegs (x.addr / 0x40000) m
          remoteBad := if h.poison then b.gal.remoteBad ++ [x.addr] else b.gal.remoteBad } } })
      ∧ (headerTaken b k 3 h = true → x.write = true → writesOut taken c.id = true ∨ c.st ≠ .drain →
          Sys2Proof.Machine.exec (.writeResponse k h true) s = .next { s with blk := taken })
      ∧ (headerTaken b k 3 h = true → x.write = true → writesOut taken c.id = false → c.st = .drain →
          unitsOf c.desc ≤ c.unit + 1 → canComplete c b →
          Sys2Proof.Machine.exec (.writeResponse k h true) s
            = .next { s with blk := completed c .ok ((c.res0 + 0) % tallyM) ((c.res1 + 0) % tallyM) taken })
      ∧ (c.st ≠ .halted →
        (headerTaken b k 2 h = true → x.write = false →
          Sys2Proof.Machine.exec (.readData k h false data m) s = .next { s with blk := loseLink c taken })
        ∧ (headerTaken b k 3 h = true → x.write = true →
          Sys2Proof.Machine.exec (.writeResponse k h false) s = .next { s with blk := loseLink c taken })))
    ∧ (∀ ok, (∀ y, tabFind b.gal.xreq h.txn = some y → y.port ≠ k) →
      Sys2Proof.Machine.exec (.readData k h ok data m) s = .next s
      ∧ Sys2Proof.Machine.exec (.writeResponse k h ok) s = .next s)

/-- At an ACTIVE port a flit with a good CRC, zero reserved bits and the next number is accepted, and every 64th
unacknowledged one has a CTRL acknowledge them: a BULK flit lands its runs with its POISON mark; its buffer is freed,
which the next CREDIT tells; a CTRL flit drops the acknowledged flits, returns credits and tells the lanes, and with NAK
set everything left is sent again. A good flit that comes ahead of its turn, within 64, is held. Any other is discarded
with those held, and the first discard after an accepted one sends a NAK. An IDLE flit counts for its CRC only. The
codewords of the lane are counted first. After an accepted flit those held whose turn has come are taken: the effect of
one flit is stated with none held whose turn comes next. REPLAY_TIMER sends everything unacknowledged again, counts it,
and fails the port at a flit sent 8 times. A port out of service takes nothing.
(R230, R231, R232, R233, R234, R235, R242, R337) -/
def Obligations.FlitsAreTakenInOrder : Prop :=
  ∀ (s : State) (k : Nat) (f : Flit) (runs : List BulkRun) (c : CtrlBody),
    let b := countCodewords k f s.blk
    let x := portOf b k
    let put := fun (y : LinkPort) (e : Blk) => { e with link := tabPut {} e.link k y }
    let next := { x with rxSeq := x.rxSeq + 1, unacked := x.unacked + 1, nakSent := false }
    let acked := if 64 ≤ x.unacked + 1 then pumpPort { next with txWait := next.txWait ++ [(4, false)] } else next
    let freed := { acked with freed := tabUpd 0 acked.freed (f.cls % 4) (· + 1) }
    let landed := { b with gal := { b.gal with bulk := b.gal.bulk ++ runs.map (fun r => ⟨k, f.poison, r⟩) } }
    let told := pumpPort (countOmitted c.lanes (takeCredits c.credit { acked with replay := dropAcked c.ack acked.replay }))
    let rests := fun e : Blk => if told.standbySent ∧ told.standbyGot ∧ told.replay = [] then portPower k 1 e else e
    let inOrder := f.crcGood = true ∧ f.reservedZero = true ∧ f.seq = x.rxSeq
    let ahead := f.crcGood = true ∧ f.reservedZero = true ∧ 0 < (f.seq - x.rxSeq).toNat ∧ (f.seq - x.rxSeq).toNat < 64
    let held := fun i : RxItem => { x with rxHeld := x.rxHeld.filter (fun y => y.1 != f.seq) ++ [(f.seq, i)] }
    let again := fun (y : LinkPort) (e : Blk) => if y.replay = [] then e
      else if y.replay.any (fun e => decide (8 ≤ e.times)) then failPort k e
      else countAdd (cntKey 0x6030 (k + 1) 2) y.replay.length
        (put { y with replay := y.replay.map (fun e => { e with times := e.times + 1, lane := dealLane y e.seq }) } e)
    let quiet := { x with rxHeld := [] }
    let dropped := if x.nakSent then put quiet b
      else put (pumpPort { quiet with nakSent := true, txWait := x.txWait ++ [(5, false)] }) b
    ((portOf s.blk k).state = .active →
      (inOrder → (∀ y ∈ x.rxHeld, y.1 ≠ x.rxSeq + 1) →
        (f.cls = 0 → Sys2Proof.Machine.exec (.dataFlit k f runs) s = .next { s with blk := put freed landed })
        ∧ (f.cls ≠ 0 → Sys2Proof.Machine.exec (.dataFlit k f runs) s = .next { s with blk := put freed b })
        ∧ (Sys2Proof.Machine.exec (.ctrlFlit k f c) s = .next { s with blk := rests (put told b) })
        ∧ (told.replay.any (fun e => decide (8 ≤ e.times)) = false →
            Sys2Proof.Machine.exec (.nak k f c) s = .next { s with blk := again told (rests (put told b)) })
        ∧ (told.replay.any (fun e => decide (8 ≤ e.times)) = true →
            Sys2Proof.Machine.exec (.nak k f c) s = .next { s with blk := drainHeld k 64 (failPort k (rests (put told b))) }))
      ∧ (inOrder → Sys2Proof.Machine.exec (.dataFlit k f runs) s
          = .next { s with blk := drainHeld k 64 (put freed (if f.cls = 0 then landed else b)) })
      ∧ (ahead →
        Sys2Proof.Machine.exec (.dataFlit k f runs) s = .next { s with blk := put (held (.data f runs)) b }
        ∧ Sys2Proof.Machine.exec (.ctrlFlit k f c) s = .next { s with blk := put (held (.ctrl c)) b }
        ∧ Sys2Proof.Machine.exec (.nak k f c) s = .next { s with blk := put (held (.nak c)) b })
      ∧ (¬ inOrder → ¬ ahead →
        Sys2Proof.Machine.exec (.dataFlit k f runs) s = .next { s with blk := dropped }
        ∧ Sys2Proof.Machine.exec (.ctrlFlit k f c) s = .next { s with blk := dropped }
        ∧ Sys2Proof.Machine.exec (.nak k f c) s = .next { s with blk := dropped })
      ∧ (f.crcGood = true → Sys2Proof.Machine.exec (.idleFlit k f) s = .next { s with blk := b })
      ∧ (f.crcGood = false → Sys2Proof.Machine.exec (.idleFlit k f) s
          = .next { s with blk := countCodewords k { f with uncorrectable := max 1 f.uncorrectable } s.blk })
      ∧ (Sys2Proof.Machine.exec (.replayTimer k) s = .next { s with blk := again (portOf s.blk k) s.blk }))
    ∧ ((portOf s.blk k).state ≠ .active →
        Sys2Proof.Machine.exec (.dataFlit k f runs) s = .next s ∧ Sys2Proof.Machine.exec (.ctrlFlit k f c) s = .next s
        ∧ Sys2Proof.Machine.exec (.nak k f c) s = .next s ∧ Sys2Proof.Machine.exec (.idleFlit k f) s = .next s
        ∧ Sys2Proof.Machine.exec (.replayTimer k) s = .next s)

/-- A good rail lets an OFF port that may train start, every lane in DETECT but the degraded ones; one whose training
failed stays OFF. A lane that completes a state goes to the next, LOCK after 4 good codewords in a row and only within
40 ns of skew, and one that enters IDENTIFY carries the port's IDENT; one that times out fails; a port training from OFF
with fewer than 7 lanes left goes OFF. A valid IDENT on at least 7 lanes makes the port ACTIVE with the credits named,
an invalid one leaves it OFF with a record of what came and an alert. A port whose policy lets it answers STANDBY and,
with its flits acknowledged, rests in RETAIN; traffic wakes the standby ports to its neighbour, which train again.
(R229, R231, R235, R237, R238, R239, R337, R338) -/
def Obligations.TrainingBringsPortsIntoService : Prop :=
  ∀ (s : State) (k lane : Nat) (rx : LaneRx) (lanes : BitVec 8) (i : IdentBody),
    let b := s.blk
    let x := portOf b k
    let put := fun (y : LinkPort) (e : Blk) => { e with link := tabPut {} e.link k y }
    let power := fun (v : Nat) (e : Blk) => { e with pwr := { e.pwr with portPower := tabIns k v e.pwr.portPower } }
    let good := { b with pwr := { b.pwr with linkGood := setBit b.pwr.linkGood k true } }
    let train := fun (retain : Bool) (y : LinkPort) => { quietPort y with
      state := LinkState.training, fromRetain := retain
      lanes := (List.range 8).map (fun l => (l, if natBit y.degraded.toNat l then LaneState.failed else .detect)) }
    let count := if rx.codewords = 0 then 0 else tabGet 0 x.codewords lane + rx.codewords
    let reached := match laneOf x lane with
      | .detect => LaneState.equalise
      | .equalise => .lock
      | .lock => if count < 4 then .lock else if rx.skewNs ≤ 40 then .identify else .failed
      | y => y
    let moved := { x with
      lanes := tabPut .idle x.lanes lane reached
      codewords := if laneOf x lane == .lock then tabPut 0 x.codewords lane count else x.codewords
      identSent := if reached == .identify then setBit x.identSent lane true else x.identSent }
    let failed := { x with lanes := tabIns lane .failed x.lanes }
    let shut := fun y : LinkPort => { y with state := .off, lanes := [], shut := true }
    let l := admitted x lanes
    let up := { b.gal with working := setBit (setBit b.gal.working (dieOf b) true) i.die true }
    let down := power 0 (put (shut (quietPort x)) b)
    let got := portOf (acceptFlit k b) k
    let answered := if got.standbySent then got else pumpPort { got with txWait := got.txWait ++ [(8, false)] }
    let resting := { answered with standbySent := true, standbyGot := true }
    (k < 6 →
      (x.state = .off → x.shut = false → mayTrain good k = true →
        Sys2Proof.Machine.exec (.linkPwrGood k) s = .next { s with blk := power 2 (put (train false x) good) })
      ∧ (x.state ≠ .off ∨ x.shut = true ∨ mayTrain good k = false →
        Sys2Proof.Machine.exec (.linkPwrGood k) s = .next { s with blk := good }))
    ∧ (x.state = .training → lane < 8 →
        (7 ≤ hopeful moved → Sys2Proof.Machine.exec (.laneTraining k lane rx) s = .next { s with blk := put moved b })
        ∧ (hopeful moved < 7 → x.fromRetain = false → Sys2Proof.Machine.exec (.laneTraining k lane rx) s
            = .next { s with blk := power 0 (put (shut moved) (put moved b)) })
        ∧ (laneOf x lane ≠ .idle → 7 ≤ hopeful failed →
            Sys2Proof.Machine.exec (.trainingTimeout k lane) s = .next { s with blk := put failed b })
        ∧ (laneOf x lane ≠ .idle → hopeful failed < 7 → x.fromRetain = false →
            Sys2Proof.Machine.exec (.trainingTimeout k lane) s
              = .next { s with blk := power 0 (put (shut failed) (put failed b)) }))
    ∧ (x.state = .training → l ≠ 0 →
        (identOk b k i = true → 7 ≤ (setBits l.toNat 8).length → x.retrained = false ∨ x.fromRetain = true →
          Sys2Proof.Machine.exec (.ident k lanes i) s = .next { s with blk := { power 2 (put (activate l i x) b) with gal := up } })
        ∧ (identOk b k i = false → Sys2Proof.Machine.exec (.ident k lanes i) s = .next { s with
            blk := raiseAlert 6 (sumpPut 0x31 none 6 0 0 k (i.packageId.toNat + i.die % 8 * 2 ^ 32 + i.port % 8 * 2 ^ 35
              + i.shape % 4 * 2 ^ 38 + i.grade % 256 * 2 ^ 40) down) }))
    ∧ (x.state = .active → bitAt b.pwr.idlePolicy 2 = true →
        (resting.replay = [] → Sys2Proof.Machine.exec (.standby k) s
          = .next { s with blk := power 1 (put resting (acceptFlit k b)) })
        ∧ (resting.replay ≠ [] → Sys2Proof.Machine.exec (.standby k) s
          = .next { s with blk := put resting (acceptFlit k b) }))
    ∧ (allPorts.filter (fun j => inStandby b j && portDim b j == portDim b k) = [k] → inStandby b k = true →
        Sys2Proof.Machine.exec (.linkWake k) s = .next { s with blk := power 2 (put (train true x) b) })

/-- An active lane that loses codeword lock retrains and is dealt no flit; one whose retraining ends is dealt flits
again, but three failures in succession degrade it, with a LINK_DEGRADED record, an alert and the epoch changed with
cause 3 while at least 7 lanes stay. A silent ACTIVE port that is not in standby FAILS with a record, an alert and its
ingress reset; a surviving port to the same neighbour takes its outstanding requests after a HANDOVER and the epoch
changes with cause 4; with none, the neighbour is lost. HANDOVER has every flit of the failed port after the named one
sent again ahead of the port's own. A LOSS of dies not yet known lost ends the cross-die work, is forwarded, and has the
Gallery re-form; a known one is only accepted. A second change of capacity of one port in the same mc leaves the epoch.
(R221, R242, R243, R244, R245) -/
def Obligations.PortsDegradeFailAndHandOver : Prop :=
  ∀ (s : State) (k lane n failed t mask die : Nat) (last : BitVec 12),
    let b := s.blk
    let x := portOf b k
    let put := fun (y : LinkPort) (e : Blk) => { e with link := tabPut {} e.link k y }
    let changed := fun (cause : Nat) (e : Blk) => if (portOf e k).eventMc = some e.clk.mc then e
      else newEpoch cause (updPort k (fun x => { x with eventMc := some e.clk.mc }) e)
    let waits := { x with
      retraining := setBit x.retraining lane true, omitted := tabDel lane x.omitted, uncorr := tabDel lane x.uncorr }
    let back := pumpPort { x with retraining := setBit x.retraining lane false }
    let lost := { x with
      active := setBit x.active lane false, degraded := setBit x.degraded lane true, retraining := setBit x.retraining lane false }
    let fell := resetMaster (.li k) (raiseAlert 6 (sumpPut 0x31 none 6 0 0 k 0 b))
    let dead := { fell with
      link := tabUpd {} fell.link k (fun x => { x with
        state := .failed, lanes := [], active := 0, retraining := 0, rxHeld := [], standbySent := false, standbyGot := false })
      pwr := { fell.pwr with portPower := tabIns k 0 fell.pwr.portPower } }
    let told := transmit t 6 dead
    let moved := { told with gal := { told.gal with xreq := told.gal.xreq.map (fun e => (e.1, if e.2.port = k then { e.2 with port := t } else e.2)) } }
    let near := acceptFlit k b
    let y := portOf near failed
    let left := (dropAcked last y.replay).map (fun e => (e.cls, e.poison)) ++ y.txWait
    let cleared := { near with link := tabUpd {} near.link failed (fun x => { x with replay := [], txWait := [] }) }
    let handed := { cleared with link := tabUpd {} cleared.link k (fun x => pumpPort { x with txWait := left ++ x.txWait }) }
    let cut := floodLoss (endCrossDie near)
    (x.state = .active → bitAt x.active lane = true → x.standbySent = false → lane < 8 →
      (Sys2Proof.Machine.exec (.laneRetrain k lane none) s = .next { s with blk := put waits b })
      ∧ (bitAt x.retraining lane = true → n < 3 →
        Sys2Proof.Machine.exec (.laneRetrain k lane (some n)) s = .next { s with blk := put back b })
      ∧ (bitAt x.retraining lane = true → 3 ≤ n → 7 < laneCount x →
        Sys2Proof.Machine.exec (.laneRetrain k lane (some n)) s = .next { s with
          blk := changed 3 (raiseAlert 6 (sumpPut 0x30 none 6 0 0 (k + lane * 8) 1 (put lost b))) })
      ∧ (bitAt x.retraining lane = false → Sys2Proof.Machine.exec (.laneRetrain k lane (some n)) s = .next s))
    ∧ (x.state = .active → ¬ (x.standbySent = true ∧ x.standbyGot = true) →
      (survivor dead k = some t → Sys2Proof.Machine.exec (.portSilence k) s = .next { s with blk := changed 4 moved })
      ∧ (survivor dead k = none → Sys2Proof.Machine.exec (.portSilence k) s
          = .next { s with blk := takeLoss (BitVec.ofNat 8 (2 ^ peerDie dead k)) dead }))
    ∧ (x.state ≠ .active ∨ (x.standbySent = true ∧ x.standbyGot = true) → Sys2Proof.Machine.exec (.portSilence k) s = .next s)
    ∧ (x.state = .active → k ≠ failed → failed < 6 → y.state = .failed → portDim b k = portDim b failed →
        Sys2Proof.Machine.exec (.handover k failed last) s = .next { s with blk := countAdd (cntKey 0x6030 (failed + 1) 3) 1 handed })
    ∧ (x.state = .active → die < 8 →
        (BitVec.ofNat 8 mask &&& ~~~ b.gal.lost ≠ 0 → Sys2Proof.Machine.exec (.loss k mask die) s
          = .next { s with blk := { cut with gal := { cut.gal with lost := cut.gal.lost ||| BitVec.ofNat 8 mask, reforming := true } } })
        ∧ (BitVec.ofNat 8 mask &&& ~~~ b.gal.lost = 0 →
          Sys2Proof.Machine.exec (.loss k mask die) s = .next { s with blk := near }))

/-- With the members the choice of R240 gives over the states the Vaults exchanged, this die's own ports among them, a
discovery that leaves the members as they are changes the working dies and each port's GALLERY_ACTIVE only; one that
changes them takes the members, LOG_D and this die's rank, ends the re-forming, sets the epoch to one more than the
largest any member holds with cause 5, writes a GALLERY record with an alert, and has the forwarded descriptors that
were held judged. Once a discovery has chosen, every later choice lies within the members of the Gallery, and a choice
of more than one die has an ACTIVE port of this die. (R240, R241, R245, R246, R292, R324) -/
def Obligations.DiscoveryChoosesTheGallery : Prop :=
  ∀ (s : State) (st : PeerStates),
    let b := s.blk
    let p := withOwn b st
    let m := chosenMembers b (if b.gal.formed then b.gal.members.toNat else 255) p
    let logD := (freeDims m).length
    let e := max b.vlt.epoch.toNat p.epoch.toNat + 1
    let same := { b with gal := { b.gal with working := p.working, formed := true } }
    let new := { b with gal := { b.gal with
      members := BitVec.ofNat 8 m, logD := logD, rank := rankOf m (dieOf b), working := p.working
      reforming := false, formed := true, lost := 0, lanes := p.lanes } }
    hasLinks b = true → b.pwr.inReset = false → b.vlt.alive = true → shapeDims b ≠ 0 →
    (b.gal.reforming = false → m = b.gal.members.toNat →
      Sys2Proof.Machine.exec (.discovery st) s = .next { s with blk := setGalleryActive p.agree b.gal.logD same })
    ∧ (b.gal.reforming = true ∨ m ≠ b.gal.members.toNat → Sys2Proof.Machine.exec (.discovery st) s = .next { s with
        blk := releaseHeld (raiseAlert 7 (sumpPut 0x32 none 6 0 0 (b.gal.members.toNat + m * 2 ^ 8 + logD * 2 ^ 16) e
          (setEpochTo (BitVec.ofNat 32 e) 5 (setGalleryActive p.agree logD new)))) })
    ∧ (b.gal.formed = true → bitAt b.gal.members (dieOf b) = true → ∀ d, natBit m d = true → bitAt b.gal.members d = true)
    ∧ (m ≠ 2 ^ dieOf b → ∃ k, k ∈ allPorts ∧ (portOf b k).state = .active)

/-- SPARE_SCRUB wakes quad 16 and marks each free spare that fails its test failed, with a SPARE_RETIRE record and
an alert and no change of epoch. TILE_RETIRE of a tile whose faults call for it waits until its tile is quiet, decoding
nothing more for it; then it copies its registers to a zeroised spare, binds the logical tile there, changes the epoch with cause 1, writes a record and
zeroises the old tile, with its counts done with; when the place comes from a logical tile of no tenant that tile
reads failed first; with no place at all the logical tile reads failed and leaves its tenants, whose frames are
saved. (R262, R263, R264, R266, Table SMP-4) -/
def Obligations.TilesAreRetiredAndSparesScrubbed : Prop :=
  ∀ (s : State) (p t x d : Nat) (unreadable bad : List Nat),
    let b := s.blk
    let woken := { b with pwr := { b.pwr with quads := tabPut 2 b.pwr.quads 16 2 } }
    let failed := fun (y : Nat) (e : Blk) => { e with vlt := { e.vlt with phys := tabPut 0 e.vlt.phys y 2 } }
    let retired := fun e : Blk =>
      let z := failed p (zeroiseTile p e)
      { z with vlt := { z.vlt with
        due := z.vlt.due.filter (· != p), retiring := tabDel p z.vlt.retiring
        faults := tabDel p z.vlt.faults, repeats := tabDel p z.vlt.repeats } }
    let noted := fun (lost : List Nat) (e : Blk) => if lost = [] then e else (tileTenants e t).foldl (fun f y => addNotice y t f) e
    let bound := fun e : Blk => { e with vlt := { e.vlt with tileMap := tabIns t x e.vlt.tileMap, phys := tabPut 0 e.vlt.phys x 0 } }
    let moved := fun (e : Blk) => newEpoch 1 (bound (noted (lostFrames e p unreadable) (copyFrames p x unreadable (zeroiseTile x e))))
    let frames := fun lost : List Nat => maskOf (lost.filter (fun y => decide (y < 16))) + (if lost.contains 24 then 2 ^ 16 else 0)
    let replaced := fun (alert : Nat) (e : Blk) => retired (whileHalted [t] (fun f =>
      raiseAlert alert (sumpPut 0x20 none 6 0 0 (p + x * 2 ^ 7 + t * 2 ^ 14) (frames (lostFrames e p unreadable)) (moved f))) e)
    let asked := { b with vlt := { b.vlt with retiring := tabIns p unreadable b.vlt.retiring } }
    let settled := settleTiles [t] asked
    let both := settleTiles [t, d] asked
    let rest := fun (l : List Nat) (e : Blk) => { e with vlt := { e.vlt with quieting := e.vlt.quieting.filter (fun y => !l.contains y) } }
    let q := rest [t] settled
    let q2 := rest [t, d] both
    let freed := { q2 with vlt := { q2.vlt with tileMap := tabDel d q2.vlt.tileMap } }
    let saved := (tileTenants q t).foldl (fun e y => saveTiles y (activeOf e y) [t] (lostFrames q p unreadable) e) q
    let ended := everyPort.foldl (fun e y => eachVaultHalt y [t] discardCmd e) (endTileStreams t saved)
    let left := leavePorts (List.range 5) t ended
    let unbound := { left with vlt := { left.vlt with tileMap := tabDel t left.vlt.tileMap } }
    let gone := sumpPut 0x20 none 6 0 0 (p + 0x7F * 2 ^ 7 + t * 2 ^ 14)
      (frames (lostFrames q p unreadable) + (if tileTenants q t = [] then 0 else 2 ^ 17)) (newEpoch 1 unbound)
    b.vlt.alive = true → b.pwr.inReset = false →
    Sys2Proof.Machine.exec (.spareScrub bad) s = .next { s with
      blk := ((freeSpares b).filter bad.contains).foldl (fun e y => raiseAlert 4 (sumpPut 0x21 none 6 0 0 y 0 (failed y e))) woken }
    ∧ (b.vlt.due.contains p = true → logicalOf b p = some t →
        (replacement asked t = some (x, none) → quietTiles settled [t] = true →
          Sys2Proof.Machine.exec (.tileRetire p unreadable) s = .next { s with blk := replaced 2 q })
        ∧ (replacement asked t = some (x, some d) → quietTiles both [t, d] = true →
          Sys2Proof.Machine.exec (.tileRetire p unreadable) s = .next { s with blk := replaced 3 freed })
        ∧ (replacement asked t = none → quietTiles settled [t] = true →
          Sys2Proof.Machine.exec (.tileRetire p unreadable) s = .next { s with blk := retired (raiseAlert 3 gone) })
        ∧ (replacement asked t = none ∨ replacement asked t = some (x, none) → quietTiles settled [t] = false →
          Sys2Proof.Machine.exec (.tileRetire p unreadable) s = .next { s with blk := settled })
        ∧ (replacement asked t = some (x, some d) → quietTiles both [t, d] = false →
          Sys2Proof.Machine.exec (.tileRetire p unreadable) s = .next { s with blk := both }))
    ∧ (b.vlt.due.contains p = false → Sys2Proof.Machine.exec (.tileRetire p unreadable) s = .next s)
    ∧ (∀ e : Blk, (moved e).vlt.epoch = e.vlt.epoch + 1 ∧ physOf (moved e) t = some x)

/-- A firmware load resets the cores, zeroises the control SRAM and copies the image at FW_BASE there; when every
check of Table VLT-5 passes the cores run, decoding goes on and the data window is taken, else the cores stay in
reset with the reason, a FIRMWARE record and an alert. FW_LOAD is answered OK before it; a parity error in control
SRAM first holds decoding with a SRAM_PARITY record and an alert, and waits for the Vault when that is stopped. A
parity error in Vault SRAM stops the Vault, with its record and alert. (R219, R249, R298, R300, R320, Table VLT-5)
-/
def Obligations.FirmwareIsLoadedAndVerified : Prop :=
  ∀ (s : State) (addr : Nat) (readOk : Bool) (r : DictReq) (reason : Nat),
    let b := s.blk
    let cores := fun e : Blk => (List.range 4).foldl (fun f c => resetMaster (.cc c) f) e
    let inPlace := b.dict.fwBase.toNat % 64 == 0 && regionOf b.dict.fwBase.toNat == some .external
    let size := fun e : Blk => fwHeaderSize + min (fwLength e b.dict.fwBase.toNat) sramSize
    let good := fun e : Blk => inPlace && fwReadOk e b.dict.fwBase.toNat (size e) readOk
    let copied := fun e : Blk => if inPlace then fwCopy b.dict.fwBase.toNat (cores e) else zeroKeys sramBase sramSize (cores e)
    let runs := fun e : Blk =>
      let f := copied e
      { f with
        vlt := { f.vlt with fwState := 2, fwReason := 0, coreState := 0x55, decodeHeld := false
                            dataBase := f.dict.fwDataBase, dataSize := f.dict.fwDataSize }
        dict := { f.dict with bootswapNow := f.dict.bootswap } }
    let stays := fun e : Blk =>
      let f := copied e
      let z := { f with vlt := { f.vlt with fwState := 3, fwReason := reason, coreState := 0 } }
      raiseAlert 9 (sumpPut 0x41 none 6 0 0 b.dict.fwBase.toNat reason z)
    let held := { b with vlt := { b.vlt with decodeHeld := true } }
    let noted := raiseAlert 1 (sumpPut 0x40 none 6 0 0 addr 0 held)
    let stopped := { b with vlt := { b.vlt with alive := false } }
    let answered := respond .write r .ok [] b
    (arrived b .write r = true → requestStatus b .write r = .ok → isEntry 0x2050 2 r.index r.sub = true → reqValue r = 1 →
        (fwReason (copied answered) (good answered) = 0 →
          Sys2Proof.Machine.exec (.fwLoad r readOk) s = .next { s with blk := runs answered })
        ∧ (fwReason (copied answered) (good answered) = reason → reason ≠ 0 →
          Sys2Proof.Machine.exec (.fwLoad r readOk) s = .next { s with blk := stays answered }))
    ∧ (b.pwr.inReset = false → sramBase ≤ addr → addr < sramBase + sramSize →
        (b.vlt.alive = true → fwReason (copied noted) (good noted) = 0 →
          Sys2Proof.Machine.exec (.controlSramParity addr readOk) s = .next { s with blk := runs noted })
        ∧ (b.vlt.alive = true → fwReason (copied noted) (good noted) = reason → reason ≠ 0 →
          Sys2Proof.Machine.exec (.controlSramParity addr readOk) s = .next { s with blk := stays noted })
        ∧ (b.vlt.alive = false → Sys2Proof.Machine.exec (.controlSramParity addr readOk) s = .next { s with blk := noted }))
    ∧ (b.pwr.inReset = false → 0x4000200000 ≤ addr → addr < 0x4000210000 →
        Sys2Proof.Machine.exec (.vaultSramParity addr) s
          = .next { s with blk := raiseAlert 0 (sumpPut 0x40 none 6 0 0 addr 1 stopped) })

/-- At the comparison, which falls on the next multiple of 100 us, POWER_NOW takes the reading; with POWER_CAP
nonzero and exceeded CLOCK_NOW falls by 25 MHz while it is above CLOCK_FLOOR, and at the floor the hold rises by 10
up to 90; with POWER_NOW at most 95 percent of the cap the hold falls by 10 first, and at hold 0 CLOCK_NOW rises by
25 MHz up to 1600; between the two nothing moves. A write of POWER_CAP takes 0 or 200 to 1800, any other value
answers BAD_VALUE, and a write of 0 clears the hold and raises the clock at once. (R332, R333) -/
def Obligations.PowerCapStepsTheClockAndTheHold : Prop :=
  ∀ (s : State) (now : BitVec 16) (r : DictReq),
    let b := s.blk
    let at_ := passTo ((b.clk.tick / 2500 + 1) * 2500) b
    let x := at_.pwr
    let held := { x with powerNow := now }
    let ok := respond .write r .ok [] b
    let n := now.toNat
    let cap := x.cap.toNat
    (b.pwr.standby = true →
      (cap = 0 →
        Sys2Proof.Machine.exec (.powerCapCheck now) s = .next { s with blk := { at_ with pwr := held } })
      ∧ (cap ≠ 0 → cap < n → x.clockFloor.toNat < x.clockNow.toNat →
        Sys2Proof.Machine.exec (.powerCapCheck now) s = .next { s with blk := { at_ with pwr := { held with clockNow := x.clockNow - 25 } } })
      ∧ (cap ≠ 0 → cap < n → x.clockNow.toNat ≤ x.clockFloor.toNat →
        Sys2Proof.Machine.exec (.powerCapCheck now) s = .next { s with blk := { at_ with pwr := { held with hold := min 90 (x.hold + 10) } } })
      ∧ (cap ≠ 0 → 100 * n ≤ 95 * cap → x.hold ≠ 0 →
        Sys2Proof.Machine.exec (.powerCapCheck now) s = .next { s with blk := { at_ with pwr := { held with hold := x.hold - 10 } } })
      ∧ (cap ≠ 0 → 100 * n ≤ 95 * cap → x.hold = 0 → x.clockNow.toNat < 1600 →
        Sys2Proof.Machine.exec (.powerCapCheck now) s = .next { s with blk := { at_ with pwr := { held with clockNow := x.clockNow + 25 } } })
      ∧ (cap ≠ 0 → 100 * n ≤ 95 * cap → x.hold = 0 → 1600 ≤ x.clockNow.toNat →
        Sys2Proof.Machine.exec (.powerCapCheck now) s = .next { s with blk := { at_ with pwr := held } })
      ∧ (95 * cap < 100 * n → n ≤ cap →
        Sys2Proof.Machine.exec (.powerCapCheck now) s = .next { s with blk := { at_ with pwr := held } }))
    ∧ (b.pwr.standby = false → Sys2Proof.Machine.exec (.powerCapCheck now) s = .next s)
    ∧ (isEntry 0x4000 1 r.index r.sub = true → arrived b .write r = true → requestStatus b .write r = .ok →
      (reqValue r = 0 → Sys2Proof.Machine.exec (.powerCap r) s
        = .next { s with blk := { ok with pwr := { ok.pwr with cap := 0, hold := 0, clockNow := 1600 } } })
      ∧ (200 ≤ reqValue r → reqValue r ≤ 1800 → Sys2Proof.Machine.exec (.powerCap r) s
        = .next { s with blk := { ok with pwr := { ok.pwr with cap := BitVec.ofNat 16 (reqValue r) } } })
      ∧ (reqValue r ≠ 0 → reqValue r < 200 ∨ 1800 < reqValue r → Sys2Proof.Machine.exec (.powerCap r) s
        = .next { s with blk := respond .write r .badValue [] b }))

/-- At the end of its idle delay a quad in RUN with no work enters OFF when the policy lets it and no enabled
partition holds any of it (its tiles, its Pantry handles and its fetch engine are reset and zero), else RETAIN when
the policy lets it, losing its reuse latches; a quadrant with no request enters RETAIN; a port in service that may
enter standby sends STANDBY. A unit that work wakes reaches RUN after 2 us from RETAIN or 12 us from OFF (a quad),
or 1 us (a quadrant); a port wakes as LINK_WAKE has it. A busy unit, and one outside RUN, does not move, and nothing does while
the block is in reset. (R334, R335, R336, R337, Table PWR-2) -/
def Obligations.UnitsRestAndWake : Prop :=
  ∀ (s : State) (n k : Nat),
    let b := s.blk
    let v := tabGet 2 b.pwr.quads n
    let w := tabGet 2 b.pwr.quadrants n
    let quad := fun (u : Nat) (e : Blk) => { e with pwr := { e.pwr with quads := tabPut 2 e.pwr.quads n u } }
    let quadrant := fun (u : Nat) (e : Blk) => { e with pwr := { e.pwr with quadrants := tabPut 2 e.pwr.quadrants n u } }
    let emptied := (quadHandles n).foldl (fun e h => zeroiseHandle h e) ((quadTiles n).foldl (fun e p => zeroiseTile p e) b)
    let sends := transmit k 8 b
    let asked := { portOf sends k with standbySent := true }
    let said := { sends with link := tabPut {} sends.link k asked }
    let unlatched := { b with latches := tabKeep (fun p => p / 4 != n) b.latches }
    let off := bitAt b.pwr.idlePolicy 1 = true ∧ quadFree b n = true
    (∀ u, b.pwr.inReset = true → Sys2Proof.Machine.exec (.idleDelay u) s = .next s ∧ Sys2Proof.Machine.exec (.unitWake u) s = .next s)
    ∧ (b.pwr.inReset = false →
    (n < 17 → v = 2 → quadIdle b n = true →
      (off → Sys2Proof.Machine.exec (.idleDelay (.quad n)) s = .next { s with blk := quad 0 (resetMaster (.fe n) emptied) })
      ∧ (¬ off → bitAt b.pwr.idlePolicy 0 = true →
          Sys2Proof.Machine.exec (.idleDelay (.quad n)) s = .next { s with blk := quad 1 unlatched })
      ∧ (¬ off → bitAt b.pwr.idlePolicy 0 = false → Sys2Proof.Machine.exec (.idleDelay (.quad n)) s = .next s))
    ∧ (v ≠ 2 ∨ quadIdle b n = false → Sys2Proof.Machine.exec (.idleDelay (.quad n)) s = .next s)
    ∧ (n < 4 → w = 2 → quadrantIdle b n = true → Sys2Proof.Machine.exec (.idleDelay (.quadrant n)) s = .next { s with blk := quadrant 1 b })
    ∧ (w ≠ 2 ∨ quadrantIdle b n = false → Sys2Proof.Machine.exec (.idleDelay (.quadrant n)) s = .next s)
    ∧ (inService b k = true → bitAt b.pwr.idlePolicy 2 = true → standsBy (portOf b k) = false →
        Sys2Proof.Machine.exec (.idleDelay (.port k)) s = .next { s with blk := enterStandby k said })
    ∧ (n < 17 →
        (v = 1 → Sys2Proof.Machine.exec (.unitWake (.quad n)) s = .next { s with blk := quad 2 (pass 50 b) })
        ∧ (v = 0 → Sys2Proof.Machine.exec (.unitWake (.quad n)) s = .next { s with blk := quad 2 (pass 300 b) })
        ∧ (v = 2 → Sys2Proof.Machine.exec (.unitWake (.quad n)) s = .next s))
    ∧ (n < 4 → w = 2 → Sys2Proof.Machine.exec (.unitWake (.quadrant n)) s = .next s)
    ∧ (Sys2Proof.Machine.exec (.unitWake (.port k)) s = Sys2Proof.Machine.exec (.linkWake k) s)
    ∧ (n < 4 → w ≠ 2 → Sys2Proof.Machine.exec (.unitWake (.quadrant n)) s = .next { s with blk := quadrant 2 (pass 25 b) }))

/-- A block reset leaves the clocks, the fuses and straps, the Sump, the presence window, the tile map, the epoch
and memory outside the block as they are, and everything else at its default: no command, every queue DISABLED,
every partition record, register and stored byte zero. An absent clock does the same. A loss of power or a cold
reset keeps fuses, straps and outside memory only; the cold start senses the fuses and binds good tiles. A start 40
us after release makes the block ready, with one change of epoch when capacity differs. A tenant reset ends that
port's commands, streams, queues, flags and moduli, zeroises its tiles and handles and keeps its record. (R331,
R340, R341, R343, R344, R346, R347) -/
def Obligations.ResetsKeepOnlyWhatTheSpecLists : Prop :=
  ∀ (s : State) (p : Nat) (mask : BitVec 21) (bad : List Nat) (q : Nat) (a : Nat),
    let b := s.blk
    let hold := heldInReset (cutMemory (resetMasters b))
    let gone := fun e : Blk => e.cmds = [] ∧ (queueOf e p q).state = .disabled ∧ activeOf e p = {} ∧ e.regs = [] ∧ e.handles = []
      ∧ e.flags = [] ∧ e.moduli = [] ∧ e.streams = [] ∧ e.bus.flight = [] ∧ e.link = []
      ∧ (outsideStores a = false → memGet e.mem a = 0)
    let cold := coldBlk b
    let map := coldMap cold bad
    let ready := { cold with vlt := { cold.vlt with tileMap := map, phys := coldPhys cold bad map } }
    let begun := elapse 1000 b
    let up := { begun with
      vlt := { begun.vlt with alive := true }
      pwr := { begun.pwr with inReset := false, iso := false, wake := false, before := 0 } }
    let formed := { startPorts up with gal := { (startPorts up).gal with formed := true } }
    let lost := { cold with
      vlt := { cold.vlt with alive := false }
      pwr := { cold.pwr with standby := false, coreGood := false, inReset := true, iso := true
                             quads := (List.range 17).map (fun i => (i, 0)), quadrants := (List.range 4).map (fun i => (i, 0)), linkGood := 0 } }
    let ended := abortStreams p (endCommands p false b)
    let quiet := if ended.vlt.sliced.contains p then ended else zeroiseTiles (recTiles (activeOf b p)) ended
    let bare := dropTenantLines p ((recHandles (activeOf b p)).foldl (fun e h => zeroiseHandle h e) quiet)
    let bared := clearQueues p (dropSaved p (clearModuli p (clearFlags p bare)))
    (b.pwr.inReset = false → Sys2Proof.Machine.exec .blockReset s = .next { s with blk := hold } ∧ gone hold
      ∧ hold.clk = (cutMemory (resetMasters b)).clk ∧ hold.sump = (cutMemory (resetMasters b)).sump ∧ hold.pres = b.pres
      ∧ hold.vlt.tileMap = b.vlt.tileMap ∧ hold.vlt.epoch = b.vlt.epoch ∧ hold.fab.rows = b.fab.rows ∧ hold.fab.lat = b.fab.lat
      ∧ hold.pwr.inReset = true)
    ∧ (b.pwr.inReset = true → Sys2Proof.Machine.exec .blockReset s = .next s)
    ∧ (mask = 0 → Sys2Proof.Machine.exec (.clockAbsent mask) s = .next { s with blk := { b with pwr := { b.pwr with clkAbsent := 0 } } })
    ∧ (mask ≠ 0 → b.pwr.inReset = false → ∃ e, Sys2Proof.Machine.exec (.clockAbsent mask) s = .next { s with blk := e }
        ∧ gone e ∧ e.pwr.inReset = true ∧ e.pwr.clkAbsent = mask)
    ∧ (Sys2Proof.Machine.exec .powerLoss s = .next { s with blk := lost } ∧ gone lost ∧ lost.fab.rows = b.fab.rows ∧ lost.vlt.epoch = 1)
    ∧ (b.pwr.clkAbsent = 0 → Sys2Proof.Machine.exec (.coldReset bad) s = .next { s with blk := startPorts ready }
        ∧ ready.fab.lat = senseFuses (cutMemory b) ∧ ready.vlt.epoch = 1 ∧ ready.cmds = [])
    ∧ (b.pwr.inReset = true → b.pwr.standby = true → b.pwr.coreGood = true → b.pwr.clkAbsent = 0 →
        (b.pwr.before = 0 → Sys2Proof.Machine.exec .blockStart s = .next { s with blk := formed })
        ∧ (b.pwr.before ≠ 0 → Sys2Proof.Machine.exec .blockStart s = .next { s with blk := newEpoch b.pwr.before formed }))
    ∧ (p < 5 → b.pwr.inReset = false → Sys2Proof.Machine.exec (.tenantReset p) s = .next { s with blk := bared }
        ∧ (queueOf bared p q).state = .disabled ∧ ∀ c ∈ bared.cmds, c.home = none → c.port ≠ p)

/-- PRESENCE_N low for 50 ms opens the window of WINDOW seconds from then, unless it is stuck, and asks for power
while the block is in reset; the window ends when its seconds have passed, at a CLOSE, or once PRESENCE_N has been
low for 30 s, which latches STUCK until it has been high for 50 ms. A Sump interval runs to the next boundary of
25000 ticks, where every port's count restarts: none is
left when the block does nothing else. A sealed TAP takes every instruction but the four boundary-scan ones
as BYPASS. Without the standby rail nothing of this happens. (R281, R301, R302, R305, R344) -/
def Obligations.PresenceOpensAndEndsTheWindow : Prop :=
  ∀ (s : State) (i t : Nat) (r : DictReq),
    let b := s.blk
    let held := pass 1250000 b
    let opened := { held with pres := { held.pres with opened := some held.clk.tick, length := held.pres.window.toNat, low := true } }
    let waked := { opened with pwr := { opened.pwr with wake := true } }
    let ended := passTo (t + b.pres.length * 25000000 + 1) b
    let late := passTo (t + 30 * 25000000 - 1250000) b
    let shut := fun e : Blk => { e with pres := { e.pres with opened := none, stuck := true, low := true } }
    let ok := respond .write r .ok [] b
    let bound := passTo ((b.clk.tick / 25000 + 1) * 25000) b
    (b.pwr.standby = true → b.pres.stuck = false →
      (held.pwr.inReset = false → Sys2Proof.Machine.exec .presenceWindowOpen s = .next { s with blk := opened })
      ∧ (held.pwr.inReset = true → Sys2Proof.Machine.exec .presenceWindowOpen s = .next { s with blk := waked })
      ∧ (b.pres.opened = some t → Sys2Proof.Machine.exec .stuck s = .next { s with blk := shut late })
      ∧ (b.pres.opened = none → Sys2Proof.Machine.exec .stuck s = .next { s with blk := shut b }))
    ∧ (b.pwr.standby = false ∨ b.pres.stuck = true →
        Sys2Proof.Machine.exec .presenceWindowOpen s = .next s ∧ Sys2Proof.Machine.exec .stuck s = .next s)
    ∧ (b.pres.opened = some t → Sys2Proof.Machine.exec .windowExpiry s
        = .next { s with blk := { ended with pres := { ended.pres with opened := none } } })
    ∧ (b.pres.opened = none → Sys2Proof.Machine.exec .windowExpiry s = .next s)
    ∧ (b.pres.stuck = true → Sys2Proof.Machine.exec .stuckClear s
        = .next { s with blk := { held with pres := { held.pres with stuck := false, low := false } } })
    ∧ (b.pres.stuck = false → Sys2Proof.Machine.exec .stuckClear s = .next s)
    ∧ (isEntry 0x7003 3 r.index r.sub = true → arrived b .write r = true → requestStatus b .write r = .ok → reqValue r = 1 →
        Sys2Proof.Machine.exec (.close r) s = .next { s with blk := { ok with pres := { ok.pres with opened := none } } })
    ∧ (b.pwr.standby = true →
        Sys2Proof.Machine.exec .sumpInterval s = .next { s with blk := bound }
        ∧ (b.pwr.inReset = true ∨ atRest b = true → bound.sump.counts = [])
        ∧ (b.fab.lat.sealed = false ∨ i < 4 →
          Sys2Proof.Machine.exec (.tapInstruction i) s = .next { s with blk := { b with vlt := { b.vlt with tap := i } } })
        ∧ (b.fab.lat.sealed = true → 4 ≤ i →
          Sys2Proof.Machine.exec (.tapInstruction i) s = .next { s with blk := { b with vlt := { b.vlt with tap := 1 } } }))

/-- A request that has arrived and passes the checks of Table DIC-3 is answered OK on its path: READ with the
entry's value (bytes of no stated value are free), DESCRIBE with its 32 bytes, NEXT with the entry that follows, or
NO_ENTRY after the last; a READ or a DESCRIBE that fails a check is answered with the first status that fails alone,
and asks for power when a reset makes it unavailable. A master's OP fills its own slot, an unknown OP is answered
BAD_REQUEST there, a pending slot ignores the write, and another's slot is an error. A message with a bad header is
answered BAD_REQUEST, one too short is dropped. (R308, R309, R310, R311, R312, R313, R314, R315, R316, R318, R344)
-/
def Obligations.RequestsAreReadDescribedAndListed : Prop :=
  ∀ (s : State) (r : DictReq) (m : Master) (slot op : Nat) (body : List Byte) (e : Entry) (x : Nat × Nat) (st : DStatus),
    let b := s.blk
    let refused := fun (o : DOp) =>
      let f := respond o r st [] b
      if st = .unavailable ∧ b.pwr.inReset = true then { f with pwr := { f.pwr with wake := true } } else f
    let value := respond .read r .ok (entryValue b r.path r.index r.sub) b
    let drawn := { value with clk := { value.clk with fresh := value.clk.fresh + 1 } }
    let filled := slotFor op r
    let put := fun y : Slot => { b with dict := { b.dict with slots := tabPut {} b.dict.slots slot y } }
    (arrived b .read r = true →
      (requestStatus b .read r = .ok → Sys2Proof.Machine.exec (.read r) s
        = .next { s with blk := if readsFree b r.path r.index r.sub then drawn else value })
      ∧ (requestStatus b .read r = st → st ≠ .ok → Sys2Proof.Machine.exec (.read r) s = .next { s with blk := refused .read }))
    ∧ (arrived b .describe r = true →
      (requestStatus b .describe r = .ok → entryOf b r.index r.sub = some e →
        Sys2Proof.Machine.exec (.describe r) s = .next { s with blk := respond .describe r .ok (describeBytes e) b })
      ∧ (requestStatus b .describe r = st → st ≠ .ok → Sys2Proof.Machine.exec (.describe r) s = .next { s with blk := refused .describe }))
    ∧ (arrived b .next r = true →
      (entryAfter b r.index r.sub = some x → lengthOk .next 0 r = true → requestBusy b .next r = false →
        Sys2Proof.Machine.exec (.next r) s = .next { s with blk := respond .next r .ok (leBytes 2 x.1 ++ leBytes 1 x.2) b })
      ∧ (entryAfter b r.index r.sub = none → Sys2Proof.Machine.exec (.next r) s = .next { s with blk := respond .next r .noEntry [] b }))
    ∧ (b.pwr.inReset = false → slotOwner slot = some m → slot < 6 → m ≠ .trapdoor ∨ trapOpen b = true →
      (op ≠ 0 → (slotOf b slot).status ≠ 0xFF → 1 ≤ op → op ≤ 4 →
        Sys2Proof.Machine.exec (.localDictionaryRequest m slot op r) s = .next { s with blk := put filled })
      ∧ (4 < op → (slotOf b slot).status ≠ 0xFF → Sys2Proof.Machine.exec (.localDictionaryRequest m slot op r) s
          = .next { s with blk := put { filled with status := 0x08, len := 0 } })
      ∧ (op = 0 ∨ (slotOf b slot).status = 0xFF → Sys2Proof.Machine.exec (.localDictionaryRequest m slot op r) s = .next s))
    ∧ (b.pwr.inReset = false → slotOwner slot ≠ some m → Sys2Proof.Machine.exec (.localDictionaryRequest m slot op r) s
        = .next { s with blk := busError m true (0x4002000000 + 512 * slot) b })
    ∧ (b.pwr.standby = true → 12 ≤ body.length → headerGood b body = false → Sys2Proof.Machine.exec (.badRequest body) s
        = .next { s with blk := { b with out := { b.out with mgmtTx := some (badResponse body) } } })
    ∧ (body.length < 12 → Sys2Proof.Machine.exec (.badRequest body) s = .next s)

/-- A write that has arrived and passes the checks is answered OK and then stores its value: an entry with no
command of its own takes it, SELECT changes the copy of its path, BOOTSWAP waits for the next release of the cores,
a hold-mode word replaces the old, CLEAR zeroes the Sump's records and FIRST while WRITTEN counts on. A value out of
range is answered BAD_VALUE and stores nothing; a write that fails a check is answered with the first status that
fails and stores nothing. (R218, R219, R282, R311, R315, R317, Table DIC-8) -/
def Obligations.WritesStoreTheirValue : Prop :=
  ∀ (s : State) (r : DictReq) (st : DStatus),
    let b := s.blk
    let v := reqValue r
    let ok := respond .write r .ok [] b
    let bad := respond .write r .badValue [] b
    let refused :=
      let f := respond .write r st [] b
      if st = .unavailable ∧ b.pwr.inReset = true then { f with pwr := { f.pwr with wake := true } } else f
    let dict := fun d : Dict => { ok with dict := d }
    let at_ := fun i n => isEntry i n r.index r.sub = true
    arrived b .write r = true →
    (requestStatus b .write r = .ok →
      (ownCommand r.index r.sub = false →
        (storeOk b r = true → Sys2Proof.Machine.exec (.write r) s = .next { s with blk := storeEntry r.index r.sub v (reqData r) ok })
        ∧ (storeOk b r = false → Sys2Proof.Machine.exec (.write r) s = .next { s with blk := bad }))
      ∧ (at_ 0x2020 1 → 64 ≤ v → v ≤ 65535 →
          Sys2Proof.Machine.exec (.write r) s = .next { s with blk := dict { ok.dict with patience := BitVec.ofNat 32 v } })
      ∧ (at_ 0x3050 1 → 30 ≤ v → v ≤ 600 →
          Sys2Proof.Machine.exec (.write r) s = .next { s with blk := { ok with pres := { ok.pres with window := BitVec.ofNat 16 v } } })
      ∧ (at_ 0x7000 2 →
        (v ≤ 1023 → Sys2Proof.Machine.exec (.select r) s
          = .next { s with blk := dict { ok.dict with select := tabPut 0 ok.dict.select (selectKey r.path) (BitVec.ofNat 16 v) } })
        ∧ (1023 < v → Sys2Proof.Machine.exec (.select r) s = .next { s with blk := bad }))
      ∧ (at_ 0x2010 1 →
        (v ≤ 1 → Sys2Proof.Machine.exec (.bootswap r) s = .next { s with blk := dict { ok.dict with bootswap := v == 1 } })
        ∧ (1 < v → Sys2Proof.Machine.exec (.bootswap r) s = .next { s with blk := bad }))
      ∧ (r.index = 0x2030 → 1 ≤ r.sub → r.sub ≤ 5 →
        (v < 2 ^ holdBits r.sub → Sys2Proof.Machine.exec (.holdMode r) s = .next { s with blk := dict (storeHold r.sub v ok.dict) })
        ∧ (2 ^ holdBits r.sub ≤ v → Sys2Proof.Machine.exec (.holdMode r) s = .next { s with blk := bad }))
      ∧ (at_ 0x7000 5 →
        (v = 1 → Sys2Proof.Machine.exec (.clear r) s = .next { s with blk := { ok with sump := { ok.sump with ring := [], first := none } } })
        ∧ (v ≠ 1 → Sys2Proof.Machine.exec (.clear r) s = .next { s with blk := bad })))
    ∧ (requestStatus b .write r = st → st ≠ .ok →
      (ownCommand r.index r.sub = false → Sys2Proof.Machine.exec (.write r) s = .next { s with blk := refused })
      ∧ (at_ 0x7000 2 → Sys2Proof.Machine.exec (.select r) s = .next { s with blk := refused })
      ∧ (at_ 0x2010 1 → Sys2Proof.Machine.exec (.bootswap r) s = .next { s with blk := refused })
      ∧ (at_ 0x7000 5 → Sys2Proof.Machine.exec (.clear r) s = .next { s with blk := refused }))

/-- A write of ALERT_CAUSE that has arrived and passes the checks clears the causes its ones name; a cause raised in
the same Lantern cycle stays set, whatever the write. Bits beyond the causes are answered BAD_VALUE. A Sump record
written pulses FW_INT once, and MGMT_INT too when its class is FAULT or ALERT, an INFO record not; a record dropped
by the limit of a port pulses neither. (R278, R284) -/
def Obligations.AlertCausesAndInterruptsAreNotLost : Prop :=
  ∀ (s : State) (r : DictReq) (raised : BitVec 32) (event p q tag where_ detail : Nat) (code : Option Code),
    let b := s.blk
    let ok := respond .write r .ok [] b
    let left := (b.sump.alertCause &&& ~~~ BitVec.ofNat 32 (reqValue r)) ||| (raised &&& 0x7FF)
    let put := sumpPut event code p q tag where_ detail b
    let written := ¬ (p < 5 ∧ sumpAlert event = false ∧ 64 ≤ tabGet 0 b.sump.counts p)
    (isEntry 0x7002 1 r.index r.sub = true → arrived b .write r = true → requestStatus b .write r = .ok →
      (reqValue r < 2 ^ 11 →
        Sys2Proof.Machine.exec (.alertCause r raised) s = .next { s with blk := { ok with sump := { ok.sump with alertCause := left } } }
        ∧ ∀ i, i < 11 →
          (bitAt raised i = true → bitAt left i = true)
          ∧ (bitAt raised i = false → natBit (reqValue r) i = true → bitAt left i = false)
          ∧ (natBit (reqValue r) i = false → bitAt b.sump.alertCause i = true → bitAt left i = true))
      ∧ (2 ^ 11 ≤ reqValue r → Sys2Proof.Machine.exec (.alertCause r raised) s = .next { s with blk := respond .write r .badValue [] b }))
    ∧ (written → put.sump.written = b.sump.written + 1 ∧ put.out.fwInt = b.out.fwInt + 1
        ∧ put.out.mgmtInt = b.out.mgmtInt + (if sumpInfo event = true then 0 else 1))
    ∧ (¬ written → put.sump.written = b.sump.written ∧ put.out = b.out)

/-- With the epoch below 0xFFF00000: a CLOCK_FLOOR of 400 to 1600 in steps of 25 that differs takes effect with
cause 7 and lifts CLOCK_NOW to it; REFORM holds cross-die work and takes the new choice once the Gallery tenants are
quiet, until when they are kept from decoding; PORT_RETRAIN retrains the ports named; TILE_BIND of a failed logical tile binds it to a free zeroised spare
at once, and of a bound one moves it once quiet, the old tile becoming a spare, with cause 2, and ends in state 2,
or state 3 when the spare has gone. At the limit each answers BAD_VALUE. TILE_RETURN tests a failed tile: a good one
becomes a free spare, zeroised, and a bad one stays failed. (R244, R246, R320, R324, R326, R327) -/
def Obligations.CapacityWritesChangeTheEpoch : Prop :=
  ∀ (s : State) (r : DictReq) (ps : PeerStates) (unreadable : List Nat) (good : Bool),
    let b := s.blk
    let v := reqValue r
    let t := leField (reqData r) 0 1
    let p := leField (reqData r) 1 1
    let ok := respond .write r .ok [] b
    let bad := respond .write r .badValue [] b
    let room := b.vlt.epoch.toNat < 0xFFF00000
    let at_ := fun i n => isEntry i n r.index r.sub = true
    let status := fun (n y : Nat) (e : Blk) => { e with vlt := { e.vlt with mapStatus := BitVec.ofNat 32 (n + 4 * y) } }
    let phys := fun (y n : Nat) (e : Blk) => { e with vlt := { e.vlt with phys := tabPut 0 e.vlt.phys y n } }
    let floor := { ok with pwr := { ok.pwr with
      clockFloor := BitVec.ofNat 16 v, clockNow := if ok.pwr.clockNow.toNat < v then BitVec.ofNat 16 v else ok.pwr.clockNow } }
    let asked := { ok with gal := { ok.gal with reforming := true, regrow := some ps } }
    let tiles := galleryTiles asked
    let settled := settleTiles tiles asked
    let rest := fun (l : List Nat) (e : Blk) => { e with vlt := { e.vlt with quieting := e.vlt.quieting.filter (fun y => !l.contains y) } }
    let regrown := fun e : Blk => whileHalted tiles (fun f =>
      takeMembers (chosenMembers f 255 (withOwn f ps)) (withOwn f ps) { f with gal := { f.gal with regrow := none } }) e
    let begun := { status 1 p ok with vlt := { (status 1 p ok).vlt with binding := some (t, p, unreadable) } }
    let ended := fun e : Blk => { status 2 p e with vlt := { (status 2 p e).vlt with binding := none } }
    let stilled := settleTiles [t] begun
    let zero := zeroiseTile p begun
    let bound := phys p 0 { zero with vlt := { zero.vlt with tileMap := tabIns t p zero.vlt.tileMap } }
    let returned := sumpPut 0x20 none 6 0 0 (0x7F + p * 2 ^ 7 + t * 2 ^ 14) 0 (newEpoch 2 bound)
    arrived b .write r = true → requestStatus b .write r = .ok →
    (at_ 0x4000 3 →
      (room → 400 ≤ v → v ≤ 1600 → v % 25 = 0 → v ≠ b.pwr.clockFloor.toNat →
        Sys2Proof.Machine.exec (.clockFloor r) s = .next { s with blk := newEpoch 7 floor })
      ∧ (room → 400 ≤ v → v ≤ 1600 → v % 25 = 0 → v = b.pwr.clockFloor.toNat →
        Sys2Proof.Machine.exec (.clockFloor r) s = .next { s with blk := ok })
      ∧ (¬ room ∨ v % 25 ≠ 0 ∨ v < 400 ∨ 1600 < v → Sys2Proof.Machine.exec (.clockFloor r) s = .next { s with blk := bad }))
    ∧ (at_ 0x5004 1 →
      (v = 1 → room → quietTiles settled tiles = true →
        Sys2Proof.Machine.exec (.reform r ps) s = .next { s with blk := regrown (rest tiles settled) })
      ∧ (v = 1 → room → quietTiles settled tiles = false → Sys2Proof.Machine.exec (.reform r ps) s = .next { s with blk := settled })
      ∧ (¬ room ∨ v ≠ 1 → Sys2Proof.Machine.exec (.reform r ps) s = .next { s with blk := bad }))
    ∧ (at_ 0x5000 2 →
      (room → v < 64 → Sys2Proof.Machine.exec (.portRetrain r) s = .next { s with blk := (setBits v 6).foldl (fun e k => retrainPort k e) ok })
      ∧ (¬ room ∨ 64 ≤ v → Sys2Proof.Machine.exec (.portRetrain r) s = .next { s with blk := bad }))
    ∧ (at_ 0x3030 1 →
      (room → tileAbsent b t = false → p < 68 → physState b p = 1 →
        (physOf b t = none →
          Sys2Proof.Machine.exec (.tileBind r unreadable) s = .next { s with blk := ended returned })
        ∧ (∀ o, physOf b t = some o → quietTiles stilled [t] = true →
          Sys2Proof.Machine.exec (.tileBind r unreadable) s
            = .next { s with blk := ended (bindMoved t o p unreadable (rest [t] stilled)) })
        ∧ (∀ o, physOf b t = some o → quietTiles stilled [t] = false →
          Sys2Proof.Machine.exec (.tileBind r unreadable) s = .next { s with blk := stilled }))
      ∧ (¬ room ∨ tileAbsent b t = true ∨ 68 ≤ p ∨ physState b p ≠ 1 → Sys2Proof.Machine.exec (.tileBind r unreadable) s = .next { s with blk := bad }))
    ∧ (at_ 0x3030 2 →
      (v < 68 → physState b v = 2 → Sys2Proof.Machine.exec (.tileReturn r good) s
        = .next { s with blk := if good then status 2 v (phys v 1 (zeroiseTile v ok)) else status 3 v ok })
      ∧ (68 ≤ v ∨ physState b v ≠ 2 → Sys2Proof.Machine.exec (.tileReturn r good) s = .next { s with blk := bad }))

/-- A record in range is stored staged, without effect on the active one; another is answered BAD_VALUE. A COMMIT is
answered BAD_VALUE and changes nothing when a condition of R289 fails; else it is answered OK, the generation count
advances and the changed records are applied once the tiles they concern are quiet; with nothing changed only the count
advances. TIME_SLICE of a running partner ends its turn: once its tiles are quiet, and no other turn waits, its context
is saved, the tiles are zeroised, the other's is restored and lets run, and the Vault queue's own commands on them go on; a
port that is not sliced, or waits, keeps its turn. (R126, R127,
R288, R289, R290, R293) -/
def Obligations.PartitionsAreStagedCommittedAndTurned : Prop :=
  ∀ (s : State) (r : DictReq) (p : Nat),
    let b := s.blk
    let ok := respond .write r .ok [] b
    let bad := respond .write r .badValue [] b
    let counted := { ok with vlt := { ok.vlt with generation := ok.vlt.generation + 1, applying := changedRecs b } }
    let ended := (((changeOf counted (changedRecs b)).full.filter (disables counted)).foldl (fun e x => endCommands x.1 true e) counted)
    let set := quietSet ended (changeOf counted (changedRecs b))
    let settled := settleTiles set ended
    let rest := fun (l : List Nat) (e : Blk) => { e with vlt := { e.vlt with quieting := e.vlt.quieting.filter (fun y => !l.contains y) } }
    let a := activeOf b p
    let o := recPartner a
    let tiles := recTiles a
    let asked := { b with vlt := { b.vlt with turning := (b.vlt.turning ++ [p]).eraseDups } }
    let stilled := settleTiles tiles asked
    let q := rest tiles stilled
    let halted := vaultHaltStreams 5 tiles (vaultHaltStreams p tiles q)
    let saved := saveTiles p (activeOf halted p) tiles [] halted
    let given := tiles.foldl (fun e t => restoreTile o t e) (zeroiseTiles tiles saved)
    let turned := { given with vlt := { given.vlt with
      sliced := p :: given.vlt.sliced.filter (· != o), turning := given.vlt.turning.filter (· != p) } }
    (arrived b .write r = true → requestStatus b .write r = .ok →
      (r.index = 0x3010 → 1 ≤ r.sub → r.sub ≤ 5 →
        (stagedOk r = true → Sys2Proof.Machine.exec (.stagedRecord r) s
          = .next { s with blk := { ok with vlt := { ok.vlt with staged := tabPut {} ok.vlt.staged (r.sub - 1) (recOf (reqData r)) } } })
        ∧ (stagedOk r = false → Sys2Proof.Machine.exec (.stagedRecord r) s = .next { s with blk := bad }))
      ∧ (isEntry 0x3000 1 r.index r.sub = true → reqValue r = 1 →
        (commitOk b = false → Sys2Proof.Machine.exec (.commit r) s = .next { s with blk := bad })
        ∧ (commitOk b = true → changedRecs b = [] → Sys2Proof.Machine.exec (.commit r) s = .next { s with blk := counted })
        ∧ (commitOk b = true → changedRecs b ≠ [] → quietTiles settled set = true →
          Sys2Proof.Machine.exec (.commit r) s = .next { s with blk := applyQuiet (changeOf counted (changedRecs b)) (rest set settled) })
        ∧ (commitOk b = true → changedRecs b ≠ [] → quietTiles settled set = false →
          Sys2Proof.Machine.exec (.commit r) s = .next { s with blk := settled })))
    ∧ (b.vlt.alive = true → b.pwr.inReset = false → p < 5 → recEnabled a = true → recSliced a = true → b.vlt.sliced.contains p = false →
        b.vlt.sliced.contains o = true →
        (b.vlt.turning = [] ∨ b.vlt.turning = [p] → quietTiles stilled tiles = true → Sys2Proof.Machine.exec (.timeSlice p) s
          = .next { s with blk := vaultResume 5 tiles (vaultResume o tiles turned) })
        ∧ (b.vlt.turning = [] ∨ b.vlt.turning = [p] → quietTiles stilled tiles = false →
          Sys2Proof.Machine.exec (.timeSlice p) s = .next { s with blk := stilled })
        ∧ (Sys2Proof.Machine.exec (.timeSlice p) s = .next { s with blk := applyTurns asked }))
    ∧ (hasTurn b p = false → Sys2Proof.Machine.exec (.timeSlice p) s = .next s)

/-- FUSE_PROGRAM with a field above 9, or bytes beyond a flag's value, is answered BAD_VALUE; one whose field is
programmed already ends in status 4, and so does one that would have to clear a blown bit, which is remembered;
otherwise the fuses not yet blown are blown in order as long as the supply lasts, ending in status 2, or 3 when it
failed, and revokes and the seal are sensed at once. TRAPDOOR_EN of 1 ends every command, disables every tenant,
zeroises every store and drops the firmware before the paths open, and of 0 closes them; after it no tenant command
is in flight and no stored byte of the block is left. (R304, R305, R307, R326) -/
def Obligations.FusesAreBlownAndTheTrapdoorOpens : Prop :=
  ∀ (s : State) (r : DictReq) (supply : Option Nat) (a : Nat),
    let b := s.blk
    let l := reqData r
    let field := leField l 0 1
    let ok := respond .write r .ok [] b
    let bad := respond .write r .badValue [] b
    let ends := fun (n : BitVec 3) (e : Blk) => { e with fab := { e.fab with fuseStatus := n } }
    let clash := { ok with fab := { ok.fab with blocked := setBit ok.fab.blocked field true } }
    let todo := (fieldPulses ok field l).filter (fun x => !isBlown ok x)
    let blown := fun n : Nat => (todo.take n).foldl (fun e x => blow x e) ok
    let emptied := zeroStores (dropFirmware (disableAll (endAllCommands ok)))
    let open_ := { emptied with vlt := { emptied.vlt with trapEn := true, trapOpen := true } }
    let cut := resetMaster .trapdoor ok
    arrived b .write r = true → requestStatus b .write r = .ok →
    (isEntry 0x3070 1 r.index r.sub = true →
      (9 < field ∨ (4 ≤ field ∧ leField l 1 48 ≠ 0) → Sys2Proof.Machine.exec (.fuseProgram r supply) s = .next { s with blk := bad })
      ∧ (field ≤ 9 → field < 4 ∨ leField l 1 48 = 0 →
        (fuseTaken b field = true → Sys2Proof.Machine.exec (.fuseProgram r supply) s = .next { s with blk := ends 4 ok })
        ∧ (fuseTaken b field = false → fuseClash b field l = true →
          Sys2Proof.Machine.exec (.fuseProgram r supply) s = .next { s with blk := ends 4 clash })
        ∧ (fuseTaken b field = false → fuseClash b field l = false →
          ((∀ n, supply = some n → todo.length ≤ n) → Sys2Proof.Machine.exec (.fuseProgram r supply) s
            = .next { s with blk := senseAgain (ends 2 (blown todo.length)) })
          ∧ (∀ n, supply = some n → n < todo.length → Sys2Proof.Machine.exec (.fuseProgram r supply) s
            = .next { s with blk := senseAgain (ends 3 (blown n)) }))))
    ∧ (isEntry 0x8000 1 r.index r.sub = true →
      (reqValue r = 1 → b.vlt.trapEn = false → Sys2Proof.Machine.exec (.trapdoorEn r) s = .next { s with blk := open_ }
        ∧ open_.regs = [] ∧ (outsideStores a = false → memGet open_.mem a = 0))
      ∧ (reqValue r = 1 → b.vlt.trapEn = true → Sys2Proof.Machine.exec (.trapdoorEn r) s = .next { s with blk := ok })
      ∧ (reqValue r = 0 → Sys2Proof.Machine.exec (.trapdoorEn r) s
        = .next { s with blk := { cut with vlt := { cut.vlt with trapEn := false, trapOpen := false } } })
      ∧ (1 < reqValue r → Sys2Proof.Machine.exec (.trapdoorEn r) s = .next { s with blk := bad }))

/-- Five Newton steps give the inverse of every odd k modulo 2N for every ring size up to 2^31; the COEF map of an
odd k then takes coefficient i from the position whose product with k, modulo 2N, is i, negated when that wraps past
N; a transpose by H and W followed by one by W and H is the identity, and so is one with H or W equal to 1; a bit
reversal is its own inverse. (R47, R48, R53, R54) -/
def Obligations.PermutationMapsAreInverses : Prop :=
  ∀ (logn k j h w t d width : Nat),
    (logn ≤ 31 → k % 2 = 1 → k * kInverse k logn % 2 ^ (logn + 1) = 1)
    ∧ (1 ≤ logn → logn ≤ 31 → k % 2 = 1 → j < 2 ^ logn →
        (coefSource logn k j).1 < 2 ^ logn
        ∧ ((coefSource logn k j).1 + (if (coefSource logn k j).2 then 2 ^ logn else 0)) * k % 2 ^ (logn + 1) = j)
    ∧ (0 < h → 0 < w → j < h * w → transposeSource h w j < h * w ∧ transposeSource h w (transposeSource w h j) = j)
    ∧ transposeSource 1 w j = j ∧ (j < h → transposeSource h 1 j = j)
    ∧ (width ≤ d → t < 2 ^ d → bitrevSource width t < 2 ^ d ∧ bitrevSource width (bitrevSource width t) = t)

end
end

