-- ==== Sys2Proof/Laws/State.lean ====
section
/-! SUPPORT. What each update of the block leaves alone: one lemma per field and update, so that no proof unfolds a
record update. -/
namespace Sys2Proof.Machine

/-! ### A command's meaning leaves the waiting commands alone -/

/-- Two blocks give the same state only when they are the same. -/
theorem next_blk_inj {s t : State} {b : Blk} (h : (.next { s with blk := b } : Host.Outcome State Fault Refusal) = .next t) :
    t.blk = b ∧ t.pending = s.pending := by
  cases h
  exact ⟨rfl, rfl⟩


/-! ### `updQueue` -/

@[simp] theorem updQueue_clk (p q : Nat) (f : Queue → Queue) (b : Blk) : (updQueue p q f b).clk = b.clk := rfl
@[simp] theorem updQueue_fab (p q : Nat) (f : Queue → Queue) (b : Blk) : (updQueue p q f b).fab = b.fab := rfl
@[simp] theorem updQueue_pwr (p q : Nat) (f : Queue → Queue) (b : Blk) : (updQueue p q f b).pwr = b.pwr := rfl
@[simp] theorem updQueue_out (p q : Nat) (f : Queue → Queue) (b : Blk) : (updQueue p q f b).out = b.out := rfl
@[simp] theorem updQueue_sump (p q : Nat) (f : Queue → Queue) (b : Blk) : (updQueue p q f b).sump = b.sump := rfl
@[simp] theorem updQueue_pres (p q : Nat) (f : Queue → Queue) (b : Blk) : (updQueue p q f b).pres = b.pres := rfl
@[simp] theorem updQueue_vlt (p q : Nat) (f : Queue → Queue) (b : Blk) : (updQueue p q f b).vlt = b.vlt := rfl
@[simp] theorem updQueue_dict (p q : Nat) (f : Queue → Queue) (b : Blk) : (updQueue p q f b).dict = b.dict := rfl
@[simp] theorem updQueue_cnt (p q : Nat) (f : Queue → Queue) (b : Blk) : (updQueue p q f b).cnt = b.cnt := rfl
@[simp] theorem updQueue_served (p q : Nat) (f : Queue → Queue) (b : Blk) : (updQueue p q f b).served = b.served := rfl
@[simp] theorem updQueue_flags (p q : Nat) (f : Queue → Queue) (b : Blk) : (updQueue p q f b).flags = b.flags := rfl
@[simp] theorem updQueue_moduli (p q : Nat) (f : Queue → Queue) (b : Blk) : (updQueue p q f b).moduli = b.moduli := rfl
@[simp] theorem updQueue_deadTc (p q : Nat) (f : Queue → Queue) (b : Blk) : (updQueue p q f b).deadTc = b.deadTc := rfl
@[simp] theorem updQueue_cmds (p q : Nat) (f : Queue → Queue) (b : Blk) : (updQueue p q f b).cmds = b.cmds := rfl
@[simp] theorem updQueue_nextId (p q : Nat) (f : Queue → Queue) (b : Blk) : (updQueue p q f b).nextId = b.nextId := rfl
@[simp] theorem updQueue_ctx (p q : Nat) (f : Queue → Queue) (b : Blk) : (updQueue p q f b).ctx = b.ctx := rfl
@[simp] theorem updQueue_regs (p q : Nat) (f : Queue → Queue) (b : Blk) : (updQueue p q f b).regs = b.regs := rfl
@[simp] theorem updQueue_accKey (p q : Nat) (f : Queue → Queue) (b : Blk) : (updQueue p q f b).accKey = b.accKey := rfl
@[simp] theorem updQueue_latches (p q : Nat) (f : Queue → Queue) (b : Blk) : (updQueue p q f b).latches = b.latches := rfl
@[simp] theorem updQueue_mem (p q : Nat) (f : Queue → Queue) (b : Blk) : (updQueue p q f b).mem = b.mem := rfl
@[simp] theorem updQueue_bad (p q : Nat) (f : Queue → Queue) (b : Blk) : (updQueue p q f b).bad = b.bad := rfl
@[simp] theorem updQueue_xlat (p q : Nat) (f : Queue → Queue) (b : Blk) : (updQueue p q f b).xlat = b.xlat := rfl
@[simp] theorem updQueue_streams (p q : Nat) (f : Queue → Queue) (b : Blk) : (updQueue p q f b).streams = b.streams := rfl
@[simp] theorem updQueue_handles (p q : Nat) (f : Queue → Queue) (b : Blk) : (updQueue p q f b).handles = b.handles := rfl
@[simp] theorem updQueue_shelves (p q : Nat) (f : Queue → Queue) (b : Blk) : (updQueue p q f b).shelves = b.shelves := rfl
@[simp] theorem updQueue_bus (p q : Nat) (f : Queue → Queue) (b : Blk) : (updQueue p q f b).bus = b.bus := rfl
@[simp] theorem updQueue_link (p q : Nat) (f : Queue → Queue) (b : Blk) : (updQueue p q f b).link = b.link := rfl
@[simp] theorem updQueue_gal (p q : Nat) (f : Queue → Queue) (b : Blk) : (updQueue p q f b).gal = b.gal := rfl

/-! ### `updCmd` -/

@[simp] theorem updCmd_clk (id : Nat) (f : Cmd → Cmd) (b : Blk) : (updCmd id f b).clk = b.clk := rfl
@[simp] theorem updCmd_fab (id : Nat) (f : Cmd → Cmd) (b : Blk) : (updCmd id f b).fab = b.fab := rfl
@[simp] theorem updCmd_pwr (id : Nat) (f : Cmd → Cmd) (b : Blk) : (updCmd id f b).pwr = b.pwr := rfl
@[simp] theorem updCmd_out (id : Nat) (f : Cmd → Cmd) (b : Blk) : (updCmd id f b).out = b.out := rfl
@[simp] theorem updCmd_sump (id : Nat) (f : Cmd → Cmd) (b : Blk) : (updCmd id f b).sump = b.sump := rfl
@[simp] theorem updCmd_pres (id : Nat) (f : Cmd → Cmd) (b : Blk) : (updCmd id f b).pres = b.pres := rfl
@[simp] theorem updCmd_vlt (id : Nat) (f : Cmd → Cmd) (b : Blk) : (updCmd id f b).vlt = b.vlt := rfl
@[simp] theorem updCmd_dict (id : Nat) (f : Cmd → Cmd) (b : Blk) : (updCmd id f b).dict = b.dict := rfl
@[simp] theorem updCmd_cnt (id : Nat) (f : Cmd → Cmd) (b : Blk) : (updCmd id f b).cnt = b.cnt := rfl
@[simp] theorem updCmd_qs (id : Nat) (f : Cmd → Cmd) (b : Blk) : (updCmd id f b).qs = b.qs := rfl
@[simp] theorem updCmd_served (id : Nat) (f : Cmd → Cmd) (b : Blk) : (updCmd id f b).served = b.served := rfl
@[simp] theorem updCmd_flags (id : Nat) (f : Cmd → Cmd) (b : Blk) : (updCmd id f b).flags = b.flags := rfl
@[simp] theorem updCmd_moduli (id : Nat) (f : Cmd → Cmd) (b : Blk) : (updCmd id f b).moduli = b.moduli := rfl
@[simp] theorem updCmd_deadTc (id : Nat) (f : Cmd → Cmd) (b : Blk) : (updCmd id f b).deadTc = b.deadTc := rfl
@[simp] theorem updCmd_nextId (id : Nat) (f : Cmd → Cmd) (b : Blk) : (updCmd id f b).nextId = b.nextId := rfl
@[simp] theorem updCmd_ctx (id : Nat) (f : Cmd → Cmd) (b : Blk) : (updCmd id f b).ctx = b.ctx := rfl
@[simp] theorem updCmd_regs (id : Nat) (f : Cmd → Cmd) (b : Blk) : (updCmd id f b).regs = b.regs := rfl
@[simp] theorem updCmd_accKey (id : Nat) (f : Cmd → Cmd) (b : Blk) : (updCmd id f b).accKey = b.accKey := rfl
@[simp] theorem updCmd_latches (id : Nat) (f : Cmd → Cmd) (b : Blk) : (updCmd id f b).latches = b.latches := rfl
@[simp] theorem updCmd_mem (id : Nat) (f : Cmd → Cmd) (b : Blk) : (updCmd id f b).mem = b.mem := rfl
@[simp] theorem updCmd_bad (id : Nat) (f : Cmd → Cmd) (b : Blk) : (updCmd id f b).bad = b.bad := rfl
@[simp] theorem updCmd_xlat (id : Nat) (f : Cmd → Cmd) (b : Blk) : (updCmd id f b).xlat = b.xlat := rfl
@[simp] theorem updCmd_streams (id : Nat) (f : Cmd → Cmd) (b : Blk) : (updCmd id f b).streams = b.streams := rfl
@[simp] theorem updCmd_handles (id : Nat) (f : Cmd → Cmd) (b : Blk) : (updCmd id f b).handles = b.handles := rfl
@[simp] theorem updCmd_shelves (id : Nat) (f : Cmd → Cmd) (b : Blk) : (updCmd id f b).shelves = b.shelves := rfl
@[simp] theorem updCmd_bus (id : Nat) (f : Cmd → Cmd) (b : Blk) : (updCmd id f b).bus = b.bus := rfl
@[simp] theorem updCmd_link (id : Nat) (f : Cmd → Cmd) (b : Blk) : (updCmd id f b).link = b.link := rfl
@[simp] theorem updCmd_gal (id : Nat) (f : Cmd → Cmd) (b : Blk) : (updCmd id f b).gal = b.gal := rfl

/-! ### `updReg` -/

@[simp] theorem updReg_clk (k : Nat) (f : Reg → Reg) (b : Blk) : (updReg k f b).clk = b.clk := rfl
@[simp] theorem updReg_fab (k : Nat) (f : Reg → Reg) (b : Blk) : (updReg k f b).fab = b.fab := rfl
@[simp] theorem updReg_pwr (k : Nat) (f : Reg → Reg) (b : Blk) : (updReg k f b).pwr = b.pwr := rfl
@[simp] theorem updReg_out (k : Nat) (f : Reg → Reg) (b : Blk) : (updReg k f b).out = b.out := rfl
@[simp] theorem updReg_sump (k : Nat) (f : Reg → Reg) (b : Blk) : (updReg k f b).sump = b.sump := rfl
@[simp] theorem updReg_pres (k : Nat) (f : Reg → Reg) (b : Blk) : (updReg k f b).pres = b.pres := rfl
@[simp] theorem updReg_vlt (k : Nat) (f : Reg → Reg) (b : Blk) : (updReg k f b).vlt = b.vlt := rfl
@[simp] theorem updReg_dict (k : Nat) (f : Reg → Reg) (b : Blk) : (updReg k f b).dict = b.dict := rfl
@[simp] theorem updReg_cnt (k : Nat) (f : Reg → Reg) (b : Blk) : (updReg k f b).cnt = b.cnt := rfl
@[simp] theorem updReg_qs (k : Nat) (f : Reg → Reg) (b : Blk) : (updReg k f b).qs = b.qs := rfl
@[simp] theorem updReg_served (k : Nat) (f : Reg → Reg) (b : Blk) : (updReg k f b).served = b.served := rfl
@[simp] theorem updReg_flags (k : Nat) (f : Reg → Reg) (b : Blk) : (updReg k f b).flags = b.flags := rfl
@[simp] theorem updReg_moduli (k : Nat) (f : Reg → Reg) (b : Blk) : (updReg k f b).moduli = b.moduli := rfl
@[simp] theorem updReg_deadTc (k : Nat) (f : Reg → Reg) (b : Blk) : (updReg k f b).deadTc = b.deadTc := rfl
@[simp] theorem updReg_cmds (k : Nat) (f : Reg → Reg) (b : Blk) : (updReg k f b).cmds = b.cmds := rfl
@[simp] theorem updReg_nextId (k : Nat) (f : Reg → Reg) (b : Blk) : (updReg k f b).nextId = b.nextId := rfl
@[simp] theorem updReg_ctx (k : Nat) (f : Reg → Reg) (b : Blk) : (updReg k f b).ctx = b.ctx := rfl
@[simp] theorem updReg_accKey (k : Nat) (f : Reg → Reg) (b : Blk) : (updReg k f b).accKey = b.accKey := rfl
@[simp] theorem updReg_latches (k : Nat) (f : Reg → Reg) (b : Blk) : (updReg k f b).latches = b.latches := rfl
@[simp] theorem updReg_mem (k : Nat) (f : Reg → Reg) (b : Blk) : (updReg k f b).mem = b.mem := rfl
@[simp] theorem updReg_bad (k : Nat) (f : Reg → Reg) (b : Blk) : (updReg k f b).bad = b.bad := rfl
@[simp] theorem updReg_xlat (k : Nat) (f : Reg → Reg) (b : Blk) : (updReg k f b).xlat = b.xlat := rfl
@[simp] theorem updReg_streams (k : Nat) (f : Reg → Reg) (b : Blk) : (updReg k f b).streams = b.streams := rfl
@[simp] theorem updReg_handles (k : Nat) (f : Reg → Reg) (b : Blk) : (updReg k f b).handles = b.handles := rfl
@[simp] theorem updReg_shelves (k : Nat) (f : Reg → Reg) (b : Blk) : (updReg k f b).shelves = b.shelves := rfl
@[simp] theorem updReg_bus (k : Nat) (f : Reg → Reg) (b : Blk) : (updReg k f b).bus = b.bus := rfl
@[simp] theorem updReg_link (k : Nat) (f : Reg → Reg) (b : Blk) : (updReg k f b).link = b.link := rfl
@[simp] theorem updReg_gal (k : Nat) (f : Reg → Reg) (b : Blk) : (updReg k f b).gal = b.gal := rfl

/-! ### `updPort` -/

@[simp] theorem updPort_clk (k : Nat) (f : LinkPort → LinkPort) (b : Blk) : (updPort k f b).clk = b.clk := rfl
@[simp] theorem updPort_fab (k : Nat) (f : LinkPort → LinkPort) (b : Blk) : (updPort k f b).fab = b.fab := rfl
@[simp] theorem updPort_pwr (k : Nat) (f : LinkPort → LinkPort) (b : Blk) : (updPort k f b).pwr = b.pwr := rfl
@[simp] theorem updPort_out (k : Nat) (f : LinkPort → LinkPort) (b : Blk) : (updPort k f b).out = b.out := rfl
@[simp] theorem updPort_sump (k : Nat) (f : LinkPort → LinkPort) (b : Blk) : (updPort k f b).sump = b.sump := rfl
@[simp] theorem updPort_pres (k : Nat) (f : LinkPort → LinkPort) (b : Blk) : (updPort k f b).pres = b.pres := rfl
@[simp] theorem updPort_vlt (k : Nat) (f : LinkPort → LinkPort) (b : Blk) : (updPort k f b).vlt = b.vlt := rfl
@[simp] theorem updPort_dict (k : Nat) (f : LinkPort → LinkPort) (b : Blk) : (updPort k f b).dict = b.dict := rfl
@[simp] theorem updPort_cnt (k : Nat) (f : LinkPort → LinkPort) (b : Blk) : (updPort k f b).cnt = b.cnt := rfl
@[simp] theorem updPort_qs (k : Nat) (f : LinkPort → LinkPort) (b : Blk) : (updPort k f b).qs = b.qs := rfl
@[simp] theorem updPort_served (k : Nat) (f : LinkPort → LinkPort) (b : Blk) : (updPort k f b).served = b.served := rfl
@[simp] theorem updPort_flags (k : Nat) (f : LinkPort → LinkPort) (b : Blk) : (updPort k f b).flags = b.flags := rfl
@[simp] theorem updPort_moduli (k : Nat) (f : LinkPort → LinkPort) (b : Blk) : (updPort k f b).moduli = b.moduli := rfl
@[simp] theorem updPort_deadTc (k : Nat) (f : LinkPort → LinkPort) (b : Blk) : (updPort k f b).deadTc = b.deadTc := rfl
@[simp] theorem updPort_cmds (k : Nat) (f : LinkPort → LinkPort) (b : Blk) : (updPort k f b).cmds = b.cmds := rfl
@[simp] theorem updPort_nextId (k : Nat) (f : LinkPort → LinkPort) (b : Blk) : (updPort k f b).nextId = b.nextId := rfl
@[simp] theorem updPort_ctx (k : Nat) (f : LinkPort → LinkPort) (b : Blk) : (updPort k f b).ctx = b.ctx := rfl
@[simp] theorem updPort_regs (k : Nat) (f : LinkPort → LinkPort) (b : Blk) : (updPort k f b).regs = b.regs := rfl
@[simp] theorem updPort_accKey (k : Nat) (f : LinkPort → LinkPort) (b : Blk) : (updPort k f b).accKey = b.accKey := rfl
@[simp] theorem updPort_latches (k : Nat) (f : LinkPort → LinkPort) (b : Blk) : (updPort k f b).latches = b.latches := rfl
@[simp] theorem updPort_mem (k : Nat) (f : LinkPort → LinkPort) (b : Blk) : (updPort k f b).mem = b.mem := rfl
@[simp] theorem updPort_bad (k : Nat) (f : LinkPort → LinkPort) (b : Blk) : (updPort k f b).bad = b.bad := rfl
@[simp] theorem updPort_xlat (k : Nat) (f : LinkPort → LinkPort) (b : Blk) : (updPort k f b).xlat = b.xlat := rfl
@[simp] theorem updPort_streams (k : Nat) (f : LinkPort → LinkPort) (b : Blk) : (updPort k f b).streams = b.streams := rfl
@[simp] theorem updPort_handles (k : Nat) (f : LinkPort → LinkPort) (b : Blk) : (updPort k f b).handles = b.handles := rfl
@[simp] theorem updPort_shelves (k : Nat) (f : LinkPort → LinkPort) (b : Blk) : (updPort k f b).shelves = b.shelves := rfl
@[simp] theorem updPort_bus (k : Nat) (f : LinkPort → LinkPort) (b : Blk) : (updPort k f b).bus = b.bus := rfl
@[simp] theorem updPort_gal (k : Nat) (f : LinkPort → LinkPort) (b : Blk) : (updPort k f b).gal = b.gal := rfl

/-! ### `updStream` -/

@[simp] theorem updStream_clk (n : Nat) (f : Stream → Stream) (b : Blk) : (updStream n f b).clk = b.clk := rfl
@[simp] theorem updStream_fab (n : Nat) (f : Stream → Stream) (b : Blk) : (updStream n f b).fab = b.fab := rfl
@[simp] theorem updStream_pwr (n : Nat) (f : Stream → Stream) (b : Blk) : (updStream n f b).pwr = b.pwr := rfl
@[simp] theorem updStream_out (n : Nat) (f : Stream → Stream) (b : Blk) : (updStream n f b).out = b.out := rfl
@[simp] theorem updStream_sump (n : Nat) (f : Stream → Stream) (b : Blk) : (updStream n f b).sump = b.sump := rfl
@[simp] theorem updStream_pres (n : Nat) (f : Stream → Stream) (b : Blk) : (updStream n f b).pres = b.pres := rfl
@[simp] theorem updStream_vlt (n : Nat) (f : Stream → Stream) (b : Blk) : (updStream n f b).vlt = b.vlt := rfl
@[simp] theorem updStream_dict (n : Nat) (f : Stream → Stream) (b : Blk) : (updStream n f b).dict = b.dict := rfl
@[simp] theorem updStream_cnt (n : Nat) (f : Stream → Stream) (b : Blk) : (updStream n f b).cnt = b.cnt := rfl
@[simp] theorem updStream_qs (n : Nat) (f : Stream → Stream) (b : Blk) : (updStream n f b).qs = b.qs := rfl
@[simp] theorem updStream_served (n : Nat) (f : Stream → Stream) (b : Blk) : (updStream n f b).served = b.served := rfl
@[simp] theorem updStream_flags (n : Nat) (f : Stream → Stream) (b : Blk) : (updStream n f b).flags = b.flags := rfl
@[simp] theorem updStream_moduli (n : Nat) (f : Stream → Stream) (b : Blk) : (updStream n f b).moduli = b.moduli := rfl
@[simp] theorem updStream_deadTc (n : Nat) (f : Stream → Stream) (b : Blk) : (updStream n f b).deadTc = b.deadTc := rfl
@[simp] theorem updStream_cmds (n : Nat) (f : Stream → Stream) (b : Blk) : (updStream n f b).cmds = b.cmds := rfl
@[simp] theorem updStream_nextId (n : Nat) (f : Stream → Stream) (b : Blk) : (updStream n f b).nextId = b.nextId := rfl
@[simp] theorem updStream_ctx (n : Nat) (f : Stream → Stream) (b : Blk) : (updStream n f b).ctx = b.ctx := rfl
@[simp] theorem updStream_regs (n : Nat) (f : Stream → Stream) (b : Blk) : (updStream n f b).regs = b.regs := rfl
@[simp] theorem updStream_accKey (n : Nat) (f : Stream → Stream) (b : Blk) : (updStream n f b).accKey = b.accKey := rfl
@[simp] theorem updStream_latches (n : Nat) (f : Stream → Stream) (b : Blk) : (updStream n f b).latches = b.latches := rfl
@[simp] theorem updStream_mem (n : Nat) (f : Stream → Stream) (b : Blk) : (updStream n f b).mem = b.mem := rfl
@[simp] theorem updStream_bad (n : Nat) (f : Stream → Stream) (b : Blk) : (updStream n f b).bad = b.bad := rfl
@[simp] theorem updStream_xlat (n : Nat) (f : Stream → Stream) (b : Blk) : (updStream n f b).xlat = b.xlat := rfl
@[simp] theorem updStream_handles (n : Nat) (f : Stream → Stream) (b : Blk) : (updStream n f b).handles = b.handles := rfl
@[simp] theorem updStream_shelves (n : Nat) (f : Stream → Stream) (b : Blk) : (updStream n f b).shelves = b.shelves := rfl
@[simp] theorem updStream_bus (n : Nat) (f : Stream → Stream) (b : Blk) : (updStream n f b).bus = b.bus := rfl
@[simp] theorem updStream_link (n : Nat) (f : Stream → Stream) (b : Blk) : (updStream n f b).link = b.link := rfl
@[simp] theorem updStream_gal (n : Nat) (f : Stream → Stream) (b : Blk) : (updStream n f b).gal = b.gal := rfl

/-! ### `updHandle` -/

@[simp] theorem updHandle_clk (h : Nat) (f : Handle → Handle) (b : Blk) : (updHandle h f b).clk = b.clk := rfl
@[simp] theorem updHandle_fab (h : Nat) (f : Handle → Handle) (b : Blk) : (updHandle h f b).fab = b.fab := rfl
@[simp] theorem updHandle_pwr (h : Nat) (f : Handle → Handle) (b : Blk) : (updHandle h f b).pwr = b.pwr := rfl
@[simp] theorem updHandle_out (h : Nat) (f : Handle → Handle) (b : Blk) : (updHandle h f b).out = b.out := rfl
@[simp] theorem updHandle_sump (h : Nat) (f : Handle → Handle) (b : Blk) : (updHandle h f b).sump = b.sump := rfl
@[simp] theorem updHandle_pres (h : Nat) (f : Handle → Handle) (b : Blk) : (updHandle h f b).pres = b.pres := rfl
@[simp] theorem updHandle_vlt (h : Nat) (f : Handle → Handle) (b : Blk) : (updHandle h f b).vlt = b.vlt := rfl
@[simp] theorem updHandle_dict (h : Nat) (f : Handle → Handle) (b : Blk) : (updHandle h f b).dict = b.dict := rfl
@[simp] theorem updHandle_cnt (h : Nat) (f : Handle → Handle) (b : Blk) : (updHandle h f b).cnt = b.cnt := rfl
@[simp] theorem updHandle_qs (h : Nat) (f : Handle → Handle) (b : Blk) : (updHandle h f b).qs = b.qs := rfl
@[simp] theorem updHandle_served (h : Nat) (f : Handle → Handle) (b : Blk) : (updHandle h f b).served = b.served := rfl
@[simp] theorem updHandle_flags (h : Nat) (f : Handle → Handle) (b : Blk) : (updHandle h f b).flags = b.flags := rfl
@[simp] theorem updHandle_moduli (h : Nat) (f : Handle → Handle) (b : Blk) : (updHandle h f b).moduli = b.moduli := rfl
@[simp] theorem updHandle_deadTc (h : Nat) (f : Handle → Handle) (b : Blk) : (updHandle h f b).deadTc = b.deadTc := rfl
@[simp] theorem updHandle_cmds (h : Nat) (f : Handle → Handle) (b : Blk) : (updHandle h f b).cmds = b.cmds := rfl
@[simp] theorem updHandle_nextId (h : Nat) (f : Handle → Handle) (b : Blk) : (updHandle h f b).nextId = b.nextId := rfl
@[simp] theorem updHandle_ctx (h : Nat) (f : Handle → Handle) (b : Blk) : (updHandle h f b).ctx = b.ctx := rfl
@[simp] theorem updHandle_regs (h : Nat) (f : Handle → Handle) (b : Blk) : (updHandle h f b).regs = b.regs := rfl
@[simp] theorem updHandle_accKey (h : Nat) (f : Handle → Handle) (b : Blk) : (updHandle h f b).accKey = b.accKey := rfl
@[simp] theorem updHandle_latches (h : Nat) (f : Handle → Handle) (b : Blk) : (updHandle h f b).latches = b.latches := rfl
@[simp] theorem updHandle_mem (h : Nat) (f : Handle → Handle) (b : Blk) : (updHandle h f b).mem = b.mem := rfl
@[simp] theorem updHandle_bad (h : Nat) (f : Handle → Handle) (b : Blk) : (updHandle h f b).bad = b.bad := rfl
@[simp] theorem updHandle_xlat (h : Nat) (f : Handle → Handle) (b : Blk) : (updHandle h f b).xlat = b.xlat := rfl
@[simp] theorem updHandle_streams (h : Nat) (f : Handle → Handle) (b : Blk) : (updHandle h f b).streams = b.streams := rfl
@[simp] theorem updHandle_shelves (h : Nat) (f : Handle → Handle) (b : Blk) : (updHandle h f b).shelves = b.shelves := rfl
@[simp] theorem updHandle_bus (h : Nat) (f : Handle → Handle) (b : Blk) : (updHandle h f b).bus = b.bus := rfl
@[simp] theorem updHandle_link (h : Nat) (f : Handle → Handle) (b : Blk) : (updHandle h f b).link = b.link := rfl
@[simp] theorem updHandle_gal (h : Nat) (f : Handle → Handle) (b : Blk) : (updHandle h f b).gal = b.gal := rfl

/-! ### `putShelf` -/

@[simp] theorem putShelf_clk (k : Nat) (l : List Nat) (b : Blk) : (putShelf k l b).clk = b.clk := rfl
@[simp] theorem putShelf_fab (k : Nat) (l : List Nat) (b : Blk) : (putShelf k l b).fab = b.fab := rfl
@[simp] theorem putShelf_pwr (k : Nat) (l : List Nat) (b : Blk) : (putShelf k l b).pwr = b.pwr := rfl
@[simp] theorem putShelf_out (k : Nat) (l : List Nat) (b : Blk) : (putShelf k l b).out = b.out := rfl
@[simp] theorem putShelf_sump (k : Nat) (l : List Nat) (b : Blk) : (putShelf k l b).sump = b.sump := rfl
@[simp] theorem putShelf_pres (k : Nat) (l : List Nat) (b : Blk) : (putShelf k l b).pres = b.pres := rfl
@[simp] theorem putShelf_vlt (k : Nat) (l : List Nat) (b : Blk) : (putShelf k l b).vlt = b.vlt := rfl
@[simp] theorem putShelf_dict (k : Nat) (l : List Nat) (b : Blk) : (putShelf k l b).dict = b.dict := rfl
@[simp] theorem putShelf_cnt (k : Nat) (l : List Nat) (b : Blk) : (putShelf k l b).cnt = b.cnt := rfl
@[simp] theorem putShelf_qs (k : Nat) (l : List Nat) (b : Blk) : (putShelf k l b).qs = b.qs := rfl
@[simp] theorem putShelf_served (k : Nat) (l : List Nat) (b : Blk) : (putShelf k l b).served = b.served := rfl
@[simp] theorem putShelf_flags (k : Nat) (l : List Nat) (b : Blk) : (putShelf k l b).flags = b.flags := rfl
@[simp] theorem putShelf_moduli (k : Nat) (l : List Nat) (b : Blk) : (putShelf k l b).moduli = b.moduli := rfl
@[simp] theorem putShelf_deadTc (k : Nat) (l : List Nat) (b : Blk) : (putShelf k l b).deadTc = b.deadTc := rfl
@[simp] theorem putShelf_cmds (k : Nat) (l : List Nat) (b : Blk) : (putShelf k l b).cmds = b.cmds := rfl
@[simp] theorem putShelf_nextId (k : Nat) (l : List Nat) (b : Blk) : (putShelf k l b).nextId = b.nextId := rfl
@[simp] theorem putShelf_ctx (k : Nat) (l : List Nat) (b : Blk) : (putShelf k l b).ctx = b.ctx := rfl
@[simp] theorem putShelf_regs (k : Nat) (l : List Nat) (b : Blk) : (putShelf k l b).regs = b.regs := rfl
@[simp] theorem putShelf_accKey (k : Nat) (l : List Nat) (b : Blk) : (putShelf k l b).accKey = b.accKey := rfl
@[simp] theorem putShelf_latches (k : Nat) (l : List Nat) (b : Blk) : (putShelf k l b).latches = b.latches := rfl
@[simp] theorem putShelf_mem (k : Nat) (l : List Nat) (b : Blk) : (putShelf k l b).mem = b.mem := rfl
@[simp] theorem putShelf_bad (k : Nat) (l : List Nat) (b : Blk) : (putShelf k l b).bad = b.bad := rfl
@[simp] theorem putShelf_xlat (k : Nat) (l : List Nat) (b : Blk) : (putShelf k l b).xlat = b.xlat := rfl
@[simp] theorem putShelf_streams (k : Nat) (l : List Nat) (b : Blk) : (putShelf k l b).streams = b.streams := rfl
@[simp] theorem putShelf_handles (k : Nat) (l : List Nat) (b : Blk) : (putShelf k l b).handles = b.handles := rfl
@[simp] theorem putShelf_bus (k : Nat) (l : List Nat) (b : Blk) : (putShelf k l b).bus = b.bus := rfl
@[simp] theorem putShelf_link (k : Nat) (l : List Nat) (b : Blk) : (putShelf k l b).link = b.link := rfl
@[simp] theorem putShelf_gal (k : Nat) (l : List Nat) (b : Blk) : (putShelf k l b).gal = b.gal := rfl

/-! ### `putFlag` -/

@[simp] theorem putFlag_clk (p f : Nat) (v : Bool) (b : Blk) : (putFlag p f v b).clk = b.clk := rfl
@[simp] theorem putFlag_fab (p f : Nat) (v : Bool) (b : Blk) : (putFlag p f v b).fab = b.fab := rfl
@[simp] theorem putFlag_pwr (p f : Nat) (v : Bool) (b : Blk) : (putFlag p f v b).pwr = b.pwr := rfl
@[simp] theorem putFlag_out (p f : Nat) (v : Bool) (b : Blk) : (putFlag p f v b).out = b.out := rfl
@[simp] theorem putFlag_sump (p f : Nat) (v : Bool) (b : Blk) : (putFlag p f v b).sump = b.sump := rfl
@[simp] theorem putFlag_pres (p f : Nat) (v : Bool) (b : Blk) : (putFlag p f v b).pres = b.pres := rfl
@[simp] theorem putFlag_vlt (p f : Nat) (v : Bool) (b : Blk) : (putFlag p f v b).vlt = b.vlt := rfl
@[simp] theorem putFlag_dict (p f : Nat) (v : Bool) (b : Blk) : (putFlag p f v b).dict = b.dict := rfl
@[simp] theorem putFlag_cnt (p f : Nat) (v : Bool) (b : Blk) : (putFlag p f v b).cnt = b.cnt := rfl
@[simp] theorem putFlag_qs (p f : Nat) (v : Bool) (b : Blk) : (putFlag p f v b).qs = b.qs := rfl
@[simp] theorem putFlag_served (p f : Nat) (v : Bool) (b : Blk) : (putFlag p f v b).served = b.served := rfl
@[simp] theorem putFlag_moduli (p f : Nat) (v : Bool) (b : Blk) : (putFlag p f v b).moduli = b.moduli := rfl
@[simp] theorem putFlag_deadTc (p f : Nat) (v : Bool) (b : Blk) : (putFlag p f v b).deadTc = b.deadTc := rfl
@[simp] theorem putFlag_cmds (p f : Nat) (v : Bool) (b : Blk) : (putFlag p f v b).cmds = b.cmds := rfl
@[simp] theorem putFlag_nextId (p f : Nat) (v : Bool) (b : Blk) : (putFlag p f v b).nextId = b.nextId := rfl
@[simp] theorem putFlag_ctx (p f : Nat) (v : Bool) (b : Blk) : (putFlag p f v b).ctx = b.ctx := rfl
@[simp] theorem putFlag_regs (p f : Nat) (v : Bool) (b : Blk) : (putFlag p f v b).regs = b.regs := rfl
@[simp] theorem putFlag_accKey (p f : Nat) (v : Bool) (b : Blk) : (putFlag p f v b).accKey = b.accKey := rfl
@[simp] theorem putFlag_latches (p f : Nat) (v : Bool) (b : Blk) : (putFlag p f v b).latches = b.latches := rfl
@[simp] theorem putFlag_mem (p f : Nat) (v : Bool) (b : Blk) : (putFlag p f v b).mem = b.mem := rfl
@[simp] theorem putFlag_bad (p f : Nat) (v : Bool) (b : Blk) : (putFlag p f v b).bad = b.bad := rfl
@[simp] theorem putFlag_xlat (p f : Nat) (v : Bool) (b : Blk) : (putFlag p f v b).xlat = b.xlat := rfl
@[simp] theorem putFlag_streams (p f : Nat) (v : Bool) (b : Blk) : (putFlag p f v b).streams = b.streams := rfl
@[simp] theorem putFlag_handles (p f : Nat) (v : Bool) (b : Blk) : (putFlag p f v b).handles = b.handles := rfl
@[simp] theorem putFlag_shelves (p f : Nat) (v : Bool) (b : Blk) : (putFlag p f v b).shelves = b.shelves := rfl
@[simp] theorem putFlag_bus (p f : Nat) (v : Bool) (b : Blk) : (putFlag p f v b).bus = b.bus := rfl
@[simp] theorem putFlag_link (p f : Nat) (v : Bool) (b : Blk) : (putFlag p f v b).link = b.link := rfl
@[simp] theorem putFlag_gal (p f : Nat) (v : Bool) (b : Blk) : (putFlag p f v b).gal = b.gal := rfl

/-! ### `updBus` -/

@[simp] theorem updBus_clk (f : Bus → Bus) (b : Blk) : (updBus f b).clk = b.clk := rfl
@[simp] theorem updBus_fab (f : Bus → Bus) (b : Blk) : (updBus f b).fab = b.fab := rfl
@[simp] theorem updBus_pwr (f : Bus → Bus) (b : Blk) : (updBus f b).pwr = b.pwr := rfl
@[simp] theorem updBus_out (f : Bus → Bus) (b : Blk) : (updBus f b).out = b.out := rfl
@[simp] theorem updBus_sump (f : Bus → Bus) (b : Blk) : (updBus f b).sump = b.sump := rfl
@[simp] theorem updBus_pres (f : Bus → Bus) (b : Blk) : (updBus f b).pres = b.pres := rfl
@[simp] theorem updBus_vlt (f : Bus → Bus) (b : Blk) : (updBus f b).vlt = b.vlt := rfl
@[simp] theorem updBus_dict (f : Bus → Bus) (b : Blk) : (updBus f b).dict = b.dict := rfl
@[simp] theorem updBus_cnt (f : Bus → Bus) (b : Blk) : (updBus f b).cnt = b.cnt := rfl
@[simp] theorem updBus_qs (f : Bus → Bus) (b : Blk) : (updBus f b).qs = b.qs := rfl
@[simp] theorem updBus_served (f : Bus → Bus) (b : Blk) : (updBus f b).served = b.served := rfl
@[simp] theorem updBus_flags (f : Bus → Bus) (b : Blk) : (updBus f b).flags = b.flags := rfl
@[simp] theorem updBus_moduli (f : Bus → Bus) (b : Blk) : (updBus f b).moduli = b.moduli := rfl
@[simp] theorem updBus_deadTc (f : Bus → Bus) (b : Blk) : (updBus f b).deadTc = b.deadTc := rfl
@[simp] theorem updBus_cmds (f : Bus → Bus) (b : Blk) : (updBus f b).cmds = b.cmds := rfl
@[simp] theorem updBus_nextId (f : Bus → Bus) (b : Blk) : (updBus f b).nextId = b.nextId := rfl
@[simp] theorem updBus_ctx (f : Bus → Bus) (b : Blk) : (updBus f b).ctx = b.ctx := rfl
@[simp] theorem updBus_regs (f : Bus → Bus) (b : Blk) : (updBus f b).regs = b.regs := rfl
@[simp] theorem updBus_accKey (f : Bus → Bus) (b : Blk) : (updBus f b).accKey = b.accKey := rfl
@[simp] theorem updBus_latches (f : Bus → Bus) (b : Blk) : (updBus f b).latches = b.latches := rfl
@[simp] theorem updBus_mem (f : Bus → Bus) (b : Blk) : (updBus f b).mem = b.mem := rfl
@[simp] theorem updBus_bad (f : Bus → Bus) (b : Blk) : (updBus f b).bad = b.bad := rfl
@[simp] theorem updBus_xlat (f : Bus → Bus) (b : Blk) : (updBus f b).xlat = b.xlat := rfl
@[simp] theorem updBus_streams (f : Bus → Bus) (b : Blk) : (updBus f b).streams = b.streams := rfl
@[simp] theorem updBus_handles (f : Bus → Bus) (b : Blk) : (updBus f b).handles = b.handles := rfl
@[simp] theorem updBus_shelves (f : Bus → Bus) (b : Blk) : (updBus f b).shelves = b.shelves := rfl
@[simp] theorem updBus_link (f : Bus → Bus) (b : Blk) : (updBus f b).link = b.link := rfl
@[simp] theorem updBus_gal (f : Bus → Bus) (b : Blk) : (updBus f b).gal = b.gal := rfl

/-! ### `updPwr` -/

@[simp] theorem updPwr_clk (f : Pwr → Pwr) (b : Blk) : (updPwr f b).clk = b.clk := rfl
@[simp] theorem updPwr_fab (f : Pwr → Pwr) (b : Blk) : (updPwr f b).fab = b.fab := rfl
@[simp] theorem updPwr_out (f : Pwr → Pwr) (b : Blk) : (updPwr f b).out = b.out := rfl
@[simp] theorem updPwr_sump (f : Pwr → Pwr) (b : Blk) : (updPwr f b).sump = b.sump := rfl
@[simp] theorem updPwr_pres (f : Pwr → Pwr) (b : Blk) : (updPwr f b).pres = b.pres := rfl
@[simp] theorem updPwr_vlt (f : Pwr → Pwr) (b : Blk) : (updPwr f b).vlt = b.vlt := rfl
@[simp] theorem updPwr_dict (f : Pwr → Pwr) (b : Blk) : (updPwr f b).dict = b.dict := rfl
@[simp] theorem updPwr_cnt (f : Pwr → Pwr) (b : Blk) : (updPwr f b).cnt = b.cnt := rfl
@[simp] theorem updPwr_qs (f : Pwr → Pwr) (b : Blk) : (updPwr f b).qs = b.qs := rfl
@[simp] theorem updPwr_served (f : Pwr → Pwr) (b : Blk) : (updPwr f b).served = b.served := rfl
@[simp] theorem updPwr_flags (f : Pwr → Pwr) (b : Blk) : (updPwr f b).flags = b.flags := rfl
@[simp] theorem updPwr_moduli (f : Pwr → Pwr) (b : Blk) : (updPwr f b).moduli = b.moduli := rfl
@[simp] theorem updPwr_deadTc (f : Pwr → Pwr) (b : Blk) : (updPwr f b).deadTc = b.deadTc := rfl
@[simp] theorem updPwr_cmds (f : Pwr → Pwr) (b : Blk) : (updPwr f b).cmds = b.cmds := rfl
@[simp] theorem updPwr_nextId (f : Pwr → Pwr) (b : Blk) : (updPwr f b).nextId = b.nextId := rfl
@[simp] theorem updPwr_ctx (f : Pwr → Pwr) (b : Blk) : (updPwr f b).ctx = b.ctx := rfl
@[simp] theorem updPwr_regs (f : Pwr → Pwr) (b : Blk) : (updPwr f b).regs = b.regs := rfl
@[simp] theorem updPwr_accKey (f : Pwr → Pwr) (b : Blk) : (updPwr f b).accKey = b.accKey := rfl
@[simp] theorem updPwr_latches (f : Pwr → Pwr) (b : Blk) : (updPwr f b).latches = b.latches := rfl
@[simp] theorem updPwr_mem (f : Pwr → Pwr) (b : Blk) : (updPwr f b).mem = b.mem := rfl
@[simp] theorem updPwr_bad (f : Pwr → Pwr) (b : Blk) : (updPwr f b).bad = b.bad := rfl
@[simp] theorem updPwr_xlat (f : Pwr → Pwr) (b : Blk) : (updPwr f b).xlat = b.xlat := rfl
@[simp] theorem updPwr_streams (f : Pwr → Pwr) (b : Blk) : (updPwr f b).streams = b.streams := rfl
@[simp] theorem updPwr_handles (f : Pwr → Pwr) (b : Blk) : (updPwr f b).handles = b.handles := rfl
@[simp] theorem updPwr_shelves (f : Pwr → Pwr) (b : Blk) : (updPwr f b).shelves = b.shelves := rfl
@[simp] theorem updPwr_bus (f : Pwr → Pwr) (b : Blk) : (updPwr f b).bus = b.bus := rfl
@[simp] theorem updPwr_link (f : Pwr → Pwr) (b : Blk) : (updPwr f b).link = b.link := rfl
@[simp] theorem updPwr_gal (f : Pwr → Pwr) (b : Blk) : (updPwr f b).gal = b.gal := rfl

/-! ### `updDict` -/

@[simp] theorem updDict_clk (f : Dict → Dict) (b : Blk) : (updDict f b).clk = b.clk := rfl
@[simp] theorem updDict_fab (f : Dict → Dict) (b : Blk) : (updDict f b).fab = b.fab := rfl
@[simp] theorem updDict_pwr (f : Dict → Dict) (b : Blk) : (updDict f b).pwr = b.pwr := rfl
@[simp] theorem updDict_out (f : Dict → Dict) (b : Blk) : (updDict f b).out = b.out := rfl
@[simp] theorem updDict_sump (f : Dict → Dict) (b : Blk) : (updDict f b).sump = b.sump := rfl
@[simp] theorem updDict_pres (f : Dict → Dict) (b : Blk) : (updDict f b).pres = b.pres := rfl
@[simp] theorem updDict_vlt (f : Dict → Dict) (b : Blk) : (updDict f b).vlt = b.vlt := rfl
@[simp] theorem updDict_cnt (f : Dict → Dict) (b : Blk) : (updDict f b).cnt = b.cnt := rfl
@[simp] theorem updDict_qs (f : Dict → Dict) (b : Blk) : (updDict f b).qs = b.qs := rfl
@[simp] theorem updDict_served (f : Dict → Dict) (b : Blk) : (updDict f b).served = b.served := rfl
@[simp] theorem updDict_flags (f : Dict → Dict) (b : Blk) : (updDict f b).flags = b.flags := rfl
@[simp] theorem updDict_moduli (f : Dict → Dict) (b : Blk) : (updDict f b).moduli = b.moduli := rfl
@[simp] theorem updDict_deadTc (f : Dict → Dict) (b : Blk) : (updDict f b).deadTc = b.deadTc := rfl
@[simp] theorem updDict_cmds (f : Dict → Dict) (b : Blk) : (updDict f b).cmds = b.cmds := rfl
@[simp] theorem updDict_nextId (f : Dict → Dict) (b : Blk) : (updDict f b).nextId = b.nextId := rfl
@[simp] theorem updDict_ctx (f : Dict → Dict) (b : Blk) : (updDict f b).ctx = b.ctx := rfl
@[simp] theorem updDict_regs (f : Dict → Dict) (b : Blk) : (updDict f b).regs = b.regs := rfl
@[simp] theorem updDict_accKey (f : Dict → Dict) (b : Blk) : (updDict f b).accKey = b.accKey := rfl
@[simp] theorem updDict_latches (f : Dict → Dict) (b : Blk) : (updDict f b).latches = b.latches := rfl
@[simp] theorem updDict_mem (f : Dict → Dict) (b : Blk) : (updDict f b).mem = b.mem := rfl
@[simp] theorem updDict_bad (f : Dict → Dict) (b : Blk) : (updDict f b).bad = b.bad := rfl
@[simp] theorem updDict_xlat (f : Dict → Dict) (b : Blk) : (updDict f b).xlat = b.xlat := rfl
@[simp] theorem updDict_streams (f : Dict → Dict) (b : Blk) : (updDict f b).streams = b.streams := rfl
@[simp] theorem updDict_handles (f : Dict → Dict) (b : Blk) : (updDict f b).handles = b.handles := rfl
@[simp] theorem updDict_shelves (f : Dict → Dict) (b : Blk) : (updDict f b).shelves = b.shelves := rfl
@[simp] theorem updDict_bus (f : Dict → Dict) (b : Blk) : (updDict f b).bus = b.bus := rfl
@[simp] theorem updDict_link (f : Dict → Dict) (b : Blk) : (updDict f b).link = b.link := rfl
@[simp] theorem updDict_gal (f : Dict → Dict) (b : Blk) : (updDict f b).gal = b.gal := rfl

/-! ### `countAdd` -/

@[simp] theorem countAdd_clk (key n : Nat) (b : Blk) : (countAdd key n b).clk = b.clk := rfl
@[simp] theorem countAdd_fab (key n : Nat) (b : Blk) : (countAdd key n b).fab = b.fab := rfl
@[simp] theorem countAdd_pwr (key n : Nat) (b : Blk) : (countAdd key n b).pwr = b.pwr := rfl
@[simp] theorem countAdd_out (key n : Nat) (b : Blk) : (countAdd key n b).out = b.out := rfl
@[simp] theorem countAdd_sump (key n : Nat) (b : Blk) : (countAdd key n b).sump = b.sump := rfl
@[simp] theorem countAdd_pres (key n : Nat) (b : Blk) : (countAdd key n b).pres = b.pres := rfl
@[simp] theorem countAdd_vlt (key n : Nat) (b : Blk) : (countAdd key n b).vlt = b.vlt := rfl
@[simp] theorem countAdd_dict (key n : Nat) (b : Blk) : (countAdd key n b).dict = b.dict := rfl
@[simp] theorem countAdd_qs (key n : Nat) (b : Blk) : (countAdd key n b).qs = b.qs := rfl
@[simp] theorem countAdd_served (key n : Nat) (b : Blk) : (countAdd key n b).served = b.served := rfl
@[simp] theorem countAdd_flags (key n : Nat) (b : Blk) : (countAdd key n b).flags = b.flags := rfl
@[simp] theorem countAdd_moduli (key n : Nat) (b : Blk) : (countAdd key n b).moduli = b.moduli := rfl
@[simp] theorem countAdd_deadTc (key n : Nat) (b : Blk) : (countAdd key n b).deadTc = b.deadTc := rfl
@[simp] theorem countAdd_cmds (key n : Nat) (b : Blk) : (countAdd key n b).cmds = b.cmds := rfl
@[simp] theorem countAdd_nextId (key n : Nat) (b : Blk) : (countAdd key n b).nextId = b.nextId := rfl
@[simp] theorem countAdd_ctx (key n : Nat) (b : Blk) : (countAdd key n b).ctx = b.ctx := rfl
@[simp] theorem countAdd_regs (key n : Nat) (b : Blk) : (countAdd key n b).regs = b.regs := rfl
@[simp] theorem countAdd_accKey (key n : Nat) (b : Blk) : (countAdd key n b).accKey = b.accKey := rfl
@[simp] theorem countAdd_latches (key n : Nat) (b : Blk) : (countAdd key n b).latches = b.latches := rfl
@[simp] theorem countAdd_mem (key n : Nat) (b : Blk) : (countAdd key n b).mem = b.mem := rfl
@[simp] theorem countAdd_bad (key n : Nat) (b : Blk) : (countAdd key n b).bad = b.bad := rfl
@[simp] theorem countAdd_xlat (key n : Nat) (b : Blk) : (countAdd key n b).xlat = b.xlat := rfl
@[simp] theorem countAdd_streams (key n : Nat) (b : Blk) : (countAdd key n b).streams = b.streams := rfl
@[simp] theorem countAdd_handles (key n : Nat) (b : Blk) : (countAdd key n b).handles = b.handles := rfl
@[simp] theorem countAdd_shelves (key n : Nat) (b : Blk) : (countAdd key n b).shelves = b.shelves := rfl
@[simp] theorem countAdd_bus (key n : Nat) (b : Blk) : (countAdd key n b).bus = b.bus := rfl
@[simp] theorem countAdd_link (key n : Nat) (b : Blk) : (countAdd key n b).link = b.link := rfl
@[simp] theorem countAdd_gal (key n : Nat) (b : Blk) : (countAdd key n b).gal = b.gal := rfl

/-! ### `drawFresh` -/

@[simp] theorem drawFresh_fab (b : Blk) : (drawFresh b).fab = b.fab := rfl
@[simp] theorem drawFresh_pwr (b : Blk) : (drawFresh b).pwr = b.pwr := rfl
@[simp] theorem drawFresh_out (b : Blk) : (drawFresh b).out = b.out := rfl
@[simp] theorem drawFresh_sump (b : Blk) : (drawFresh b).sump = b.sump := rfl
@[simp] theorem drawFresh_pres (b : Blk) : (drawFresh b).pres = b.pres := rfl
@[simp] theorem drawFresh_vlt (b : Blk) : (drawFresh b).vlt = b.vlt := rfl
@[simp] theorem drawFresh_dict (b : Blk) : (drawFresh b).dict = b.dict := rfl
@[simp] theorem drawFresh_cnt (b : Blk) : (drawFresh b).cnt = b.cnt := rfl
@[simp] theorem drawFresh_qs (b : Blk) : (drawFresh b).qs = b.qs := rfl
@[simp] theorem drawFresh_served (b : Blk) : (drawFresh b).served = b.served := rfl
@[simp] theorem drawFresh_flags (b : Blk) : (drawFresh b).flags = b.flags := rfl
@[simp] theorem drawFresh_moduli (b : Blk) : (drawFresh b).moduli = b.moduli := rfl
@[simp] theorem drawFresh_deadTc (b : Blk) : (drawFresh b).deadTc = b.deadTc := rfl
@[simp] theorem drawFresh_cmds (b : Blk) : (drawFresh b).cmds = b.cmds := rfl
@[simp] theorem drawFresh_nextId (b : Blk) : (drawFresh b).nextId = b.nextId := rfl
@[simp] theorem drawFresh_ctx (b : Blk) : (drawFresh b).ctx = b.ctx := rfl
@[simp] theorem drawFresh_regs (b : Blk) : (drawFresh b).regs = b.regs := rfl
@[simp] theorem drawFresh_accKey (b : Blk) : (drawFresh b).accKey = b.accKey := rfl
@[simp] theorem drawFresh_latches (b : Blk) : (drawFresh b).latches = b.latches := rfl
@[simp] theorem drawFresh_mem (b : Blk) : (drawFresh b).mem = b.mem := rfl
@[simp] theorem drawFresh_bad (b : Blk) : (drawFresh b).bad = b.bad := rfl
@[simp] theorem drawFresh_xlat (b : Blk) : (drawFresh b).xlat = b.xlat := rfl
@[simp] theorem drawFresh_streams (b : Blk) : (drawFresh b).streams = b.streams := rfl
@[simp] theorem drawFresh_handles (b : Blk) : (drawFresh b).handles = b.handles := rfl
@[simp] theorem drawFresh_shelves (b : Blk) : (drawFresh b).shelves = b.shelves := rfl
@[simp] theorem drawFresh_bus (b : Blk) : (drawFresh b).bus = b.bus := rfl
@[simp] theorem drawFresh_link (b : Blk) : (drawFresh b).link = b.link := rfl
@[simp] theorem drawFresh_gal (b : Blk) : (drawFresh b).gal = b.gal := rfl

/-! ### `raiseAlert` -/

@[simp] theorem raiseAlert_clk (bit : Nat) (b : Blk) : (raiseAlert bit b).clk = b.clk := rfl
@[simp] theorem raiseAlert_fab (bit : Nat) (b : Blk) : (raiseAlert bit b).fab = b.fab := rfl
@[simp] theorem raiseAlert_pwr (bit : Nat) (b : Blk) : (raiseAlert bit b).pwr = b.pwr := rfl
@[simp] theorem raiseAlert_out (bit : Nat) (b : Blk) : (raiseAlert bit b).out = b.out := rfl
@[simp] theorem raiseAlert_pres (bit : Nat) (b : Blk) : (raiseAlert bit b).pres = b.pres := rfl
@[simp] theorem raiseAlert_vlt (bit : Nat) (b : Blk) : (raiseAlert bit b).vlt = b.vlt := rfl
@[simp] theorem raiseAlert_dict (bit : Nat) (b : Blk) : (raiseAlert bit b).dict = b.dict := rfl
@[simp] theorem raiseAlert_cnt (bit : Nat) (b : Blk) : (raiseAlert bit b).cnt = b.cnt := rfl
@[simp] theorem raiseAlert_qs (bit : Nat) (b : Blk) : (raiseAlert bit b).qs = b.qs := rfl
@[simp] theorem raiseAlert_served (bit : Nat) (b : Blk) : (raiseAlert bit b).served = b.served := rfl
@[simp] theorem raiseAlert_flags (bit : Nat) (b : Blk) : (raiseAlert bit b).flags = b.flags := rfl
@[simp] theorem raiseAlert_moduli (bit : Nat) (b : Blk) : (raiseAlert bit b).moduli = b.moduli := rfl
@[simp] theorem raiseAlert_deadTc (bit : Nat) (b : Blk) : (raiseAlert bit b).deadTc = b.deadTc := rfl
@[simp] theorem raiseAlert_cmds (bit : Nat) (b : Blk) : (raiseAlert bit b).cmds = b.cmds := rfl
@[simp] theorem raiseAlert_nextId (bit : Nat) (b : Blk) : (raiseAlert bit b).nextId = b.nextId := rfl
@[simp] theorem raiseAlert_ctx (bit : Nat) (b : Blk) : (raiseAlert bit b).ctx = b.ctx := rfl
@[simp] theorem raiseAlert_regs (bit : Nat) (b : Blk) : (raiseAlert bit b).regs = b.regs := rfl
@[simp] theorem raiseAlert_accKey (bit : Nat) (b : Blk) : (raiseAlert bit b).accKey = b.accKey := rfl
@[simp] theorem raiseAlert_latches (bit : Nat) (b : Blk) : (raiseAlert bit b).latches = b.latches := rfl
@[simp] theorem raiseAlert_mem (bit : Nat) (b : Blk) : (raiseAlert bit b).mem = b.mem := rfl
@[simp] theorem raiseAlert_bad (bit : Nat) (b : Blk) : (raiseAlert bit b).bad = b.bad := rfl
@[simp] theorem raiseAlert_xlat (bit : Nat) (b : Blk) : (raiseAlert bit b).xlat = b.xlat := rfl
@[simp] theorem raiseAlert_streams (bit : Nat) (b : Blk) : (raiseAlert bit b).streams = b.streams := rfl
@[simp] theorem raiseAlert_handles (bit : Nat) (b : Blk) : (raiseAlert bit b).handles = b.handles := rfl
@[simp] theorem raiseAlert_shelves (bit : Nat) (b : Blk) : (raiseAlert bit b).shelves = b.shelves := rfl
@[simp] theorem raiseAlert_bus (bit : Nat) (b : Blk) : (raiseAlert bit b).bus = b.bus := rfl
@[simp] theorem raiseAlert_link (bit : Nat) (b : Blk) : (raiseAlert bit b).link = b.link := rfl
@[simp] theorem raiseAlert_gal (bit : Nat) (b : Blk) : (raiseAlert bit b).gal = b.gal := rfl

/-! ### `setEpochTo` -/

@[simp] theorem setEpochTo_clk (v : BitVec 32) (cause : Nat) (b : Blk) : (setEpochTo v cause b).clk = b.clk := rfl
@[simp] theorem setEpochTo_fab (v : BitVec 32) (cause : Nat) (b : Blk) : (setEpochTo v cause b).fab = b.fab := rfl
@[simp] theorem setEpochTo_pwr (v : BitVec 32) (cause : Nat) (b : Blk) : (setEpochTo v cause b).pwr = b.pwr := rfl
@[simp] theorem setEpochTo_out (v : BitVec 32) (cause : Nat) (b : Blk) : (setEpochTo v cause b).out = b.out := rfl
@[simp] theorem setEpochTo_sump (v : BitVec 32) (cause : Nat) (b : Blk) : (setEpochTo v cause b).sump = b.sump := rfl
@[simp] theorem setEpochTo_pres (v : BitVec 32) (cause : Nat) (b : Blk) : (setEpochTo v cause b).pres = b.pres := rfl
@[simp] theorem setEpochTo_dict (v : BitVec 32) (cause : Nat) (b : Blk) : (setEpochTo v cause b).dict = b.dict := rfl
@[simp] theorem setEpochTo_cnt (v : BitVec 32) (cause : Nat) (b : Blk) : (setEpochTo v cause b).cnt = b.cnt := rfl
@[simp] theorem setEpochTo_qs (v : BitVec 32) (cause : Nat) (b : Blk) : (setEpochTo v cause b).qs = b.qs := rfl
@[simp] theorem setEpochTo_served (v : BitVec 32) (cause : Nat) (b : Blk) : (setEpochTo v cause b).served = b.served := rfl
@[simp] theorem setEpochTo_flags (v : BitVec 32) (cause : Nat) (b : Blk) : (setEpochTo v cause b).flags = b.flags := rfl
@[simp] theorem setEpochTo_moduli (v : BitVec 32) (cause : Nat) (b : Blk) : (setEpochTo v cause b).moduli = b.moduli := rfl
@[simp] theorem setEpochTo_deadTc (v : BitVec 32) (cause : Nat) (b : Blk) : (setEpochTo v cause b).deadTc = b.deadTc := rfl
@[simp] theorem setEpochTo_cmds (v : BitVec 32) (cause : Nat) (b : Blk) : (setEpochTo v cause b).cmds = b.cmds := rfl
@[simp] theorem setEpochTo_nextId (v : BitVec 32) (cause : Nat) (b : Blk) : (setEpochTo v cause b).nextId = b.nextId := rfl
@[simp] theorem setEpochTo_ctx (v : BitVec 32) (cause : Nat) (b : Blk) : (setEpochTo v cause b).ctx = b.ctx := rfl
@[simp] theorem setEpochTo_regs (v : BitVec 32) (cause : Nat) (b : Blk) : (setEpochTo v cause b).regs = b.regs := rfl
@[simp] theorem setEpochTo_accKey (v : BitVec 32) (cause : Nat) (b : Blk) : (setEpochTo v cause b).accKey = b.accKey := rfl
@[simp] theorem setEpochTo_latches (v : BitVec 32) (cause : Nat) (b : Blk) : (setEpochTo v cause b).latches = b.latches := rfl
@[simp] theorem setEpochTo_mem (v : BitVec 32) (cause : Nat) (b : Blk) : (setEpochTo v cause b).mem = b.mem := rfl
@[simp] theorem setEpochTo_bad (v : BitVec 32) (cause : Nat) (b : Blk) : (setEpochTo v cause b).bad = b.bad := rfl
@[simp] theorem setEpochTo_xlat (v : BitVec 32) (cause : Nat) (b : Blk) : (setEpochTo v cause b).xlat = b.xlat := rfl
@[simp] theorem setEpochTo_streams (v : BitVec 32) (cause : Nat) (b : Blk) : (setEpochTo v cause b).streams = b.streams := rfl
@[simp] theorem setEpochTo_handles (v : BitVec 32) (cause : Nat) (b : Blk) : (setEpochTo v cause b).handles = b.handles := rfl
@[simp] theorem setEpochTo_shelves (v : BitVec 32) (cause : Nat) (b : Blk) : (setEpochTo v cause b).shelves = b.shelves := rfl
@[simp] theorem setEpochTo_bus (v : BitVec 32) (cause : Nat) (b : Blk) : (setEpochTo v cause b).bus = b.bus := rfl
@[simp] theorem setEpochTo_link (v : BitVec 32) (cause : Nat) (b : Blk) : (setEpochTo v cause b).link = b.link := rfl

/-! ### `putGranuleKey` -/

@[simp] theorem putGranuleKey_clk (k : Nat) (g : Granule) (b : Blk) : (putGranuleKey k g b).clk = b.clk := rfl
@[simp] theorem putGranuleKey_fab (k : Nat) (g : Granule) (b : Blk) : (putGranuleKey k g b).fab = b.fab := rfl
@[simp] theorem putGranuleKey_pwr (k : Nat) (g : Granule) (b : Blk) : (putGranuleKey k g b).pwr = b.pwr := rfl
@[simp] theorem putGranuleKey_out (k : Nat) (g : Granule) (b : Blk) : (putGranuleKey k g b).out = b.out := rfl
@[simp] theorem putGranuleKey_sump (k : Nat) (g : Granule) (b : Blk) : (putGranuleKey k g b).sump = b.sump := rfl
@[simp] theorem putGranuleKey_pres (k : Nat) (g : Granule) (b : Blk) : (putGranuleKey k g b).pres = b.pres := rfl
@[simp] theorem putGranuleKey_vlt (k : Nat) (g : Granule) (b : Blk) : (putGranuleKey k g b).vlt = b.vlt := rfl
@[simp] theorem putGranuleKey_dict (k : Nat) (g : Granule) (b : Blk) : (putGranuleKey k g b).dict = b.dict := rfl
@[simp] theorem putGranuleKey_cnt (k : Nat) (g : Granule) (b : Blk) : (putGranuleKey k g b).cnt = b.cnt := rfl
@[simp] theorem putGranuleKey_qs (k : Nat) (g : Granule) (b : Blk) : (putGranuleKey k g b).qs = b.qs := rfl
@[simp] theorem putGranuleKey_served (k : Nat) (g : Granule) (b : Blk) : (putGranuleKey k g b).served = b.served := rfl
@[simp] theorem putGranuleKey_flags (k : Nat) (g : Granule) (b : Blk) : (putGranuleKey k g b).flags = b.flags := rfl
@[simp] theorem putGranuleKey_moduli (k : Nat) (g : Granule) (b : Blk) : (putGranuleKey k g b).moduli = b.moduli := rfl
@[simp] theorem putGranuleKey_deadTc (k : Nat) (g : Granule) (b : Blk) : (putGranuleKey k g b).deadTc = b.deadTc := rfl
@[simp] theorem putGranuleKey_cmds (k : Nat) (g : Granule) (b : Blk) : (putGranuleKey k g b).cmds = b.cmds := rfl
@[simp] theorem putGranuleKey_nextId (k : Nat) (g : Granule) (b : Blk) : (putGranuleKey k g b).nextId = b.nextId := rfl
@[simp] theorem putGranuleKey_ctx (k : Nat) (g : Granule) (b : Blk) : (putGranuleKey k g b).ctx = b.ctx := rfl
@[simp] theorem putGranuleKey_regs (k : Nat) (g : Granule) (b : Blk) : (putGranuleKey k g b).regs = b.regs := rfl
@[simp] theorem putGranuleKey_accKey (k : Nat) (g : Granule) (b : Blk) : (putGranuleKey k g b).accKey = b.accKey := rfl
@[simp] theorem putGranuleKey_latches (k : Nat) (g : Granule) (b : Blk) : (putGranuleKey k g b).latches = b.latches := rfl
@[simp] theorem putGranuleKey_xlat (k : Nat) (g : Granule) (b : Blk) : (putGranuleKey k g b).xlat = b.xlat := rfl
@[simp] theorem putGranuleKey_streams (k : Nat) (g : Granule) (b : Blk) : (putGranuleKey k g b).streams = b.streams := rfl
@[simp] theorem putGranuleKey_handles (k : Nat) (g : Granule) (b : Blk) : (putGranuleKey k g b).handles = b.handles := rfl
@[simp] theorem putGranuleKey_shelves (k : Nat) (g : Granule) (b : Blk) : (putGranuleKey k g b).shelves = b.shelves := rfl
@[simp] theorem putGranuleKey_bus (k : Nat) (g : Granule) (b : Blk) : (putGranuleKey k g b).bus = b.bus := rfl
@[simp] theorem putGranuleKey_link (k : Nat) (g : Granule) (b : Blk) : (putGranuleKey k g b).link = b.link := rfl
@[simp] theorem putGranuleKey_gal (k : Nat) (g : Granule) (b : Blk) : (putGranuleKey k g b).gal = b.gal := rfl

/-! ### `zeroKeys` -/

@[simp] theorem zeroKeys_clk (k n : Nat) (b : Blk) : (zeroKeys k n b).clk = b.clk := rfl
@[simp] theorem zeroKeys_fab (k n : Nat) (b : Blk) : (zeroKeys k n b).fab = b.fab := rfl
@[simp] theorem zeroKeys_pwr (k n : Nat) (b : Blk) : (zeroKeys k n b).pwr = b.pwr := rfl
@[simp] theorem zeroKeys_out (k n : Nat) (b : Blk) : (zeroKeys k n b).out = b.out := rfl
@[simp] theorem zeroKeys_sump (k n : Nat) (b : Blk) : (zeroKeys k n b).sump = b.sump := rfl
@[simp] theorem zeroKeys_pres (k n : Nat) (b : Blk) : (zeroKeys k n b).pres = b.pres := rfl
@[simp] theorem zeroKeys_vlt (k n : Nat) (b : Blk) : (zeroKeys k n b).vlt = b.vlt := rfl
@[simp] theorem zeroKeys_dict (k n : Nat) (b : Blk) : (zeroKeys k n b).dict = b.dict := rfl
@[simp] theorem zeroKeys_cnt (k n : Nat) (b : Blk) : (zeroKeys k n b).cnt = b.cnt := rfl
@[simp] theorem zeroKeys_qs (k n : Nat) (b : Blk) : (zeroKeys k n b).qs = b.qs := rfl
@[simp] theorem zeroKeys_served (k n : Nat) (b : Blk) : (zeroKeys k n b).served = b.served := rfl
@[simp] theorem zeroKeys_flags (k n : Nat) (b : Blk) : (zeroKeys k n b).flags = b.flags := rfl
@[simp] theorem zeroKeys_moduli (k n : Nat) (b : Blk) : (zeroKeys k n b).moduli = b.moduli := rfl
@[simp] theorem zeroKeys_deadTc (k n : Nat) (b : Blk) : (zeroKeys k n b).deadTc = b.deadTc := rfl
@[simp] theorem zeroKeys_cmds (k n : Nat) (b : Blk) : (zeroKeys k n b).cmds = b.cmds := rfl
@[simp] theorem zeroKeys_nextId (k n : Nat) (b : Blk) : (zeroKeys k n b).nextId = b.nextId := rfl
@[simp] theorem zeroKeys_ctx (k n : Nat) (b : Blk) : (zeroKeys k n b).ctx = b.ctx := rfl
@[simp] theorem zeroKeys_regs (k n : Nat) (b : Blk) : (zeroKeys k n b).regs = b.regs := rfl
@[simp] theorem zeroKeys_accKey (k n : Nat) (b : Blk) : (zeroKeys k n b).accKey = b.accKey := rfl
@[simp] theorem zeroKeys_latches (k n : Nat) (b : Blk) : (zeroKeys k n b).latches = b.latches := rfl
@[simp] theorem zeroKeys_xlat (k n : Nat) (b : Blk) : (zeroKeys k n b).xlat = b.xlat := rfl
@[simp] theorem zeroKeys_streams (k n : Nat) (b : Blk) : (zeroKeys k n b).streams = b.streams := rfl
@[simp] theorem zeroKeys_handles (k n : Nat) (b : Blk) : (zeroKeys k n b).handles = b.handles := rfl
@[simp] theorem zeroKeys_shelves (k n : Nat) (b : Blk) : (zeroKeys k n b).shelves = b.shelves := rfl
@[simp] theorem zeroKeys_bus (k n : Nat) (b : Blk) : (zeroKeys k n b).bus = b.bus := rfl
@[simp] theorem zeroKeys_link (k n : Nat) (b : Blk) : (zeroKeys k n b).link = b.link := rfl
@[simp] theorem zeroKeys_gal (k n : Nat) (b : Blk) : (zeroKeys k n b).gal = b.gal := rfl

/-! ### `tenantInt` -/

@[simp] theorem tenantInt_clk (p : Nat) (b : Blk) : (tenantInt p b).clk = b.clk := by unfold tenantInt; split <;> rfl
@[simp] theorem tenantInt_fab (p : Nat) (b : Blk) : (tenantInt p b).fab = b.fab := by unfold tenantInt; split <;> rfl
@[simp] theorem tenantInt_pwr (p : Nat) (b : Blk) : (tenantInt p b).pwr = b.pwr := by unfold tenantInt; split <;> rfl
@[simp] theorem tenantInt_sump (p : Nat) (b : Blk) : (tenantInt p b).sump = b.sump := by unfold tenantInt; split <;> rfl
@[simp] theorem tenantInt_pres (p : Nat) (b : Blk) : (tenantInt p b).pres = b.pres := by unfold tenantInt; split <;> rfl
@[simp] theorem tenantInt_vlt (p : Nat) (b : Blk) : (tenantInt p b).vlt = b.vlt := by unfold tenantInt; split <;> rfl
@[simp] theorem tenantInt_dict (p : Nat) (b : Blk) : (tenantInt p b).dict = b.dict := by unfold tenantInt; split <;> rfl
@[simp] theorem tenantInt_cnt (p : Nat) (b : Blk) : (tenantInt p b).cnt = b.cnt := by unfold tenantInt; split <;> rfl
@[simp] theorem tenantInt_qs (p : Nat) (b : Blk) : (tenantInt p b).qs = b.qs := by unfold tenantInt; split <;> rfl
@[simp] theorem tenantInt_served (p : Nat) (b : Blk) : (tenantInt p b).served = b.served := by unfold tenantInt; split <;> rfl
@[simp] theorem tenantInt_flags (p : Nat) (b : Blk) : (tenantInt p b).flags = b.flags := by unfold tenantInt; split <;> rfl
@[simp] theorem tenantInt_moduli (p : Nat) (b : Blk) : (tenantInt p b).moduli = b.moduli := by unfold tenantInt; split <;> rfl
@[simp] theorem tenantInt_deadTc (p : Nat) (b : Blk) : (tenantInt p b).deadTc = b.deadTc := by unfold tenantInt; split <;> rfl
@[simp] theorem tenantInt_cmds (p : Nat) (b : Blk) : (tenantInt p b).cmds = b.cmds := by unfold tenantInt; split <;> rfl
@[simp] theorem tenantInt_nextId (p : Nat) (b : Blk) : (tenantInt p b).nextId = b.nextId := by unfold tenantInt; split <;> rfl
@[simp] theorem tenantInt_ctx (p : Nat) (b : Blk) : (tenantInt p b).ctx = b.ctx := by unfold tenantInt; split <;> rfl
@[simp] theorem tenantInt_regs (p : Nat) (b : Blk) : (tenantInt p b).regs = b.regs := by unfold tenantInt; split <;> rfl
@[simp] theorem tenantInt_accKey (p : Nat) (b : Blk) : (tenantInt p b).accKey = b.accKey := by unfold tenantInt; split <;> rfl
@[simp] theorem tenantInt_latches (p : Nat) (b : Blk) : (tenantInt p b).latches = b.latches := by unfold tenantInt; split <;> rfl
@[simp] theorem tenantInt_mem (p : Nat) (b : Blk) : (tenantInt p b).mem = b.mem := by unfold tenantInt; split <;> rfl
@[simp] theorem tenantInt_bad (p : Nat) (b : Blk) : (tenantInt p b).bad = b.bad := by unfold tenantInt; split <;> rfl
@[simp] theorem tenantInt_xlat (p : Nat) (b : Blk) : (tenantInt p b).xlat = b.xlat := by unfold tenantInt; split <;> rfl
@[simp] theorem tenantInt_streams (p : Nat) (b : Blk) : (tenantInt p b).streams = b.streams := by unfold tenantInt; split <;> rfl
@[simp] theorem tenantInt_handles (p : Nat) (b : Blk) : (tenantInt p b).handles = b.handles := by unfold tenantInt; split <;> rfl
@[simp] theorem tenantInt_shelves (p : Nat) (b : Blk) : (tenantInt p b).shelves = b.shelves := by unfold tenantInt; split <;> rfl
@[simp] theorem tenantInt_bus (p : Nat) (b : Blk) : (tenantInt p b).bus = b.bus := by unfold tenantInt; split <;> rfl
@[simp] theorem tenantInt_link (p : Nat) (b : Blk) : (tenantInt p b).link = b.link := by unfold tenantInt; split <;> rfl
@[simp] theorem tenantInt_gal (p : Nat) (b : Blk) : (tenantInt p b).gal = b.gal := by unfold tenantInt; split <;> rfl

/-! ### `writeBytes` -/

@[simp] theorem writeBytes_clk (a : Nat) (l : List Byte) (b : Blk) : (writeBytes a l b).clk = b.clk := by unfold writeBytes; split <;> rfl
@[simp] theorem writeBytes_fab (a : Nat) (l : List Byte) (b : Blk) : (writeBytes a l b).fab = b.fab := by unfold writeBytes; split <;> rfl
@[simp] theorem writeBytes_pwr (a : Nat) (l : List Byte) (b : Blk) : (writeBytes a l b).pwr = b.pwr := by unfold writeBytes; split <;> rfl
@[simp] theorem writeBytes_out (a : Nat) (l : List Byte) (b : Blk) : (writeBytes a l b).out = b.out := by unfold writeBytes; split <;> rfl
@[simp] theorem writeBytes_sump (a : Nat) (l : List Byte) (b : Blk) : (writeBytes a l b).sump = b.sump := by unfold writeBytes; split <;> rfl
@[simp] theorem writeBytes_pres (a : Nat) (l : List Byte) (b : Blk) : (writeBytes a l b).pres = b.pres := by unfold writeBytes; split <;> rfl
@[simp] theorem writeBytes_vlt (a : Nat) (l : List Byte) (b : Blk) : (writeBytes a l b).vlt = b.vlt := by unfold writeBytes; split <;> rfl
@[simp] theorem writeBytes_dict (a : Nat) (l : List Byte) (b : Blk) : (writeBytes a l b).dict = b.dict := by unfold writeBytes; split <;> rfl
@[simp] theorem writeBytes_cnt (a : Nat) (l : List Byte) (b : Blk) : (writeBytes a l b).cnt = b.cnt := by unfold writeBytes; split <;> rfl
@[simp] theorem writeBytes_qs (a : Nat) (l : List Byte) (b : Blk) : (writeBytes a l b).qs = b.qs := by unfold writeBytes; split <;> rfl
@[simp] theorem writeBytes_served (a : Nat) (l : List Byte) (b : Blk) : (writeBytes a l b).served = b.served := by unfold writeBytes; split <;> rfl
@[simp] theorem writeBytes_flags (a : Nat) (l : List Byte) (b : Blk) : (writeBytes a l b).flags = b.flags := by unfold writeBytes; split <;> rfl
@[simp] theorem writeBytes_moduli (a : Nat) (l : List Byte) (b : Blk) : (writeBytes a l b).moduli = b.moduli := by unfold writeBytes; split <;> rfl
@[simp] theorem writeBytes_deadTc (a : Nat) (l : List Byte) (b : Blk) : (writeBytes a l b).deadTc = b.deadTc := by unfold writeBytes; split <;> rfl
@[simp] theorem writeBytes_cmds (a : Nat) (l : List Byte) (b : Blk) : (writeBytes a l b).cmds = b.cmds := by unfold writeBytes; split <;> rfl
@[simp] theorem writeBytes_nextId (a : Nat) (l : List Byte) (b : Blk) : (writeBytes a l b).nextId = b.nextId := by unfold writeBytes; split <;> rfl
@[simp] theorem writeBytes_ctx (a : Nat) (l : List Byte) (b : Blk) : (writeBytes a l b).ctx = b.ctx := by unfold writeBytes; split <;> rfl
@[simp] theorem writeBytes_regs (a : Nat) (l : List Byte) (b : Blk) : (writeBytes a l b).regs = b.regs := by unfold writeBytes; split <;> rfl
@[simp] theorem writeBytes_accKey (a : Nat) (l : List Byte) (b : Blk) : (writeBytes a l b).accKey = b.accKey := by unfold writeBytes; split <;> rfl
@[simp] theorem writeBytes_latches (a : Nat) (l : List Byte) (b : Blk) : (writeBytes a l b).latches = b.latches := by unfold writeBytes; split <;> rfl
@[simp] theorem writeBytes_xlat (a : Nat) (l : List Byte) (b : Blk) : (writeBytes a l b).xlat = b.xlat := by unfold writeBytes; split <;> rfl
@[simp] theorem writeBytes_streams (a : Nat) (l : List Byte) (b : Blk) : (writeBytes a l b).streams = b.streams := by unfold writeBytes; split <;> rfl
@[simp] theorem writeBytes_handles (a : Nat) (l : List Byte) (b : Blk) : (writeBytes a l b).handles = b.handles := by unfold writeBytes; split <;> rfl
@[simp] theorem writeBytes_shelves (a : Nat) (l : List Byte) (b : Blk) : (writeBytes a l b).shelves = b.shelves := by unfold writeBytes; split <;> rfl
@[simp] theorem writeBytes_bus (a : Nat) (l : List Byte) (b : Blk) : (writeBytes a l b).bus = b.bus := by unfold writeBytes; split <;> rfl
@[simp] theorem writeBytes_link (a : Nat) (l : List Byte) (b : Blk) : (writeBytes a l b).link = b.link := by unfold writeBytes; split <;> rfl
@[simp] theorem writeBytes_gal (a : Nat) (l : List Byte) (b : Blk) : (writeBytes a l b).gal = b.gal := by unfold writeBytes; split <;> rfl

/-! ### `sumpPut` -/

@[simp] theorem sumpPut_clk (e : Nat) (c : Option Code) (p q t w d : Nat) (b : Blk) : (sumpPut e c p q t w d b).clk = b.clk := by simp only [sumpPut]; split <;> rfl
@[simp] theorem sumpPut_fab (e : Nat) (c : Option Code) (p q t w d : Nat) (b : Blk) : (sumpPut e c p q t w d b).fab = b.fab := by simp only [sumpPut]; split <;> rfl
@[simp] theorem sumpPut_pwr (e : Nat) (c : Option Code) (p q t w d : Nat) (b : Blk) : (sumpPut e c p q t w d b).pwr = b.pwr := by simp only [sumpPut]; split <;> rfl
@[simp] theorem sumpPut_pres (e : Nat) (c : Option Code) (p q t w d : Nat) (b : Blk) : (sumpPut e c p q t w d b).pres = b.pres := by simp only [sumpPut]; split <;> rfl
@[simp] theorem sumpPut_vlt (e : Nat) (c : Option Code) (p q t w d : Nat) (b : Blk) : (sumpPut e c p q t w d b).vlt = b.vlt := by simp only [sumpPut]; split <;> rfl
@[simp] theorem sumpPut_dict (e : Nat) (c : Option Code) (p q t w d : Nat) (b : Blk) : (sumpPut e c p q t w d b).dict = b.dict := by simp only [sumpPut]; split <;> rfl
@[simp] theorem sumpPut_cnt (e : Nat) (c : Option Code) (p q t w d : Nat) (b : Blk) : (sumpPut e c p q t w d b).cnt = b.cnt := by simp only [sumpPut]; split <;> rfl
@[simp] theorem sumpPut_qs (e : Nat) (c : Option Code) (p q t w d : Nat) (b : Blk) : (sumpPut e c p q t w d b).qs = b.qs := by simp only [sumpPut]; split <;> rfl
@[simp] theorem sumpPut_served (e : Nat) (c : Option Code) (p q t w d : Nat) (b : Blk) : (sumpPut e c p q t w d b).served = b.served := by simp only [sumpPut]; split <;> rfl
@[simp] theorem sumpPut_flags (e : Nat) (c : Option Code) (p q t w d : Nat) (b : Blk) : (sumpPut e c p q t w d b).flags = b.flags := by simp only [sumpPut]; split <;> rfl
@[simp] theorem sumpPut_moduli (e : Nat) (c : Option Code) (p q t w d : Nat) (b : Blk) : (sumpPut e c p q t w d b).moduli = b.moduli := by simp only [sumpPut]; split <;> rfl
@[simp] theorem sumpPut_deadTc (e : Nat) (c : Option Code) (p q t w d : Nat) (b : Blk) : (sumpPut e c p q t w d b).deadTc = b.deadTc := by simp only [sumpPut]; split <;> rfl
@[simp] theorem sumpPut_cmds (e : Nat) (c : Option Code) (p q t w d : Nat) (b : Blk) : (sumpPut e c p q t w d b).cmds = b.cmds := by simp only [sumpPut]; split <;> rfl
@[simp] theorem sumpPut_nextId (e : Nat) (c : Option Code) (p q t w d : Nat) (b : Blk) : (sumpPut e c p q t w d b).nextId = b.nextId := by simp only [sumpPut]; split <;> rfl
@[simp] theorem sumpPut_ctx (e : Nat) (c : Option Code) (p q t w d : Nat) (b : Blk) : (sumpPut e c p q t w d b).ctx = b.ctx := by simp only [sumpPut]; split <;> rfl
@[simp] theorem sumpPut_regs (e : Nat) (c : Option Code) (p q t w d : Nat) (b : Blk) : (sumpPut e c p q t w d b).regs = b.regs := by simp only [sumpPut]; split <;> rfl
@[simp] theorem sumpPut_accKey (e : Nat) (c : Option Code) (p q t w d : Nat) (b : Blk) : (sumpPut e c p q t w d b).accKey = b.accKey := by simp only [sumpPut]; split <;> rfl
@[simp] theorem sumpPut_latches (e : Nat) (c : Option Code) (p q t w d : Nat) (b : Blk) : (sumpPut e c p q t w d b).latches = b.latches := by simp only [sumpPut]; split <;> rfl
@[simp] theorem sumpPut_mem (e : Nat) (c : Option Code) (p q t w d : Nat) (b : Blk) : (sumpPut e c p q t w d b).mem = b.mem := by simp only [sumpPut]; split <;> rfl
@[simp] theorem sumpPut_bad (e : Nat) (c : Option Code) (p q t w d : Nat) (b : Blk) : (sumpPut e c p q t w d b).bad = b.bad := by simp only [sumpPut]; split <;> rfl
@[simp] theorem sumpPut_xlat (e : Nat) (c : Option Code) (p q t w d : Nat) (b : Blk) : (sumpPut e c p q t w d b).xlat = b.xlat := by simp only [sumpPut]; split <;> rfl
@[simp] theorem sumpPut_streams (e : Nat) (c : Option Code) (p q t w d : Nat) (b : Blk) : (sumpPut e c p q t w d b).streams = b.streams := by simp only [sumpPut]; split <;> rfl
@[simp] theorem sumpPut_handles (e : Nat) (c : Option Code) (p q t w d : Nat) (b : Blk) : (sumpPut e c p q t w d b).handles = b.handles := by simp only [sumpPut]; split <;> rfl
@[simp] theorem sumpPut_shelves (e : Nat) (c : Option Code) (p q t w d : Nat) (b : Blk) : (sumpPut e c p q t w d b).shelves = b.shelves := by simp only [sumpPut]; split <;> rfl
@[simp] theorem sumpPut_bus (e : Nat) (c : Option Code) (p q t w d : Nat) (b : Blk) : (sumpPut e c p q t w d b).bus = b.bus := by simp only [sumpPut]; split <;> rfl
@[simp] theorem sumpPut_link (e : Nat) (c : Option Code) (p q t w d : Nat) (b : Blk) : (sumpPut e c p q t w d b).link = b.link := by simp only [sumpPut]; split <;> rfl
@[simp] theorem sumpPut_gal (e : Nat) (c : Option Code) (p q t w d : Nat) (b : Blk) : (sumpPut e c p q t w d b).gal = b.gal := by simp only [sumpPut]; split <;> rfl

/-! ### `elapse` -/

@[simp] theorem elapse_fab (n : Nat) (b : Blk) : (elapse n b).fab = b.fab := rfl
@[simp] theorem elapse_pwr (n : Nat) (b : Blk) : (elapse n b).pwr = b.pwr := rfl
@[simp] theorem elapse_out (n : Nat) (b : Blk) : (elapse n b).out = b.out := rfl
@[simp] theorem elapse_pres (n : Nat) (b : Blk) : (elapse n b).pres = b.pres := rfl
@[simp] theorem elapse_vlt (n : Nat) (b : Blk) : (elapse n b).vlt = b.vlt := rfl
@[simp] theorem elapse_dict (n : Nat) (b : Blk) : (elapse n b).dict = b.dict := rfl
@[simp] theorem elapse_cnt (n : Nat) (b : Blk) : (elapse n b).cnt = b.cnt := rfl
@[simp] theorem elapse_qs (n : Nat) (b : Blk) : (elapse n b).qs = b.qs := rfl
@[simp] theorem elapse_served (n : Nat) (b : Blk) : (elapse n b).served = b.served := rfl
@[simp] theorem elapse_flags (n : Nat) (b : Blk) : (elapse n b).flags = b.flags := rfl
@[simp] theorem elapse_moduli (n : Nat) (b : Blk) : (elapse n b).moduli = b.moduli := rfl
@[simp] theorem elapse_deadTc (n : Nat) (b : Blk) : (elapse n b).deadTc = b.deadTc := rfl
@[simp] theorem elapse_cmds (n : Nat) (b : Blk) : (elapse n b).cmds = b.cmds := rfl
@[simp] theorem elapse_nextId (n : Nat) (b : Blk) : (elapse n b).nextId = b.nextId := rfl
@[simp] theorem elapse_ctx (n : Nat) (b : Blk) : (elapse n b).ctx = b.ctx := rfl
@[simp] theorem elapse_regs (n : Nat) (b : Blk) : (elapse n b).regs = b.regs := rfl
@[simp] theorem elapse_accKey (n : Nat) (b : Blk) : (elapse n b).accKey = b.accKey := rfl
@[simp] theorem elapse_latches (n : Nat) (b : Blk) : (elapse n b).latches = b.latches := rfl
@[simp] theorem elapse_mem (n : Nat) (b : Blk) : (elapse n b).mem = b.mem := rfl
@[simp] theorem elapse_bad (n : Nat) (b : Blk) : (elapse n b).bad = b.bad := rfl
@[simp] theorem elapse_xlat (n : Nat) (b : Blk) : (elapse n b).xlat = b.xlat := rfl
@[simp] theorem elapse_streams (n : Nat) (b : Blk) : (elapse n b).streams = b.streams := rfl
@[simp] theorem elapse_handles (n : Nat) (b : Blk) : (elapse n b).handles = b.handles := rfl
@[simp] theorem elapse_shelves (n : Nat) (b : Blk) : (elapse n b).shelves = b.shelves := rfl
@[simp] theorem elapse_bus (n : Nat) (b : Blk) : (elapse n b).bus = b.bus := rfl
@[simp] theorem elapse_link (n : Nat) (b : Blk) : (elapse n b).link = b.link := rfl
@[simp] theorem elapse_gal (n : Nat) (b : Blk) : (elapse n b).gal = b.gal := rfl

/-! ### `ofCtx` -/

@[simp] theorem ofCtx_clk (p : Nat) (b : Blk) : (ofCtx p b).clk = b.clk := rfl
@[simp] theorem ofCtx_fab (p : Nat) (b : Blk) : (ofCtx p b).fab = b.fab := rfl
@[simp] theorem ofCtx_pwr (p : Nat) (b : Blk) : (ofCtx p b).pwr = b.pwr := rfl
@[simp] theorem ofCtx_out (p : Nat) (b : Blk) : (ofCtx p b).out = b.out := rfl
@[simp] theorem ofCtx_sump (p : Nat) (b : Blk) : (ofCtx p b).sump = b.sump := rfl
@[simp] theorem ofCtx_pres (p : Nat) (b : Blk) : (ofCtx p b).pres = b.pres := rfl
@[simp] theorem ofCtx_vlt (p : Nat) (b : Blk) : (ofCtx p b).vlt = b.vlt := rfl
@[simp] theorem ofCtx_dict (p : Nat) (b : Blk) : (ofCtx p b).dict = b.dict := rfl
@[simp] theorem ofCtx_cnt (p : Nat) (b : Blk) : (ofCtx p b).cnt = b.cnt := rfl
@[simp] theorem ofCtx_qs (p : Nat) (b : Blk) : (ofCtx p b).qs = b.qs := rfl
@[simp] theorem ofCtx_served (p : Nat) (b : Blk) : (ofCtx p b).served = b.served := rfl
@[simp] theorem ofCtx_flags (p : Nat) (b : Blk) : (ofCtx p b).flags = b.flags := rfl
@[simp] theorem ofCtx_moduli (p : Nat) (b : Blk) : (ofCtx p b).moduli = b.moduli := rfl
@[simp] theorem ofCtx_deadTc (p : Nat) (b : Blk) : (ofCtx p b).deadTc = b.deadTc := rfl
@[simp] theorem ofCtx_cmds (p : Nat) (b : Blk) : (ofCtx p b).cmds = b.cmds := rfl
@[simp] theorem ofCtx_nextId (p : Nat) (b : Blk) : (ofCtx p b).nextId = b.nextId := rfl
@[simp] theorem ofCtx_regs (p : Nat) (b : Blk) : (ofCtx p b).regs = b.regs := rfl
@[simp] theorem ofCtx_accKey (p : Nat) (b : Blk) : (ofCtx p b).accKey = b.accKey := rfl
@[simp] theorem ofCtx_latches (p : Nat) (b : Blk) : (ofCtx p b).latches = b.latches := rfl
@[simp] theorem ofCtx_mem (p : Nat) (b : Blk) : (ofCtx p b).mem = b.mem := rfl
@[simp] theorem ofCtx_bad (p : Nat) (b : Blk) : (ofCtx p b).bad = b.bad := rfl
@[simp] theorem ofCtx_xlat (p : Nat) (b : Blk) : (ofCtx p b).xlat = b.xlat := rfl
@[simp] theorem ofCtx_streams (p : Nat) (b : Blk) : (ofCtx p b).streams = b.streams := rfl
@[simp] theorem ofCtx_handles (p : Nat) (b : Blk) : (ofCtx p b).handles = b.handles := rfl
@[simp] theorem ofCtx_shelves (p : Nat) (b : Blk) : (ofCtx p b).shelves = b.shelves := rfl
@[simp] theorem ofCtx_bus (p : Nat) (b : Blk) : (ofCtx p b).bus = b.bus := rfl
@[simp] theorem ofCtx_link (p : Nat) (b : Blk) : (ofCtx p b).link = b.link := rfl
@[simp] theorem ofCtx_gal (p : Nat) (b : Blk) : (ofCtx p b).gal = b.gal := rfl

/-! ### `matrixOf` -/

@[simp] theorem matrixOf_clk (x : Blk) (b : Blk) : (matrixOf x b).clk = b.clk := rfl
@[simp] theorem matrixOf_fab (x : Blk) (b : Blk) : (matrixOf x b).fab = b.fab := rfl
@[simp] theorem matrixOf_pwr (x : Blk) (b : Blk) : (matrixOf x b).pwr = b.pwr := rfl
@[simp] theorem matrixOf_pres (x : Blk) (b : Blk) : (matrixOf x b).pres = b.pres := rfl
@[simp] theorem matrixOf_vlt (x : Blk) (b : Blk) : (matrixOf x b).vlt = b.vlt := rfl
@[simp] theorem matrixOf_dict (x : Blk) (b : Blk) : (matrixOf x b).dict = b.dict := rfl
@[simp] theorem matrixOf_qs (x : Blk) (b : Blk) : (matrixOf x b).qs = b.qs := rfl
@[simp] theorem matrixOf_served (x : Blk) (b : Blk) : (matrixOf x b).served = b.served := rfl
@[simp] theorem matrixOf_flags (x : Blk) (b : Blk) : (matrixOf x b).flags = b.flags := rfl
@[simp] theorem matrixOf_moduli (x : Blk) (b : Blk) : (matrixOf x b).moduli = b.moduli := rfl
@[simp] theorem matrixOf_deadTc (x : Blk) (b : Blk) : (matrixOf x b).deadTc = b.deadTc := rfl
@[simp] theorem matrixOf_cmds (x : Blk) (b : Blk) : (matrixOf x b).cmds = b.cmds := rfl
@[simp] theorem matrixOf_nextId (x : Blk) (b : Blk) : (matrixOf x b).nextId = b.nextId := rfl
@[simp] theorem matrixOf_ctx (x : Blk) (b : Blk) : (matrixOf x b).ctx = b.ctx := rfl
@[simp] theorem matrixOf_regs (x : Blk) (b : Blk) : (matrixOf x b).regs = b.regs := rfl
@[simp] theorem matrixOf_accKey (x : Blk) (b : Blk) : (matrixOf x b).accKey = b.accKey := rfl
@[simp] theorem matrixOf_latches (x : Blk) (b : Blk) : (matrixOf x b).latches = b.latches := rfl
@[simp] theorem matrixOf_mem (x : Blk) (b : Blk) : (matrixOf x b).mem = b.mem := rfl
@[simp] theorem matrixOf_bad (x : Blk) (b : Blk) : (matrixOf x b).bad = b.bad := rfl
@[simp] theorem matrixOf_xlat (x : Blk) (b : Blk) : (matrixOf x b).xlat = b.xlat := rfl
@[simp] theorem matrixOf_streams (x : Blk) (b : Blk) : (matrixOf x b).streams = b.streams := rfl
@[simp] theorem matrixOf_handles (x : Blk) (b : Blk) : (matrixOf x b).handles = b.handles := rfl
@[simp] theorem matrixOf_shelves (x : Blk) (b : Blk) : (matrixOf x b).shelves = b.shelves := rfl
@[simp] theorem matrixOf_link (x : Blk) (b : Blk) : (matrixOf x b).link = b.link := rfl
@[simp] theorem matrixOf_gal (x : Blk) (b : Blk) : (matrixOf x b).gal = b.gal := rfl

/-! ### `inCtx` -/

@[simp] theorem inCtx_ctx (p : Nat) (f : Blk → Blk) (b : Blk) : (inCtx p f b).ctx = b.ctx := rfl
@[simp] theorem ofCtx_at (p : Nat) (b : Blk) : (ofCtx p b).ctx = p := rfl
@[simp] theorem matrixOf_self (b : Blk) : matrixOf b b = b := rfl
@[simp] theorem inCtx_clk (p : Nat) (f : Blk → Blk) (b : Blk) : (inCtx p f b).clk = (f (ofCtx p b)).clk := rfl
@[simp] theorem inCtx_fab (p : Nat) (f : Blk → Blk) (b : Blk) : (inCtx p f b).fab = (f (ofCtx p b)).fab := rfl
@[simp] theorem inCtx_pwr (p : Nat) (f : Blk → Blk) (b : Blk) : (inCtx p f b).pwr = (f (ofCtx p b)).pwr := rfl
@[simp] theorem inCtx_out (p : Nat) (f : Blk → Blk) (b : Blk) : (inCtx p f b).out = (f (ofCtx p b)).out := rfl
@[simp] theorem inCtx_sump (p : Nat) (f : Blk → Blk) (b : Blk) : (inCtx p f b).sump = (f (ofCtx p b)).sump := rfl
@[simp] theorem inCtx_pres (p : Nat) (f : Blk → Blk) (b : Blk) : (inCtx p f b).pres = (f (ofCtx p b)).pres := rfl
@[simp] theorem inCtx_vlt (p : Nat) (f : Blk → Blk) (b : Blk) : (inCtx p f b).vlt = (f (ofCtx p b)).vlt := rfl
@[simp] theorem inCtx_dict (p : Nat) (f : Blk → Blk) (b : Blk) : (inCtx p f b).dict = (f (ofCtx p b)).dict := rfl
@[simp] theorem inCtx_cnt (p : Nat) (f : Blk → Blk) (b : Blk) : (inCtx p f b).cnt = (f (ofCtx p b)).cnt := rfl
@[simp] theorem inCtx_qs (p : Nat) (f : Blk → Blk) (b : Blk) : (inCtx p f b).qs = (f (ofCtx p b)).qs := rfl
@[simp] theorem inCtx_served (p : Nat) (f : Blk → Blk) (b : Blk) : (inCtx p f b).served = (f (ofCtx p b)).served := rfl
@[simp] theorem inCtx_flags (p : Nat) (f : Blk → Blk) (b : Blk) : (inCtx p f b).flags = (f (ofCtx p b)).flags := rfl
@[simp] theorem inCtx_moduli (p : Nat) (f : Blk → Blk) (b : Blk) : (inCtx p f b).moduli = (f (ofCtx p b)).moduli := rfl
@[simp] theorem inCtx_deadTc (p : Nat) (f : Blk → Blk) (b : Blk) : (inCtx p f b).deadTc = (f (ofCtx p b)).deadTc := rfl
@[simp] theorem inCtx_cmds (p : Nat) (f : Blk → Blk) (b : Blk) : (inCtx p f b).cmds = (f (ofCtx p b)).cmds := rfl
@[simp] theorem inCtx_nextId (p : Nat) (f : Blk → Blk) (b : Blk) : (inCtx p f b).nextId = (f (ofCtx p b)).nextId := rfl
@[simp] theorem inCtx_regs (p : Nat) (f : Blk → Blk) (b : Blk) : (inCtx p f b).regs = (f (ofCtx p b)).regs := rfl
@[simp] theorem inCtx_accKey (p : Nat) (f : Blk → Blk) (b : Blk) : (inCtx p f b).accKey = (f (ofCtx p b)).accKey := rfl
@[simp] theorem inCtx_latches (p : Nat) (f : Blk → Blk) (b : Blk) : (inCtx p f b).latches = (f (ofCtx p b)).latches := rfl
@[simp] theorem inCtx_mem (p : Nat) (f : Blk → Blk) (b : Blk) : (inCtx p f b).mem = (f (ofCtx p b)).mem := rfl
@[simp] theorem inCtx_bad (p : Nat) (f : Blk → Blk) (b : Blk) : (inCtx p f b).bad = (f (ofCtx p b)).bad := rfl
@[simp] theorem inCtx_xlat (p : Nat) (f : Blk → Blk) (b : Blk) : (inCtx p f b).xlat = (f (ofCtx p b)).xlat := rfl
@[simp] theorem inCtx_streams (p : Nat) (f : Blk → Blk) (b : Blk) : (inCtx p f b).streams = (f (ofCtx p b)).streams := rfl
@[simp] theorem inCtx_handles (p : Nat) (f : Blk → Blk) (b : Blk) : (inCtx p f b).handles = (f (ofCtx p b)).handles := rfl
@[simp] theorem inCtx_shelves (p : Nat) (f : Blk → Blk) (b : Blk) : (inCtx p f b).shelves = (f (ofCtx p b)).shelves := rfl
@[simp] theorem inCtx_bus (p : Nat) (f : Blk → Blk) (b : Blk) : (inCtx p f b).bus = (f (ofCtx p b)).bus := rfl
@[simp] theorem inCtx_link (p : Nat) (f : Blk → Blk) (b : Blk) : (inCtx p f b).link = (f (ofCtx p b)).link := rfl
@[simp] theorem inCtx_gal (p : Nat) (f : Blk → Blk) (b : Blk) : (inCtx p f b).gal = (f (ofCtx p b)).gal := rfl

end Sys2Proof.Machine
end

