-- ==== Sys2Proof/Laws/Tab.lean ====
section
/-! SUPPORT. Sparse tables and memory: what a read finds after a write, and the canonical form that every memory
operation keeps. -/
namespace Sys2Proof.Machine

/-! ### Reading after writing -/

section Tables
variable {α : Type}

theorem tabFind_tabIns_same (k : Nat) (v : α) (t : Tab α) : tabFind (tabIns k v t) k = some v := by
  induction t with
  | nil => simp [tabIns, tabFind]
  | cons e t ih =>
    obtain ⟨j, w⟩ := e
    unfold tabIns
    split
    · simp [tabFind]
    · split
      · simp [tabFind]
      · rename_i h1 h2
        have : j ≠ k := fun e => h2 e.symm
        simp [tabFind, this, ih]

theorem tabFind_tabIns_other {k j : Nat} (h : j ≠ k) (v : α) (t : Tab α) : tabFind (tabIns k v t) j = tabFind t j := by
  induction t with
  | nil => simp [tabIns, tabFind, Ne.symm h]
  | cons e t ih =>
    obtain ⟨i, w⟩ := e
    unfold tabIns
    split
    · simp [tabFind, Ne.symm h]
    · split
      · rename_i h1 h2
        subst h2
        simp [tabFind, Ne.symm h]
      · simp [tabFind, ih]

theorem tabFind_tabDel_other {k j : Nat} (h : j ≠ k) (t : Tab α) : tabFind (tabDel k t) j = tabFind t j := by
  induction t with
  | nil => rfl
  | cons e t ih =>
    obtain ⟨i, w⟩ := e
    unfold tabDel
    split
    · rename_i h1
      subst h1
      simp [tabFind, Ne.symm h]
    · simp [tabFind, ih]

theorem tabFind_tabKeep (ok : Nat → Bool) (t : Tab α) (j : Nat) :
    tabFind (tabKeep ok t) j = if ok j then tabFind t j else none := by
  induction t with
  | nil => simp [tabKeep, tabFind]
  | cons e t ih =>
    obtain ⟨i, w⟩ := e
    unfold tabKeep at *
    by_cases hp : ok i = true
    · rw [List.filter_cons_of_pos (by simpa using hp)]
      by_cases hij : i = j
      · subst hij; simp [tabFind, hp]
      · simp [tabFind, hij, ih]
    · rw [List.filter_cons_of_neg (by simpa using hp), ih]
      by_cases hij : i = j
      · subst hij; simp [hp]
      · simp [tabFind, hij]

@[simp] theorem tabGet_tabIns_same (d : α) (k : Nat) (v : α) (t : Tab α) : tabGet d (tabIns k v t) k = v := by
  simp [tabGet, tabFind_tabIns_same]

theorem tabGet_tabIns_other {k j : Nat} (h : j ≠ k) (d v : α) (t : Tab α) : tabGet d (tabIns k v t) j = tabGet d t j := by
  simp [tabGet, tabFind_tabIns_other h]

theorem tabIns_tabIns (k : Nat) (v w : α) (t : Tab α) : tabIns k w (tabIns k v t) = tabIns k w t := by
  induction t with
  | nil => simp [tabIns]
  | cons e t ih =>
    obtain ⟨j, u⟩ := e
    by_cases h1 : k < j
    · simp [tabIns, h1]
    · by_cases h2 : k = j
      · subst h2; simp [tabIns]
      · simp [tabIns, h1, h2, ih]

variable [DecidableEq α]

theorem tabGet_tabPut_other {k j : Nat} (h : j ≠ k) (d v : α) (t : Tab α) : tabGet d (tabPut d t k v) j = tabGet d t j := by
  unfold tabPut
  split
  · simp [tabGet, tabFind_tabDel_other h]
  · exact tabGet_tabIns_other h d v t

theorem tabGet_tabPut_of_ne {d v : α} (h : v ≠ d) (t : Tab α) (k : Nat) : tabGet d (tabPut d t k v) k = v := by
  simp [tabPut, h]

theorem tabPut_tabPut {d v : α} (h : v ≠ d) (t : Tab α) (k : Nat) (w : α) (hw : w ≠ d) :
    tabPut d (tabPut d t k v) k w = tabPut d t k w := by
  simp [tabPut, h, hw, tabIns_tabIns]

/-- Two changes of one entry are one change, when neither leaves the default. -/
theorem tabUpd_tabUpd {d : α} {t : Tab α} {k : Nat} {f g : α → α} (h : f (tabGet d t k) ≠ d) (hg : g (f (tabGet d t k)) ≠ d) :
    tabUpd d (tabUpd d t k f) k g = tabUpd d t k (fun x => g (f x)) := by
  unfold tabUpd
  rw [tabGet_tabPut_of_ne h, tabPut_tabPut h t k _ hg]

theorem tabGet_tabUpd_other {k j : Nat} (h : j ≠ k) (d : α) (t : Tab α) (f : α → α) :
    tabGet d (tabUpd d t k f) j = tabGet d t j := tabGet_tabPut_other h d _ t

/-! ### The canonical form -/

/-- The keys of a table rise strictly from above a bound and no entry is the default. -/
def risesFrom (d : α) (lo : Option Nat) (t : Tab α) : Bool :=
  tabSortedFrom lo t && t.all (fun e => !decide (e.2 = d))

theorem risesFrom_cons (d : α) (lo : Option Nat) (k : Nat) (v : α) (t : Tab α) :
    risesFrom d lo ((k, v) :: t) = true ↔ (∀ l, lo = some l → l < k) ∧ v ≠ d ∧ risesFrom d (some k) t = true := by
  cases lo <;> simp [risesFrom, tabSortedFrom, and_assoc, and_left_comm]

theorem risesFrom_nil (d : α) (lo : Option Nat) : risesFrom d lo ([] : Tab α) = true := by simp [risesFrom, tabSortedFrom]

theorem risesFrom_weaken {d : α} {k : Nat} {lo : Option Nat} {t : Tab α} (h : risesFrom d (some k) t = true)
    (hk : ∀ l, lo = some l → l ≤ k) : risesFrom d lo t = true := by
  cases t with
  | nil => exact risesFrom_nil d lo
  | cons e t =>
    obtain ⟨j, v⟩ := e
    rw [risesFrom_cons] at h ⊢
    refine ⟨fun l hl => ?_, h.2⟩
    have := h.1 k rfl
    have := hk l hl
    omega

theorem risesFrom_tabIns {d v : α} (hv : v ≠ d) {lo : Option Nat} {t : Tab α} {k : Nat} (hk : ∀ l, lo = some l → l < k)
    (h : risesFrom d lo t = true) : risesFrom d lo (tabIns k v t) = true := by
  induction t generalizing lo with
  | nil => simp only [tabIns]; rw [risesFrom_cons]; exact ⟨hk, hv, risesFrom_nil d _⟩
  | cons e t ih =>
    obtain ⟨j, w⟩ := e
    rw [risesFrom_cons] at h
    unfold tabIns
    split
    · rename_i h1
      rw [risesFrom_cons, risesFrom_cons]
      exact ⟨hk, hv, fun l hl => by cases hl; exact h1, h.2⟩
    · split
      · rename_i h1 h2
        subst h2
        rw [risesFrom_cons]
        exact ⟨hk, hv, h.2.2⟩
      · rename_i h1 h2
        rw [risesFrom_cons]
        exact ⟨h.1, h.2.1, ih (fun l hl => by cases hl; omega) h.2.2⟩

theorem risesFrom_filter {d : α} {lo : Option Nat} {t : Tab α} (p : Nat × α → Bool) (h : risesFrom d lo t = true) :
    risesFrom d lo (t.filter p) = true := by
  induction t generalizing lo with
  | nil => exact risesFrom_nil d lo
  | cons e t ih =>
    obtain ⟨j, w⟩ := e
    rw [risesFrom_cons] at h
    by_cases hp : p (j, w) = true
    · rw [List.filter_cons_of_pos hp, risesFrom_cons]
      exact ⟨h.1, h.2.1, ih h.2.2⟩
    · rw [List.filter_cons_of_neg hp]
      exact ih (risesFrom_weaken h.2.2 (fun l hl => Nat.le_of_lt (h.1 l hl)))

theorem risesFrom_tabDel {d : α} {lo : Option Nat} {t : Tab α} (k : Nat) (h : risesFrom d lo t = true) :
    risesFrom d lo (tabDel k t) = true := by
  induction t generalizing lo with
  | nil => exact risesFrom_nil d lo
  | cons e t ih =>
    obtain ⟨j, w⟩ := e
    rw [risesFrom_cons] at h
    unfold tabDel
    split
    · exact risesFrom_weaken h.2.2 (fun l hl => Nat.le_of_lt (h.1 l hl))
    · rw [risesFrom_cons]
      exact ⟨h.1, h.2.1, ih h.2.2⟩

theorem tabWf_eq (d : α) (t : Tab α) : tabWf d t = risesFrom d none t := rfl

theorem tabWf_tabPut {d : α} {t : Tab α} (k : Nat) (v : α) (h : tabWf d t = true) : tabWf d (tabPut d t k v) = true := by
  rw [tabWf_eq] at *
  unfold tabPut
  split
  · exact risesFrom_tabDel k h
  · exact risesFrom_tabIns ‹_› (fun l hl => by cases hl) h

theorem tabWf_filter {d : α} {t : Tab α} (p : Nat × α → Bool) (h : tabWf d t = true) : tabWf d (t.filter p) = true :=
  risesFrom_filter p h

theorem tabFind_none_of_rises {d : α} {k : Nat} {t : Tab α} (h : risesFrom d (some k) t = true) {j : Nat} (hj : j ≤ k) :
    tabFind t j = none := by
  induction t generalizing k with
  | nil => rfl
  | cons e t ih =>
    obtain ⟨i, w⟩ := e
    rw [risesFrom_cons] at h
    have := h.1 k rfl
    have hne : i ≠ j := by omega
    simp only [tabFind, hne, if_false]
    exact ih h.2.2 (by omega)

theorem tabGet_tabDel_same {d : α} {t : Tab α} (k : Nat) (h : tabWf d t = true) : tabGet d (tabDel k t) k = d := by
  have : ∀ lo, risesFrom d lo t = true → tabFind (tabDel k t) k = none := by
    intro lo
    induction t generalizing lo with
    | nil => intro _; rfl
    | cons e t ih =>
      obtain ⟨i, w⟩ := e
      intro hr
      rw [risesFrom_cons] at hr
      unfold tabDel
      split
      · rename_i he
        subst he
        exact tabFind_none_of_rises hr.2.2 (Nat.le_refl _)
      · rename_i he
        rw [tabFind, if_neg (fun e => he e.symm)]
        exact ih (risesFrom_weaken hr.2.2 (fun l hl => by cases hl)) (some i) hr.2.2
  simp [tabGet, this none h]

theorem tabGet_tabPut_same {d : α} {t : Tab α} (k : Nat) (v : α) (h : tabWf d t = true) : tabGet d (tabPut d t k v) k = v := by
  unfold tabPut
  split
  · rename_i hv
    rw [tabGet_tabDel_same k h, hv]
  · simp

end Tables

/-! ### Memory -/

theorem memWf_memPut {m : List Host.Cell} (k : Nat) (v : Byte) (h : Memory.wf m = true) : Memory.wf (memPut m k v) = true :=
  tabWf_tabPut k v h

theorem memWf_memPutBytes {m : List Host.Cell} (k : Nat) (l : List Byte) (h : Memory.wf m = true) :
    Memory.wf (memPutBytes m k l) = true := by
  induction l generalizing m k with
  | nil => exact h
  | cons v t ih => exact ih (k + 1) (memWf_memPut k v h)

theorem memWf_tabKeep {m : List Host.Cell} (ok : Nat → Bool) (h : Memory.wf m = true) : Memory.wf (tabKeep ok m) = true :=
  tabWf_filter _ h

theorem memWf_memClear {m : List Host.Cell} (k n : Nat) (h : Memory.wf m = true) : Memory.wf (memClear m k n) = true :=
  memWf_tabKeep _ h

theorem memWf_foldl {γ : Type} (l : List γ) (key : γ → Nat) (val : γ → Byte) {m : List Host.Cell} (h : Memory.wf m = true) :
    Memory.wf (l.foldl (fun acc c => memPut acc (key c) (val c)) m) = true := by
  induction l generalizing m with
  | nil => exact h
  | cons e t ih => exact ih (memWf_memPut _ _ h)

theorem memWf_memCopy {m : List Host.Cell} (src dst n : Nat) (h : Memory.wf m = true) : Memory.wf (memCopy m src dst n) = true :=
  memWf_foldl _ _ _ (memWf_memClear dst n h)

theorem memWf_memSwap {m : List Host.Cell} (x y n : Nat) (h : Memory.wf m = true) : Memory.wf (memSwap m x y n) = true :=
  memWf_foldl _ _ _ (memWf_foldl _ _ _ (memWf_memClear y n (memWf_memClear x n h)))

theorem memGet_memPut_same {m : List Host.Cell} (k : Nat) (v : Byte) (h : Memory.wf m = true) : memGet (memPut m k v) k = v :=
  tabGet_tabPut_same k v h

theorem memGet_memPut_other {m : List Host.Cell} {k j : Nat} (hj : j ≠ k) (v : Byte) : memGet (memPut m k v) j = memGet m j :=
  tabGet_tabPut_other hj 0 v m

/-- Bytes outside the range written read as before. -/
theorem memGet_memPutBytes_outside {m : List Host.Cell} {k j : Nat} {l : List Byte} (h : j < k ∨ k + l.length ≤ j) :
    memGet (memPutBytes m k l) j = memGet m j := by
  induction l generalizing m k with
  | nil => rfl
  | cons v t ih =>
    simp only [List.length_cons] at h
    rw [memPutBytes, ih (by omega), memGet_memPut_other (by omega)]

/-- A byte of the range written reads as written. -/
theorem memGet_memPutBytes_inside {m : List Host.Cell} {k i : Nat} {l : List Byte} (h : Memory.wf m = true) (hi : i < l.length) :
    memGet (memPutBytes m k l) (k + i) = l[i] := by
  induction l generalizing m k i with
  | nil => simp at hi
  | cons v t ih =>
    rw [memPutBytes]
    cases i with
    | zero =>
      rw [memGet_memPutBytes_outside (by omega)]
      simpa using memGet_memPut_same k v h
    | succ i =>
      have : k + (i + 1) = k + 1 + i := by omega
      rw [this, ih (memWf_memPut k v h) (by simpa using hi)]
      simp

/-- Cleared bytes read zero. -/
theorem memGet_memClear_inside {m : List Host.Cell} {k n j : Nat} (h1 : k ≤ j) (h2 : j < k + n) : memGet (memClear m k n) j = 0 := by
  have : (decide (j < k) || decide (k + n ≤ j)) = false := by simp; omega
  simp [memGet, tabGet, memClear, tabFind_tabKeep, this]

/-- Bytes outside a cleared range read as before. -/
theorem memGet_memClear_outside {m : List Host.Cell} {k n j : Nat} (h : j < k ∨ k + n ≤ j) : memGet (memClear m k n) j = memGet m j := by
  have : (decide (j < k) || decide (k + n ≤ j)) = true := by simp; omega
  simp [memGet, tabGet, memClear, tabFind_tabKeep, this]

end Sys2Proof.Machine
end

