-- ==== Sys2Proof/Laws/Finish.lean ====
section
/-! SUPPORT. What completing a command does, once: `finishCmd` is `completed` wherever the record can be written. -/
namespace Sys2Proof.Machine

@[simp] theorem queueOf_updQueue_same {p q : Nat} {f : Queue → Queue} {b : Blk} (h : f (queueOf b p q) ≠ {}) :
    queueOf (updQueue p q f b) p q = f (queueOf b p q) := by
  unfold queueOf updQueue at *
  exact tabGet_tabPut_of_ne h _ _

theorem queueOf_congr {a b : Blk} (h : a.qs = b.qs) (p q : Nat) : queueOf a p q = queueOf b p q := by
  unfold queueOf; rw [h]

theorem xstat_congr {a b : Blk} (h : a.xlat = b.xlat) (hc : a.ctx = b.ctx) (x : Nat) : xstat a x = xstat b x := by
  unfold xstat; rw [h, hc]

/-- What a port's access meets does not depend on the context of the access under way. -/
theorem xstat_ofCtx_congr {a b : Blk} (h : a.xlat = b.xlat) (p x : Nat) : xstat (ofCtx p a) x = xstat (ofCtx p b) x :=
  xstat_congr (a := ofCtx p a) (b := ofCtx p b) h rfl x

theorem inFlight_congr {a b : Blk} (h : a.cmds = b.cmds) (p q : Nat) : inFlight a p q = inFlight b p q := by
  unfold inFlight; rw [h]

theorem memKey_congr {a b : Blk} (hf : a.fab = b.fab) (hv : a.vlt = b.vlt) (hc : a.ctx = b.ctx) (x : Nat) :
    memKey a x = memKey b x := by
  unfold memKey dieOf physOf; rw [hf, hv, hc]

theorem cmdOf_congr {a b : Blk} (h : a.cmds = b.cmds) (id : Nat) : cmdOf a id = cmdOf b id := by
  unfold cmdOf; rw [h]

/-- Counting a completion changes the counters only. -/
theorem countCode_eq (p : Nat) (code : Code) (b : Blk) : countCode p code b = { b with cnt := (countCode p code b).cnt } := by
  unfold countCode
  cases code <;> by_cases h : p < 5 <;> simp [h, countAdd]

/-- What a completion counts depends on the counters alone. -/
theorem countCode_cnt {a b : Blk} (h : a.cnt = b.cnt) (p : Nat) (code : Code) : (countCode p code a).cnt = (countCode p code b).cnt := by
  unfold countCode countAdd
  cases code <;> by_cases hp : p < 5 <;> simp [hp, h]

theorem settleQueue_ring (c : Cmd) (code : Code) (left : Bool) (r : Queue) :
    (settleQueue c code left r).logEntries = r.logEntries := by
  simp only [settleQueue]
  repeat' split
  all_goals rfl

/-- A queue settles by the number and the descriptor of the command that has ended. -/
theorem settleQueue_congr {x y : Cmd} (hi : x.id = y.id) (hd : x.desc = y.desc) (code : Code) (left : Bool) :
    settleQueue x code left = settleQueue y code left := by
  funext r
  unfold settleQueue
  rw [hi, hd]

theorem queue_ne_default {r : Queue} (h : r.logEntries ≠ 0) : r ≠ {} := by
  intro e; subst e; exact h rfl

/-- `writeBytes` changes memory and the parity of its bytes only. -/
theorem writeBytes_eq (a : Nat) (l : List Byte) (b : Blk) :
    writeBytes a l b = { b with mem := (writeBytes a l b).mem, bad := (writeBytes a l b).bad } := by
  unfold writeBytes; split <;> rfl

/-- So does a write in a port's context. -/
theorem writeIn_eq (p a : Nat) (l : List Byte) (b : Blk) :
    inCtx p (writeBytes a l) b
      = { b with mem := (inCtx p (writeBytes a l) b).mem, bad := (inCtx p (writeBytes a l) b).bad } := by
  unfold inCtx
  rw [writeBytes_eq]

theorem writeBytes_mem_congr {x y : Blk} (hf : x.fab = y.fab) (hv : x.vlt = y.vlt) (hc : x.ctx = y.ctx) (hm : x.mem = y.mem)
    (hb : x.bad = y.bad) (a : Nat) (l : List Byte) :
    (writeBytes a l x).mem = (writeBytes a l y).mem ∧ (writeBytes a l x).bad = (writeBytes a l y).bad := by
  have hk := memKey_congr hf hv hc a
  unfold writeBytes
  rw [hk]
  split <;> simp [hm, hb]

theorem writeIn_mem_congr {x y : Blk} (hf : x.fab = y.fab) (hv : x.vlt = y.vlt) (hm : x.mem = y.mem) (hb : x.bad = y.bad)
    (p a : Nat) (l : List Byte) :
    (inCtx p (writeBytes a l) x).mem = (inCtx p (writeBytes a l) y).mem
    ∧ (inCtx p (writeBytes a l) x).bad = (inCtx p (writeBytes a l) y).bad :=
  writeBytes_mem_congr (x := ofCtx p x) (y := ofCtx p y) hf hv rfl hm hb a l

theorem filter_isEmpty_eq {α : Type} (p q : α → Bool) (l : List α) :
    (!((l.filter p).filter q).isEmpty) = (l.filter q).any p := by
  induction l with
  | nil => rfl
  | cons x t ih =>
    cases hp : p x <;> cases hq : q x <;> simp_all

/-- The commands left in flight beside one, in the block that the command has left. -/
theorem othersLeft_eq {x b : Blk} {c : Cmd} (h : x.cmds = b.cmds.filter (fun y => y.id ≠ c.id)) :
    (!(inFlight x c.port c.queue).isEmpty) = othersLeft c b := by
  unfold othersLeft inFlight
  rw [h, filter_isEmpty_eq]
  congr 1
  funext x
  simp [bne, BEq.beq]

/-- Changing a command leaves the others as they are. -/
theorem filter_updCmd (id : Nat) (f : Cmd → Cmd) (hf : ∀ x, (f x).id = x.id) (b : Blk) :
    (updCmd id f b).cmds.filter (fun y => y.id ≠ id) = b.cmds.filter (fun y => y.id ≠ id) := by
  show (b.cmds.map _).filter _ = _
  induction b.cmds with
  | nil => rfl
  | cons x t ih =>
    by_cases h : x.id = id <;> simp_all

/-- The command a number stands for, changed. -/
theorem cmdOf_updCmd {id : Nat} {f : Cmd → Cmd} (hf : ∀ x, (f x).id = x.id) {b : Blk} {y : Cmd} (h : cmdOf b id = some y) :
    cmdOf (updCmd id f b) id = some (f y) := by
  have key : ∀ l : List Cmd, l.find? (fun c => c.id == id) = some y →
      (l.map (fun c => if c.id = id then f c else c)).find? (fun c => c.id == id) = some (f y) := by
    intro l
    induction l with
    | nil => simp
    | cons x t ih =>
      by_cases hx : x.id = id
      · intro e
        have : x = y := by simpa [hx] using e
        subst this
        simp [hx, hf]
      · intro e
        have e : t.find? (fun c => c.id == id) = some y := by simpa [hx] using e
        simpa [hx] using ih e
  exact key _ h

/-- Interrupting a tenant under a condition changes the interrupt outputs only. -/
theorem ite_tenantInt (P : Prop) [Decidable P] (p : Nat) (x : Blk) :
    (if P then tenantInt p x else x) = { x with out := if P ∧ p < 5 then { x.out with tenantInt := tabUpd 0 x.out.tenantInt p (· + 1) } else x.out } := by
  by_cases h : P <;> by_cases hp : p < 5 <;> simp [h, hp, tenantInt]

/-- Two changes of a queue that stays a queue are one. -/
theorem updQueue_updQueue {p q : Nat} {f g : Queue → Queue} {b : Blk} (h : f (queueOf b p q) ≠ {})
    (hg : g (f (queueOf b p q)) ≠ {}) : updQueue p q g (updQueue p q f b) = updQueue p q (fun x => g (f x)) b := by
  unfold updQueue
  unfold queueOf at h hg
  simp only
  rw [tabUpd_tabUpd h hg]

/-- Posting a record where the ring slot is written: the record, CQ_TAIL, the interrupt on an empty ring, and the command it
ends. -/
theorem postCpl_eq {p q : Nat} {b : Blk} (r : Cpl) (hw : (queueOf b p q).cplWait = [])
    (hx : xstat (ofCtx p b) (cplAddr (queueOf b p q) (queueOf b p q).cqTail) = .ok) :
    postCpl p q r b = recordWritten r (posted p q r b) := by
  unfold postCpl posted
  simp only [hw, hx, ne_eq, not_true_eq_false, if_false]
  rw [show ∀ l : List Byte, updQueue p q (fun x => { x with cqTail := x.cqTail + 1 })
      (inCtx p (writeBytes (cplAddr (queueOf b p q) (queueOf b p q).cqTail) l) b)
    = { inCtx p (writeBytes (cplAddr (queueOf b p q) (queueOf b p q).cqTail) l) b with
        qs := tabUpd {} b.qs (qKey p q) (fun x => { x with cqTail := x.cqTail + 1 }) } from fun l => by
      unfold updQueue; rw [writeIn_eq]]

/-- An interim record ends no command. -/
theorem postCpl_interim {p q : Nat} {b : Blk} {r : Cpl} (hr : r.cmd = none) (hw : (queueOf b p q).cplWait = [])
    (hx : xstat (ofCtx p b) (cplAddr (queueOf b p q) (queueOf b p q).cqTail) = .ok) : postCpl p q r b = posted p q r b := by
  rw [postCpl_eq r hw hx]
  unfold recordWritten
  rw [hr]
  rfl

/-- Whether a command can complete depends on the commands in flight, its queue and what translation last answered. -/
theorem canComplete_congr {a b : Blk} {c : Cmd} (hc : a.cmds = b.cmds) (hq : a.qs = b.qs) (hx : a.xlat = b.xlat)
    (h : canComplete c b) : canComplete c a := by
  unfold canComplete isFlying at *
  rw [queueOf_congr hq, xstat_ofCtx_congr hx, cmdOf_congr hc]
  exact h

/-- Taking a command out of flight: the command, its queue's registers, and the tenant's interrupt. -/
theorem leaveFlight_eq (y : Cmd) (code : Code) (b : Blk) (h : (queueOf b y.port y.queue).logEntries ≠ 0) :
    leaveFlight y code b =
      let x := { b with
        cmds := b.cmds.filter (fun x => x.id ≠ y.id)
        qs := tabUpd {} b.qs (qKey y.port y.queue) (settleQueue y code (othersLeft y b)) }
      if (queueOf b y.port y.queue).state ≠ .stopped
          ∧ (settleQueue y code (othersLeft y b) (queueOf b y.port y.queue)).state = .stopped
      then tenantInt y.port x else x := by
  unfold leaveFlight
  simp only [othersLeft_eq (x := { b with cmds := b.cmds.filter (fun x => x.id ≠ y.id) }) (b := b) (c := y) rfl]
  rw [queueOf_updQueue_same]
  · rfl
  · apply queue_ne_default
    rw [settleQueue_ring]
    exact h

theorem posted_cmds (p q : Nat) (r : Cpl) (b : Blk) : (posted p q r b).cmds = b.cmds := by
  unfold posted
  dsimp only
  split <;> simp

theorem posted_cnt (p q : Nat) (r : Cpl) (b : Blk) : (posted p q r b).cnt = b.cnt := by
  unfold posted
  dsimp only
  split <;> simp

/-- A queue after a record of it is written. -/
theorem posted_queue {p q : Nat} {r : Cpl} {b : Blk} (h : (queueOf b p q).logEntries ≠ 0) :
    queueOf (posted p q r b) p q = { queueOf b p q with cqTail := (queueOf b p q).cqTail + 1 } := by
  have : (posted p q r b).qs = tabUpd {} b.qs (qKey p q) (fun x => { x with cqTail := x.cqTail + 1 }) := by
    unfold posted
    dsimp only
    split
    · rw [tenantInt_qs]
    · rfl
  unfold queueOf
  rw [this]
  exact tabGet_tabPut_of_ne (queue_ne_default (r := { queueOf b p q with cqTail := (queueOf b p q).cqTail + 1 }) h) _ _

theorem othersLeft_congr {a b : Blk} (h : a.cmds = b.cmds) (c : Cmd) : othersLeft c a = othersLeft c b := by
  unfold othersLeft; rw [inFlight_congr h]

/-- Whether others are left does not depend on the command's own state. -/
theorem othersLeft_updCmd (c : Cmd) (f : Cmd → Cmd) (hf : ∀ x, (f x).id = x.id) (b : Blk) :
    othersLeft c (updCmd c.id f b) = othersLeft c b := by
  have e : ∀ x : Blk, othersLeft c x = ((x.cmds.filter (fun y => y.id ≠ c.id)).any
      (fun y => y.home.isNone && qKey y.port y.queue == qKey c.port c.queue)) := by
    intro x
    unfold othersLeft inFlight
    rw [List.any_filter, List.any_filter]
    congr 1
    funext y
    by_cases h : y.id = c.id <;> simp [h]
  rw [e, e, filter_updCmd c.id f hf]

/-- Completing a command, where its record can be written, is `completed`. -/
theorem finishCmd_eq {c : Cmd} {b : Blk} (h : canComplete c b) (code : Code) (r0 r1 : Nat) :
    finishCmd c code r0 r1 b = completed c code r0 r1 b := by
  obtain ⟨⟨hh, hs, y, hy, hp, hq, hd⟩, hl, hw, hx⟩ := h
  have hcode : (code == .ok || code == .tallyMismatch) = decide (code = .ok ∨ code = .tallyMismatch) := by cases code <;> rfl
  have hid : y.id = c.id := beq_iff_eq.mp (List.find?_some hy :)
  let m : Cmd → Cmd := fun x => { x with st := .record }
  let b1 := updCmd c.id m b
  let rec_ := completion c code r0 r1 b
  have hfin : finishCmd c code r0 r1 b = postCpl c.port c.queue rec_ b1 := by
    unfold finishCmd
    simp only [hh, Option.isSome_none, Bool.false_eq_true, if_false, hs, hcode, decide_eq_true_eq]
    rfl
  have hpost : postCpl c.port c.queue rec_ b1 = recordWritten rec_ (posted c.port c.queue rec_ b1) := postCpl_eq rec_ hw hx
  let b2 := posted c.port c.queue rec_ b1
  have hc2 : cmdOf b2 c.id = some (m y) := by
    rw [cmdOf_congr (posted_cmds c.port c.queue rec_ b1)]
    exact cmdOf_updCmd (f := m) (fun _ => rfl) hy
  have hrec : recordWritten rec_ b2 = leaveFlight (m y) code (countCode c.port code b2) := by
    unfold recordWritten
    show (match cmdOf b2 c.id with | some z => leaveFlight z code (countCode z.port code b2) | none => b2) = _
    rw [hc2]
    show leaveFlight (m y) code (countCode y.port code b2) = _
    rw [hp]
  have hcq : (countCode c.port code b2).qs = b2.qs := by rw [countCode_eq]
  have hq2 : queueOf (countCode c.port code b2) c.port c.queue = { queueOf b c.port c.queue with cqTail := (queueOf b c.port c.queue).cqTail + 1 } := by
    rw [queueOf_congr hcq]
    exact posted_queue (b := b1) hl
  have hcm : (countCode c.port code b2).cmds = b1.cmds := by
    rw [countCode_eq]; exact posted_cmds c.port c.queue rec_ b1
  have hset : ∀ l, settleQueue (m y) code l = settleQueue c code l := settleQueue_congr hid hd code
  have hol : othersLeft (m y) (countCode c.port code b2) = othersLeft c b := by
    rw [othersLeft_congr hcm]
    have : othersLeft (m y) b1 = othersLeft c b1 := by
      unfold othersLeft
      show (inFlight b1 y.port y.queue).any (fun x => x.id != y.id) = _
      rw [hp, hq, hid]
    rw [this]
    exact othersLeft_updCmd c m (fun _ => rfl) b
  have hleave : leaveFlight (m y) code (countCode c.port code b2) = _ := leaveFlight_eq (m y) code (countCode c.port code b2) (by
    show (queueOf (countCode c.port code b2) y.port y.queue).logEntries ≠ 0
    rw [hp, hq, hq2]; exact hl)
  have hcnt : (countCode c.port code b2).cnt = (countCode c.port code b).cnt :=
    countCode_cnt (by rw [posted_cnt]; rfl) _ _
  have hqs : (countCode c.port code b2).qs = tabUpd {} b.qs (qKey c.port c.queue) (fun x => { x with cqTail := x.cqTail + 1 }) := by
    rw [hcq]
    show (posted c.port c.queue rec_ b1).qs = _
    unfold posted
    dsimp only
    split
    · rw [tenantInt_qs]; rfl
    · rfl
  have hupd : tabUpd {} (tabUpd {} b.qs (qKey c.port c.queue) (fun x => { x with cqTail := x.cqTail + 1 })) (qKey c.port c.queue)
        (settleQueue c code (othersLeft c b))
      = tabUpd {} b.qs (qKey c.port c.queue) (completedQueue c code b) := by
    rw [tabUpd_tabUpd]
    · rfl
    · intro e
      exact hl (congrArg Queue.logEntries e)
    · apply queue_ne_default
      rw [settleQueue_ring]
      exact hl
  rw [hfin, hpost]
  show recordWritten rec_ b2 = _
  rw [hrec, hleave]
  dsimp only
  rw [hset, hol]
  show (if (queueOf (countCode c.port code b2) y.port y.queue).state ≠ .stopped ∧ _ then _ else _) = _
  rw [show (m y).port = c.port from hp, show (m y).queue = c.queue from hq, show (m y).id = c.id from hid, hq2, hqs, hupd, hcm]
  rw [filter_updCmd c.id m (fun _ => rfl)]
  unfold completed
  simp only [ite_tenantInt]
  rw [countCode_eq c.port code b2, hcnt]
  have hb2 : b2 = _ := rfl
  show _ = _
  have hw1 := writeIn_mem_congr (x := b1) (y := b) rfl rfl rfl rfl c.port
    (cplAddr (queueOf b c.port c.queue) (queueOf b c.port c.queue).cqTail)
    (cplBytes (queueOf b c.port c.queue) c.queue (queueOf b c.port c.queue).cqTail (completion c code r0 r1 b))
  rw [show b2 = posted c.port c.queue rec_ b1 from rfl]
  unfold posted
  simp only [ite_tenantInt]
  rw [writeIn_eq]
  rw [show queueOf b1 c.port c.queue = queueOf b c.port c.queue from rfl]
  rw [hw1.1, hw1.2, writeIn_eq c.port _ _ b]
  rfl

/-- Completing a command in its port's context. -/
theorem finishIn_eq {c : Cmd} {b : Blk} {p : Nat} (h : canComplete c b) (code : Code) (r0 r1 : Nat) :
    inCtx p (finishCmd c code r0 r1) b = completed c code r0 r1 b := by
  unfold inCtx
  rw [finishCmd_eq (canComplete_congr (a := { b with ctx := p }) rfl rfl rfl h)]
  unfold completed
  simp only [ite_tenantInt]
  rw [countCode_cnt (a := { b with ctx := p }) (b := b) rfl]
  rfl

end Sys2Proof.Machine
end

