-- ==== Sys2Proof/Laws/Decode.lean ====
section
/-! SUPPORT. What a decode does, once: what it takes of its queue, and the command an accepted descriptor becomes. -/
namespace Sys2Proof.Machine

/-- A queue that can decode is enabled. -/
theorem canDecode_enable {b : Blk} {p q : Nat} {d : Desc} (h : canDecode b p q d = true) : (queueOf b p q).enable = true := by
  unfold canDecode canTake at h
  simp only [Bool.and_eq_true] at h
  exact h.1.2.1.1.1.1.1

theorem queue_ne_default_of_enable {r : Queue} (h : r.enable = true) : r ≠ {} := by
  intro e; subst e; exact absurd h (by decide)

/-- A queue that can decode the descriptor, reads its slot and meets no break runs the checks on the command that
takes the slot. -/
theorem decodeStep_eq {b : Blk} {p q : Nat} {d : Desc} (h : servesNext b p q d) (check : Cmd → Blk → Blk) :
    decodeStep p q d check b = check (freshCmd b p q d) (decoded b p q d (freshCmd b p q d)) := by
  obtain ⟨hc, hb, -, hx, hy⟩ := h
  have he := canDecode_enable hc
  unfold decodeStep
  simp only [hc, hx, hy, hb, Bool.not_true, Bool.false_eq_true, if_false, ne_eq, not_true_eq_false, or_self]
  congr 1
  unfold takeSlot blockOn decoded takenQueue
  by_cases hf : (flagBarrier d && opOf d != some .resume) = true
  · simp only [hf, if_true, updQueue, freshCmd]
    rw [tabUpd_tabUpd]
    · exact queue_ne_default_of_enable he
    · exact queue_ne_default_of_enable he
  · simp only [hf, updQueue, freshCmd]
    rfl

/-- Changing the command just numbered changes no other. -/
theorem updCmd_decoded {b : Blk} {p q : Nat} {d : Desc} (h : numbered b) (f : Cmd → Cmd) (c : Cmd) (hc : c.id = b.nextId) :
    updCmd b.nextId f (decoded b p q d c) = decoded b p q d (f c) := by
  have hm : b.cmds.map (fun x => if x.id = b.nextId then f x else x) = b.cmds := by
    conv => rhs; rw [← List.map_id b.cmds]
    apply List.map_congr_left
    intro x hx
    have := h x hx
    rw [if_neg (by omega)]
    rfl
  unfold updCmd decoded
  simp only [List.map_append, hm, List.map_cons, List.map_nil, hc, if_true]

/-- A command with no lists and no sources fetches nothing ahead. -/
theorem fetchAhead_none {c : Cmd} {b : Blk} (hl : listSpans c = []) (hs : sourceSpans c = []) : fetchAhead c b = b := by
  unfold fetchAhead
  rw [hl, hs]
  split <;> rfl

/-- An opcode with neither lists nor source operands leaves the lines alone. -/
theorem entered_plain {b : Blk} {p q : Nat} {d : Desc} {op : Op} (h : opOf d = some op)
    (hn : op ∈ [Op.nop, .fence, .flagSet, .flagWait, .resume, .debugBreak, .modtabLoad, .transpose, .bitrev, .layout, .accDrain, .accClear,
      .storeRows, .streamArm, .streamRearm, .handlePush, .handlePop]) :
    entered b p q d op = decoded b p q d (acceptedCmd b p q d op) := by
  have ho : opOf (acceptedCmd b p q d op).desc = some op := h
  refine fetchAhead_none ?_ ?_
  · unfold listSpans
    simp only [ho]
    cases op <;> first | rfl | (exfalso; revert hn; decide)
  · unfold sourceSpans
    simp only [ho]
    cases op <;> first | rfl | (exfalso; revert hn; decide)

/-- An accepted descriptor: its command enters flight with its lists read, and `go` follows in its port's context. -/
theorem decodeAs_accepted {b : Blk} {p q : Nat} {d : Desc} {op : Op} (h : accepts b p q d op) {mine : Op → Bool} (hm : mine op = true)
    (go : Cmd → Blk → Blk) :
    decodeAs mine go p q d b = inCtx p (go (acceptedCmd b p q d op)) (entered b p q d op) := by
  obtain ⟨ht, ⟨he, hte, hl⟩, hs, hf⟩ := h
  have hn := ht.2.2.2.1
  unfold decodeAs
  rw [ht.1]
  simp only [hm, if_true]
  rw [decodeStep_eq ht.2]
  unfold judge
  simp only [show (freshCmd b p q d).port = p from rfl, show (freshCmd b p q d).queue = q from rfl,
    show (freshCmd b p q d).desc = d from rfl, he, hte, hl, List.append_nil, Bool.false_eq_true, if_false]
  rw [show firstIn decodeOrder [] = none from rfl]
  simp only
  unfold passDecode forwardOut
  simp only [hs, Bool.false_and, Bool.false_eq_true, if_false]
  unfold fetchStage
  unfold fetchFound at hf
  simp only [show (freshCmd b p q d).port = p from rfl, show (freshCmd b p q d).desc = d from rfl,
    show (freshCmd b p q d).entries = [] from rfl, show (freshCmd b p q d).header = none from rfl, hf]
  rw [show (freshCmd b p q d).id = b.nextId from rfl, updCmd_decoded hn _ _ rfl]
  rfl

/-- A descriptor the decode stage finds an error in completes with the first code of the order (R147, R269). -/
theorem decodeAs_rejected {b : Blk} {p q : Nat} {d : Desc} {op : Op} (h : takesNext b p q d op) {mine : Op → Bool} (hm : mine op = true)
    (go : Cmd → Blk → Blk) {code : Code}
    (hl : (isModular op d && loadAhead (decoded b p q d (freshCmd b p q d)) (freshCmd b p q d)) = false)
    (he : firstIn decodeOrder (decodeErrs (ofCtx p (decoded b p q d (freshCmd b p q d))) p q op d
      ++ tableErrs (decoded b p q d (freshCmd b p q d)) p op d) = some code) :
    decodeAs mine go p q d b =
      rejectCmd (freshCmd b p q d) code (namedTiles (decoded b p q d (freshCmd b p q d)) op d)
        (decoded b p q d (freshCmd b p q d)) := by
  unfold decodeAs
  rw [h.1]
  simp only [hm, if_true]
  rw [decodeStep_eq h.2]
  unfold judge
  simp only [show (freshCmd b p q d).port = p from rfl, show (freshCmd b p q d).queue = q from rfl,
    show (freshCmd b p q d).desc = d from rfl, he, hl, Bool.false_eq_true, if_false]
  rfl

/-- A descriptor whose opcode Table CMD-6 does not name completes SHAPE (R145). -/
theorem decodeAs_unknown {b : Blk} {p q : Nat} {d : Desc} (h : servesNext b p q d) (ho : opOf d = none) (mine : Op → Bool)
    (go : Cmd → Blk → Blk) :
    decodeAs mine go p q d b = rejectCmd (freshCmd b p q d) .shape [] (decoded b p q d (freshCmd b p q d)) := by
  unfold decodeAs
  rw [ho]
  exact decodeStep_eq h _

/-- Every decoding row runs `decodeAs` on a test that its opcode passes. -/
theorem exec_rowOf (s : State) (p q : Nat) (d : Desc) (op : Op) (x : Blk)
    (h : ∀ (mine : Op → Bool) (go : Cmd → Blk → Blk), mine op = true → decodeAs mine go p q d s.blk = x) :
    exec (rowOf op p q d) s = .next { s with blk := x } := by
  have key : ∀ (mine : Op → Bool) (go : Cmd → Blk → Blk), mine op = true → onBlk (decodeAs mine go p q d) s = .next { s with blk := x } := by
    intro mine go hm
    unfold onBlk
    rw [h mine go hm]
  cases op
  case nop =>
    by_cases hr : oxRelease d = 0
    · cases hf : flagOpf0 d
      · rw [show rowOf .nop p q d = .nop p q d from by simp [rowOf, hr, hf]]
        exact key (fun op => op == .nop && oxRelease d == 0 && !flagOpf0 d) _ (by simp [hr, hf])
      · rw [show rowOf .nop p q d = .setEpoch p q d from by simp [rowOf, hr, hf]]
        exact key (fun op => op == .nop && oxRelease d == 0 && flagOpf0 d) _ (by simp [hr, hf])
    · rw [show rowOf .nop p q d = .release p q d from by simp [rowOf, hr]]
      exact key (fun op => op == .nop && oxRelease d != 0) _ (by simp [hr])
  case move =>
    cases hf : flagOpf0 d
    · rw [show rowOf .move p q d = .move p q d from by simp [rowOf, hf]]
      exact key (fun op => op == .move && !flagOpf0 d) _ (by simp [hf])
    · rw [show rowOf .move p q d = .grid p q d from by simp [rowOf, hf]]
      exact key (fun op => op == .move && flagOpf0 d) _ (by simp [hf])
  case resume =>
    cases hf : flagOpf0 d
    · rw [show rowOf .resume p q d = .resume p q d from by simp [rowOf, hf]]
      exact key (fun op => op == .resume && !flagOpf0 d) _ (by simp [hf])
    · rw [show rowOf .resume p q d = .discard p q d from by simp [rowOf, hf]]
      exact key (fun op => op == .resume && flagOpf0 d) _ (by simp [hf])
  all_goals exact key _ _ rfl

end Sys2Proof.Machine
end

