-- ==== Sys2Proof/Laws/Flow.lean ====
section
/-! SUPPORT. Small facts on commands in flight, halted commands, rejections and streams that many statements share. -/
namespace Sys2Proof.Machine

/-- Changing the command an accepted descriptor has just become. -/
theorem upd_entered {b : Blk} {p q : Nat} {d : Desc} {op : Op} (ha : accepts b p q d op) (f : Cmd → Cmd) :
    updCmd (acceptedCmd b p q d op).id f (decoded b p q d (acceptedCmd b p q d op)) = decoded b p q d (f (acceptedCmd b p q d op)) :=
  updCmd_decoded ha.1.2.2.2.1 f _ rfl

/-- The newest command in flight is the one just decoded. -/
theorem cmdOf_decoded {b : Blk} {p q : Nat} {d : Desc} (h : numbered b) (c : Cmd) (hc : c.id = b.nextId) :
    cmdOf (decoded b p q d c) c.id = some c := by
  unfold cmdOf decoded
  rw [List.find?_append]
  have : b.cmds.find? (fun x => x.id == c.id) = none := by
    rw [List.find?_eq_none]
    intro x hx
    have := h x hx
    simp; omega
  rw [this]; simp

/-- Taking the newest command out of flight leaves the others. -/
theorem filter_new {b : Blk} (h : numbered b) (c : Cmd) (hc : c.id = b.nextId) : (b.cmds ++ [c]).filter (fun x => x.id ≠ c.id) = b.cmds := by
  rw [List.filter_append]
  have : b.cmds.filter (fun x => x.id ≠ c.id) = b.cmds := by
    apply List.filter_eq_self.mpr
    intro x hx
    have := h x hx
    simp; omega
  rw [this]; simp

theorem cmdOf_append {b : Blk} {id : Nat} {h : Cmd} (e : cmdOf b id = some h) (c : Cmd) : (b.cmds ++ [c]).find? (fun c => c.id == id) = some h := by
  unfold cmdOf at e
  rw [List.find?_append, e]; rfl

theorem releaseTable_none {b : Blk} (h : noneHeld b) : releaseTable b = b := by
  unfold releaseTable
  have : b.cmds.filter (fun c => c.st == .table && !loadAhead b c) = [] := by
    apply List.filter_eq_nil_iff.mpr
    intro c hc
    have := h c hc
    simp [this]
  rw [this]; rfl

theorem haltedOf_decoded {b : Blk} {p q : Nat} {d : Desc} {h c : Cmd} (hs : servesNext b p q d) (e : haltedOf b p q = some h) :
    haltedOf (decoded b p q d c) p q = some h := by
  have hen := canDecode_enable hs.1
  unfold haltedOf at *
  have hq : queueOf (decoded b p q d c) p q = takenQueue d b.nextId (queueOf b p q) := by
    unfold queueOf decoded
    apply tabGet_tabPut_of_ne
    apply queue_ne_default_of_enable
    unfold takenQueue
    split <;> exact hen
  have hr : (takenQueue d b.nextId (queueOf b p q)).restart = (queueOf b p q).restart := by
    unfold takenQueue; split <;> rfl
  rw [hq, hr]
  revert e
  cases (queueOf b p q).restart with
  | none => simp
  | some r => intro e; exact cmdOf_append e c

@[simp] theorem completed_cmds (c : Cmd) (code : Code) (r0 r1 : Nat) (b : Blk) :
    (completed c code r0 r1 b).cmds = b.cmds.filter (fun y => y.id ≠ c.id) := by
  unfold completed; simp only; split <;> split <;> simp

theorem noneHeld_completed {c : Cmd} {code : Code} {r0 r1 : Nat} {b : Blk} (h : noneHeld b) : noneHeld (completed c code r0 r1 b) := by
  intro x hx
  rw [completed_cmds] at hx
  exact h x (List.mem_filter.mp hx).1

@[simp] theorem clearPartial_cmds (c : Cmd) (b : Blk) : (clearPartial c b).cmds = b.cmds := by
  unfold clearPartial; repeat' split
  all_goals rfl

theorem withdrawAll_alone {h : Cmd} {b : Blk} (hs : spansGallery h = false) : withdrawAll h b = b := by
  unfold withdrawAll; rw [hs]; rfl

theorem discard_eq {h : Cmd} {b : Blk} (hs : spansGallery h = false) (hn : noneHeld b) (hc : canComplete h (clearPartial h b)) :
    discardCmd h b = completed h .aborted 0 0 (clearPartial h b) := by
  unfold discardCmd endHalted
  rw [withdrawAll_alone hs, finishCmd_eq hc, releaseTable_none]
  apply noneHeld_completed
  intro x hx; rw [clearPartial_cmds] at hx; exact hn x hx

theorem dropNotices_nil (p : Nat) (b : Blk) : dropNotices p [] b = b := by
  unfold dropNotices
  rw [show b.vlt.notices.filter (fun n => !(([] : List Nat).map (· + p * 64)).contains n) = b.vlt.notices from
    List.filter_eq_self.mpr (fun _ _ => rfl)]

/-- Rejecting a command, where no notice is consumed, completes it with the code and no residues. -/
theorem rejectCmd_eq {c : Cmd} {b : Blk} (h : canComplete c b) (code : Code) : rejectCmd c code [] b = completed c code 0 0 b := by
  unfold rejectCmd
  have : (if code = .zeroised then dropNotices c.port [] b else b) = b := by split; exact dropNotices_nil _ _; rfl
  rw [this, finishCmd_eq h]

theorem foldl_updHandle (l : List Nat) (f : Handle → Handle) (b : Blk) :
    l.foldl (fun b h => updHandle h f b) b = { b with handles := l.foldl (fun t h => tabUpd {} t h f) b.handles } := by
  induction l generalizing b with
  | nil => rfl
  | cons a t ih => rw [List.foldl_cons, ih]; rfl

theorem streamOf_upd {n : Nat} {f : Stream → Stream} {b : Blk} (h : f (streamOf b n) ≠ {}) : streamOf (updStream n f b) n = f (streamOf b n) := by
  unfold streamOf updStream at *
  exact tabGet_tabPut_of_ne h _ _

theorem stream_ne_default {x : Stream} (h : x.state ≠ .disarmed) : x ≠ {} := by rintro rfl; exact h rfl

theorem pumpPort_state (x : LinkPort) : (pumpPort x).state = x.state := by
  have : ∀ (l : List (Nat × Bool)) (y : LinkPort), (l.foldl (fun y e =>
      if canSend y e.1 && !(y.txWait.map (·.1)).contains e.1 then pushFlit e.1 e.2 y else { y with txWait := y.txWait ++ [e] }) y).state
        = y.state := by
    intro l
    induction l with
    | nil => intro y; rfl
    | cons a l ih =>
      intro y
      rw [List.foldl_cons, ih]
      split <;> rfl
  exact this x.txWait _

theorem takeCredits_state (l : List (BitVec 16)) (x : LinkPort) : (takeCredits l x).state = x.state := by
  have : ∀ (l : List (BitVec 16 × Nat)) (y : LinkPort), (l.foldl (fun x e =>
      { x with credits := tabUpd 0 x.credits e.2 (· + (e.1 - tabGet 0 x.seen e.2).toNat), seen := tabPut 0 x.seen e.2 e.1 }) y).state = y.state := by
    intro l
    induction l with
    | nil => intro y; rfl
    | cons a l ih => intro y; rw [List.foldl_cons, ih]
  exact this _ x

theorem port_ne_default {x : LinkPort} (h : x.state ≠ .off) : x ≠ {} := fun e => h (by rw [e])

/-- Two changes of a port in turn are one. -/
theorem updPort_updPort {b : Blk} {k : Nat} {f g : LinkPort → LinkPort} (h1 : f (portOf b k) ≠ {}) (h2 : g (f (portOf b k)) ≠ {}) :
    updPort k g (updPort k f b) = { b with link := tabPut {} b.link k (g (f (portOf b k))) } := by
  unfold updPort
  show ({ b with link := tabUpd {} (tabUpd {} b.link k f) k g } : Blk) = _
  rw [tabUpd_tabUpd h1 h2]; rfl
/-- A port reads as it was put. -/
theorem portOf_put {b : Blk} {k : Nat} {y : LinkPort} (h : y ≠ {}) : portOf { b with link := tabPut {} b.link k y } k = y :=
  tabGet_tabPut_of_ne h _ _

end Sys2Proof.Machine
end

