-- ==== Sys2Proof/Laws/Halt.lean ====
section
/-! SUPPORT. What halting a command does, once: `haltCmd` is `haltsAs` wherever its copies can be written. -/
namespace Sys2Proof.Machine

theorem sumpPut_fields (event : Nat) (code : Option Code) (p q tag w d : Nat) (b : Blk) :
    (sumpPut event code p q tag w d b).qs = b.qs ∧ (sumpPut event code p q tag w d b).xlat = b.xlat
    ∧ (sumpPut event code p q tag w d b).clk = b.clk := by
  unfold sumpPut; simp only; split <;> exact ⟨rfl, rfl, rfl⟩

theorem tenantInt_fields (p : Nat) (b : Blk) :
    (tenantInt p b).qs = b.qs ∧ (tenantInt p b).xlat = b.xlat ∧ (tenantInt p b).clk = b.clk := by
  unfold tenantInt; split <;> exact ⟨rfl, rfl, rfl⟩

theorem haltRecord_eq (c : Cmd) (cause kind : Nat) (place : BitVec 16) :
    (Restart.mk c.id c.desc.opcode c.desc.tag c.port c.queue cause kind c.count (if (kind == 0) = true then c.rowMask else 0)
      c.unit (if (kind == 0) = true then place else 0) (if cause = 1 then c.faultAddr.getD 0 else 0)
      (if (kind == 0) = true then 0 else c.res0) (if (kind == 0) = true then 0 else c.res1) false) = haltRecord c cause kind place := by
  unfold haltRecord
  simp only [beq_iff_eq]

/-- A halted queue still holds its halt. -/
theorem haltedQueue_ne (rr : Restart) (r : Queue) : haltedQueue rr r ≠ {} := by
  intro e
  have := congrArg Queue.restart e
  cases this

theorem halt_copy (c : Cmd) (rr : Restart) (a : Nat) (l : List Byte) (b : Blk) :
    inCtx c.port (writeBytes a l)
        (updQueue c.port c.queue (haltedQueue rr) (updCmd c.id (fun x => { x with st := .halted, interrupt := 0 }) b))
      = { inCtx c.port (writeBytes a l) b with
          qs := tabUpd {} b.qs (qKey c.port c.queue) (haltedQueue rr)
          cmds := b.cmds.map (fun y => if y.id = c.id then { y with st := .halted, interrupt := 0 } else y) } := by
  have hm := writeIn_mem_congr
    (x := updQueue c.port c.queue (haltedQueue rr) (updCmd c.id (fun x => { x with st := .halted, interrupt := 0 }) b)) (y := b)
    rfl rfl rfl rfl c.port a l
  rw [writeIn_eq, hm.1, hm.2, writeIn_eq c.port a l b]
  rfl

theorem writeIn_xlat (p a : Nat) (l : List Byte) (b : Blk) : (inCtx p (writeBytes a l) b).xlat = b.xlat := by
  rw [inCtx_xlat, writeBytes_xlat]; rfl

theorem writeIn_clk (p a : Nat) (l : List Byte) (b : Blk) : (inCtx p (writeBytes a l) b).clk = b.clk := by
  rw [inCtx_clk, writeBytes_clk]; rfl

/-- Halting a command where the copies can be written. -/
theorem haltCmd_eq {c : Cmd} {b : Blk} (h : canHalt c b) (cause kind : Nat) (place : BitVec 16) :
    haltCmd c cause kind place b = haltsAs c cause kind place b := by
  obtain ⟨-, h1, h2, h3, h4⟩ := h
  have e1 : ((c.port == 5 || regionOf (queueOf b c.port c.queue).restartArea.toNat == some .external)) = true := by
    rcases h1 with h | h <;> simp [h]
  unfold haltCmd haltsAs
  simp only [haltRecord_eq]
  rw [show ∀ (f : Queue → Queue), f = haltedQueue (haltRecord c cause kind place) →
    updQueue c.port c.queue f (updCmd c.id (fun x => { x with st := .halted, interrupt := 0 }) b)
      = updQueue c.port c.queue (haltedQueue (haltRecord c cause kind place)) (updCmd c.id (fun x => { x with st := .halted, interrupt := 0 }) b)
    from fun f hf => by rw [hf]]
  rotate_left
  · rfl
  have hw : ((c.port == 5 || regionOf (queueOf b c.port c.queue).restartArea.toNat == some .external)
      && xstat (ofCtx c.port (updQueue c.port c.queue (haltedQueue (haltRecord c cause kind place))
          (updCmd c.id (fun x => { x with st := .halted, interrupt := 0 }) b))) (queueOf b c.port c.queue).restartArea.toNat == .ok) = true := by
    have hx : ∀ (f : Queue → Queue) (g : Cmd → Cmd) (a : Nat),
        xstat (ofCtx c.port (updQueue c.port c.queue f (updCmd c.id g b))) a = xstat (ofCtx c.port b) a := fun _ _ _ => rfl
    rw [e1, hx, h2]
    rfl
  simp only [hw, if_true]
  rw [halt_copy]
  by_cases hc : cause = 1
  · simp only [hc, if_true]
    have hq : ∀ z : Blk, z.qs = tabUpd {} b.qs (qKey c.port c.queue) (haltedQueue (haltRecord c 1 kind place)) →
        queueOf z c.port c.queue = haltedQueue (haltRecord c 1 kind place) (queueOf b c.port c.queue) := by
      intro z hz
      unfold queueOf
      rw [hz]
      exact tabGet_tabPut_of_ne (haltedQueue_ne _ _) _ _
    have cyc : ∀ z : Blk, z.clk = b.clk → cyclesOf c z = cyclesOf c b := by
      intro z hz; unfold cyclesOf; rw [hz]
    have key : ∀ z : Blk, z.qs = tabUpd {} b.qs (qKey c.port c.queue) (haltedQueue (haltRecord c 1 kind place)) → z.xlat = b.xlat →
        z.clk = b.clk →
        postCpl c.port c.queue { tag := c.desc.tag, code := .faultResumable, res0 := 0, res1 := 0, cycles := cyclesOf c z } z
          = posted c.port c.queue ⟨c.desc.tag, .faultResumable, 0, 0, cyclesOf c b, none⟩ z := by
      intro z hz hx hk
      rw [cyc z hk]
      apply postCpl_interim rfl
      · rw [hq z hz]; exact h3
      · rw [hq z hz, xstat_ofCtx_congr hx]; exact h4
    apply key
    · split
      · rw [(sumpPut_fields ..).1]
      · rw [(tenantInt_fields ..).1, (sumpPut_fields ..).1]
    · split
      · rw [(sumpPut_fields ..).2.1]; exact writeIn_xlat _ _ _ b
      · rw [(tenantInt_fields ..).2.1, (sumpPut_fields ..).2.1]; exact writeIn_xlat _ _ _ b
    · split
      · rw [(sumpPut_fields ..).2.2]; exact writeIn_clk _ _ _ b
      · rw [(tenantInt_fields ..).2.2, (sumpPut_fields ..).2.2]; exact writeIn_clk _ _ _ b
  · simp only [haltRecord, hc, if_false]

/-- A command halts where its queue is enabled and the copies can be written. -/
theorem haltOrEnd_eq {c : Cmd} {b : Blk} (h : canHalt c b) (cause kind : Nat) (place : BitVec 16) :
    haltOrEnd c cause kind place b = haltsAs c cause kind place b := by
  unfold haltOrEnd
  rw [if_pos h.1, haltCmd_eq h]

end Sys2Proof.Machine
end

