-- ==== Sys2Proof/Laws/Keeps.lean ====
section
/-! SUPPORT. What every block function keeps: memory's canonical form, the blown fuses with the straps and the latched
seal, and the numbering of the commands in flight. `Keeps x b` says that a run from `x` has come to `b`. -/
namespace Sys2Proof.Machine

/-- What holds between the block before and after, whatever ran. -/
structure Keeps (x b : Blk) : Prop where
  fuses : fusesStay x.fab b.fab
  straps : strapsSame x.fab b.fab
  held : sealHeld x → sealHeld b
  latched : sealHeld x → x.fab.lat.sealed = true → b.fab.lat.sealed = true
  mem : Memory.wf x.mem = true → Memory.wf b.mem = true
  cmds : numbered x → numbered b

theorem bitsStay_refl {w : Nat} (x : BitVec w) : bitsStay x x := BitVec.and_self

theorem bitsStay_trans {w : Nat} {x y z : BitVec w} (h : bitsStay x y) (g : bitsStay y z) : bitsStay x z := by
  unfold bitsStay at *
  rw [← h, BitVec.and_assoc, g]

theorem fusesStay_refl (x : Fab) : fusesStay x x :=
  ⟨fun _ => ⟨bitsStay_refl _, bitsStay_refl _, bitsStay_refl _⟩, fun _ => bitsStay_refl _⟩

theorem fusesStay_trans {x y z : Fab} (h : fusesStay x y) (g : fusesStay y z) : fusesStay x z :=
  ⟨fun n => ⟨bitsStay_trans (h.1 n).1 (g.1 n).1, bitsStay_trans (h.1 n).2.1 (g.1 n).2.1, bitsStay_trans (h.1 n).2.2 (g.1 n).2.2⟩,
   fun n => bitsStay_trans (h.2 n) (g.2 n)⟩

theorem Keeps.refl (b : Blk) : Keeps b b :=
  ⟨fusesStay_refl _, ⟨rfl, rfl, rfl⟩, id, fun _ h => h, id, id⟩

/-- A change that leaves the fabric, memory, the commands in flight and their numbering alone keeps everything. -/
theorem Keeps.of_eq {x b b' : Blk} (h : Keeps x b) (hf : b'.fab = b.fab) (hm : b'.mem = b.mem) (hc : b'.cmds = b.cmds)
    (hn : b'.nextId = b.nextId) : Keeps x b' := by
  obtain ⟨h1, h2, h3, h4, h5, h6⟩ := h
  refine ⟨hf ▸ h1, hf ▸ h2, fun g => ?_, fun g g' => hf ▸ h4 g g', fun g => hm ▸ h5 g, fun g => ?_⟩
  · have := h3 g; unfold sealHeld flagBlown at *; rwa [hf]
  · have := h6 g; unfold numbered at *; rwa [hc, hn]

/-- A change of memory alone. -/
theorem Keeps.of_mem {x b b' : Blk} (h : Keeps x b) (hf : b'.fab = b.fab) (hm : Memory.wf b.mem = true → Memory.wf b'.mem = true)
    (hc : b'.cmds = b.cmds) (hn : b'.nextId = b.nextId) : Keeps x b' := by
  obtain ⟨h1, h2, h3, h4, h5, h6⟩ := h
  refine ⟨hf ▸ h1, hf ▸ h2, fun g => ?_, fun g g' => hf ▸ h4 g g', fun g => hm (h5 g), fun g => ?_⟩
  · have := h3 g; unfold sealHeld flagBlown at *; rwa [hf]
  · have := h6 g; unfold numbered at *; rwa [hc, hn]

/-- A change of the commands in flight alone. -/
theorem Keeps.of_cmds {x b b' : Blk} (h : Keeps x b) (hf : b'.fab = b.fab) (hm : b'.mem = b.mem)
    (hc : numbered b → numbered b') : Keeps x b' := by
  obtain ⟨h1, h2, h3, h4, h5, h6⟩ := h
  refine ⟨hf ▸ h1, hf ▸ h2, fun g => ?_, fun g g' => hf ▸ h4 g g', fun g => hm ▸ h5 g, fun g => hc (h6 g)⟩
  have := h3 g; unfold sealHeld flagBlown at *; rwa [hf]

/-- A command leaves: the others keep their numbers. -/
theorem numbered_of_subset {a b : Blk} (h : ∀ c ∈ b.cmds, c ∈ a.cmds) (hn : a.nextId ≤ b.nextId) (g : numbered a) : numbered b :=
  fun c hc => Nat.lt_of_lt_of_le (g c (h c hc)) hn

theorem Keeps.foldl {α : Type} {x b : Blk} {f : Blk → α → Blk} (l : List α) (h : Keeps x b)
    (hf : ∀ b r, Keeps x b → Keeps x (f b r)) : Keeps x (l.foldl f b) := by
  induction l generalizing b with
  | nil => exact h
  | cons r t ih => exact ih (hf b r h)

/-- The same for a block that is carried along with something else. -/
theorem Keeps.foldlFst {α β : Type} {x : Blk} {f : Blk × β → α → Blk × β} {a : Blk × β} (l : List α) (h : Keeps x a.1)
    (hf : ∀ a r, Keeps x a.1 → Keeps x (f a r).1) : Keeps x (l.foldl f a).1 := by
  induction l generalizing a with
  | nil => exact h
  | cons r t ih => exact ih (hf a r h)

theorem Keeps.ite {x a b : Blk} {P : Prop} [Decidable P] (ha : Keeps x a) (hb : Keeps x b) : Keeps x (if P then a else b) := by
  split <;> assumption

/-- The block of a pair that a function answered. -/
theorem Keeps.of_pair {α : Type} {x b : Blk} {r : Blk × α} {c : α} (e : r = (b, c)) (h : Keeps x r.1) : Keeps x b := by
  rw [e] at h; exact h

theorem Keeps.idFun {x b : Blk} (h : Keeps x b) : Keeps x (id b) := h

theorem cmdOf_id {b : Blk} {id : Nat} {c : Cmd} (h : cmdOf b id = some c) : c.id = id :=
  beq_iff_eq.mp (List.find?_some h :)

/-- A record update of the other fields. -/
theorem Keeps.lit {x b : Blk}
    {clk' : Clock} {pwr' : Pwr} {out' : Out} {sump' : Sump} {pres' : Pres} {vlt' : Vlt} {dict' : Dict}
    {cnt' : Tab Nat} {qs' : Tab Queue} {served' : Tab Nat} {flags' : Tab Bool} {moduli' : Tab Modulus}
    {deadTc' : Tab Nat} {ctx' : Nat} {regs' : Tab Reg} {accKey' : Tab Bool} {latches' : Tab (List Nat)} {bad' : List Nat}
    {xlat' : Tab RspStatus} {streams' : Tab Stream} {handles' : Tab Handle} {shelves' : Tab (List Nat)}
    {bus' : Bus} {link' : Tab LinkPort} {gal' : Gal} (h : Keeps x b) :
    Keeps x ⟨clk', b.fab, pwr', out', sump', pres', vlt', dict', cnt', qs', served', flags', moduli', deadTc', b.cmds, b.nextId, ctx', regs', accKey', latches', b.mem, bad', xlat', streams', handles', shelves', bus', link', gal'⟩ :=
  h.of_eq rfl rfl rfl rfl

/-- A record update of the other fields, with commands taken out of flight. -/
theorem Keeps.filter {x b : Blk} {p : Cmd → Bool}
    {clk' : Clock} {pwr' : Pwr} {out' : Out} {sump' : Sump} {pres' : Pres} {vlt' : Vlt} {dict' : Dict}
    {cnt' : Tab Nat} {qs' : Tab Queue} {served' : Tab Nat} {flags' : Tab Bool} {moduli' : Tab Modulus}
    {deadTc' : Tab Nat} {ctx' : Nat} {regs' : Tab Reg} {accKey' : Tab Bool} {latches' : Tab (List Nat)} {bad' : List Nat}
    {xlat' : Tab RspStatus} {streams' : Tab Stream} {handles' : Tab Handle} {shelves' : Tab (List Nat)}
    {bus' : Bus} {link' : Tab LinkPort} {gal' : Gal} (h : Keeps x b) :
    Keeps x ⟨clk', b.fab, pwr', out', sump', pres', vlt', dict', cnt', qs', served', flags', moduli', deadTc', b.cmds.filter p, b.nextId, ctx', regs', accKey', latches', b.mem, bad', xlat', streams', handles', shelves', bus', link', gal'⟩ :=
  h.of_cmds rfl rfl (numbered_of_subset (fun _ hc => (List.mem_filter.mp hc).1) (Nat.le_refl _))

end Sys2Proof.Machine
end

