-- ==== Sys2Proof/Laws/KeepsQueues.lean ====
section
/-! SUPPORT. What completing, halting, decoding and rejecting a command, and the lines of the Cellar, keep. -/
namespace Sys2Proof.Machine

/-- A command that enters flight takes the next number. -/
theorem Keeps.addCmd {x b : Blk} (c : Cmd) (h : Keeps x b) (hc : c.id = b.nextId) :
    Keeps x { b with nextId := b.nextId + 1, cmds := b.cmds ++ [c] } := by
  refine h.of_cmds rfl rfl (fun g y hy => ?_)
  rcases List.mem_append.mp hy with hy | hy
  · exact Nat.lt_succ_of_lt (g y hy)
  · rw [List.mem_singleton.mp hy, hc]; exact Nat.lt_succ_self _

theorem updPort_keeps {x0 : Blk} (k : Nat) (f : LinkPort → LinkPort) {b : Blk} (hk : Keeps x0 b) :
    Keeps x0 (updPort k f b) := by
  unfold updPort
  repeat' (first
    | with_reducible assumption | (with_reducible refine Keeps.foldl _ ?_ (fun b r h => ?_))
    | (fail_if_no_progress extract_lets) | (fail_if_no_progress intros) | (with_reducible apply Keeps.ite) | split
    | (dsimp only) | (dsimp +zetaDelta only) | (fail_if_no_progress (with_reducible apply Keeps.lit))
    | (fail_if_no_progress (with_reducible apply Keeps.filter))
    | (with_reducible refine Keeps.of_pair (by assumption) ?_))

theorem transmitFlit_keeps {x0 : Blk} (k cls : Nat) (poison : Bool) {b : Blk} (hk : Keeps x0 b) :
    Keeps x0 (transmitFlit k cls poison b) := by
  unfold transmitFlit
  repeat' (first
    | with_reducible assumption | (with_reducible apply updPort_keeps)
    | (with_reducible refine Keeps.foldl _ ?_ (fun b r h => ?_)) | (fail_if_no_progress extract_lets)
    | (fail_if_no_progress intros) | (with_reducible apply Keeps.ite) | split | (dsimp only)
    | (dsimp +zetaDelta only) | (fail_if_no_progress (with_reducible apply Keeps.lit))
    | (fail_if_no_progress (with_reducible apply Keeps.filter))
    | (with_reducible refine Keeps.of_pair (by assumption) ?_))

theorem transmit_keeps {x0 : Blk} (k cls : Nat) {b : Blk} (hk : Keeps x0 b) : Keeps x0 (transmit k cls b) := by
  unfold transmit
  repeat' (first
    | with_reducible assumption | (with_reducible apply transmitFlit_keeps)
    | (with_reducible refine Keeps.foldl _ ?_ (fun b r h => ?_)) | (fail_if_no_progress extract_lets)
    | (fail_if_no_progress intros) | (with_reducible apply Keeps.ite) | split | (dsimp only)
    | (dsimp +zetaDelta only) | (fail_if_no_progress (with_reducible apply Keeps.lit))
    | (fail_if_no_progress (with_reducible apply Keeps.filter))
    | (with_reducible refine Keeps.of_pair (by assumption) ?_))

theorem transmitCmd_keeps {x0 : Blk} (die : Nat) {b : Blk} (hk : Keeps x0 b) : Keeps x0 (transmitCmd die b) := by
  unfold transmitCmd
  repeat' (first
    | with_reducible assumption | (with_reducible apply transmit_keeps)
    | (with_reducible refine Keeps.foldl _ ?_ (fun b r h => ?_)) | (fail_if_no_progress extract_lets)
    | (fail_if_no_progress intros) | (with_reducible apply Keeps.ite) | split | (dsimp only)
    | (dsimp +zetaDelta only) | (fail_if_no_progress (with_reducible apply Keeps.lit))
    | (fail_if_no_progress (with_reducible apply Keeps.filter))
    | (with_reducible refine Keeps.of_pair (by assumption) ?_))

theorem inCtx_keeps {x : Blk} (p : Nat) (f : Blk → Blk) {b : Blk} (h : Keeps x b) (hf : ∀ b, Keeps x b → Keeps x (f b)) :
    Keeps x (inCtx p f b) := by
  have g := hf { b with ctx := p } (h.of_eq rfl rfl rfl rfl)
  exact g.of_eq rfl rfl rfl rfl

theorem putGranuleKey_keeps {x b : Blk} (k : Nat) (g : Granule) (h : Keeps x b) : Keeps x (putGranuleKey k g b) :=
  h.of_mem rfl (memWf_memPutBytes _ _) rfl rfl

theorem writeBytes_keeps {x b : Blk} (a : Nat) (l : List Byte) (h : Keeps x b) : Keeps x (writeBytes a l b) := by
  unfold writeBytes
  split
  · exact h.of_mem rfl (memWf_memPutBytes _ _) rfl rfl
  · exact h

theorem zeroKeys_keeps {x b : Blk} (k n : Nat) (h : Keeps x b) : Keeps x (zeroKeys k n b) :=
  h.of_mem rfl (memWf_memClear _ _) rfl rfl

theorem drawFresh_keeps {x0 : Blk} {b : Blk} (hk : Keeps x0 b) : Keeps x0 (drawFresh b) := by
  unfold drawFresh
  repeat' (first
    | with_reducible assumption | (with_reducible refine Keeps.foldl _ ?_ (fun b r h => ?_))
    | (fail_if_no_progress extract_lets) | (fail_if_no_progress intros) | (with_reducible apply Keeps.ite) | split
    | (dsimp only) | (dsimp +zetaDelta only) | (fail_if_no_progress (with_reducible apply Keeps.lit))
    | (fail_if_no_progress (with_reducible apply Keeps.filter))
    | (with_reducible refine Keeps.of_pair (by assumption) ?_))

theorem countAdd_keeps {x0 : Blk} (key n : Nat) {b : Blk} (hk : Keeps x0 b) : Keeps x0 (countAdd key n b) := by
  unfold countAdd
  repeat' (first
    | with_reducible assumption | (with_reducible refine Keeps.foldl _ ?_ (fun b r h => ?_))
    | (fail_if_no_progress extract_lets) | (fail_if_no_progress intros) | (with_reducible apply Keeps.ite) | split
    | (dsimp only) | (dsimp +zetaDelta only) | (fail_if_no_progress (with_reducible apply Keeps.lit))
    | (fail_if_no_progress (with_reducible apply Keeps.filter))
    | (with_reducible refine Keeps.of_pair (by assumption) ?_))

theorem tenantInt_keeps {x0 : Blk} (p : Nat) {b : Blk} (hk : Keeps x0 b) : Keeps x0 (tenantInt p b) := by
  unfold tenantInt
  repeat' (first
    | with_reducible assumption | (with_reducible refine Keeps.foldl _ ?_ (fun b r h => ?_))
    | (fail_if_no_progress extract_lets) | (fail_if_no_progress intros) | (with_reducible apply Keeps.ite) | split
    | (dsimp only) | (dsimp +zetaDelta only) | (fail_if_no_progress (with_reducible apply Keeps.lit))
    | (fail_if_no_progress (with_reducible apply Keeps.filter))
    | (with_reducible refine Keeps.of_pair (by assumption) ?_))

theorem sumpPut_keeps {x0 : Blk} (event : Nat) (code : Option Code) (p q tag where_ detail : Nat) {b : Blk} (hk : Keeps x0 b) :
    Keeps x0 (sumpPut event code p q tag where_ detail b) := by
  unfold sumpPut
  repeat' (first
    | with_reducible assumption | (with_reducible refine Keeps.foldl _ ?_ (fun b r h => ?_))
    | (fail_if_no_progress extract_lets) | (fail_if_no_progress intros) | (with_reducible apply Keeps.ite) | split
    | (dsimp only) | (dsimp +zetaDelta only) | (fail_if_no_progress (with_reducible apply Keeps.lit))
    | (fail_if_no_progress (with_reducible apply Keeps.filter))
    | (with_reducible refine Keeps.of_pair (by assumption) ?_))

theorem raiseAlert_keeps {x0 : Blk} (bit : Nat) {b : Blk} (hk : Keeps x0 b) : Keeps x0 (raiseAlert bit b) := by
  unfold raiseAlert
  repeat' (first
    | with_reducible assumption | (with_reducible refine Keeps.foldl _ ?_ (fun b r h => ?_))
    | (fail_if_no_progress extract_lets) | (fail_if_no_progress intros) | (with_reducible apply Keeps.ite) | split
    | (dsimp only) | (dsimp +zetaDelta only) | (fail_if_no_progress (with_reducible apply Keeps.lit))
    | (fail_if_no_progress (with_reducible apply Keeps.filter))
    | (with_reducible refine Keeps.of_pair (by assumption) ?_))

theorem setEpochTo_keeps {x0 : Blk} (v : BitVec 32) (cause : Nat) {b : Blk} (hk : Keeps x0 b) :
    Keeps x0 (setEpochTo v cause b) := by
  unfold setEpochTo
  repeat' (first
    | with_reducible assumption | (with_reducible refine Keeps.foldl _ ?_ (fun b r h => ?_))
    | (fail_if_no_progress extract_lets) | (fail_if_no_progress intros) | (with_reducible apply Keeps.ite) | split
    | (dsimp only) | (dsimp +zetaDelta only) | (fail_if_no_progress (with_reducible apply Keeps.lit))
    | (fail_if_no_progress (with_reducible apply Keeps.filter))
    | (with_reducible refine Keeps.of_pair (by assumption) ?_))

theorem elapse_keeps {x0 : Blk} (n : Nat) {b : Blk} (hk : Keeps x0 b) : Keeps x0 (elapse n b) := by
  unfold elapse
  repeat' (first
    | with_reducible assumption | (with_reducible refine Keeps.foldl _ ?_ (fun b r h => ?_))
    | (fail_if_no_progress extract_lets) | (fail_if_no_progress intros) | (with_reducible apply Keeps.ite) | split
    | (dsimp only) | (dsimp +zetaDelta only) | (fail_if_no_progress (with_reducible apply Keeps.lit))
    | (fail_if_no_progress (with_reducible apply Keeps.filter))
    | (with_reducible refine Keeps.of_pair (by assumption) ?_))

theorem updQueue_keeps {x0 : Blk} (p q : Nat) (f : Queue → Queue) {b : Blk} (hk : Keeps x0 b) :
    Keeps x0 (updQueue p q f b) := by
  unfold updQueue
  repeat' (first
    | with_reducible assumption | (with_reducible refine Keeps.foldl _ ?_ (fun b r h => ?_))
    | (fail_if_no_progress extract_lets) | (fail_if_no_progress intros) | (with_reducible apply Keeps.ite) | split
    | (dsimp only) | (dsimp +zetaDelta only) | (fail_if_no_progress (with_reducible apply Keeps.lit))
    | (fail_if_no_progress (with_reducible apply Keeps.filter))
    | (with_reducible refine Keeps.of_pair (by assumption) ?_))

theorem stopQueue_keeps {x0 : Blk} (p q cause : Nat) {b : Blk} (hk : Keeps x0 b) :
    Keeps x0 (stopQueue p q cause b) := by
  unfold stopQueue
  repeat' (first
    | with_reducible assumption | (with_reducible apply updQueue_keeps) | (with_reducible apply tenantInt_keeps)
    | (with_reducible refine Keeps.foldl _ ?_ (fun b r h => ?_)) | (fail_if_no_progress extract_lets)
    | (fail_if_no_progress intros) | (with_reducible apply Keeps.ite) | split | (dsimp only)
    | (dsimp +zetaDelta only) | (fail_if_no_progress (with_reducible apply Keeps.lit))
    | (fail_if_no_progress (with_reducible apply Keeps.filter))
    | (with_reducible refine Keeps.of_pair (by assumption) ?_))

theorem ringFault_keeps {x0 : Blk} (p q a : Nat) {b : Blk} (hk : Keeps x0 b) : Keeps x0 (ringFault p q a b) := by
  unfold ringFault
  repeat' (first
    | with_reducible assumption | (with_reducible apply countAdd_keeps) | (with_reducible apply sumpPut_keeps)
    | (with_reducible apply stopQueue_keeps) | (with_reducible refine Keeps.foldl _ ?_ (fun b r h => ?_))
    | (fail_if_no_progress extract_lets) | (fail_if_no_progress intros) | (with_reducible apply Keeps.ite) | split
    | (dsimp only) | (dsimp +zetaDelta only) | (fail_if_no_progress (with_reducible apply Keeps.lit))
    | (fail_if_no_progress (with_reducible apply Keeps.filter))
    | (with_reducible refine Keeps.of_pair (by assumption) ?_))

theorem countCode_keeps {x0 : Blk} (p : Nat) (code : Code) {b : Blk} (hk : Keeps x0 b) :
    Keeps x0 (countCode p code b) := by
  unfold countCode
  repeat' (first
    | with_reducible assumption | (with_reducible apply countAdd_keeps)
    | (with_reducible refine Keeps.foldl _ ?_ (fun b r h => ?_)) | (fail_if_no_progress extract_lets)
    | (fail_if_no_progress intros) | (with_reducible apply Keeps.ite) | split | (dsimp only)
    | (dsimp +zetaDelta only) | (fail_if_no_progress (with_reducible apply Keeps.lit))
    | (fail_if_no_progress (with_reducible apply Keeps.filter))
    | (with_reducible refine Keeps.of_pair (by assumption) ?_))

theorem countMoved_keeps {x0 : Blk} (p n : Nat) {b : Blk} (hk : Keeps x0 b) : Keeps x0 (countMoved p n b) := by
  unfold countMoved
  repeat' (first
    | with_reducible assumption | (with_reducible apply countAdd_keeps)
    | (with_reducible refine Keeps.foldl _ ?_ (fun b r h => ?_)) | (fail_if_no_progress extract_lets)
    | (fail_if_no_progress intros) | (with_reducible apply Keeps.ite) | split | (dsimp only)
    | (dsimp +zetaDelta only) | (fail_if_no_progress (with_reducible apply Keeps.lit))
    | (fail_if_no_progress (with_reducible apply Keeps.filter))
    | (with_reducible refine Keeps.of_pair (by assumption) ?_))

theorem updCmd_keeps {x b : Blk} (id : Nat) (f : Cmd → Cmd) (h : Keeps x b) (hf : ∀ c, c.id = id → (f c).id = id) :
    Keeps x (updCmd id f b) := by
  refine h.of_cmds rfl rfl (fun g c hc => ?_)
  obtain ⟨y, hy, rfl⟩ := List.mem_map.mp hc
  split
  · rename_i e; rw [hf y e, ← e]; exact g y hy
  · exact g y hy

theorem leaveFlight_keeps {x0 : Blk} (c : Cmd) (code : Code) {b : Blk} (hk : Keeps x0 b) :
    Keeps x0 (leaveFlight c code b) := by
  unfold leaveFlight
  repeat' (first
    | with_reducible assumption | (with_reducible apply updQueue_keeps) | (with_reducible apply tenantInt_keeps)
    | (with_reducible refine Keeps.foldl _ ?_ (fun b r h => ?_)) | (fail_if_no_progress extract_lets)
    | (fail_if_no_progress intros) | (with_reducible apply Keeps.ite) | split | (dsimp only)
    | (dsimp +zetaDelta only) | (fail_if_no_progress (with_reducible apply Keeps.lit))
    | (fail_if_no_progress (with_reducible apply Keeps.filter))
    | (with_reducible refine Keeps.of_pair (by assumption) ?_))

theorem recordWritten_keeps {x0 : Blk} (r : Cpl) {b : Blk} (hk : Keeps x0 b) : Keeps x0 (recordWritten r b) := by
  unfold recordWritten
  repeat' (first
    | with_reducible assumption | (with_reducible apply leaveFlight_keeps) | (with_reducible apply countCode_keeps)
    | (with_reducible refine Keeps.foldl _ ?_ (fun b r h => ?_)) | (fail_if_no_progress extract_lets)
    | (fail_if_no_progress intros) | (with_reducible apply Keeps.ite) | split | (dsimp only)
    | (dsimp +zetaDelta only) | (fail_if_no_progress (with_reducible apply Keeps.lit))
    | (fail_if_no_progress (with_reducible apply Keeps.filter))
    | (with_reducible refine Keeps.of_pair (by assumption) ?_))

theorem postCpl_keeps {x0 : Blk} (p q : Nat) (r : Cpl) {b : Blk} (hk : Keeps x0 b) : Keeps x0 (postCpl p q r b) := by
  unfold postCpl
  repeat' (first
    | with_reducible assumption | (with_reducible apply updQueue_keeps) | (with_reducible apply inCtx_keeps)
    | (with_reducible apply ringFault_keeps) | (with_reducible apply writeBytes_keeps)
    | (with_reducible apply recordWritten_keeps) | (with_reducible apply tenantInt_keeps)
    | (with_reducible refine Keeps.foldl _ ?_ (fun b r h => ?_)) | (fail_if_no_progress extract_lets)
    | (fail_if_no_progress intros) | (with_reducible apply Keeps.ite) | split | (dsimp only)
    | (dsimp +zetaDelta only) | (fail_if_no_progress (with_reducible apply Keeps.lit))
    | (fail_if_no_progress (with_reducible apply Keeps.filter))
    | (with_reducible refine Keeps.of_pair (by assumption) ?_))

theorem repostCpl_keeps {x0 : Blk} (p q : Nat) {b : Blk} (hk : Keeps x0 b) : Keeps x0 (repostCpl p q b) := by
  unfold repostCpl
  repeat' (first
    | with_reducible assumption | (with_reducible apply postCpl_keeps) | (with_reducible apply updQueue_keeps)
    | (with_reducible refine Keeps.foldl _ ?_ (fun b r h => ?_))
    | (with_reducible refine Keeps.foldlFst _ ?_ (fun b r h => ?_)) | (fail_if_no_progress extract_lets)
    | (fail_if_no_progress intros) | (with_reducible apply Keeps.ite) | split | (dsimp only)
    | (dsimp +zetaDelta only) | (fail_if_no_progress (with_reducible apply Keeps.lit))
    | (fail_if_no_progress (with_reducible apply Keeps.filter))
    | (with_reducible refine Keeps.of_pair (by assumption) ?_))

theorem finishCmd_keeps {x0 : Blk} (c : Cmd) (code : Code) (res0 res1 : Nat) {b : Blk} (hk : Keeps x0 b) :
    Keeps x0 (finishCmd c code res0 res1 b) := by
  unfold finishCmd
  repeat' (first
    | with_reducible assumption | (with_reducible apply postCpl_keeps)
    | (with_reducible refine updCmd_keeps _ _ ?_ ?_)
    | (intro c hc; first | exact hc | rfl | exact cmdOf_id (by assumption) | (dsimp only; first | exact hc | rfl | exact cmdOf_id (by assumption)) | (split <;> first | exact hc | rfl) | (dsimp +zetaDelta only; first | exact hc | rfl | exact cmdOf_id (by assumption)))
    | (with_reducible refine Keeps.foldl _ ?_ (fun b r h => ?_)) | (fail_if_no_progress extract_lets)
    | (fail_if_no_progress intros) | (with_reducible apply Keeps.ite) | split | (dsimp only)
    | (dsimp +zetaDelta only) | (fail_if_no_progress (with_reducible apply Keeps.lit))
    | (fail_if_no_progress (with_reducible apply Keeps.filter))
    | (with_reducible refine Keeps.of_pair (by assumption) ?_))

theorem haltCmd_keeps {x0 : Blk} (c : Cmd) (cause kind : Nat) (place : BitVec 16) {b : Blk} (hk : Keeps x0 b) :
    Keeps x0 (haltCmd c cause kind place b) := by
  unfold haltCmd
  repeat' (first
    | with_reducible assumption | (with_reducible refine updCmd_keeps _ _ ?_ ?_)
    | (with_reducible apply updQueue_keeps) | (with_reducible apply inCtx_keeps)
    | (with_reducible apply writeBytes_keeps) | (with_reducible apply sumpPut_keeps)
    | (with_reducible apply tenantInt_keeps) | (with_reducible apply postCpl_keeps)
    | (intro c hc; first | exact hc | rfl | exact cmdOf_id (by assumption) | (dsimp only; first | exact hc | rfl | exact cmdOf_id (by assumption)) | (split <;> first | exact hc | rfl) | (dsimp +zetaDelta only; first | exact hc | rfl | exact cmdOf_id (by assumption)))
    | (with_reducible refine Keeps.foldl _ ?_ (fun b r h => ?_)) | (fail_if_no_progress extract_lets)
    | (fail_if_no_progress intros) | (with_reducible apply Keeps.ite) | split | (dsimp only)
    | (dsimp +zetaDelta only) | (fail_if_no_progress (with_reducible apply Keeps.lit))
    | (fail_if_no_progress (with_reducible apply Keeps.filter))
    | (with_reducible refine Keeps.of_pair (by assumption) ?_))

theorem busError_keeps {x0 : Blk} (m : Master) (write : Bool) (a : Nat) {b : Blk} (hk : Keeps x0 b) :
    Keeps x0 (busError m write a b) := by
  unfold busError
  repeat' (first
    | with_reducible assumption | (with_reducible apply sumpPut_keeps)
    | (with_reducible refine Keeps.foldl _ ?_ (fun b r h => ?_)) | (fail_if_no_progress extract_lets)
    | (fail_if_no_progress intros) | (with_reducible apply Keeps.ite) | split | (dsimp only)
    | (dsimp +zetaDelta only) | (fail_if_no_progress (with_reducible apply Keeps.lit))
    | (fail_if_no_progress (with_reducible apply Keeps.filter))
    | (with_reducible refine Keeps.of_pair (by assumption) ?_))

theorem busAnswer_keeps {x0 : Blk} (v : Nat) {b : Blk} (hk : Keeps x0 b) : Keeps x0 (busAnswer v b) := by
  unfold busAnswer
  repeat' (first
    | with_reducible assumption | (with_reducible refine Keeps.foldl _ ?_ (fun b r h => ?_))
    | (fail_if_no_progress extract_lets) | (fail_if_no_progress intros) | (with_reducible apply Keeps.ite) | split
    | (dsimp only) | (dsimp +zetaDelta only) | (fail_if_no_progress (with_reducible apply Keeps.lit))
    | (fail_if_no_progress (with_reducible apply Keeps.filter))
    | (with_reducible refine Keeps.of_pair (by assumption) ?_))

theorem sendMsg_keeps {x0 : Blk} (op die x : Nat) {b : Blk} (hk : Keeps x0 b) : Keeps x0 (sendMsg op die x b) := by
  unfold sendMsg
  repeat' (first
    | with_reducible assumption | (with_reducible apply transmitCmd_keeps)
    | (with_reducible refine Keeps.foldl _ ?_ (fun b r h => ?_)) | (fail_if_no_progress extract_lets)
    | (fail_if_no_progress intros) | (with_reducible apply Keeps.ite) | split | (dsimp only)
    | (dsimp +zetaDelta only) | (fail_if_no_progress (with_reducible apply Keeps.lit))
    | (fail_if_no_progress (with_reducible apply Keeps.filter))
    | (with_reducible refine Keeps.of_pair (by assumption) ?_))

theorem broadcast_keeps {x0 : Blk} (op root x : Nat) {b : Blk} (hk : Keeps x0 b) :
    Keeps x0 (broadcast op root x b) := by
  unfold broadcast
  repeat' (first
    | with_reducible assumption | (with_reducible apply sendMsg_keeps)
    | (with_reducible refine Keeps.foldl _ ?_ (fun b r h => ?_))
    | (with_reducible refine Keeps.foldlFst _ ?_ (fun b r h => ?_)) | (fail_if_no_progress extract_lets)
    | (fail_if_no_progress intros) | (with_reducible apply Keeps.ite) | split | (dsimp only)
    | (dsimp +zetaDelta only) | (fail_if_no_progress (with_reducible apply Keeps.lit))
    | (fail_if_no_progress (with_reducible apply Keeps.filter))
    | (with_reducible refine Keeps.of_pair (by assumption) ?_))

theorem tellVaults_keeps {x0 : Blk} {b : Blk} (hk : Keeps x0 b) : Keeps x0 (tellVaults b) := by
  unfold tellVaults
  repeat' (first
    | with_reducible assumption | (with_reducible apply broadcast_keeps)
    | (with_reducible refine Keeps.foldl _ ?_ (fun b r h => ?_)) | (fail_if_no_progress extract_lets)
    | (fail_if_no_progress intros) | (with_reducible apply Keeps.ite) | split | (dsimp only)
    | (dsimp +zetaDelta only) | (fail_if_no_progress (with_reducible apply Keeps.lit))
    | (fail_if_no_progress (with_reducible apply Keeps.filter))
    | (with_reducible refine Keeps.of_pair (by assumption) ?_))

theorem newEpoch_keeps {x0 : Blk} (cause : Nat) {b : Blk} (hk : Keeps x0 b) : Keeps x0 (newEpoch cause b) := by
  unfold newEpoch
  repeat' (first
    | with_reducible assumption | (with_reducible apply tellVaults_keeps) | (with_reducible apply setEpochTo_keeps)
    | (with_reducible refine Keeps.foldl _ ?_ (fun b r h => ?_)) | (fail_if_no_progress extract_lets)
    | (fail_if_no_progress intros) | (with_reducible apply Keeps.ite) | split | (dsimp only)
    | (dsimp +zetaDelta only) | (fail_if_no_progress (with_reducible apply Keeps.lit))
    | (fail_if_no_progress (with_reducible apply Keeps.filter))
    | (with_reducible refine Keeps.of_pair (by assumption) ?_))

theorem landMail_keeps {x0 : Blk} (op die cmd : Nat) {b : Blk} (hk : Keeps x0 b) :
    Keeps x0 (landMail op die cmd b) := by
  unfold landMail
  repeat' (first
    | with_reducible assumption | (with_reducible refine Keeps.foldl _ ?_ (fun b r h => ?_))
    | (fail_if_no_progress extract_lets) | (fail_if_no_progress intros) | (with_reducible apply Keeps.ite) | split
    | (dsimp only) | (dsimp +zetaDelta only) | (fail_if_no_progress (with_reducible apply Keeps.lit))
    | (fail_if_no_progress (with_reducible apply Keeps.filter))
    | (with_reducible refine Keeps.of_pair (by assumption) ?_))

theorem putFlag_keeps {x0 : Blk} (p f : Nat) (v : Bool) {b : Blk} (hk : Keeps x0 b) : Keeps x0 (putFlag p f v b) := by
  unfold putFlag
  repeat' (first
    | with_reducible assumption | (with_reducible refine Keeps.foldl _ ?_ (fun b r h => ?_))
    | (fail_if_no_progress extract_lets) | (fail_if_no_progress intros) | (with_reducible apply Keeps.ite) | split
    | (dsimp only) | (dsimp +zetaDelta only) | (fail_if_no_progress (with_reducible apply Keeps.lit))
    | (fail_if_no_progress (with_reducible apply Keeps.filter))
    | (with_reducible refine Keeps.of_pair (by assumption) ?_))

theorem updReg_keeps {x0 : Blk} (k : Nat) (f : Reg → Reg) {b : Blk} (hk : Keeps x0 b) : Keeps x0 (updReg k f b) := by
  unfold updReg
  repeat' (first
    | with_reducible assumption | (with_reducible refine Keeps.foldl _ ?_ (fun b r h => ?_))
    | (fail_if_no_progress extract_lets) | (fail_if_no_progress intros) | (with_reducible apply Keeps.ite) | split
    | (dsimp only) | (dsimp +zetaDelta only) | (fail_if_no_progress (with_reducible apply Keeps.lit))
    | (fail_if_no_progress (with_reducible apply Keeps.filter))
    | (with_reducible refine Keeps.of_pair (by assumption) ?_))

theorem markWrites_keeps {x0 : Blk} (l : List (Nat × Tag)) (key : Bool) {b : Blk} (hk : Keeps x0 b) :
    Keeps x0 (markWrites l key b) := by
  unfold markWrites
  repeat' (first
    | with_reducible assumption | (with_reducible apply updReg_keeps)
    | (with_reducible refine Keeps.foldl _ ?_ (fun b r h => ?_))
    | (with_reducible refine Keeps.foldlFst _ ?_ (fun b r h => ?_)) | (fail_if_no_progress extract_lets)
    | (fail_if_no_progress intros) | (with_reducible apply Keeps.ite) | split | (dsimp only)
    | (dsimp +zetaDelta only) | (fail_if_no_progress (with_reducible apply Keeps.lit))
    | (fail_if_no_progress (with_reducible apply Keeps.filter))
    | (with_reducible refine Keeps.of_pair (by assumption) ?_))

theorem clearReg_keeps {x0 : Blk} (k : Nat) {b : Blk} (hk : Keeps x0 b) : Keeps x0 (clearReg k b) := by
  unfold clearReg
  repeat' (first
    | with_reducible assumption | (with_reducible apply updReg_keeps)
    | (with_reducible refine Keeps.foldl _ ?_ (fun b r h => ?_)) | (fail_if_no_progress extract_lets)
    | (fail_if_no_progress intros) | (with_reducible apply Keeps.ite) | split | (dsimp only)
    | (dsimp +zetaDelta only) | (fail_if_no_progress (with_reducible apply Keeps.lit))
    | (fail_if_no_progress (with_reducible apply Keeps.filter))
    | (with_reducible refine Keeps.of_pair (by assumption) ?_))

theorem releaseReg_keeps {x0 : Blk} (p r : Nat) {b : Blk} (hk : Keeps x0 b) : Keeps x0 (releaseReg p r b) := by
  unfold releaseReg
  repeat' (first
    | with_reducible assumption | (with_reducible apply zeroKeys_keeps) | (with_reducible apply updReg_keeps)
    | (with_reducible refine Keeps.foldl _ ?_ (fun b r h => ?_)) | (fail_if_no_progress extract_lets)
    | (fail_if_no_progress intros) | (with_reducible apply Keeps.ite) | split | (dsimp only)
    | (dsimp +zetaDelta only) | (fail_if_no_progress (with_reducible apply Keeps.lit))
    | (fail_if_no_progress (with_reducible apply Keeps.filter))
    | (with_reducible refine Keeps.of_pair (by assumption) ?_))

theorem zeroiseTile_keeps {x0 : Blk} (p : Nat) {b : Blk} (hk : Keeps x0 b) : Keeps x0 (zeroiseTile p b) := by
  unfold zeroiseTile
  repeat' (first
    | with_reducible assumption | (with_reducible apply zeroKeys_keeps)
    | (with_reducible refine Keeps.foldl _ ?_ (fun b r h => ?_)) | (fail_if_no_progress extract_lets)
    | (fail_if_no_progress intros) | (with_reducible apply Keeps.ite) | split | (dsimp only)
    | (dsimp +zetaDelta only) | (fail_if_no_progress (with_reducible apply Keeps.lit))
    | (fail_if_no_progress (with_reducible apply Keeps.filter))
    | (with_reducible refine Keeps.of_pair (by assumption) ?_))

theorem zeroiseHandle_keeps {x0 : Blk} (h : Nat) {b : Blk} (hk : Keeps x0 b) : Keeps x0 (zeroiseHandle h b) := by
  unfold zeroiseHandle
  repeat' (first
    | with_reducible assumption | (with_reducible apply zeroKeys_keeps)
    | (with_reducible refine Keeps.foldl _ ?_ (fun b r h => ?_)) | (fail_if_no_progress extract_lets)
    | (fail_if_no_progress intros) | (with_reducible apply Keeps.ite) | split | (dsimp only)
    | (dsimp +zetaDelta only) | (fail_if_no_progress (with_reducible apply Keeps.lit))
    | (fail_if_no_progress (with_reducible apply Keeps.filter))
    | (with_reducible refine Keeps.of_pair (by assumption) ?_))

theorem emptyLatches_keeps {x0 : Blk} (ps : List Nat) {b : Blk} (hk : Keeps x0 b) : Keeps x0 (emptyLatches ps b) := by
  unfold emptyLatches
  repeat' (first
    | with_reducible assumption | (with_reducible refine Keeps.foldl _ ?_ (fun b r h => ?_))
    | (with_reducible refine Keeps.foldlFst _ ?_ (fun b r h => ?_)) | (fail_if_no_progress extract_lets)
    | (fail_if_no_progress intros) | (with_reducible apply Keeps.ite) | split | (dsimp only)
    | (dsimp +zetaDelta only) | (fail_if_no_progress (with_reducible apply Keeps.lit))
    | (fail_if_no_progress (with_reducible apply Keeps.filter))
    | (with_reducible refine Keeps.of_pair (by assumption) ?_))

theorem readLatches_keeps {x0 : Blk} (keys : List Nat) {b : Blk} (hk : Keeps x0 b) : Keeps x0 (readLatches keys b) := by
  unfold readLatches
  repeat' (first
    | with_reducible assumption | (with_reducible refine Keeps.foldl _ ?_ (fun b r h => ?_))
    | (with_reducible refine Keeps.foldlFst _ ?_ (fun b r h => ?_)) | (fail_if_no_progress extract_lets)
    | (fail_if_no_progress intros) | (with_reducible apply Keeps.ite) | split | (dsimp only)
    | (dsimp +zetaDelta only) | (fail_if_no_progress (with_reducible apply Keeps.lit))
    | (fail_if_no_progress (with_reducible apply Keeps.filter))
    | (with_reducible refine Keeps.of_pair (by assumption) ?_))

theorem dropNotices_keeps {x0 : Blk} (p : Nat) (tiles : List Nat) {b : Blk} (hk : Keeps x0 b) :
    Keeps x0 (dropNotices p tiles b) := by
  unfold dropNotices
  repeat' (first
    | with_reducible assumption | (with_reducible refine Keeps.foldl _ ?_ (fun b r h => ?_))
    | (fail_if_no_progress extract_lets) | (fail_if_no_progress intros) | (with_reducible apply Keeps.ite) | split
    | (dsimp only) | (dsimp +zetaDelta only) | (fail_if_no_progress (with_reducible apply Keeps.lit))
    | (fail_if_no_progress (with_reducible apply Keeps.filter))
    | (with_reducible refine Keeps.of_pair (by assumption) ?_))

theorem addNotice_keeps {x0 : Blk} (p t : Nat) {b : Blk} (hk : Keeps x0 b) : Keeps x0 (addNotice p t b) := by
  unfold addNotice
  repeat' (first
    | with_reducible assumption | (with_reducible refine Keeps.foldl _ ?_ (fun b r h => ?_))
    | (fail_if_no_progress extract_lets) | (fail_if_no_progress intros) | (with_reducible apply Keeps.ite) | split
    | (dsimp only) | (dsimp +zetaDelta only) | (fail_if_no_progress (with_reducible apply Keeps.lit))
    | (fail_if_no_progress (with_reducible apply Keeps.filter))
    | (with_reducible refine Keeps.of_pair (by assumption) ?_))

theorem updStream_keeps {x0 : Blk} (n : Nat) (f : Stream → Stream) {b : Blk} (hk : Keeps x0 b) :
    Keeps x0 (updStream n f b) := by
  unfold updStream
  repeat' (first
    | with_reducible assumption | (with_reducible refine Keeps.foldl _ ?_ (fun b r h => ?_))
    | (fail_if_no_progress extract_lets) | (fail_if_no_progress intros) | (with_reducible apply Keeps.ite) | split
    | (dsimp only) | (dsimp +zetaDelta only) | (fail_if_no_progress (with_reducible apply Keeps.lit))
    | (fail_if_no_progress (with_reducible apply Keeps.filter))
    | (with_reducible refine Keeps.of_pair (by assumption) ?_))

theorem markDue_keeps {x0 : Blk} (p : Nat) {b : Blk} (hk : Keeps x0 b) : Keeps x0 (markDue p b) := by
  unfold markDue
  repeat' (first
    | with_reducible assumption | (with_reducible refine Keeps.foldl _ ?_ (fun b r h => ?_))
    | (fail_if_no_progress extract_lets) | (fail_if_no_progress intros) | (with_reducible apply Keeps.ite) | split
    | (dsimp only) | (dsimp +zetaDelta only) | (fail_if_no_progress (with_reducible apply Keeps.lit))
    | (fail_if_no_progress (with_reducible apply Keeps.filter))
    | (with_reducible refine Keeps.of_pair (by assumption) ?_))

theorem attributeFault_keeps {x0 : Blk} (p : Nat) {b : Blk} (hk : Keeps x0 b) : Keeps x0 (attributeFault p b) := by
  unfold attributeFault
  repeat' (first
    | with_reducible assumption | (with_reducible apply markDue_keeps)
    | (with_reducible refine Keeps.foldl _ ?_ (fun b r h => ?_)) | (fail_if_no_progress extract_lets)
    | (fail_if_no_progress intros) | (with_reducible apply Keeps.ite) | split | (dsimp only)
    | (dsimp +zetaDelta only) | (fail_if_no_progress (with_reducible apply Keeps.lit))
    | (fail_if_no_progress (with_reducible apply Keeps.filter))
    | (with_reducible refine Keeps.of_pair (by assumption) ?_))

theorem attributeAttempts_keeps {x0 : Blk} (p attempts : Nat) {b : Blk} (hk : Keeps x0 b) :
    Keeps x0 (attributeAttempts p attempts b) := by
  unfold attributeAttempts
  repeat' (first
    | with_reducible assumption | (with_reducible apply attributeFault_keeps) | (with_reducible apply markDue_keeps)
    | (with_reducible refine Keeps.foldl _ ?_ (fun b r h => ?_))
    | (with_reducible refine Keeps.foldlFst _ ?_ (fun b r h => ?_)) | (fail_if_no_progress extract_lets)
    | (fail_if_no_progress intros) | (with_reducible apply Keeps.ite) | split | (dsimp only)
    | (dsimp +zetaDelta only) | (fail_if_no_progress (with_reducible apply Keeps.lit))
    | (fail_if_no_progress (with_reducible apply Keeps.filter))
    | (with_reducible refine Keeps.of_pair (by assumption) ?_))

theorem countReplays_keeps {x0 : Blk} (n : Nat) {b : Blk} (hk : Keeps x0 b) : Keeps x0 (countReplays n b) := by
  unfold countReplays
  repeat' (first
    | with_reducible assumption | (with_reducible apply countAdd_keeps)
    | (with_reducible refine Keeps.foldl _ ?_ (fun b r h => ?_)) | (fail_if_no_progress extract_lets)
    | (fail_if_no_progress intros) | (with_reducible apply Keeps.ite) | split | (dsimp only)
    | (dsimp +zetaDelta only) | (fail_if_no_progress (with_reducible apply Keeps.lit))
    | (fail_if_no_progress (with_reducible apply Keeps.filter))
    | (with_reducible refine Keeps.of_pair (by assumption) ?_))

theorem parityRecord_keeps {x0 : Blk} (c : Option Cmd) (kind where_ lane unit : Nat) {b : Blk} (hk : Keeps x0 b) :
    Keeps x0 (parityRecord c kind where_ lane unit b) := by
  unfold parityRecord
  repeat' (first
    | with_reducible assumption | (with_reducible apply sumpPut_keeps)
    | (with_reducible refine Keeps.foldl _ ?_ (fun b r h => ?_)) | (fail_if_no_progress extract_lets)
    | (fail_if_no_progress intros) | (with_reducible apply Keeps.ite) | split | (dsimp only)
    | (dsimp +zetaDelta only) | (fail_if_no_progress (with_reducible apply Keeps.lit))
    | (fail_if_no_progress (with_reducible apply Keeps.filter))
    | (with_reducible refine Keeps.of_pair (by assumption) ?_))

theorem allReplays_keeps {x0 : Blk} {b : Blk} (hk : Keeps x0 b) : Keeps x0 (allReplays b) := by
  unfold allReplays
  repeat' (first
    | with_reducible assumption | (with_reducible apply countAdd_keeps)
    | (with_reducible refine Keeps.foldl _ ?_ (fun b r h => ?_)) | (fail_if_no_progress extract_lets)
    | (fail_if_no_progress intros) | (with_reducible apply Keeps.ite) | split | (dsimp only)
    | (dsimp +zetaDelta only) | (fail_if_no_progress (with_reducible apply Keeps.lit))
    | (fail_if_no_progress (with_reducible apply Keeps.filter))
    | (with_reducible refine Keeps.of_pair (by assumption) ?_))

theorem readParity_keeps {x0 : Blk} (c : Cmd) (a unit : Nat) {b : Blk} (hk : Keeps x0 b) :
    Keeps x0 (readParity c a unit b) := by
  unfold readParity
  repeat' (first
    | with_reducible assumption | (with_reducible apply attributeAttempts_keeps)
    | (with_reducible apply parityRecord_keeps) | (with_reducible apply allReplays_keeps)
    | (with_reducible refine Keeps.foldl _ ?_ (fun b r h => ?_)) | (fail_if_no_progress extract_lets)
    | (fail_if_no_progress intros) | (with_reducible apply Keeps.ite) | split | (dsimp only)
    | (dsimp +zetaDelta only) | (fail_if_no_progress (with_reducible apply Keeps.lit))
    | (fail_if_no_progress (with_reducible apply Keeps.filter))
    | (with_reducible refine Keeps.of_pair (by assumption) ?_))

theorem updBus_keeps {x0 : Blk} (f : Bus → Bus) {b : Blk} (hk : Keeps x0 b) : Keeps x0 (updBus f b) := by
  unfold updBus
  repeat' (first
    | with_reducible assumption | (with_reducible refine Keeps.foldl _ ?_ (fun b r h => ?_))
    | (fail_if_no_progress extract_lets) | (fail_if_no_progress intros) | (with_reducible apply Keeps.ite) | split
    | (dsimp only) | (dsimp +zetaDelta only) | (fail_if_no_progress (with_reducible apply Keeps.lit))
    | (fail_if_no_progress (with_reducible apply Keeps.filter))
    | (with_reducible refine Keeps.of_pair (by assumption) ?_))

theorem writeBack_keeps {x0 : Blk} (l : Line) {b : Blk} (hk : Keeps x0 b) : Keeps x0 (writeBack l b) := by
  unfold writeBack
  repeat' (first
    | with_reducible assumption | (with_reducible apply updBus_keeps) | (with_reducible apply raiseAlert_keeps)
    | (with_reducible apply sumpPut_keeps) | (with_reducible refine Keeps.foldl _ ?_ (fun b r h => ?_))
    | (fail_if_no_progress extract_lets) | (fail_if_no_progress intros) | (with_reducible apply Keeps.ite) | split
    | (dsimp only) | (dsimp +zetaDelta only) | (fail_if_no_progress (with_reducible apply Keeps.lit))
    | (fail_if_no_progress (with_reducible apply Keeps.filter))
    | (with_reducible refine Keeps.of_pair (by assumption) ?_))

theorem dropLines_keeps {x0 : Blk} (gone : Line → Bool) {b : Blk} (hk : Keeps x0 b) : Keeps x0 (dropLines gone b) := by
  unfold dropLines
  repeat' (first
    | with_reducible assumption | (with_reducible apply writeBack_keeps) | (with_reducible apply updBus_keeps)
    | (with_reducible refine Keeps.foldl _ ?_ (fun b r h => ?_))
    | (with_reducible refine Keeps.foldlFst _ ?_ (fun b r h => ?_)) | (fail_if_no_progress extract_lets)
    | (fail_if_no_progress intros) | (with_reducible apply Keeps.ite) | split | (dsimp only)
    | (dsimp +zetaDelta only) | (fail_if_no_progress (with_reducible apply Keeps.lit))
    | (fail_if_no_progress (with_reducible apply Keeps.filter))
    | (with_reducible refine Keeps.of_pair (by assumption) ?_))

theorem keepLine_keeps {x0 : Blk} (tag home line : Nat) (dirty : Bool) {b : Blk} (hk : Keeps x0 b) :
    Keeps x0 (keepLine tag home line dirty b) := by
  unfold keepLine
  repeat' (first
    | with_reducible assumption | (with_reducible apply dropLines_keeps) | (with_reducible apply updBus_keeps)
    | (with_reducible refine Keeps.foldl _ ?_ (fun b r h => ?_)) | (fail_if_no_progress extract_lets)
    | (fail_if_no_progress intros) | (with_reducible apply Keeps.ite) | split | (dsimp only)
    | (dsimp +zetaDelta only) | (fail_if_no_progress (with_reducible apply Keeps.lit))
    | (fail_if_no_progress (with_reducible apply Keeps.filter))
    | (with_reducible refine Keeps.of_pair (by assumption) ?_))

theorem fillBuckets_keeps {x0 : Blk} (mcs : Nat) {b : Blk} (hk : Keeps x0 b) : Keeps x0 (fillBuckets mcs b) := by
  unfold fillBuckets
  repeat' (first
    | with_reducible assumption | (with_reducible refine Keeps.foldl _ ?_ (fun b r h => ?_))
    | (with_reducible refine Keeps.foldlFst _ ?_ (fun b r h => ?_)) | (fail_if_no_progress extract_lets)
    | (fail_if_no_progress intros) | (with_reducible apply Keeps.ite) | split | (dsimp only)
    | (dsimp +zetaDelta only) | (fail_if_no_progress (with_reducible apply Keeps.lit))
    | (fail_if_no_progress (with_reducible apply Keeps.filter))
    | (with_reducible refine Keeps.of_pair (by assumption) ?_))

theorem chargeContext_keeps {x0 : Blk} (p port : Nat) {b : Blk} (hk : Keeps x0 b) :
    Keeps x0 (chargeContext p port b) := by
  unfold chargeContext
  repeat' (first
    | with_reducible assumption | (with_reducible apply countAdd_keeps)
    | (with_reducible refine Keeps.foldl _ ?_ (fun b r h => ?_)) | (fail_if_no_progress extract_lets)
    | (fail_if_no_progress intros) | (with_reducible apply Keeps.ite) | split | (dsimp only)
    | (dsimp +zetaDelta only) | (fail_if_no_progress (with_reducible apply Keeps.lit))
    | (fail_if_no_progress (with_reducible apply Keeps.filter))
    | (with_reducible refine Keeps.of_pair (by assumption) ?_))

theorem chargeSlot_keeps {x0 : Blk} (p port used : Nat) {b : Blk} (hk : Keeps x0 b) :
    Keeps x0 (chargeSlot p port used b) := by
  unfold chargeSlot
  repeat' (first
    | with_reducible assumption | (with_reducible apply countAdd_keeps)
    | (with_reducible refine Keeps.foldl _ ?_ (fun b r h => ?_)) | (fail_if_no_progress extract_lets)
    | (fail_if_no_progress intros) | (with_reducible apply Keeps.ite) | split | (dsimp only)
    | (dsimp +zetaDelta only) | (fail_if_no_progress (with_reducible apply Keeps.lit))
    | (fail_if_no_progress (with_reducible apply Keeps.filter))
    | (with_reducible refine Keeps.of_pair (by assumption) ?_))

theorem bringLine_keeps {x0 : Blk} (p a used : Nat) (write : Bool) {b : Blk} (hk : Keeps x0 b) :
    Keeps x0 (bringLine p a used write b) := by
  unfold bringLine
  repeat' (first
    | with_reducible assumption | (with_reducible apply countAdd_keeps) | (with_reducible apply updBus_keeps)
    | (with_reducible apply chargeSlot_keeps) | (with_reducible apply keepLine_keeps)
    | (with_reducible refine Keeps.foldl _ ?_ (fun b r h => ?_)) | (fail_if_no_progress extract_lets)
    | (fail_if_no_progress intros) | (with_reducible apply Keeps.ite) | split | (dsimp only)
    | (dsimp +zetaDelta only) | (fail_if_no_progress (with_reducible apply Keeps.lit))
    | (fail_if_no_progress (with_reducible apply Keeps.filter))
    | (with_reducible refine Keeps.of_pair (by assumption) ?_))

theorem matrixOf_keeps {x : Blk} (y : Blk) {b : Blk} (h : Keeps x b) : Keeps x (matrixOf y b) := h.of_eq rfl rfl rfl rfl

theorem touchLine_keeps {x0 : Blk} (p a used : Nat) (write : Bool) {b : Blk} (hk : Keeps x0 b) :
    Keeps x0 (touchLine p a used write b) := by
  unfold touchLine
  repeat' (first
    | with_reducible assumption | (with_reducible apply matrixOf_keeps) | (with_reducible apply bringLine_keeps)
    | (with_reducible refine Keeps.foldl _ ?_ (fun b r h => ?_)) | (fail_if_no_progress extract_lets)
    | (fail_if_no_progress intros) | (with_reducible apply Keeps.ite) | split | (dsimp only)
    | (dsimp +zetaDelta only) | (fail_if_no_progress (with_reducible apply Keeps.lit))
    | (fail_if_no_progress (with_reducible apply Keeps.filter))
    | (with_reducible refine Keeps.of_pair (by assumption) ?_))

theorem aheadLine_keeps {x0 : Blk} (p line : Nat) {b : Blk} (hk : Keeps x0 b) : Keeps x0 (aheadLine p line b) := by
  unfold aheadLine
  repeat' (first
    | with_reducible assumption | (with_reducible apply matrixOf_keeps) | (with_reducible apply bringLine_keeps)
    | (with_reducible refine Keeps.foldl _ ?_ (fun b r h => ?_)) | (fail_if_no_progress extract_lets)
    | (fail_if_no_progress intros) | (with_reducible apply Keeps.ite) | split | (dsimp only)
    | (dsimp +zetaDelta only) | (fail_if_no_progress (with_reducible apply Keeps.lit))
    | (fail_if_no_progress (with_reducible apply Keeps.filter))
    | (with_reducible refine Keeps.of_pair (by assumption) ?_))

theorem onCmd_keeps {x0 : Blk} (id : Nat) (f : Blk → Blk) {b : Blk} (hk : Keeps x0 b) (hf : ∀ b, Keeps x0 b → Keeps x0 (f b)) :
    Keeps x0 (onCmd id f b) := by
  unfold onCmd
  repeat' (first
    | with_reducible assumption | (with_reducible apply inCtx_keeps) | (with_reducible apply hf)
    | (with_reducible refine Keeps.foldl _ ?_ (fun b r h => ?_)) | (fail_if_no_progress extract_lets)
    | (fail_if_no_progress intros) | (with_reducible apply Keeps.ite) | split | (dsimp only)
    | (dsimp +zetaDelta only) | (fail_if_no_progress (with_reducible apply Keeps.lit))
    | (fail_if_no_progress (with_reducible apply Keeps.filter))
    | (with_reducible refine Keeps.of_pair (by assumption) ?_))

theorem breakStop_keeps {x0 : Blk} (p q : Nat) {b : Blk} (hk : Keeps x0 b) : Keeps x0 (breakStop p q b) := by
  unfold breakStop
  repeat' (first
    | with_reducible assumption | (with_reducible apply stopQueue_keeps) | (with_reducible apply updQueue_keeps)
    | (with_reducible refine Keeps.foldl _ ?_ (fun b r h => ?_)) | (fail_if_no_progress extract_lets)
    | (fail_if_no_progress intros) | (with_reducible apply Keeps.ite) | split | (dsimp only)
    | (dsimp +zetaDelta only) | (fail_if_no_progress (with_reducible apply Keeps.lit))
    | (fail_if_no_progress (with_reducible apply Keeps.filter))
    | (with_reducible refine Keeps.of_pair (by assumption) ?_))

theorem takeSlot_keeps {x b : Blk} (c : Cmd) (h : Keeps x b) (hc : c.id = b.nextId) : Keeps x (takeSlot c b) :=
  ((updQueue_keeps c.port c.queue _ h).addCmd c hc).of_eq rfl rfl rfl rfl

theorem blockOn_keeps {x0 : Blk} (c : Cmd) {b : Blk} (hk : Keeps x0 b) : Keeps x0 (blockOn c b) := by
  unfold blockOn
  repeat' (first
    | with_reducible assumption | (with_reducible apply updQueue_keeps)
    | (with_reducible refine Keeps.foldl _ ?_ (fun b r h => ?_)) | (fail_if_no_progress extract_lets)
    | (fail_if_no_progress intros) | (with_reducible apply Keeps.ite) | split | (dsimp only)
    | (dsimp +zetaDelta only) | (fail_if_no_progress (with_reducible apply Keeps.lit))
    | (fail_if_no_progress (with_reducible apply Keeps.filter))
    | (with_reducible refine Keeps.of_pair (by assumption) ?_))

theorem rejectCmd_keeps {x0 : Blk} (c : Cmd) (code : Code) (tiles : List Nat) {b : Blk} (hk : Keeps x0 b) :
    Keeps x0 (rejectCmd c code tiles b) := by
  unfold rejectCmd
  repeat' (first
    | with_reducible assumption | (with_reducible apply finishCmd_keeps) | (with_reducible apply dropNotices_keeps)
    | (with_reducible refine Keeps.foldl _ ?_ (fun b r h => ?_)) | (fail_if_no_progress extract_lets)
    | (fail_if_no_progress intros) | (with_reducible apply Keeps.ite) | split | (dsimp only)
    | (dsimp +zetaDelta only) | (fail_if_no_progress (with_reducible apply Keeps.lit))
    | (fail_if_no_progress (with_reducible apply Keeps.filter))
    | (with_reducible refine Keeps.of_pair (by assumption) ?_))

theorem clearPartial_keeps {x0 : Blk} (c : Cmd) {b : Blk} (hk : Keeps x0 b) : Keeps x0 (clearPartial c b) := by
  unfold clearPartial
  repeat' (first
    | with_reducible assumption | (with_reducible apply updReg_keeps)
    | (with_reducible refine Keeps.foldl _ ?_ (fun b r h => ?_)) | (fail_if_no_progress extract_lets)
    | (fail_if_no_progress intros) | (with_reducible apply Keeps.ite) | split | (dsimp only)
    | (dsimp +zetaDelta only) | (fail_if_no_progress (with_reducible apply Keeps.lit))
    | (fail_if_no_progress (with_reducible apply Keeps.filter))
    | (with_reducible refine Keeps.of_pair (by assumption) ?_))

theorem withdrawAll_keeps {x0 : Blk} (c : Cmd) {b : Blk} (hk : Keeps x0 b) : Keeps x0 (withdrawAll c b) := by
  unfold withdrawAll
  repeat' (first
    | with_reducible assumption | (with_reducible apply broadcast_keeps)
    | (with_reducible refine Keeps.foldl _ ?_ (fun b r h => ?_)) | (fail_if_no_progress extract_lets)
    | (fail_if_no_progress intros) | (with_reducible apply Keeps.ite) | split | (dsimp only)
    | (dsimp +zetaDelta only) | (fail_if_no_progress (with_reducible apply Keeps.lit))
    | (fail_if_no_progress (with_reducible apply Keeps.filter))
    | (with_reducible refine Keeps.of_pair (by assumption) ?_))

theorem endHalted_keeps {x0 : Blk} (c : Cmd) {b : Blk} (hk : Keeps x0 b) : Keeps x0 (endHalted c b) := by
  unfold endHalted
  repeat' (first
    | with_reducible assumption | (with_reducible apply finishCmd_keeps) | (with_reducible apply clearPartial_keeps)
    | (with_reducible apply withdrawAll_keeps) | (with_reducible refine Keeps.foldl _ ?_ (fun b r h => ?_))
    | (fail_if_no_progress extract_lets) | (fail_if_no_progress intros) | (with_reducible apply Keeps.ite) | split
    | (dsimp only) | (dsimp +zetaDelta only) | (fail_if_no_progress (with_reducible apply Keeps.lit))
    | (fail_if_no_progress (with_reducible apply Keeps.filter))
    | (with_reducible refine Keeps.of_pair (by assumption) ?_))

theorem haltOrEnd_keeps {x0 : Blk} (c : Cmd) (cause kind : Nat) (place : BitVec 16) {b : Blk} (hk : Keeps x0 b) :
    Keeps x0 (haltOrEnd c cause kind place b) := by
  unfold haltOrEnd
  repeat' (first
    | with_reducible assumption | (with_reducible apply haltCmd_keeps) | (with_reducible apply endHalted_keeps)
    | (with_reducible refine Keeps.foldl _ ?_ (fun b r h => ?_)) | (fail_if_no_progress extract_lets)
    | (fail_if_no_progress intros) | (with_reducible apply Keeps.ite) | split | (dsimp only)
    | (dsimp +zetaDelta only) | (fail_if_no_progress (with_reducible apply Keeps.lit))
    | (fail_if_no_progress (with_reducible apply Keeps.filter))
    | (with_reducible refine Keeps.of_pair (by assumption) ?_))

theorem forwardOut_keeps {x0 : Blk} (c : Cmd) {b : Blk} (hk : Keeps x0 b) : Keeps x0 (forwardOut c b) := by
  unfold forwardOut
  repeat' (first
    | with_reducible assumption | (with_reducible apply broadcast_keeps)
    | (with_reducible refine Keeps.foldl _ ?_ (fun b r h => ?_)) | (fail_if_no_progress extract_lets)
    | (fail_if_no_progress intros) | (with_reducible apply Keeps.ite) | split | (dsimp only)
    | (dsimp +zetaDelta only) | (fail_if_no_progress (with_reducible apply Keeps.lit))
    | (fail_if_no_progress (with_reducible apply Keeps.filter))
    | (with_reducible refine Keeps.of_pair (by assumption) ?_))

theorem reportError_keeps {x0 : Blk} (c : Cmd) (stage : Nat) (code : Code) (addr : Nat) {b : Blk} (hk : Keeps x0 b) :
    Keeps x0 (reportError c stage code addr b) := by
  unfold reportError
  repeat' (first
    | with_reducible assumption | (with_reducible refine updCmd_keeps _ _ ?_ ?_)
    | (with_reducible apply sendMsg_keeps)
    | (intro c hc; first | exact hc | rfl | exact cmdOf_id (by assumption) | (dsimp only; first | exact hc | rfl | exact cmdOf_id (by assumption)) | (split <;> first | exact hc | rfl) | (dsimp +zetaDelta only; first | exact hc | rfl | exact cmdOf_id (by assumption)))
    | (with_reducible refine Keeps.foldl _ ?_ (fun b r h => ?_)) | (fail_if_no_progress extract_lets)
    | (fail_if_no_progress intros) | (with_reducible apply Keeps.ite) | split | (dsimp only)
    | (dsimp +zetaDelta only) | (fail_if_no_progress (with_reducible apply Keeps.lit))
    | (fail_if_no_progress (with_reducible apply Keeps.filter))
    | (with_reducible refine Keeps.of_pair (by assumption) ?_))

theorem failFetch_keeps {x0 : Blk} (c : Cmd) (code : Code) (tiles : List Nat) {b : Blk} (hk : Keeps x0 b) :
    Keeps x0 (failFetch c code tiles b) := by
  unfold failFetch
  repeat' (first
    | with_reducible assumption | (with_reducible apply reportError_keeps) | (with_reducible apply rejectCmd_keeps)
    | (with_reducible refine Keeps.foldl _ ?_ (fun b r h => ?_)) | (fail_if_no_progress extract_lets)
    | (fail_if_no_progress intros) | (with_reducible apply Keeps.ite) | split | (dsimp only)
    | (dsimp +zetaDelta only) | (fail_if_no_progress (with_reducible apply Keeps.lit))
    | (fail_if_no_progress (with_reducible apply Keeps.filter))
    | (with_reducible refine Keeps.of_pair (by assumption) ?_))

theorem touchLines_keeps {x0 : Blk} (p : Nat) (addrs : List Nat) (write : Bool) {b : Blk} (hk : Keeps x0 b) :
    Keeps x0 (touchLines p addrs write b) := by
  unfold touchLines
  repeat' (first
    | with_reducible assumption | (with_reducible apply touchLine_keeps)
    | (with_reducible refine Keeps.foldl _ ?_ (fun b r h => ?_))
    | (with_reducible refine Keeps.foldlFst _ ?_ (fun b r h => ?_)) | (fail_if_no_progress extract_lets)
    | (fail_if_no_progress intros) | (with_reducible apply Keeps.ite) | split | (dsimp only)
    | (dsimp +zetaDelta only) | (fail_if_no_progress (with_reducible apply Keeps.lit))
    | (fail_if_no_progress (with_reducible apply Keeps.filter))
    | (with_reducible refine Keeps.of_pair (by assumption) ?_))

theorem fetchAhead_keeps {x0 : Blk} (c : Cmd) {b : Blk} (hk : Keeps x0 b) : Keeps x0 (fetchAhead c b) := by
  unfold fetchAhead
  repeat' (first
    | with_reducible assumption | (with_reducible apply touchLine_keeps) | (with_reducible apply aheadLine_keeps)
    | (with_reducible refine Keeps.foldl _ ?_ (fun b r h => ?_))
    | (with_reducible refine Keeps.foldlFst _ ?_ (fun b r h => ?_)) | (fail_if_no_progress extract_lets)
    | (fail_if_no_progress intros) | (with_reducible apply Keeps.ite) | split | (dsimp only)
    | (dsimp +zetaDelta only) | (fail_if_no_progress (with_reducible apply Keeps.lit))
    | (fail_if_no_progress (with_reducible apply Keeps.filter))
    | (with_reducible refine Keeps.of_pair (by assumption) ?_))

theorem fetchStage_keeps {x0 : Blk} (c : Cmd) (op : Op) (go : Cmd → Blk → Blk) {b : Blk} (hk : Keeps x0 b) (hgo : ∀ a0 b, Keeps x0 b → Keeps x0 (go a0 b)) :
    Keeps x0 (fetchStage c op go b) := by
  unfold fetchStage
  repeat' (first
    | with_reducible assumption | (with_reducible apply reportError_keeps) | (with_reducible apply haltOrEnd_keeps)
    | (with_reducible refine updCmd_keeps _ _ ?_ ?_) | (with_reducible apply failFetch_keeps)
    | (with_reducible apply inCtx_keeps) | (with_reducible apply readParity_keeps)
    | (with_reducible apply fetchAhead_keeps) | (with_reducible apply hgo)
    | (intro c hc; first | exact hc | rfl | exact cmdOf_id (by assumption) | (dsimp only; first | exact hc | rfl | exact cmdOf_id (by assumption)) | (split <;> first | exact hc | rfl) | (dsimp +zetaDelta only; first | exact hc | rfl | exact cmdOf_id (by assumption)))
    | (with_reducible refine Keeps.foldl _ ?_ (fun b r h => ?_)) | (fail_if_no_progress extract_lets)
    | (fail_if_no_progress intros) | (with_reducible apply Keeps.ite) | split | (dsimp only)
    | (dsimp +zetaDelta only) | (fail_if_no_progress (with_reducible apply Keeps.lit))
    | (fail_if_no_progress (with_reducible apply Keeps.filter))
    | (with_reducible refine Keeps.of_pair (by assumption) ?_))

theorem passDecode_keeps {x0 : Blk} (c : Cmd) (op : Op) (go : Cmd → Blk → Blk) {b : Blk} (hk : Keeps x0 b) (hgo : ∀ a0 b, Keeps x0 b → Keeps x0 (go a0 b)) :
    Keeps x0 (passDecode c op go b) := by
  unfold passDecode
  repeat' (first
    | with_reducible assumption | (with_reducible apply fetchStage_keeps) | (with_reducible apply forwardOut_keeps)
    | (with_reducible apply hgo) | (with_reducible refine Keeps.foldl _ ?_ (fun b r h => ?_))
    | (fail_if_no_progress extract_lets) | (fail_if_no_progress intros) | (with_reducible apply Keeps.ite) | split
    | (dsimp only) | (dsimp +zetaDelta only) | (fail_if_no_progress (with_reducible apply Keeps.lit))
    | (fail_if_no_progress (with_reducible apply Keeps.filter))
    | (with_reducible refine Keeps.of_pair (by assumption) ?_))

theorem getReady_keeps {x0 : Blk} (y0 : Cmd) {b : Blk} (hk : Keeps x0 b) : Keeps x0 (getReady y0 b) := by
  unfold getReady
  repeat' (first
    | with_reducible assumption | (with_reducible refine Keeps.foldl _ ?_ (fun b r h => ?_))
    | (fail_if_no_progress extract_lets) | (fail_if_no_progress intros) | (with_reducible apply Keeps.ite) | split
    | (dsimp only) | (dsimp +zetaDelta only) | (fail_if_no_progress (with_reducible apply Keeps.lit))
    | (fail_if_no_progress (with_reducible apply Keeps.filter))
    | (with_reducible refine Keeps.of_pair (by assumption) ?_))

theorem failDecode_keeps {x0 : Blk} (c : Cmd) (code : Code) (tiles : List Nat) {b : Blk} (hk : Keeps x0 b) :
    Keeps x0 (failDecode c code tiles b) := by
  unfold failDecode
  repeat' (first
    | with_reducible assumption | (with_reducible apply reportError_keeps) | (with_reducible apply rejectCmd_keeps)
    | (with_reducible refine Keeps.foldl _ ?_ (fun b r h => ?_)) | (fail_if_no_progress extract_lets)
    | (fail_if_no_progress intros) | (with_reducible apply Keeps.ite) | split | (dsimp only)
    | (dsimp +zetaDelta only) | (fail_if_no_progress (with_reducible apply Keeps.lit))
    | (fail_if_no_progress (with_reducible apply Keeps.filter))
    | (with_reducible refine Keeps.of_pair (by assumption) ?_))

theorem holdTable_keeps {x0 : Blk} (c : Cmd) (errs : List Code) {b : Blk} (hk : Keeps x0 b) :
    Keeps x0 (holdTable c errs b) := by
  unfold holdTable
  repeat' (first
    | with_reducible assumption | (with_reducible apply failDecode_keeps)
    | (with_reducible refine updCmd_keeps _ _ ?_ ?_)
    | (intro c hc; first | exact hc | rfl | exact cmdOf_id (by assumption) | (dsimp only; first | exact hc | rfl | exact cmdOf_id (by assumption)) | (split <;> first | exact hc | rfl) | (dsimp +zetaDelta only; first | exact hc | rfl | exact cmdOf_id (by assumption)))
    | (with_reducible refine Keeps.foldl _ ?_ (fun b r h => ?_)) | (fail_if_no_progress extract_lets)
    | (fail_if_no_progress intros) | (with_reducible apply Keeps.ite) | split | (dsimp only)
    | (dsimp +zetaDelta only) | (fail_if_no_progress (with_reducible apply Keeps.lit))
    | (fail_if_no_progress (with_reducible apply Keeps.filter))
    | (with_reducible refine Keeps.of_pair (by assumption) ?_))

theorem judge_keeps {x0 : Blk} (op : Op) (go : Cmd → Blk → Blk) (c : Cmd) {b : Blk} (hk : Keeps x0 b) (hgo : ∀ a0 b, Keeps x0 b → Keeps x0 (go a0 b)) :
    Keeps x0 (judge op go c b) := by
  unfold judge
  repeat' (first
    | with_reducible assumption | (with_reducible apply holdTable_keeps) | (with_reducible apply failDecode_keeps)
    | (with_reducible apply passDecode_keeps) | (with_reducible apply hgo)
    | (with_reducible refine Keeps.foldl _ ?_ (fun b r h => ?_)) | (fail_if_no_progress extract_lets)
    | (fail_if_no_progress intros) | (with_reducible apply Keeps.ite) | split | (dsimp only)
    | (dsimp +zetaDelta only) | (fail_if_no_progress (with_reducible apply Keeps.lit))
    | (fail_if_no_progress (with_reducible apply Keeps.filter))
    | (with_reducible refine Keeps.of_pair (by assumption) ?_))

theorem decodeStep_keeps {x b : Blk} (p q : Nat) (d : Desc) (check : Cmd → Blk → Blk) (h : Keeps x b)
    (hcheck : ∀ c b, Keeps x b → Keeps x (check c b)) : Keeps x (decodeStep p q d check b) := by
  unfold decodeStep
  extract_lets r a c b1
  have hb : Keeps x b1 := takeSlot_keeps c h rfl
  split
  · exact h
  · split
    · exact inCtx_keeps _ _ h (fun _ h => ringFault_keeps _ _ _ h)
    · split
      · exact breakStop_keeps _ _ h
      · apply hcheck
        split
        · exact blockOn_keeps _ hb
        · exact hb

theorem decodeAs_keeps {x0 : Blk} (mine : Op → Bool) (go : Cmd → Blk → Blk) (p q : Nat) (d : Desc) {b : Blk} (hk : Keeps x0 b) (hgo : ∀ a0 b, Keeps x0 b → Keeps x0 (go a0 b)) :
    Keeps x0 (decodeAs mine go p q d b) := by
  unfold decodeAs
  repeat' (first
    | with_reducible assumption | (with_reducible apply decodeStep_keeps) | (with_reducible apply rejectCmd_keeps)
    | (with_reducible apply judge_keeps) | (with_reducible apply hgo)
    | (with_reducible refine Keeps.foldl _ ?_ (fun b r h => ?_)) | (fail_if_no_progress extract_lets)
    | (fail_if_no_progress intros) | (with_reducible apply Keeps.ite) | split | (dsimp only)
    | (dsimp +zetaDelta only) | (fail_if_no_progress (with_reducible apply Keeps.lit))
    | (fail_if_no_progress (with_reducible apply Keeps.filter))
    | (with_reducible refine Keeps.of_pair (by assumption) ?_))

theorem releaseTable_keeps {x0 : Blk} {b : Blk} (hk : Keeps x0 b) : Keeps x0 (releaseTable b) := by
  unfold releaseTable
  repeat' (first
    | with_reducible assumption | (with_reducible apply failDecode_keeps) | (with_reducible apply passDecode_keeps)
    | (with_reducible apply getReady_keeps) | (with_reducible refine Keeps.foldl _ ?_ (fun b r h => ?_))
    | (with_reducible refine Keeps.foldlFst _ ?_ (fun b r h => ?_)) | (fail_if_no_progress extract_lets)
    | (fail_if_no_progress intros) | (with_reducible apply Keeps.ite) | split | (dsimp only)
    | (dsimp +zetaDelta only) | (fail_if_no_progress (with_reducible apply Keeps.lit))
    | (fail_if_no_progress (with_reducible apply Keeps.filter))
    | (with_reducible refine Keeps.of_pair (by assumption) ?_))

theorem discardCmd_keeps {x0 : Blk} (c : Cmd) {b : Blk} (hk : Keeps x0 b) : Keeps x0 (discardCmd c b) := by
  unfold discardCmd
  repeat' (first
    | with_reducible assumption | (with_reducible apply releaseTable_keeps) | (with_reducible apply endHalted_keeps)
    | (with_reducible refine Keeps.foldl _ ?_ (fun b r h => ?_)) | (fail_if_no_progress extract_lets)
    | (fail_if_no_progress intros) | (with_reducible apply Keeps.ite) | split | (dsimp only)
    | (dsimp +zetaDelta only) | (fail_if_no_progress (with_reducible apply Keeps.lit))
    | (fail_if_no_progress (with_reducible apply Keeps.filter))
    | (with_reducible refine Keeps.of_pair (by assumption) ?_))

theorem evalWaits_keeps {x0 : Blk} (p f : Nat) {b : Blk} (hk : Keeps x0 b) : Keeps x0 (evalWaits p f b) := by
  unfold evalWaits
  repeat' (first
    | with_reducible assumption | (with_reducible apply finishCmd_keeps) | (with_reducible apply putFlag_keeps)
    | (with_reducible refine Keeps.foldl _ ?_ (fun b r h => ?_))
    | (with_reducible refine Keeps.foldlFst _ ?_ (fun b r h => ?_)) | (fail_if_no_progress extract_lets)
    | (fail_if_no_progress intros) | (with_reducible apply Keeps.ite) | split | (dsimp only)
    | (dsimp +zetaDelta only) | (fail_if_no_progress (with_reducible apply Keeps.lit))
    | (fail_if_no_progress (with_reducible apply Keeps.filter))
    | (with_reducible refine Keeps.of_pair (by assumption) ?_))

theorem setFlag_keeps {x0 : Blk} (p f : Nat) {b : Blk} (hk : Keeps x0 b) : Keeps x0 (setFlag p f b) := by
  unfold setFlag
  repeat' (first
    | with_reducible assumption | (with_reducible apply evalWaits_keeps) | (with_reducible apply putFlag_keeps)
    | (with_reducible refine Keeps.foldl _ ?_ (fun b r h => ?_)) | (fail_if_no_progress extract_lets)
    | (fail_if_no_progress intros) | (with_reducible apply Keeps.ite) | split | (dsimp only)
    | (dsimp +zetaDelta only) | (fail_if_no_progress (with_reducible apply Keeps.lit))
    | (fail_if_no_progress (with_reducible apply Keeps.filter))
    | (with_reducible refine Keeps.of_pair (by assumption) ?_))

end Sys2Proof.Machine
end

