-- ==== Sys2Proof/Laws/KeepsStreams.lean ====
section
/-! SUPPORT. What streams, Shelf handles, waits, flags and the registers of queues keep. -/
namespace Sys2Proof.Machine

theorem streamRecord_keeps {x0 : Blk} (event : Nat) (code : Option Code) (n where_ : Nat) {b : Blk} (hk : Keeps x0 b) :
    Keeps x0 (streamRecord event code n where_ b) := by
  unfold streamRecord
  repeat' (first
    | with_reducible assumption | (with_reducible apply sumpPut_keeps)
    | (with_reducible refine Keeps.foldl _ ?_ (fun b r h => ?_)) | (fail_if_no_progress extract_lets)
    | (fail_if_no_progress intros) | (with_reducible apply Keeps.ite) | split | (dsimp only)
    | (dsimp +zetaDelta only) | (fail_if_no_progress (with_reducible apply Keeps.lit))
    | (fail_if_no_progress (with_reducible apply Keeps.filter))
    | (with_reducible refine Keeps.of_pair (by assumption) ?_))

theorem writeStatus_keeps {x0 : Blk} (n : Nat) {b : Blk} (hk : Keeps x0 b) : Keeps x0 (writeStatus n b) := by
  unfold writeStatus
  repeat' (first
    | with_reducible assumption | (with_reducible apply inCtx_keeps) | (with_reducible apply writeBytes_keeps)
    | (with_reducible apply tenantInt_keeps) | (with_reducible apply streamRecord_keeps)
    | (with_reducible apply updStream_keeps) | (with_reducible refine Keeps.foldl _ ?_ (fun b r h => ?_))
    | (fail_if_no_progress extract_lets) | (fail_if_no_progress intros) | (with_reducible apply Keeps.ite) | split
    | (dsimp only) | (dsimp +zetaDelta only) | (fail_if_no_progress (with_reducible apply Keeps.lit))
    | (fail_if_no_progress (with_reducible apply Keeps.filter))
    | (with_reducible refine Keeps.of_pair (by assumption) ?_))

theorem streamError_keeps {x0 : Blk} (n : Nat) (code : Code) (a : Nat) {b : Blk} (hk : Keeps x0 b) :
    Keeps x0 (streamError n code a b) := by
  unfold streamError
  repeat' (first
    | with_reducible assumption | (with_reducible apply updStream_keeps) | (with_reducible apply tenantInt_keeps)
    | (with_reducible apply streamRecord_keeps) | (with_reducible apply writeStatus_keeps)
    | (with_reducible refine Keeps.foldl _ ?_ (fun b r h => ?_)) | (fail_if_no_progress extract_lets)
    | (fail_if_no_progress intros) | (with_reducible apply Keeps.ite) | split | (dsimp only)
    | (dsimp +zetaDelta only) | (fail_if_no_progress (with_reducible apply Keeps.lit))
    | (fail_if_no_progress (with_reducible apply Keeps.filter))
    | (with_reducible refine Keeps.of_pair (by assumption) ?_))

theorem updHandle_keeps {x0 : Blk} (h : Nat) (f : Handle → Handle) {b : Blk} (hk : Keeps x0 b) :
    Keeps x0 (updHandle h f b) := by
  unfold updHandle
  repeat' (first
    | with_reducible assumption | (with_reducible refine Keeps.foldl _ ?_ (fun b r h => ?_))
    | (fail_if_no_progress extract_lets) | (fail_if_no_progress intros) | (with_reducible apply Keeps.ite) | split
    | (dsimp only) | (dsimp +zetaDelta only) | (fail_if_no_progress (with_reducible apply Keeps.lit))
    | (fail_if_no_progress (with_reducible apply Keeps.filter))
    | (with_reducible refine Keeps.of_pair (by assumption) ?_))

theorem emptyHandles_keeps {x0 : Blk} (l : List Nat) {b : Blk} (hk : Keeps x0 b) : Keeps x0 (emptyHandles l b) := by
  unfold emptyHandles
  repeat' (first
    | with_reducible assumption | (with_reducible apply updHandle_keeps)
    | (with_reducible refine Keeps.foldl _ ?_ (fun b r h => ?_))
    | (with_reducible refine Keeps.foldlFst _ ?_ (fun b r h => ?_)) | (fail_if_no_progress extract_lets)
    | (fail_if_no_progress intros) | (with_reducible apply Keeps.ite) | split | (dsimp only)
    | (dsimp +zetaDelta only) | (fail_if_no_progress (with_reducible apply Keeps.lit))
    | (fail_if_no_progress (with_reducible apply Keeps.filter))
    | (with_reducible refine Keeps.of_pair (by assumption) ?_))

theorem dropFetched_keeps {x0 : Blk} (n : Nat) {b : Blk} (hk : Keeps x0 b) : Keeps x0 (dropFetched n b) := by
  unfold dropFetched
  repeat' (first
    | with_reducible assumption | (with_reducible apply emptyHandles_keeps) | (with_reducible apply updHandle_keeps)
    | (with_reducible apply updStream_keeps) | (with_reducible refine Keeps.foldl _ ?_ (fun b r h => ?_))
    | (with_reducible refine Keeps.foldlFst _ ?_ (fun b r h => ?_)) | (fail_if_no_progress extract_lets)
    | (fail_if_no_progress intros) | (with_reducible apply Keeps.ite) | split | (dsimp only)
    | (dsimp +zetaDelta only) | (fail_if_no_progress (with_reducible apply Keeps.lit))
    | (fail_if_no_progress (with_reducible apply Keeps.filter))
    | (with_reducible refine Keeps.of_pair (by assumption) ?_))

theorem haltStream_keeps {x0 : Blk} (n a : Nat) {b : Blk} (hk : Keeps x0 b) : Keeps x0 (haltStream n a b) := by
  unfold haltStream
  repeat' (first
    | with_reducible assumption | (with_reducible apply updStream_keeps) | (with_reducible apply dropFetched_keeps)
    | (with_reducible apply tenantInt_keeps) | (with_reducible apply streamRecord_keeps)
    | (with_reducible apply writeStatus_keeps) | (with_reducible refine Keeps.foldl _ ?_ (fun b r h => ?_))
    | (fail_if_no_progress extract_lets) | (fail_if_no_progress intros) | (with_reducible apply Keeps.ite) | split
    | (dsimp only) | (dsimp +zetaDelta only) | (fail_if_no_progress (with_reducible apply Keeps.lit))
    | (fail_if_no_progress (with_reducible apply Keeps.filter))
    | (with_reducible refine Keeps.of_pair (by assumption) ?_))

theorem endStream_keeps {x0 : Blk} (n : Nat) (code : Code) {b : Blk} (hk : Keeps x0 b) :
    Keeps x0 (endStream n code b) := by
  unfold endStream
  repeat' (first
    | with_reducible assumption | (with_reducible apply emptyHandles_keeps)
    | (with_reducible apply writeStatus_keeps) | (with_reducible apply updStream_keeps)
    | (with_reducible refine Keeps.foldl _ ?_ (fun b r h => ?_)) | (fail_if_no_progress extract_lets)
    | (fail_if_no_progress intros) | (with_reducible apply Keeps.ite) | split | (dsimp only)
    | (dsimp +zetaDelta only) | (fail_if_no_progress (with_reducible apply Keeps.lit))
    | (fail_if_no_progress (with_reducible apply Keeps.filter))
    | (with_reducible refine Keeps.of_pair (by assumption) ?_))

theorem vaultHaltStreams_keeps {x0 : Blk} (p : Nat) (tiles : List Nat) {b : Blk} (hk : Keeps x0 b) :
    Keeps x0 (vaultHaltStreams p tiles b) := by
  unfold vaultHaltStreams
  repeat' (first
    | with_reducible assumption | (with_reducible apply writeStatus_keeps) | (with_reducible apply updStream_keeps)
    | (with_reducible apply dropFetched_keeps) | (with_reducible refine Keeps.foldl _ ?_ (fun b r h => ?_))
    | (with_reducible refine Keeps.foldlFst _ ?_ (fun b r h => ?_)) | (fail_if_no_progress extract_lets)
    | (fail_if_no_progress intros) | (with_reducible apply Keeps.ite) | split | (dsimp only)
    | (dsimp +zetaDelta only) | (fail_if_no_progress (with_reducible apply Keeps.lit))
    | (fail_if_no_progress (with_reducible apply Keeps.filter))
    | (with_reducible refine Keeps.of_pair (by assumption) ?_))

theorem vaultResumeStreams_keeps {x0 : Blk} (p : Nat) (tiles : List Nat) {b : Blk} (hk : Keeps x0 b) :
    Keeps x0 (vaultResumeStreams p tiles b) := by
  unfold vaultResumeStreams
  repeat' (first
    | with_reducible assumption | (with_reducible apply updStream_keeps)
    | (with_reducible refine Keeps.foldl _ ?_ (fun b r h => ?_))
    | (with_reducible refine Keeps.foldlFst _ ?_ (fun b r h => ?_)) | (fail_if_no_progress extract_lets)
    | (fail_if_no_progress intros) | (with_reducible apply Keeps.ite) | split | (dsimp only)
    | (dsimp +zetaDelta only) | (fail_if_no_progress (with_reducible apply Keeps.lit))
    | (fail_if_no_progress (with_reducible apply Keeps.filter))
    | (with_reducible refine Keeps.of_pair (by assumption) ?_))

theorem putShelf_keeps {x0 : Blk} (k : Nat) (l : List Nat) {b : Blk} (hk : Keeps x0 b) : Keeps x0 (putShelf k l b) := by
  unfold putShelf
  repeat' (first
    | with_reducible assumption | (with_reducible refine Keeps.foldl _ ?_ (fun b r h => ?_))
    | (fail_if_no_progress extract_lets) | (fail_if_no_progress intros) | (with_reducible apply Keeps.ite) | split
    | (dsimp only) | (dsimp +zetaDelta only) | (fail_if_no_progress (with_reducible apply Keeps.lit))
    | (fail_if_no_progress (with_reducible apply Keeps.filter))
    | (with_reducible refine Keeps.of_pair (by assumption) ?_))

theorem returnHandle_keeps {x0 : Blk} (h : Nat) {b : Blk} (hk : Keeps x0 b) : Keeps x0 (returnHandle h b) := by
  unfold returnHandle
  repeat' (first
    | with_reducible assumption | (with_reducible apply updStream_keeps) | (with_reducible apply updHandle_keeps)
    | (with_reducible refine Keeps.foldl _ ?_ (fun b r h => ?_)) | (fail_if_no_progress extract_lets)
    | (fail_if_no_progress intros) | (with_reducible apply Keeps.ite) | split | (dsimp only)
    | (dsimp +zetaDelta only) | (fail_if_no_progress (with_reducible apply Keeps.lit))
    | (fail_if_no_progress (with_reducible apply Keeps.filter))
    | (with_reducible refine Keeps.of_pair (by assumption) ?_))

theorem armStream_keeps {x0 : Blk} (c : Cmd) {b : Blk} (hk : Keeps x0 b) : Keeps x0 (armStream c b) := by
  unfold armStream
  repeat' (first
    | with_reducible assumption | (with_reducible apply haltOrEnd_keeps) | (with_reducible apply rejectCmd_keeps)
    | (with_reducible apply readParity_keeps) | (with_reducible apply touchLine_keeps)
    | (with_reducible refine updCmd_keeps _ _ ?_ ?_) | (with_reducible apply updStream_keeps)
    | (intro c hc; first | exact hc | rfl | exact cmdOf_id (by assumption) | (dsimp only; first | exact hc | rfl | exact cmdOf_id (by assumption)) | (split <;> first | exact hc | rfl) | (dsimp +zetaDelta only; first | exact hc | rfl | exact cmdOf_id (by assumption)))
    | (with_reducible refine Keeps.foldl _ ?_ (fun b r h => ?_)) | (fail_if_no_progress extract_lets)
    | (fail_if_no_progress intros) | (with_reducible apply Keeps.ite) | split | (dsimp only)
    | (dsimp +zetaDelta only) | (fail_if_no_progress (with_reducible apply Keeps.lit))
    | (fail_if_no_progress (with_reducible apply Keeps.filter))
    | (with_reducible refine Keeps.of_pair (by assumption) ?_))

theorem openSegment_keeps {x0 : Blk} (n : Nat) (ahead : Bool) (seg : Nat) {b : Blk} (hk : Keeps x0 b) :
    Keeps x0 (openSegment n ahead seg b).1 := by
  unfold openSegment
  repeat' (first
    | with_reducible assumption | (with_reducible apply updStream_keeps) | (with_reducible apply touchLine_keeps)
    | (with_reducible refine Keeps.foldl _ ?_ (fun b r h => ?_))
    | (with_reducible refine Keeps.foldlFst _ ?_ (fun b r h => ?_)) | (fail_if_no_progress extract_lets)
    | (fail_if_no_progress intros) | (with_reducible apply Keeps.ite) | split | (dsimp only)
    | (dsimp +zetaDelta only) | (fail_if_no_progress (with_reducible apply Keeps.lit))
    | (fail_if_no_progress (with_reducible apply Keeps.filter))
    | (with_reducible refine Keeps.of_pair (by assumption) ?_))

theorem fetchTurns_keeps {x0 : Blk} (n : Nat) {b : Blk} (hk : Keeps x0 b) : Keeps x0 (fetchTurns n b) := by
  unfold fetchTurns
  repeat' (first
    | with_reducible assumption | (with_reducible apply updStream_keeps)
    | (with_reducible refine Keeps.foldl _ ?_ (fun b r h => ?_)) | (fail_if_no_progress extract_lets)
    | (fail_if_no_progress intros) | (with_reducible apply Keeps.ite) | split | (dsimp only)
    | (dsimp +zetaDelta only) | (fail_if_no_progress (with_reducible apply Keeps.lit))
    | (fail_if_no_progress (with_reducible apply Keeps.filter))
    | (with_reducible refine Keeps.of_pair (by assumption) ?_))

theorem fetchOne_keeps {x0 : Blk} (n : Nat) {b : Blk} (hk : Keeps x0 b) : Keeps x0 (fetchOne n b).1 := by
  unfold fetchOne
  repeat' (first
    | with_reducible assumption | (with_reducible apply fetchTurns_keeps) | (with_reducible apply openSegment_keeps)
    | (with_reducible apply touchLine_keeps) | (with_reducible apply updHandle_keeps)
    | (with_reducible apply putGranuleKey_keeps) | (with_reducible apply updStream_keeps)
    | (with_reducible refine Keeps.foldl _ ?_ (fun b r h => ?_)) | (fail_if_no_progress extract_lets)
    | (fail_if_no_progress intros) | (with_reducible apply Keeps.ite) | split | (dsimp only)
    | (dsimp +zetaDelta only) | (fail_if_no_progress (with_reducible apply Keeps.lit))
    | (fail_if_no_progress (with_reducible apply Keeps.filter))
    | (with_reducible refine Keeps.of_pair (by assumption) ?_))

theorem runAhead_keeps {x : Blk} (n k : Nat) {b : Blk} (h : Keeps x b) : Keeps x (runAhead n k b) := by
  induction k generalizing b with
  | zero => exact h
  | succ k ih =>
    have g := fetchOne_keeps n h
    unfold runAhead
    split <;> rename_i e <;> rw [e] at g
    · exact ih g
    · exact g

theorem fillHandles_keeps {x0 : Blk} (n : Nat) {b : Blk} (hk : Keeps x0 b) : Keeps x0 (fillHandles n b) := by
  unfold fillHandles
  repeat' (first
    | with_reducible assumption | (with_reducible apply inCtx_keeps) | (with_reducible apply runAhead_keeps)
    | (with_reducible refine Keeps.foldl _ ?_ (fun b r h => ?_)) | (fail_if_no_progress extract_lets)
    | (fail_if_no_progress intros) | (with_reducible apply Keeps.ite) | split | (dsimp only)
    | (dsimp +zetaDelta only) | (fail_if_no_progress (with_reducible apply Keeps.lit))
    | (fail_if_no_progress (with_reducible apply Keeps.filter))
    | (with_reducible refine Keeps.of_pair (by assumption) ?_))

theorem grantStream_keeps {x0 : Blk} (p : Nat) {b : Blk} (hk : Keeps x0 b) : Keeps x0 (grantStream p b) := by
  unfold grantStream
  repeat' (first
    | with_reducible assumption | (with_reducible apply updHandle_keeps) | (with_reducible apply updStream_keeps)
    | (with_reducible apply finishCmd_keeps) | (with_reducible apply fillHandles_keeps)
    | (with_reducible apply writeStatus_keeps) | (with_reducible refine Keeps.foldl _ ?_ (fun b r h => ?_))
    | (with_reducible refine Keeps.foldlFst _ ?_ (fun b r h => ?_)) | (fail_if_no_progress extract_lets)
    | (fail_if_no_progress intros) | (with_reducible apply Keeps.ite) | split | (dsimp only)
    | (dsimp +zetaDelta only) | (fail_if_no_progress (with_reducible apply Keeps.lit))
    | (fail_if_no_progress (with_reducible apply Keeps.filter))
    | (with_reducible refine Keeps.of_pair (by assumption) ?_))

theorem sinkTile_keeps {x0 : Blk} (s : SDesc) (a : Nat) (v : Granule) (t : Nat) {b : Blk} (hk : Keeps x0 b) :
    Keeps x0 (sinkTile s a v t b) := by
  unfold sinkTile
  repeat' (first
    | with_reducible assumption | (with_reducible apply updReg_keeps) | (with_reducible apply putGranuleKey_keeps)
    | (with_reducible refine Keeps.foldl _ ?_ (fun b r h => ?_)) | (fail_if_no_progress extract_lets)
    | (fail_if_no_progress intros) | (with_reducible apply Keeps.ite) | split | (dsimp only)
    | (dsimp +zetaDelta only) | (fail_if_no_progress (with_reducible apply Keeps.lit))
    | (fail_if_no_progress (with_reducible apply Keeps.filter))
    | (with_reducible refine Keeps.of_pair (by assumption) ?_))

theorem shelveFull_keeps {x0 : Blk} (n k h : Nat) {b : Blk} (hk : Keeps x0 b) : Keeps x0 (shelveFull n k h b) := by
  unfold shelveFull
  repeat' (first
    | with_reducible assumption | (with_reducible apply updStream_keeps) | (with_reducible apply updHandle_keeps)
    | (with_reducible apply putShelf_keeps) | (with_reducible refine Keeps.foldl _ ?_ (fun b r h => ?_))
    | (fail_if_no_progress extract_lets) | (fail_if_no_progress intros) | (with_reducible apply Keeps.ite) | split
    | (dsimp only) | (dsimp +zetaDelta only) | (fail_if_no_progress (with_reducible apply Keeps.lit))
    | (fail_if_no_progress (with_reducible apply Keeps.filter))
    | (with_reducible refine Keeps.of_pair (by assumption) ?_))

theorem shelfTaken_keeps {x0 : Blk} (k m : Nat) {b : Blk} (hk : Keeps x0 b) : Keeps x0 (shelfTaken k m b) := by
  unfold shelfTaken
  repeat' (first
    | with_reducible assumption | (with_reducible apply updHandle_keeps)
    | (with_reducible refine Keeps.foldl _ ?_ (fun b r h => ?_))
    | (with_reducible refine Keeps.foldlFst _ ?_ (fun b r h => ?_)) | (fail_if_no_progress extract_lets)
    | (fail_if_no_progress intros) | (with_reducible apply Keeps.ite) | split | (dsimp only)
    | (dsimp +zetaDelta only) | (fail_if_no_progress (with_reducible apply Keeps.lit))
    | (fail_if_no_progress (with_reducible apply Keeps.filter))
    | (with_reducible refine Keeps.of_pair (by assumption) ?_))

theorem handleTaken_keeps {x0 : Blk} (n g : Nat) {b : Blk} (hk : Keeps x0 b) : Keeps x0 (handleTaken n g b) := by
  unfold handleTaken
  repeat' (first
    | with_reducible assumption | (with_reducible apply shelfTaken_keeps) | (with_reducible apply updStream_keeps)
    | (with_reducible apply emptyHandles_keeps) | (with_reducible refine Keeps.foldl _ ?_ (fun b r h => ?_))
    | (fail_if_no_progress extract_lets) | (fail_if_no_progress intros) | (with_reducible apply Keeps.ite) | split
    | (dsimp only) | (dsimp +zetaDelta only) | (fail_if_no_progress (with_reducible apply Keeps.lit))
    | (fail_if_no_progress (with_reducible apply Keeps.filter))
    | (with_reducible refine Keeps.of_pair (by assumption) ?_))

theorem nextGranule_keeps {x0 : Blk} (n : Nat) {b : Blk} (hk : Keeps x0 b) : Keeps x0 (nextGranule n b).1 := by
  unfold nextGranule
  repeat' (first
    | with_reducible assumption | (with_reducible apply fetchOne_keeps) | (with_reducible apply putGranuleKey_keeps)
    | (with_reducible apply countReplays_keeps) | (with_reducible refine Keeps.foldl _ ?_ (fun b r h => ?_))
    | (fail_if_no_progress extract_lets) | (fail_if_no_progress intros) | (with_reducible apply Keeps.ite) | split
    | (dsimp only) | (dsimp +zetaDelta only) | (fail_if_no_progress (with_reducible apply Keeps.lit))
    | (fail_if_no_progress (with_reducible apply Keeps.filter))
    | (with_reducible refine Keeps.of_pair (by assumption) ?_))

theorem touchOne_keeps {x0 : Blk} (n : Nat) {b : Blk} (hk : Keeps x0 b) : Keeps x0 (touchOne n b).1 := by
  unfold touchOne
  repeat' (first
    | with_reducible assumption | (with_reducible apply openSegment_keeps) | (with_reducible apply updStream_keeps)
    | (with_reducible apply countMoved_keeps) | (with_reducible apply touchLine_keeps)
    | (with_reducible refine Keeps.foldl _ ?_ (fun b r h => ?_)) | (fail_if_no_progress extract_lets)
    | (fail_if_no_progress intros) | (with_reducible apply Keeps.ite) | split | (dsimp only)
    | (dsimp +zetaDelta only) | (fail_if_no_progress (with_reducible apply Keeps.lit))
    | (fail_if_no_progress (with_reducible apply Keeps.filter))
    | (with_reducible refine Keeps.of_pair (by assumption) ?_))

theorem deliverOne_keeps {x0 : Blk} (n : Nat) {b : Blk} (hk : Keeps x0 b) : Keeps x0 (deliverOne n b).1 := by
  unfold deliverOne
  repeat' (first
    | with_reducible assumption | (with_reducible apply touchOne_keeps) | (with_reducible apply nextGranule_keeps)
    | (with_reducible apply updStream_keeps) | (with_reducible apply countMoved_keeps)
    | (with_reducible apply handleTaken_keeps) | (with_reducible apply sinkTile_keeps)
    | (with_reducible apply touchLine_keeps) | (with_reducible apply writeBytes_keeps)
    | (with_reducible apply shelveFull_keeps) | (with_reducible refine Keeps.foldl _ ?_ (fun b r h => ?_))
    | (with_reducible refine Keeps.foldlFst _ ?_ (fun b r h => ?_)) | (fail_if_no_progress extract_lets)
    | (fail_if_no_progress intros) | (with_reducible apply Keeps.ite) | split | (dsimp only)
    | (dsimp +zetaDelta only) | (fail_if_no_progress (with_reducible apply Keeps.lit))
    | (fail_if_no_progress (with_reducible apply Keeps.filter))
    | (with_reducible refine Keeps.of_pair (by assumption) ?_))

theorem deliver_keeps {x : Blk} (n target k : Nat) {b : Blk} (h : Keeps x b) : Keeps x (deliver n target k b).1 := by
  induction k generalizing b with
  | zero => exact h
  | succ k ih =>
    unfold deliver
    split
    · exact h
    · dsimp only
      split
      · exact ih (deliverOne_keeps n h)
      · exact deliverOne_keeps n h

theorem ownGranule_keeps {x0 : Blk} (n g : Nat) {b : Blk} (hk : Keeps x0 b) : Keeps x0 (ownGranule n g b).1 := by
  unfold ownGranule
  repeat' (first
    | with_reducible assumption | (with_reducible apply touchLine_keeps)
    | (with_reducible refine Keeps.foldl _ ?_ (fun b r h => ?_)) | (fail_if_no_progress extract_lets)
    | (fail_if_no_progress intros) | (with_reducible apply Keeps.ite) | split | (dsimp only)
    | (dsimp +zetaDelta only) | (fail_if_no_progress (with_reducible apply Keeps.lit))
    | (fail_if_no_progress (with_reducible apply Keeps.filter))
    | (with_reducible refine Keeps.of_pair (by assumption) ?_))

theorem catchUp_keeps {x : Blk} (n t target k : Nat) {b : Blk} (h : Keeps x b) : Keeps x (catchUp n t target k b).1 := by
  induction k generalizing b with
  | zero => exact h
  | succ k ih =>
    unfold catchUp
    dsimp only
    split
    · exact h
    · have g := ownGranule_keeps n (tabGet target (streamOf b n).behind t) h
      split <;> rename_i e <;> rw [e] at g
      · split
        · exact g
        · exact ih (updStream_keeps _ _ (countMoved_keeps _ _ (sinkTile_keeps _ _ _ _ g)))
      · exact g

theorem deliverAll_keeps {x0 : Blk} (n : Nat) {b : Blk} (hk : Keeps x0 b) : Keeps x0 (deliverAll n b).1 := by
  unfold deliverAll
  repeat' (first
    | with_reducible assumption | (with_reducible apply openSegment_keeps) | (with_reducible apply catchUp_keeps)
    | (with_reducible apply deliver_keeps) | (with_reducible refine Keeps.foldl _ ?_ (fun b r h => ?_))
    | (with_reducible refine Keeps.foldlFst _ ?_ (fun b r h => ?_)) | (fail_if_no_progress extract_lets)
    | (fail_if_no_progress intros) | (with_reducible apply Keeps.ite) | split | (dsimp only)
    | (dsimp +zetaDelta only) | (fail_if_no_progress (with_reducible apply Keeps.lit))
    | (fail_if_no_progress (with_reducible apply Keeps.filter))
    | (with_reducible refine Keeps.of_pair (by assumption) ?_))

theorem settleStall_keeps {x : Blk} (n : Nat) (r : Blk × Stall) (fin : Blk → Blk) (h : Keeps x r.1)
    (hfin : ∀ b, Keeps x b → Keeps x (fin b)) : Keeps x (settleStall n r fin) := by
  unfold settleStall
  repeat' (first
    | with_reducible assumption | (with_reducible apply hfin) | (with_reducible apply haltStream_keeps)
    | (with_reducible apply streamError_keeps) | (with_reducible apply allReplays_keeps) | split)

theorem onStream_keeps {x0 : Blk} (n : Nat) (f : Blk → Blk) {b : Blk} (hk : Keeps x0 b) (hf : ∀ b, Keeps x0 b → Keeps x0 (f b)) :
    Keeps x0 (onStream n f b) := by
  unfold onStream
  repeat' (first
    | with_reducible assumption | (with_reducible apply inCtx_keeps) | (with_reducible apply hf)
    | (with_reducible refine Keeps.foldl _ ?_ (fun b r h => ?_)) | (fail_if_no_progress extract_lets)
    | (fail_if_no_progress intros) | (with_reducible apply Keeps.ite) | split | (dsimp only)
    | (dsimp +zetaDelta only) | (fail_if_no_progress (with_reducible apply Keeps.lit))
    | (fail_if_no_progress (with_reducible apply Keeps.filter))
    | (with_reducible refine Keeps.of_pair (by assumption) ?_))

theorem startSegment_keeps {x0 : Blk} (n : Nat) {b : Blk} (hk : Keeps x0 b) : Keeps x0 (startSegment n b) := by
  unfold startSegment
  repeat' (first
    | with_reducible assumption | (with_reducible apply settleStall_keeps)
    | (with_reducible apply openSegment_keeps) | (with_reducible apply fillHandles_keeps)
    | (with_reducible apply putFlag_keeps) | (with_reducible apply updStream_keeps)
    | (with_reducible refine Keeps.foldl _ ?_ (fun b r h => ?_)) | (fail_if_no_progress extract_lets)
    | (fail_if_no_progress intros) | (with_reducible apply Keeps.ite) | split | (dsimp only)
    | (dsimp +zetaDelta only) | (fail_if_no_progress (with_reducible apply Keeps.lit))
    | (fail_if_no_progress (with_reducible apply Keeps.filter))
    | (with_reducible refine Keeps.of_pair (by assumption) ?_))

theorem endSegment_keeps {x0 : Blk} (n : Nat) {b : Blk} (hk : Keeps x0 b) : Keeps x0 (endSegment n b) := by
  unfold endSegment
  repeat' (first
    | with_reducible assumption | (with_reducible apply shelfTaken_keeps) | (with_reducible apply updStream_keeps)
    | (with_reducible apply setFlag_keeps) | (with_reducible apply fillHandles_keeps)
    | (with_reducible refine Keeps.foldl _ ?_ (fun b r h => ?_)) | (fail_if_no_progress extract_lets)
    | (fail_if_no_progress intros) | (with_reducible apply Keeps.ite) | split | (dsimp only)
    | (dsimp +zetaDelta only) | (fail_if_no_progress (with_reducible apply Keeps.lit))
    | (fail_if_no_progress (with_reducible apply Keeps.filter))
    | (with_reducible refine Keeps.of_pair (by assumption) ?_))

theorem doneSegment_keeps {x0 : Blk} (n : Nat) {b : Blk} (hk : Keeps x0 b) : Keeps x0 (doneSegment n b) := by
  unfold doneSegment
  repeat' (first
    | with_reducible assumption | (with_reducible apply settleStall_keeps) | (with_reducible apply deliverAll_keeps)
    | (with_reducible apply endSegment_keeps) | (with_reducible refine Keeps.foldl _ ?_ (fun b r h => ?_))
    | (fail_if_no_progress extract_lets) | (fail_if_no_progress intros) | (with_reducible apply Keeps.ite) | split
    | (dsimp only) | (dsimp +zetaDelta only) | (fail_if_no_progress (with_reducible apply Keeps.lit))
    | (fail_if_no_progress (with_reducible apply Keeps.filter))
    | (with_reducible refine Keeps.of_pair (by assumption) ?_))

theorem endRun_keeps {x0 : Blk} (n : Nat) {b : Blk} (hk : Keeps x0 b) : Keeps x0 (endRun n b) := by
  unfold endRun
  repeat' (first
    | with_reducible assumption | (with_reducible apply writeStatus_keeps) | (with_reducible apply updStream_keeps)
    | (with_reducible apply endStream_keeps) | (with_reducible refine Keeps.foldl _ ?_ (fun b r h => ?_))
    | (fail_if_no_progress extract_lets) | (fail_if_no_progress intros) | (with_reducible apply Keeps.ite) | split
    | (dsimp only) | (dsimp +zetaDelta only) | (fail_if_no_progress (with_reducible apply Keeps.lit))
    | (fail_if_no_progress (with_reducible apply Keeps.filter))
    | (with_reducible refine Keeps.of_pair (by assumption) ?_))

theorem rearmStream_keeps {x0 : Blk} (c : Cmd) {b : Blk} (hk : Keeps x0 b) : Keeps x0 (rearmStream c b) := by
  unfold rearmStream
  repeat' (first
    | with_reducible assumption | (with_reducible apply updStream_keeps) | (with_reducible apply endStream_keeps)
    | (with_reducible apply fillHandles_keeps) | (with_reducible apply finishCmd_keeps)
    | (with_reducible refine Keeps.foldl _ ?_ (fun b r h => ?_)) | (fail_if_no_progress extract_lets)
    | (fail_if_no_progress intros) | (with_reducible apply Keeps.ite) | split | (dsimp only)
    | (dsimp +zetaDelta only) | (fail_if_no_progress (with_reducible apply Keeps.lit))
    | (fail_if_no_progress (with_reducible apply Keeps.filter))
    | (with_reducible refine Keeps.of_pair (by assumption) ?_))

theorem reachBoundary_keeps {x0 : Blk} (n : Nat) {b : Blk} (hk : Keeps x0 b) : Keeps x0 (reachBoundary n b) := by
  unfold reachBoundary
  repeat' (first
    | with_reducible assumption | (with_reducible apply fillHandles_keeps) | (with_reducible apply updStream_keeps)
    | (with_reducible refine Keeps.foldl _ ?_ (fun b r h => ?_)) | (fail_if_no_progress extract_lets)
    | (fail_if_no_progress intros) | (with_reducible apply Keeps.ite) | split | (dsimp only)
    | (dsimp +zetaDelta only) | (fail_if_no_progress (with_reducible apply Keeps.lit))
    | (fail_if_no_progress (with_reducible apply Keeps.filter))
    | (with_reducible refine Keeps.of_pair (by assumption) ?_))

theorem stopStream_keeps {x0 : Blk} (n pos : Nat) {b : Blk} (hk : Keeps x0 b) : Keeps x0 (stopStream n pos b) := by
  unfold stopStream
  repeat' (first
    | with_reducible assumption | (with_reducible apply settleStall_keeps)
    | (with_reducible apply openSegment_keeps) | (with_reducible apply deliver_keeps)
    | (with_reducible apply haltStream_keeps) | (with_reducible refine Keeps.foldl _ ?_ (fun b r h => ?_))
    | (fail_if_no_progress extract_lets) | (fail_if_no_progress intros) | (with_reducible apply Keeps.ite) | split
    | (dsimp only) | (dsimp +zetaDelta only) | (fail_if_no_progress (with_reducible apply Keeps.lit))
    | (fail_if_no_progress (with_reducible apply Keeps.filter))
    | (with_reducible refine Keeps.of_pair (by assumption) ?_))

theorem disarmStream_keeps {x0 : Blk} (n : Nat) {b : Blk} (hk : Keeps x0 b) : Keeps x0 (disarmStream n b) := by
  unfold disarmStream
  repeat' (first
    | with_reducible assumption | (with_reducible apply updHandle_keeps) | (with_reducible apply writeStatus_keeps)
    | (with_reducible apply updStream_keeps) | (with_reducible refine Keeps.foldl _ ?_ (fun b r h => ?_))
    | (with_reducible refine Keeps.foldlFst _ ?_ (fun b r h => ?_)) | (fail_if_no_progress extract_lets)
    | (fail_if_no_progress intros) | (with_reducible apply Keeps.ite) | split | (dsimp only)
    | (dsimp +zetaDelta only) | (fail_if_no_progress (with_reducible apply Keeps.lit))
    | (fail_if_no_progress (with_reducible apply Keeps.filter))
    | (with_reducible refine Keeps.of_pair (by assumption) ?_))

theorem handleBack_keeps {x0 : Blk} (h : Nat) {b : Blk} (hk : Keeps x0 b) : Keeps x0 (handleBack h b) := by
  unfold handleBack
  repeat' (first
    | with_reducible assumption | (with_reducible apply returnHandle_keeps) | (with_reducible apply putShelf_keeps)
    | (with_reducible refine Keeps.foldl _ ?_ (fun b r h => ?_)) | (fail_if_no_progress extract_lets)
    | (fail_if_no_progress intros) | (with_reducible apply Keeps.ite) | split | (dsimp only)
    | (dsimp +zetaDelta only) | (fail_if_no_progress (with_reducible apply Keeps.lit))
    | (fail_if_no_progress (with_reducible apply Keeps.filter))
    | (with_reducible refine Keeps.of_pair (by assumption) ?_))

theorem detachSlow_keeps {x0 : Blk} (n : Nat) (positions : List (Nat × Nat)) {b : Blk} (hk : Keeps x0 b) :
    Keeps x0 (detachSlow n positions b) := by
  unfold detachSlow
  repeat' (first
    | with_reducible assumption | (with_reducible apply settleStall_keeps) | (with_reducible apply deliver_keeps)
    | (with_reducible apply updStream_keeps) | (with_reducible apply tenantInt_keeps)
    | (with_reducible apply streamRecord_keeps) | (with_reducible apply writeStatus_keeps)
    | (with_reducible refine Keeps.foldl _ ?_ (fun b r h => ?_))
    | (with_reducible refine Keeps.foldlFst _ ?_ (fun b r h => ?_)) | (fail_if_no_progress extract_lets)
    | (fail_if_no_progress intros) | (with_reducible apply Keeps.ite) | split | (dsimp only)
    | (dsimp +zetaDelta only) | (fail_if_no_progress (with_reducible apply Keeps.lit))
    | (fail_if_no_progress (with_reducible apply Keeps.filter))
    | (with_reducible refine Keeps.of_pair (by assumption) ?_))

theorem shelveHandle_keeps {x0 : Blk} (h k : Nat) {b : Blk} (hk : Keeps x0 b) : Keeps x0 (shelveHandle h k b) := by
  unfold shelveHandle
  repeat' (first
    | with_reducible assumption | (with_reducible apply updHandle_keeps) | (with_reducible apply putShelf_keeps)
    | (with_reducible refine Keeps.foldl _ ?_ (fun b r h => ?_)) | (fail_if_no_progress extract_lets)
    | (fail_if_no_progress intros) | (with_reducible apply Keeps.ite) | split | (dsimp only)
    | (dsimp +zetaDelta only) | (fail_if_no_progress (with_reducible apply Keeps.lit))
    | (fail_if_no_progress (with_reducible apply Keeps.filter))
    | (with_reducible refine Keeps.of_pair (by assumption) ?_))

theorem pushHandle_keeps {x0 : Blk} (c : Cmd) {b : Blk} (hk : Keeps x0 b) : Keeps x0 (pushHandle c b) := by
  unfold pushHandle
  repeat' (first
    | with_reducible assumption | (with_reducible apply finishCmd_keeps) | (with_reducible apply returnHandle_keeps)
    | (with_reducible apply rejectCmd_keeps) | (with_reducible apply shelveHandle_keeps)
    | (with_reducible refine updCmd_keeps _ _ ?_ ?_)
    | (intro c hc; first | exact hc | rfl | exact cmdOf_id (by assumption) | (dsimp only; first | exact hc | rfl | exact cmdOf_id (by assumption)) | (split <;> first | exact hc | rfl) | (dsimp +zetaDelta only; first | exact hc | rfl | exact cmdOf_id (by assumption)))
    | (with_reducible refine Keeps.foldl _ ?_ (fun b r h => ?_)) | (fail_if_no_progress extract_lets)
    | (fail_if_no_progress intros) | (with_reducible apply Keeps.ite) | split | (dsimp only)
    | (dsimp +zetaDelta only) | (fail_if_no_progress (with_reducible apply Keeps.lit))
    | (fail_if_no_progress (with_reducible apply Keeps.filter))
    | (with_reducible refine Keeps.of_pair (by assumption) ?_))

theorem pushRoom_keeps {x0 : Blk} (id : Nat) {b : Blk} (hk : Keeps x0 b) : Keeps x0 (pushRoom id b) := by
  unfold pushRoom
  repeat' (first
    | with_reducible assumption | (with_reducible apply pushHandle_keeps)
    | (with_reducible refine Keeps.foldl _ ?_ (fun b r h => ?_)) | (fail_if_no_progress extract_lets)
    | (fail_if_no_progress intros) | (with_reducible apply Keeps.ite) | split | (dsimp only)
    | (dsimp +zetaDelta only) | (fail_if_no_progress (with_reducible apply Keeps.lit))
    | (fail_if_no_progress (with_reducible apply Keeps.filter))
    | (with_reducible refine Keeps.of_pair (by assumption) ?_))

theorem popHandle_keeps {x0 : Blk} (c : Cmd) {b : Blk} (hk : Keeps x0 b) : Keeps x0 (popHandle c b) := by
  unfold popHandle
  repeat' (first
    | with_reducible assumption | (with_reducible apply finishCmd_keeps) | (with_reducible apply updHandle_keeps)
    | (with_reducible apply putShelf_keeps) | (with_reducible refine updCmd_keeps _ _ ?_ ?_)
    | (intro c hc; first | exact hc | rfl | exact cmdOf_id (by assumption) | (dsimp only; first | exact hc | rfl | exact cmdOf_id (by assumption)) | (split <;> first | exact hc | rfl) | (dsimp +zetaDelta only; first | exact hc | rfl | exact cmdOf_id (by assumption)))
    | (with_reducible refine Keeps.foldl _ ?_ (fun b r h => ?_)) | (fail_if_no_progress extract_lets)
    | (fail_if_no_progress intros) | (with_reducible apply Keeps.ite) | split | (dsimp only)
    | (dsimp +zetaDelta only) | (fail_if_no_progress (with_reducible apply Keeps.lit))
    | (fail_if_no_progress (with_reducible apply Keeps.filter))
    | (with_reducible refine Keeps.of_pair (by assumption) ?_))

theorem popArrival_keeps {x0 : Blk} (id : Nat) {b : Blk} (hk : Keeps x0 b) : Keeps x0 (popArrival id b) := by
  unfold popArrival
  repeat' (first
    | with_reducible assumption | (with_reducible apply popHandle_keeps)
    | (with_reducible refine Keeps.foldl _ ?_ (fun b r h => ?_)) | (fail_if_no_progress extract_lets)
    | (fail_if_no_progress intros) | (with_reducible apply Keeps.ite) | split | (dsimp only)
    | (dsimp +zetaDelta only) | (fail_if_no_progress (with_reducible apply Keeps.lit))
    | (fail_if_no_progress (with_reducible apply Keeps.filter))
    | (with_reducible refine Keeps.of_pair (by assumption) ?_))

theorem abortStream_keeps {x0 : Blk} (n : Nat) {b : Blk} (hk : Keeps x0 b) : Keeps x0 (abortStream n b) := by
  unfold abortStream
  repeat' (first
    | with_reducible assumption | (with_reducible apply inCtx_keeps) | (with_reducible apply writeBytes_keeps)
    | (with_reducible apply streamRecord_keeps) | (with_reducible refine Keeps.foldl _ ?_ (fun b r h => ?_))
    | (fail_if_no_progress extract_lets) | (fail_if_no_progress intros) | (with_reducible apply Keeps.ite) | split
    | (dsimp only) | (dsimp +zetaDelta only) | (fail_if_no_progress (with_reducible apply Keeps.lit))
    | (fail_if_no_progress (with_reducible apply Keeps.filter))
    | (with_reducible refine Keeps.of_pair (by assumption) ?_))

theorem abortStreams_keeps {x0 : Blk} (p : Nat) {b : Blk} (hk : Keeps x0 b) : Keeps x0 (abortStreams p b) := by
  unfold abortStreams
  repeat' (first
    | with_reducible assumption | (with_reducible apply abortStream_keeps) | (with_reducible apply updHandle_keeps)
    | (with_reducible apply putShelf_keeps) | (with_reducible refine Keeps.foldl _ ?_ (fun b r h => ?_))
    | (with_reducible refine Keeps.foldlFst _ ?_ (fun b r h => ?_)) | (fail_if_no_progress extract_lets)
    | (fail_if_no_progress intros) | (with_reducible apply Keeps.ite) | split | (dsimp only)
    | (dsimp +zetaDelta only) | (fail_if_no_progress (with_reducible apply Keeps.lit))
    | (fail_if_no_progress (with_reducible apply Keeps.filter))
    | (with_reducible refine Keeps.of_pair (by assumption) ?_))

theorem resumeCmd_keeps {x0 : Blk} (c : Cmd) {b : Blk} (hk : Keeps x0 b) : Keeps x0 (resumeCmd c b) := by
  unfold resumeCmd
  repeat' (first
    | with_reducible assumption | (with_reducible refine updCmd_keeps _ _ ?_ ?_)
    | (with_reducible apply armStream_keeps) | (with_reducible apply passDecode_keeps)
    | (with_reducible apply getReady_keeps)
    | (intro c hc; first | exact hc | rfl | exact cmdOf_id (by assumption) | (dsimp only; first | exact hc | rfl | exact cmdOf_id (by assumption)) | (split <;> first | exact hc | rfl) | (dsimp +zetaDelta only; first | exact hc | rfl | exact cmdOf_id (by assumption)))
    | (with_reducible refine Keeps.foldl _ ?_ (fun b r h => ?_)) | (fail_if_no_progress extract_lets)
    | (fail_if_no_progress intros) | (with_reducible apply Keeps.ite) | split | (dsimp only)
    | (dsimp +zetaDelta only) | (fail_if_no_progress (with_reducible apply Keeps.lit))
    | (fail_if_no_progress (with_reducible apply Keeps.filter))
    | (with_reducible refine Keeps.of_pair (by assumption) ?_))

theorem resumeHalted_keeps {x0 : Blk} (c : Cmd) {b : Blk} (hk : Keeps x0 b) : Keeps x0 (resumeHalted c b) := by
  unfold resumeHalted
  repeat' (first
    | with_reducible assumption | (with_reducible apply drawFresh_keeps) | (with_reducible apply parityRecord_keeps)
    | (with_reducible apply allReplays_keeps) | (with_reducible apply releaseTable_keeps)
    | (with_reducible apply finishCmd_keeps) | (with_reducible apply clearPartial_keeps)
    | (with_reducible apply withdrawAll_keeps) | (with_reducible apply resumeCmd_keeps)
    | (with_reducible refine Keeps.foldl _ ?_ (fun b r h => ?_)) | (fail_if_no_progress extract_lets)
    | (fail_if_no_progress intros) | (with_reducible apply Keeps.ite) | split | (dsimp only)
    | (dsimp +zetaDelta only) | (fail_if_no_progress (with_reducible apply Keeps.lit))
    | (fail_if_no_progress (with_reducible apply Keeps.filter))
    | (with_reducible refine Keeps.of_pair (by assumption) ?_))

theorem dropResume_keeps {x b : Blk} (c : Cmd) (h : Keeps x b) : Keeps x (dropResume c b) := h.filter

theorem resumeGo_keeps {x0 : Blk} (c : Cmd) {b : Blk} (hk : Keeps x0 b) : Keeps x0 (resumeGo c b) := by
  unfold resumeGo
  repeat' (first
    | with_reducible assumption | (with_reducible apply rejectCmd_keeps) | (with_reducible apply resumeHalted_keeps)
    | (with_reducible apply dropResume_keeps) | (with_reducible refine Keeps.foldl _ ?_ (fun b r h => ?_))
    | (fail_if_no_progress extract_lets) | (fail_if_no_progress intros) | (with_reducible apply Keeps.ite) | split
    | (dsimp only) | (dsimp +zetaDelta only) | (fail_if_no_progress (with_reducible apply Keeps.lit))
    | (fail_if_no_progress (with_reducible apply Keeps.filter))
    | (with_reducible refine Keeps.of_pair (by assumption) ?_))

theorem discardGo_keeps {x0 : Blk} (c : Cmd) {b : Blk} (hk : Keeps x0 b) : Keeps x0 (discardGo c b) := by
  unfold discardGo
  repeat' (first
    | with_reducible assumption | (with_reducible apply rejectCmd_keeps) | (with_reducible apply discardCmd_keeps)
    | (with_reducible apply dropResume_keeps) | (with_reducible refine Keeps.foldl _ ?_ (fun b r h => ?_))
    | (fail_if_no_progress extract_lets) | (fail_if_no_progress intros) | (with_reducible apply Keeps.ite) | split
    | (dsimp only) | (dsimp +zetaDelta only) | (fail_if_no_progress (with_reducible apply Keeps.lit))
    | (fail_if_no_progress (with_reducible apply Keeps.filter))
    | (with_reducible refine Keeps.of_pair (by assumption) ?_))

theorem haltWrite_keeps {x0 : Blk} (m : Master) (p q : Nat) (v : BitVec 64) {b : Blk} (hk : Keeps x0 b) :
    Keeps x0 (haltWrite m p q v b) := by
  unfold haltWrite
  repeat' (first
    | with_reducible assumption | (with_reducible apply busError_keeps) | (with_reducible apply inCtx_keeps)
    | (with_reducible apply resumeHalted_keeps) | (with_reducible apply discardCmd_keeps)
    | (with_reducible refine Keeps.foldl _ ?_ (fun b r h => ?_)) | (fail_if_no_progress extract_lets)
    | (fail_if_no_progress intros) | (with_reducible apply Keeps.ite) | split | (dsimp only)
    | (dsimp +zetaDelta only) | (fail_if_no_progress (with_reducible apply Keeps.lit))
    | (fail_if_no_progress (with_reducible apply Keeps.filter))
    | (with_reducible refine Keeps.of_pair (by assumption) ?_))

theorem nopGo_keeps {x0 : Blk} (c : Cmd) {b : Blk} (hk : Keeps x0 b) : Keeps x0 (nopGo c b) := by
  unfold nopGo
  repeat' (first
    | with_reducible assumption | (with_reducible apply finishCmd_keeps)
    | (with_reducible refine Keeps.foldl _ ?_ (fun b r h => ?_)) | (fail_if_no_progress extract_lets)
    | (fail_if_no_progress intros) | (with_reducible apply Keeps.ite) | split | (dsimp only)
    | (dsimp +zetaDelta only) | (fail_if_no_progress (with_reducible apply Keeps.lit))
    | (fail_if_no_progress (with_reducible apply Keeps.filter))
    | (with_reducible refine Keeps.of_pair (by assumption) ?_))

theorem loadEpoch_keeps {x0 : Blk} (c : Cmd) {b : Blk} (hk : Keeps x0 b) : Keeps x0 (loadEpoch c b) := by
  unfold loadEpoch
  repeat' (first
    | with_reducible assumption | (with_reducible apply updQueue_keeps)
    | (with_reducible refine Keeps.foldl _ ?_ (fun b r h => ?_)) | (fail_if_no_progress extract_lets)
    | (fail_if_no_progress intros) | (with_reducible apply Keeps.ite) | split | (dsimp only)
    | (dsimp +zetaDelta only) | (fail_if_no_progress (with_reducible apply Keeps.lit))
    | (fail_if_no_progress (with_reducible apply Keeps.filter))
    | (with_reducible refine Keeps.of_pair (by assumption) ?_))

theorem releaseGo_keeps {x0 : Blk} (c : Cmd) {b : Blk} (hk : Keeps x0 b) : Keeps x0 (releaseGo c b) := by
  unfold releaseGo
  repeat' (first
    | with_reducible assumption | (with_reducible refine updCmd_keeps _ _ ?_ ?_)
    | (with_reducible apply loadEpoch_keeps)
    | (intro c hc; first | exact hc | rfl | exact cmdOf_id (by assumption) | (dsimp only; first | exact hc | rfl | exact cmdOf_id (by assumption)) | (split <;> first | exact hc | rfl) | (dsimp +zetaDelta only; first | exact hc | rfl | exact cmdOf_id (by assumption)))
    | (with_reducible refine Keeps.foldl _ ?_ (fun b r h => ?_)) | (fail_if_no_progress extract_lets)
    | (fail_if_no_progress intros) | (with_reducible apply Keeps.ite) | split | (dsimp only)
    | (dsimp +zetaDelta only) | (fail_if_no_progress (with_reducible apply Keeps.lit))
    | (fail_if_no_progress (with_reducible apply Keeps.filter))
    | (with_reducible refine Keeps.of_pair (by assumption) ?_))

theorem releaseAll_keeps {x0 : Blk} (c : Cmd) {b : Blk} (hk : Keeps x0 b) : Keeps x0 (releaseAll c b) := by
  unfold releaseAll
  repeat' (first
    | with_reducible assumption | (with_reducible apply releaseReg_keeps)
    | (with_reducible refine Keeps.foldl _ ?_ (fun b r h => ?_))
    | (with_reducible refine Keeps.foldlFst _ ?_ (fun b r h => ?_)) | (fail_if_no_progress extract_lets)
    | (fail_if_no_progress intros) | (with_reducible apply Keeps.ite) | split | (dsimp only)
    | (dsimp +zetaDelta only) | (fail_if_no_progress (with_reducible apply Keeps.lit))
    | (fail_if_no_progress (with_reducible apply Keeps.filter))
    | (with_reducible refine Keeps.of_pair (by assumption) ?_))

theorem fenceGo_keeps {x0 : Blk} (c : Cmd) {b : Blk} (hk : Keeps x0 b) : Keeps x0 (fenceGo c b) := by
  unfold fenceGo
  repeat' (first
    | with_reducible assumption | (with_reducible apply blockOn_keeps)
    | (with_reducible refine updCmd_keeps _ _ ?_ ?_)
    | (intro c hc; first | exact hc | rfl | exact cmdOf_id (by assumption) | (dsimp only; first | exact hc | rfl | exact cmdOf_id (by assumption)) | (split <;> first | exact hc | rfl) | (dsimp +zetaDelta only; first | exact hc | rfl | exact cmdOf_id (by assumption)))
    | (with_reducible refine Keeps.foldl _ ?_ (fun b r h => ?_)) | (fail_if_no_progress extract_lets)
    | (fail_if_no_progress intros) | (with_reducible apply Keeps.ite) | split | (dsimp only)
    | (dsimp +zetaDelta only) | (fail_if_no_progress (with_reducible apply Keeps.lit))
    | (fail_if_no_progress (with_reducible apply Keeps.filter))
    | (with_reducible refine Keeps.of_pair (by assumption) ?_))

theorem fenceEnd_keeps {x0 : Blk} (id : Nat) {b : Blk} (hk : Keeps x0 b) : Keeps x0 (fenceEnd id b) := by
  unfold fenceEnd
  repeat' (first
    | with_reducible assumption | (with_reducible apply finishCmd_keeps)
    | (with_reducible refine Keeps.foldl _ ?_ (fun b r h => ?_)) | (fail_if_no_progress extract_lets)
    | (fail_if_no_progress intros) | (with_reducible apply Keeps.ite) | split | (dsimp only)
    | (dsimp +zetaDelta only) | (fail_if_no_progress (with_reducible apply Keeps.lit))
    | (fail_if_no_progress (with_reducible apply Keeps.filter))
    | (with_reducible refine Keeps.of_pair (by assumption) ?_))

theorem flagSetGo_keeps {x0 : Blk} (c : Cmd) {b : Blk} (hk : Keeps x0 b) : Keeps x0 (flagSetGo c b) := by
  unfold flagSetGo
  repeat' (first
    | with_reducible assumption | (with_reducible refine updCmd_keeps _ _ ?_ ?_)
    | (intro c hc; first | exact hc | rfl | exact cmdOf_id (by assumption) | (dsimp only; first | exact hc | rfl | exact cmdOf_id (by assumption)) | (split <;> first | exact hc | rfl) | (dsimp +zetaDelta only; first | exact hc | rfl | exact cmdOf_id (by assumption)))
    | (with_reducible refine Keeps.foldl _ ?_ (fun b r h => ?_)) | (fail_if_no_progress extract_lets)
    | (fail_if_no_progress intros) | (with_reducible apply Keeps.ite) | split | (dsimp only)
    | (dsimp +zetaDelta only) | (fail_if_no_progress (with_reducible apply Keeps.lit))
    | (fail_if_no_progress (with_reducible apply Keeps.filter))
    | (with_reducible refine Keeps.of_pair (by assumption) ?_))

theorem flagSetApply_keeps {x0 : Blk} (id : Nat) {b : Blk} (hk : Keeps x0 b) : Keeps x0 (flagSetApply id b) := by
  unfold flagSetApply
  repeat' (first
    | with_reducible assumption | (with_reducible apply finishCmd_keeps) | (with_reducible apply setFlag_keeps)
    | (with_reducible apply broadcast_keeps) | (with_reducible refine updCmd_keeps _ _ ?_ ?_)
    | (intro c hc; first | exact hc | rfl | exact cmdOf_id (by assumption) | (dsimp only; first | exact hc | rfl | exact cmdOf_id (by assumption)) | (split <;> first | exact hc | rfl) | (dsimp +zetaDelta only; first | exact hc | rfl | exact cmdOf_id (by assumption)))
    | (with_reducible refine Keeps.foldl _ ?_ (fun b r h => ?_)) | (fail_if_no_progress extract_lets)
    | (fail_if_no_progress intros) | (with_reducible apply Keeps.ite) | split | (dsimp only)
    | (dsimp +zetaDelta only) | (fail_if_no_progress (with_reducible apply Keeps.lit))
    | (fail_if_no_progress (with_reducible apply Keeps.filter))
    | (with_reducible refine Keeps.of_pair (by assumption) ?_))

theorem flagWaitGo_keeps {x0 : Blk} (c : Cmd) {b : Blk} (hk : Keeps x0 b) : Keeps x0 (flagWaitGo c b) := by
  unfold flagWaitGo
  repeat' (first
    | with_reducible assumption | (with_reducible apply evalWaits_keeps) | (with_reducible apply blockOn_keeps)
    | (with_reducible refine updCmd_keeps _ _ ?_ ?_)
    | (intro c hc; first | exact hc | rfl | exact cmdOf_id (by assumption) | (dsimp only; first | exact hc | rfl | exact cmdOf_id (by assumption)) | (split <;> first | exact hc | rfl) | (dsimp +zetaDelta only; first | exact hc | rfl | exact cmdOf_id (by assumption)))
    | (with_reducible refine Keeps.foldl _ ?_ (fun b r h => ?_)) | (fail_if_no_progress extract_lets)
    | (fail_if_no_progress intros) | (with_reducible apply Keeps.ite) | split | (dsimp only)
    | (dsimp +zetaDelta only) | (fail_if_no_progress (with_reducible apply Keeps.lit))
    | (fail_if_no_progress (with_reducible apply Keeps.filter))
    | (with_reducible refine Keeps.of_pair (by assumption) ?_))

theorem expireWait_keeps {x0 : Blk} (c : Cmd) {b : Blk} (hk : Keeps x0 b) : Keeps x0 (expireWait c b) := by
  unfold expireWait
  repeat' (first
    | with_reducible assumption | (with_reducible apply finishCmd_keeps)
    | (with_reducible refine Keeps.foldl _ ?_ (fun b r h => ?_)) | (fail_if_no_progress extract_lets)
    | (fail_if_no_progress intros) | (with_reducible apply Keeps.ite) | split | (dsimp only)
    | (dsimp +zetaDelta only) | (fail_if_no_progress (with_reducible apply Keeps.lit))
    | (fail_if_no_progress (with_reducible apply Keeps.filter))
    | (with_reducible refine Keeps.of_pair (by assumption) ?_))

theorem expireWaits_keeps {x0 : Blk} {b : Blk} (hk : Keeps x0 b) : Keeps x0 (expireWaits b) := by
  unfold expireWaits
  repeat' (first
    | with_reducible assumption | (with_reducible apply expireWait_keeps)
    | (with_reducible refine Keeps.foldl _ ?_ (fun b r h => ?_))
    | (with_reducible refine Keeps.foldlFst _ ?_ (fun b r h => ?_)) | (fail_if_no_progress extract_lets)
    | (fail_if_no_progress intros) | (with_reducible apply Keeps.ite) | split | (dsimp only)
    | (dsimp +zetaDelta only) | (fail_if_no_progress (with_reducible apply Keeps.lit))
    | (fail_if_no_progress (with_reducible apply Keeps.filter))
    | (with_reducible refine Keeps.of_pair (by assumption) ?_))

theorem declareDeadlock_keeps {x0 : Blk} (p late : Nat) {b : Blk} (hk : Keeps x0 b) :
    Keeps x0 (declareDeadlock p late b) := by
  unfold declareDeadlock
  repeat' (first
    | with_reducible assumption | (with_reducible apply sumpPut_keeps) | (with_reducible apply stopQueue_keeps)
    | (with_reducible apply finishCmd_keeps) | (with_reducible refine Keeps.foldl _ ?_ (fun b r h => ?_))
    | (with_reducible refine Keeps.foldlFst _ ?_ (fun b r h => ?_)) | (fail_if_no_progress extract_lets)
    | (fail_if_no_progress intros) | (with_reducible apply Keeps.ite) | split | (dsimp only)
    | (dsimp +zetaDelta only) | (fail_if_no_progress (with_reducible apply Keeps.lit))
    | (fail_if_no_progress (with_reducible apply Keeps.filter))
    | (with_reducible refine Keeps.of_pair (by assumption) ?_))

theorem flagMessage_keeps {x0 : Blk} (p f die cmd : Nat) {b : Blk} (hk : Keeps x0 b) :
    Keeps x0 (flagMessage p f die cmd b) := by
  unfold flagMessage
  repeat' (first
    | with_reducible assumption | (with_reducible apply sendMsg_keeps) | (with_reducible apply setFlag_keeps)
    | (with_reducible apply broadcast_keeps) | (with_reducible apply landMail_keeps)
    | (with_reducible refine Keeps.foldl _ ?_ (fun b r h => ?_)) | (fail_if_no_progress extract_lets)
    | (fail_if_no_progress intros) | (with_reducible apply Keeps.ite) | split | (dsimp only)
    | (dsimp +zetaDelta only) | (fail_if_no_progress (with_reducible apply Keeps.lit))
    | (fail_if_no_progress (with_reducible apply Keeps.filter))
    | (with_reducible refine Keeps.of_pair (by assumption) ?_))

theorem breakGo_keeps {x0 : Blk} (c : Cmd) {b : Blk} (hk : Keeps x0 b) : Keeps x0 (breakGo c b) := by
  unfold breakGo
  repeat' (first
    | with_reducible assumption | (with_reducible apply updQueue_keeps) | (with_reducible apply finishCmd_keeps)
    | (with_reducible refine Keeps.foldl _ ?_ (fun b r h => ?_)) | (fail_if_no_progress extract_lets)
    | (fail_if_no_progress intros) | (with_reducible apply Keeps.ite) | split | (dsimp only)
    | (dsimp +zetaDelta only) | (fail_if_no_progress (with_reducible apply Keeps.lit))
    | (fail_if_no_progress (with_reducible apply Keeps.filter))
    | (with_reducible refine Keeps.of_pair (by assumption) ?_))

theorem modtabGo_keeps {x0 : Blk} (c : Cmd) {b : Blk} (hk : Keeps x0 b) : Keeps x0 (modtabGo c b) := by
  unfold modtabGo
  repeat' (first
    | with_reducible assumption | (with_reducible refine updCmd_keeps _ _ ?_ ?_)
    | (intro c hc; first | exact hc | rfl | exact cmdOf_id (by assumption) | (dsimp only; first | exact hc | rfl | exact cmdOf_id (by assumption)) | (split <;> first | exact hc | rfl) | (dsimp +zetaDelta only; first | exact hc | rfl | exact cmdOf_id (by assumption)))
    | (with_reducible refine Keeps.foldl _ ?_ (fun b r h => ?_)) | (fail_if_no_progress extract_lets)
    | (fail_if_no_progress intros) | (with_reducible apply Keeps.ite) | split | (dsimp only)
    | (dsimp +zetaDelta only) | (fail_if_no_progress (with_reducible apply Keeps.lit))
    | (fail_if_no_progress (with_reducible apply Keeps.filter))
    | (with_reducible refine Keeps.of_pair (by assumption) ?_))

theorem installTable_keeps {x0 : Blk} (p image : Nat) {b : Blk} (hk : Keeps x0 b) :
    Keeps x0 (installTable p image b) := by
  unfold installTable
  repeat' (first
    | with_reducible assumption | (with_reducible refine Keeps.foldl _ ?_ (fun b r h => ?_))
    | (with_reducible refine Keeps.foldlFst _ ?_ (fun b r h => ?_)) | (fail_if_no_progress extract_lets)
    | (fail_if_no_progress intros) | (with_reducible apply Keeps.ite) | split | (dsimp only)
    | (dsimp +zetaDelta only) | (fail_if_no_progress (with_reducible apply Keeps.lit))
    | (fail_if_no_progress (with_reducible apply Keeps.filter))
    | (with_reducible refine Keeps.of_pair (by assumption) ?_))

theorem modtabTake_keeps {x0 : Blk} (id : Nat) {b : Blk} (hk : Keeps x0 b) : Keeps x0 (modtabTake id b) := by
  unfold modtabTake
  repeat' (first
    | with_reducible assumption | (with_reducible apply releaseTable_keeps) | (with_reducible apply haltOrEnd_keeps)
    | (with_reducible apply rejectCmd_keeps) | (with_reducible apply readParity_keeps)
    | (with_reducible apply finishCmd_keeps) | (with_reducible apply installTable_keeps)
    | (with_reducible refine Keeps.foldl _ ?_ (fun b r h => ?_)) | (fail_if_no_progress extract_lets)
    | (fail_if_no_progress intros) | (with_reducible apply Keeps.ite) | split | (dsimp only)
    | (dsimp +zetaDelta only) | (fail_if_no_progress (with_reducible apply Keeps.lit))
    | (fail_if_no_progress (with_reducible apply Keeps.filter))
    | (with_reducible refine Keeps.of_pair (by assumption) ?_))

theorem queueStopRecord_keeps {x0 : Blk} (p q cause : Nat) (v : BitVec 32) {b : Blk} (hk : Keeps x0 b) :
    Keeps x0 (queueStopRecord p q cause v b) := by
  unfold queueStopRecord
  repeat' (first
    | with_reducible assumption | (with_reducible apply sumpPut_keeps)
    | (with_reducible refine Keeps.foldl _ ?_ (fun b r h => ?_)) | (fail_if_no_progress extract_lets)
    | (fail_if_no_progress intros) | (with_reducible apply Keeps.ite) | split | (dsimp only)
    | (dsimp +zetaDelta only) | (fail_if_no_progress (with_reducible apply Keeps.lit))
    | (fail_if_no_progress (with_reducible apply Keeps.filter))
    | (with_reducible refine Keeps.of_pair (by assumption) ?_))

theorem writeSqTail_keeps {x0 : Blk} (p q : Nat) (v : BitVec 32) {b : Blk} (hk : Keeps x0 b) :
    Keeps x0 (writeSqTail p q v b) := by
  unfold writeSqTail
  repeat' (first
    | with_reducible assumption | (with_reducible apply queueStopRecord_keeps)
    | (with_reducible apply stopQueue_keeps) | (with_reducible apply updQueue_keeps)
    | (with_reducible refine Keeps.foldl _ ?_ (fun b r h => ?_)) | (fail_if_no_progress extract_lets)
    | (fail_if_no_progress intros) | (with_reducible apply Keeps.ite) | split | (dsimp only)
    | (dsimp +zetaDelta only) | (fail_if_no_progress (with_reducible apply Keeps.lit))
    | (fail_if_no_progress (with_reducible apply Keeps.filter))
    | (with_reducible refine Keeps.of_pair (by assumption) ?_))

theorem writeCqHead_keeps {x0 : Blk} (p q : Nat) (v : BitVec 32) {b : Blk} (hk : Keeps x0 b) :
    Keeps x0 (writeCqHead p q v b) := by
  unfold writeCqHead
  repeat' (first
    | with_reducible assumption | (with_reducible apply queueStopRecord_keeps)
    | (with_reducible apply updQueue_keeps) | (with_reducible refine Keeps.foldl _ ?_ (fun b r h => ?_))
    | (fail_if_no_progress extract_lets) | (fail_if_no_progress intros) | (with_reducible apply Keeps.ite) | split
    | (dsimp only) | (dsimp +zetaDelta only) | (fail_if_no_progress (with_reducible apply Keeps.lit))
    | (fail_if_no_progress (with_reducible apply Keeps.filter))
    | (with_reducible refine Keeps.of_pair (by assumption) ?_))

theorem drained_keeps {x0 : Blk} (p q : Nat) {b : Blk} (hk : Keeps x0 b) : Keeps x0 (drained p q b) := by
  unfold drained
  repeat' (first
    | with_reducible assumption | (with_reducible apply updQueue_keeps)
    | (with_reducible refine Keeps.foldl _ ?_ (fun b r h => ?_)) | (fail_if_no_progress extract_lets)
    | (fail_if_no_progress intros) | (with_reducible apply Keeps.ite) | split | (dsimp only)
    | (dsimp +zetaDelta only) | (fail_if_no_progress (with_reducible apply Keeps.lit))
    | (fail_if_no_progress (with_reducible apply Keeps.filter))
    | (with_reducible refine Keeps.of_pair (by assumption) ?_))

theorem disableQueue_keeps {x0 : Blk} (p q : Nat) (config : BitVec 32) {b : Blk} (hk : Keeps x0 b) :
    Keeps x0 (disableQueue p q config b) := by
  unfold disableQueue
  repeat' (first
    | with_reducible assumption | (with_reducible apply updQueue_keeps) | (with_reducible apply drained_keeps)
    | (with_reducible apply discardCmd_keeps) | (with_reducible refine Keeps.foldl _ ?_ (fun b r h => ?_))
    | (fail_if_no_progress extract_lets) | (fail_if_no_progress intros) | (with_reducible apply Keeps.ite) | split
    | (dsimp only) | (dsimp +zetaDelta only) | (fail_if_no_progress (with_reducible apply Keeps.lit))
    | (fail_if_no_progress (with_reducible apply Keeps.filter))
    | (with_reducible refine Keeps.of_pair (by assumption) ?_))

theorem startQueue_keeps {x0 : Blk} (p q : Nat) {b : Blk} (hk : Keeps x0 b) : Keeps x0 (startQueue p q b) := by
  unfold startQueue
  repeat' (first
    | with_reducible assumption | (with_reducible apply drained_keeps) | (with_reducible apply repostCpl_keeps)
    | (with_reducible apply updQueue_keeps) | (with_reducible refine Keeps.foldl _ ?_ (fun b r h => ?_))
    | (fail_if_no_progress extract_lets) | (fail_if_no_progress intros) | (with_reducible apply Keeps.ite) | split
    | (dsimp only) | (dsimp +zetaDelta only) | (fail_if_no_progress (with_reducible apply Keeps.lit))
    | (fail_if_no_progress (with_reducible apply Keeps.filter))
    | (with_reducible refine Keeps.of_pair (by assumption) ?_))

theorem controlStop_keeps {x0 : Blk} (p q : Nat) {b : Blk} (hk : Keeps x0 b) : Keeps x0 (controlStop p q b) := by
  unfold controlStop
  repeat' (first
    | with_reducible assumption | (with_reducible apply stopQueue_keeps) | (with_reducible apply updQueue_keeps)
    | (with_reducible refine Keeps.foldl _ ?_ (fun b r h => ?_)) | (fail_if_no_progress extract_lets)
    | (fail_if_no_progress intros) | (with_reducible apply Keeps.ite) | split | (dsimp only)
    | (dsimp +zetaDelta only) | (fail_if_no_progress (with_reducible apply Keeps.lit))
    | (fail_if_no_progress (with_reducible apply Keeps.filter))
    | (with_reducible refine Keeps.of_pair (by assumption) ?_))

end Sys2Proof.Machine
end

