-- ==== Sys2Proof/Laws/KeepsPasses.lean ====
section
/-! SUPPORT. What passes, commits, row commands and the messages of a Gallery keep. -/
namespace Sys2Proof.Machine

/-- A command that has passed its pass start keeps its number. -/
theorem startItems_id {op : Op} {c c' : Cmd} {b : Blk} (h : startItems op c b = some (.ok c')) : c'.id = c.id := by
  unfold startItems at h
  dsimp only at h
  repeat' split at h
  all_goals simp_all
  all_goals (subst h; rfl)

theorem transmitBytes_keeps {x0 : Blk} (k cls bytes : Nat) (poison : Bool) {b : Blk} (hk : Keeps x0 b) :
    Keeps x0 (transmitBytes k cls bytes poison b) := by
  unfold transmitBytes
  repeat' (first
    | with_reducible assumption | (with_reducible apply transmitFlit_keeps)
    | (with_reducible refine Keeps.foldl _ ?_ (fun b r h => ?_))
    | (with_reducible refine Keeps.foldlFst _ ?_ (fun b r h => ?_)) | (fail_if_no_progress extract_lets)
    | (fail_if_no_progress intros) | (with_reducible apply Keeps.ite) | split | (dsimp only)
    | (dsimp +zetaDelta only) | (fail_if_no_progress (with_reducible apply Keeps.lit))
    | (fail_if_no_progress (with_reducible apply Keeps.filter))
    | (with_reducible refine Keeps.of_pair (by assumption) ?_))

theorem sendRuns_keeps {x0 : Blk} (e : Nat) (l : List (BulkRun × Bool)) {b : Blk} (hk : Keeps x0 b) :
    Keeps x0 (sendRuns e l b) := by
  unfold sendRuns
  repeat' (first
    | with_reducible assumption | (with_reducible apply transmitBytes_keeps)
    | (with_reducible refine Keeps.foldl _ ?_ (fun b r h => ?_))
    | (with_reducible refine Keeps.foldlFst _ ?_ (fun b r h => ?_)) | (fail_if_no_progress extract_lets)
    | (fail_if_no_progress intros) | (with_reducible apply Keeps.ite) | split | (dsimp only)
    | (dsimp +zetaDelta only) | (fail_if_no_progress (with_reducible apply Keeps.lit))
    | (fail_if_no_progress (with_reducible apply Keeps.filter))
    | (with_reducible refine Keeps.of_pair (by assumption) ?_))

/-- A property of an accumulator that every round of a fold keeps. -/
theorem foldl_keeps {α β : Type} {P : β → Prop} {f : β → α → β} {a : β} (l : List α) (h : P a) (hf : ∀ a r, P a → P (f a r)) :
    P (l.foldl f a) := by
  induction l generalizing a with
  | nil => exact h
  | cons r t ih => exact ih (hf a r h)

theorem landStep_keeps {x : Blk} (c : Cmd) (e s : Nat) (mask : Nat → Nat → Bool) {b : Blk} (h : Keeps x b) :
    Keeps x (landStep c e s mask b).2 ∧ (landStep c e s mask b).1.id = c.id := by
  unfold landStep
  refine foldl_keeps (P := fun y : Cmd × Blk => Keeps x y.2 ∧ y.1.id = c.id) _ ⟨h, rfl⟩ (fun a r ha => ?_)
  refine foldl_keeps (P := fun y : Cmd × Blk => Keeps x y.2 ∧ y.1.id = c.id) _ ha (fun a r ha => ?_)
  split
  · exact ⟨ha.1.lit, ha.2⟩
  · exact ha

theorem dropBulk_keeps {x0 : Blk} (tiles : List Nat) {b : Blk} (hk : Keeps x0 b) : Keeps x0 (dropBulk tiles b) := by
  unfold dropBulk
  repeat' (first
    | with_reducible assumption | (with_reducible refine Keeps.foldl _ ?_ (fun b r h => ?_))
    | (fail_if_no_progress extract_lets) | (fail_if_no_progress intros) | (with_reducible apply Keeps.ite) | split
    | (dsimp only) | (dsimp +zetaDelta only) | (fail_if_no_progress (with_reducible apply Keeps.lit))
    | (fail_if_no_progress (with_reducible apply Keeps.filter))
    | (with_reducible refine Keeps.of_pair (by assumption) ?_))

theorem exchange_keeps {x : Blk} (op : Op) (fuel : Nat) (c : Cmd) {b : Blk} (h : Keeps x b) :
    Keeps x (exchange op fuel c b).2.1 ∧ (exchange op fuel c b).1.id = c.id := by
  induction fuel generalizing c b with
  | zero => exact ⟨h, rfl⟩
  | succ n ih =>
    unfold exchange
    split
    · exact ⟨h, rfl⟩
    · extract_lets ctl c1 c2
      have e1 : c1.id = c.id := by
        show (if _ then _ else _ : Cmd).id = c.id
        split <;> rfl
      split
      · rw [← e1]; exact ih _ h
      · rename_i e mask _
        dsimp only
        generalize hb : (if c1.stepSent = true then b else sendRuns e _ b) = b2
        have h2 : Keeps x b2 := by
          rw [← hb]
          split
          · exact h
          · exact sendRuns_keeps _ _ h
        have g := landStep_keeps c2 e c2.step mask h2
        split
        · have k := fun m => ih { (landStep c2 e c2.step mask b2).1 with step := m, stepSent := false } g.1
          exact ⟨(k _).1, (k _).2.trans (g.2.trans e1)⟩
        · exact ⟨h2, e1⟩

theorem sendRequestOf_keeps {x0 : Blk} (id : Option Nat) (m : Option Master) (a : Nat) (write : Bool) (v : Granule) (mark : RegMark) {b : Blk} (hk : Keeps x0 b) :
    Keeps x0 (sendRequestOf id m a write v mark b) := by
  unfold sendRequestOf
  repeat' (first
    | with_reducible assumption | (with_reducible apply transmitBytes_keeps)
    | (with_reducible refine Keeps.foldl _ ?_ (fun b r h => ?_)) | (fail_if_no_progress extract_lets)
    | (fail_if_no_progress intros) | (with_reducible apply Keeps.ite) | split | (dsimp only)
    | (dsimp +zetaDelta only) | (fail_if_no_progress (with_reducible apply Keeps.lit))
    | (fail_if_no_progress (with_reducible apply Keeps.filter))
    | (with_reducible refine Keeps.of_pair (by assumption) ?_))

theorem sendRequest_keeps {x0 : Blk} (id : Option Nat) (a : Nat) (write : Bool) (v : Granule) (mark : RegMark) {b : Blk} (hk : Keeps x0 b) :
    Keeps x0 (sendRequest id a write v mark b) := by
  unfold sendRequest
  repeat' (first
    | with_reducible assumption | (with_reducible apply sendRequestOf_keeps)
    | (with_reducible refine Keeps.foldl _ ?_ (fun b r h => ?_)) | (fail_if_no_progress extract_lets)
    | (fail_if_no_progress intros) | (with_reducible apply Keeps.ite) | split | (dsimp only)
    | (dsimp +zetaDelta only) | (fail_if_no_progress (with_reducible apply Keeps.lit))
    | (fail_if_no_progress (with_reducible apply Keeps.filter))
    | (with_reducible refine Keeps.of_pair (by assumption) ?_))

theorem requestReads_keeps {x0 : Blk} (id : Nat) (addrs : List Nat) {b : Blk} (hk : Keeps x0 b) :
    Keeps x0 (requestReads id addrs b) := by
  unfold requestReads
  repeat' (first
    | with_reducible assumption | (with_reducible apply sendRequest_keeps)
    | (with_reducible refine Keeps.foldl _ ?_ (fun b r h => ?_))
    | (with_reducible refine Keeps.foldlFst _ ?_ (fun b r h => ?_)) | (fail_if_no_progress extract_lets)
    | (fail_if_no_progress intros) | (with_reducible apply Keeps.ite) | split | (dsimp only)
    | (dsimp +zetaDelta only) | (fail_if_no_progress (with_reducible apply Keeps.lit))
    | (fail_if_no_progress (with_reducible apply Keeps.filter))
    | (with_reducible refine Keeps.of_pair (by assumption) ?_))

theorem dropRemote_keeps {x0 : Blk} (addrs : List Nat) {b : Blk} (hk : Keeps x0 b) : Keeps x0 (dropRemote addrs b) := by
  unfold dropRemote
  repeat' (first
    | with_reducible assumption | (with_reducible refine Keeps.foldl _ ?_ (fun b r h => ?_))
    | (fail_if_no_progress extract_lets) | (fail_if_no_progress intros) | (with_reducible apply Keeps.ite) | split
    | (dsimp only) | (dsimp +zetaDelta only) | (fail_if_no_progress (with_reducible apply Keeps.lit))
    | (fail_if_no_progress (with_reducible apply Keeps.filter))
    | (with_reducible refine Keeps.of_pair (by assumption) ?_))

theorem meetParity_keeps {x0 : Blk} (c : Cmd) (unit : Nat) (table : Bool) (keys : List Nat) (ev : List ParityEvent) {b : Blk} (hk : Keeps x0 b) :
    Keeps x0 (meetParity c unit table keys ev b).1 := by
  unfold meetParity
  repeat' (first
    | with_reducible assumption | (with_reducible apply parityRecord_keeps)
    | (with_reducible apply allReplays_keeps) | (with_reducible apply drawFresh_keeps)
    | (with_reducible apply attributeAttempts_keeps) | (with_reducible apply attributeFault_keeps)
    | (with_reducible apply countReplays_keeps) | (with_reducible apply markDue_keeps)
    | (with_reducible refine Keeps.foldl _ ?_ (fun b r h => ?_))
    | (with_reducible refine Keeps.foldlFst _ ?_ (fun b r h => ?_)) | (fail_if_no_progress extract_lets)
    | (fail_if_no_progress intros) | (with_reducible apply Keeps.ite) | split | (dsimp only)
    | (dsimp +zetaDelta only) | (fail_if_no_progress (with_reducible apply Keeps.lit))
    | (fail_if_no_progress (with_reducible apply Keeps.filter))
    | (with_reducible refine Keeps.of_pair (by assumption) ?_))

theorem meetAttempt_keeps {x0 : Blk} (c : Cmd) (table poison : Bool) (keys : List Nat) (ev : List ParityEvent) {b : Blk} (hk : Keeps x0 b) :
    Keeps x0 (meetAttempt c table poison keys ev b).1 := by
  unfold meetAttempt
  repeat' (first
    | with_reducible assumption | (with_reducible apply drawFresh_keeps)
    | (with_reducible apply attributeFault_keeps) | (with_reducible apply markDue_keeps)
    | (with_reducible apply parityRecord_keeps) | (with_reducible refine Keeps.foldl _ ?_ (fun b r h => ?_))
    | (fail_if_no_progress extract_lets) | (fail_if_no_progress intros) | (with_reducible apply Keeps.ite) | split
    | (dsimp only) | (dsimp +zetaDelta only) | (fail_if_no_progress (with_reducible apply Keeps.lit))
    | (fail_if_no_progress (with_reducible apply Keeps.filter))
    | (with_reducible refine Keeps.of_pair (by assumption) ?_))

theorem tallyRecord_keeps {x0 : Blk} (c : Cmd) (places : List Nat) (limbs : Nat) (z : Bool) (coll : Option (Nat × Nat)) (unit : Nat) {b : Blk} (hk : Keeps x0 b) :
    Keeps x0 (tallyRecord c places limbs z coll unit b) := by
  unfold tallyRecord
  repeat' (first
    | with_reducible assumption | (with_reducible apply sumpPut_keeps)
    | (with_reducible refine Keeps.foldl _ ?_ (fun b r h => ?_))
    | (with_reducible refine Keeps.foldlFst _ ?_ (fun b r h => ?_)) | (fail_if_no_progress extract_lets)
    | (fail_if_no_progress intros) | (with_reducible apply Keeps.ite) | split | (dsimp only)
    | (dsimp +zetaDelta only) | (fail_if_no_progress (with_reducible apply Keeps.lit))
    | (fail_if_no_progress (with_reducible apply Keeps.filter))
    | (with_reducible refine Keeps.of_pair (by assumption) ?_))

theorem twinRecord_keeps {x0 : Blk} (c : Cmd) (code : Code) (dis : List (Nat × Nat)) (prim twin diff : Bool) (place unit : Nat) {b : Blk} (hk : Keeps x0 b) :
    Keeps x0 (twinRecord c code dis prim twin diff place unit b) := by
  unfold twinRecord
  repeat' (first
    | with_reducible assumption | (with_reducible apply sumpPut_keeps)
    | (with_reducible refine Keeps.foldl _ ?_ (fun b r h => ?_)) | (fail_if_no_progress extract_lets)
    | (fail_if_no_progress intros) | (with_reducible apply Keeps.ite) | split | (dsimp only)
    | (dsimp +zetaDelta only) | (fail_if_no_progress (with_reducible apply Keeps.lit))
    | (fail_if_no_progress (with_reducible apply Keeps.filter))
    | (with_reducible refine Keeps.of_pair (by assumption) ?_))

theorem countRepeat_keeps {x0 : Blk} (p : Nat) {b : Blk} (hk : Keeps x0 b) : Keeps x0 (countRepeat p b) := by
  unfold countRepeat
  repeat' (first
    | with_reducible assumption | (with_reducible apply raiseAlert_keeps) | (with_reducible apply sumpPut_keeps)
    | (with_reducible refine Keeps.foldl _ ?_ (fun b r h => ?_)) | (fail_if_no_progress extract_lets)
    | (fail_if_no_progress intros) | (with_reducible apply Keeps.ite) | split | (dsimp only)
    | (dsimp +zetaDelta only) | (fail_if_no_progress (with_reducible apply Keeps.lit))
    | (fail_if_no_progress (with_reducible apply Keeps.filter))
    | (with_reducible refine Keeps.of_pair (by assumption) ?_))

theorem unitDone_keeps {x0 : Blk} (c : Cmd) (r0 r1 : Nat) {b : Blk} (hk : Keeps x0 b) :
    Keeps x0 (unitDone c r0 r1 b) := by
  unfold unitDone
  repeat' (first
    | with_reducible assumption | (with_reducible refine updCmd_keeps _ _ ?_ ?_)
    | (with_reducible apply haltOrEnd_keeps) | (with_reducible apply finishCmd_keeps)
    | (intro c hc; first | exact hc | rfl | exact cmdOf_id (by assumption) | (dsimp only; first | exact hc | rfl | exact cmdOf_id (by assumption)) | (split <;> first | exact hc | rfl) | (dsimp +zetaDelta only; first | exact hc | rfl | exact cmdOf_id (by assumption)))
    | (with_reducible refine Keeps.foldl _ ?_ (fun b r h => ?_)) | (fail_if_no_progress extract_lets)
    | (fail_if_no_progress intros) | (with_reducible apply Keeps.ite) | split | (dsimp only)
    | (dsimp +zetaDelta only) | (fail_if_no_progress (with_reducible apply Keeps.lit))
    | (fail_if_no_progress (with_reducible apply Keeps.filter))
    | (with_reducible refine Keeps.of_pair (by assumption) ?_))

theorem unitFails_keeps {x0 : Blk} (c : Cmd) (code : Code) (r0 r1 : Nat) {b : Blk} (hk : Keeps x0 b) :
    Keeps x0 (unitFails c code r0 r1 b) := by
  unfold unitFails
  repeat' (first
    | with_reducible assumption | (with_reducible apply finishCmd_keeps)
    | (with_reducible refine Keeps.foldl _ ?_ (fun b r h => ?_)) | (fail_if_no_progress extract_lets)
    | (fail_if_no_progress intros) | (with_reducible apply Keeps.ite) | split | (dsimp only)
    | (dsimp +zetaDelta only) | (fail_if_no_progress (with_reducible apply Keeps.lit))
    | (fail_if_no_progress (with_reducible apply Keeps.filter))
    | (with_reducible refine Keeps.of_pair (by assumption) ?_))

theorem fillBanks_keeps {x0 : Blk} (d : Desc) (copy : Nat) (landed : List (Nat × Nat × Granule)) {b : Blk} (hk : Keeps x0 b) :
    Keeps x0 (fillBanks d copy landed b) := by
  unfold fillBanks
  repeat' (first
    | with_reducible assumption | (with_reducible apply putGranuleKey_keeps)
    | (with_reducible refine Keeps.foldl _ ?_ (fun b r h => ?_))
    | (with_reducible refine Keeps.foldlFst _ ?_ (fun b r h => ?_)) | (fail_if_no_progress extract_lets)
    | (fail_if_no_progress intros) | (with_reducible apply Keeps.ite) | split | (dsimp only)
    | (dsimp +zetaDelta only) | (fail_if_no_progress (with_reducible apply Keeps.lit))
    | (fail_if_no_progress (with_reducible apply Keeps.filter))
    | (with_reducible refine Keeps.of_pair (by assumption) ?_))

theorem swapKeys_keeps {x b : Blk} (k j n : Nat) (h : Keeps x b) : Keeps x (swapKeys k j n b) :=
  h.of_mem rfl (memWf_memSwap _ _ _) rfl rfl

theorem commitPlace_keeps {x0 : Blk} (op : Op) (c : Cmd) (copy u : Nat) {b : Blk} (hk : Keeps x0 b) :
    Keeps x0 (commitPlace op c copy u b) := by
  unfold commitPlace
  repeat' (first
    | with_reducible assumption | (with_reducible apply swapKeys_keeps) | (with_reducible apply putGranuleKey_keeps)
    | (with_reducible refine Keeps.foldl _ ?_ (fun b r h => ?_))
    | (with_reducible refine Keeps.foldlFst _ ?_ (fun b r h => ?_)) | (fail_if_no_progress extract_lets)
    | (fail_if_no_progress intros) | (with_reducible apply Keeps.ite) | split | (dsimp only)
    | (dsimp +zetaDelta only) | (fail_if_no_progress (with_reducible apply Keeps.lit))
    | (fail_if_no_progress (with_reducible apply Keeps.filter))
    | (with_reducible refine Keeps.of_pair (by assumption) ?_))

theorem setAccKey_keeps {x0 : Blk} (p : Nat) (v : Bool) {b : Blk} (hk : Keeps x0 b) : Keeps x0 (setAccKey p v b) := by
  unfold setAccKey
  repeat' (first
    | with_reducible assumption | (with_reducible refine Keeps.foldl _ ?_ (fun b r h => ?_))
    | (fail_if_no_progress extract_lets) | (fail_if_no_progress intros) | (with_reducible apply Keeps.ite) | split
    | (dsimp only) | (dsimp +zetaDelta only) | (fail_if_no_progress (with_reducible apply Keeps.lit))
    | (fail_if_no_progress (with_reducible apply Keeps.filter))
    | (with_reducible refine Keeps.of_pair (by assumption) ?_))

theorem commitMarks_keeps {x0 : Blk} (op : Op) (c : Cmd) (key : Bool) {b : Blk} (hk : Keeps x0 b) :
    Keeps x0 (commitMarks op c key b) := by
  unfold commitMarks
  repeat' (first
    | with_reducible assumption | (with_reducible apply setAccKey_keeps) | (with_reducible apply markWrites_keeps)
    | (with_reducible apply zeroKeys_keeps) | (with_reducible refine Keeps.foldl _ ?_ (fun b r h => ?_))
    | (with_reducible refine Keeps.foldlFst _ ?_ (fun b r h => ?_)) | (fail_if_no_progress extract_lets)
    | (fail_if_no_progress intros) | (with_reducible apply Keeps.ite) | split | (dsimp only)
    | (dsimp +zetaDelta only) | (fail_if_no_progress (with_reducible apply Keeps.lit))
    | (fail_if_no_progress (with_reducible apply Keeps.filter))
    | (with_reducible refine Keeps.of_pair (by assumption) ?_))

theorem commitSet_keeps {x0 : Blk} (op : Op) (c : Cmd) (key : Bool) {b : Blk} (hk : Keeps x0 b) :
    Keeps x0 (commitSet op c key b) := by
  unfold commitSet
  repeat' (first
    | with_reducible assumption | (with_reducible apply commitPlace_keeps)
    | (with_reducible apply commitMarks_keeps) | (with_reducible refine Keeps.foldl _ ?_ (fun b r h => ?_))
    | (with_reducible refine Keeps.foldlFst _ ?_ (fun b r h => ?_)) | (fail_if_no_progress extract_lets)
    | (fail_if_no_progress intros) | (with_reducible apply Keeps.ite) | split | (dsimp only)
    | (dsimp +zetaDelta only) | (fail_if_no_progress (with_reducible apply Keeps.lit))
    | (fail_if_no_progress (with_reducible apply Keeps.filter))
    | (with_reducible refine Keeps.of_pair (by assumption) ?_))

theorem countPlaces_keeps {x0 : Blk} (op : Op) (c : Cmd) (copy : Nat) (t : Tallied) {b : Blk} (hk : Keeps x0 b) :
    Keeps x0 (countPlaces op c copy t b) := by
  unfold countPlaces
  repeat' (first
    | with_reducible assumption | (with_reducible apply countRepeat_keeps)
    | (with_reducible refine Keeps.foldl _ ?_ (fun b r h => ?_))
    | (with_reducible refine Keeps.foldlFst _ ?_ (fun b r h => ?_)) | (fail_if_no_progress extract_lets)
    | (fail_if_no_progress intros) | (with_reducible apply Keeps.ite) | split | (dsimp only)
    | (dsimp +zetaDelta only) | (fail_if_no_progress (with_reducible apply Keeps.lit))
    | (fail_if_no_progress (with_reducible apply Keeps.filter))
    | (with_reducible refine Keeps.of_pair (by assumption) ?_))

theorem attributeTwin_keeps {x0 : Blk} (c : Cmd) (t0 t1 : Tallied) (diff : Bool) {b : Blk} (hk : Keeps x0 b) :
    Keeps x0 (attributeTwin c t0 t1 diff b) := by
  unfold attributeTwin
  repeat' (first
    | with_reducible assumption | (with_reducible apply attributeFault_keeps)
    | (with_reducible refine Keeps.foldl _ ?_ (fun b r h => ?_))
    | (with_reducible refine Keeps.foldlFst _ ?_ (fun b r h => ?_)) | (fail_if_no_progress extract_lets)
    | (fail_if_no_progress intros) | (with_reducible apply Keeps.ite) | split | (dsimp only)
    | (dsimp +zetaDelta only) | (fail_if_no_progress (with_reducible apply Keeps.lit))
    | (fail_if_no_progress (with_reducible apply Keeps.filter))
    | (with_reducible refine Keeps.of_pair (by assumption) ?_))

theorem checkSet_keeps {x0 : Blk} (op : Op) (c : Cmd) (outs : List CopyOut) {b : Blk} (hk : Keeps x0 b) :
    Keeps x0 (checkSet op c outs b).1 := by
  unfold checkSet
  repeat' (first
    | with_reducible assumption | (with_reducible apply countPlaces_keeps)
    | (with_reducible apply tallyRecord_keeps) | (with_reducible apply twinRecord_keeps)
    | (with_reducible apply attributeTwin_keeps) | (with_reducible refine Keeps.foldl _ ?_ (fun b r h => ?_))
    | (fail_if_no_progress extract_lets) | (fail_if_no_progress intros) | (with_reducible apply Keeps.ite) | split
    | (dsimp only) | (dsimp +zetaDelta only) | (fail_if_no_progress (with_reducible apply Keeps.lit))
    | (fail_if_no_progress (with_reducible apply Keeps.filter))
    | (with_reducible refine Keeps.of_pair (by assumption) ?_))

theorem galleryFails_keeps {x0 : Blk} (c : Cmd) (code : Code) {b : Blk} (hk : Keeps x0 b) :
    Keeps x0 (galleryFails c code b) := by
  unfold galleryFails
  repeat' (first
    | with_reducible assumption | (with_reducible apply dropBulk_keeps) | (with_reducible apply withdrawAll_keeps)
    | (with_reducible apply haltOrEnd_keeps) | (with_reducible refine updCmd_keeps _ _ ?_ ?_)
    | (with_reducible apply rejectCmd_keeps) | (with_reducible apply unitFails_keeps)
    | (intro c hc; first | exact hc | rfl | exact cmdOf_id (by assumption) | (dsimp only; first | exact hc | rfl | exact cmdOf_id (by assumption)) | (split <;> first | exact hc | rfl) | (dsimp +zetaDelta only; first | exact hc | rfl | exact cmdOf_id (by assumption)))
    | (with_reducible refine Keeps.foldl _ ?_ (fun b r h => ?_)) | (fail_if_no_progress extract_lets)
    | (fail_if_no_progress intros) | (with_reducible apply Keeps.ite) | split | (dsimp only)
    | (dsimp +zetaDelta only) | (fail_if_no_progress (with_reducible apply Keeps.lit))
    | (fail_if_no_progress (with_reducible apply Keeps.filter))
    | (with_reducible refine Keeps.of_pair (by assumption) ?_))

theorem clearAccs_keeps {x0 : Blk} (c : Cmd) {b : Blk} (hk : Keeps x0 b) : Keeps x0 (clearAccs c b) := by
  unfold clearAccs
  repeat' (first
    | with_reducible assumption | (with_reducible apply setAccKey_keeps) | (with_reducible apply zeroKeys_keeps)
    | (with_reducible apply emptyLatches_keeps) | (with_reducible refine Keeps.foldl _ ?_ (fun b r h => ?_))
    | (with_reducible refine Keeps.foldlFst _ ?_ (fun b r h => ?_)) | (fail_if_no_progress extract_lets)
    | (fail_if_no_progress intros) | (with_reducible apply Keeps.ite) | split | (dsimp only)
    | (dsimp +zetaDelta only) | (fail_if_no_progress (with_reducible apply Keeps.lit))
    | (fail_if_no_progress (with_reducible apply Keeps.filter))
    | (with_reducible refine Keeps.of_pair (by assumption) ?_))

theorem commitShare_keeps {x0 : Blk} (op : Op) (c : Cmd) (key : Bool) {b : Blk} (hk : Keeps x0 b) :
    Keeps x0 (commitShare op c key b) := by
  unfold commitShare
  repeat' (first
    | with_reducible assumption | (with_reducible apply clearAccs_keeps) | (with_reducible apply releaseAll_keeps)
    | (with_reducible apply commitSet_keeps) | (with_reducible refine Keeps.foldl _ ?_ (fun b r h => ?_))
    | (fail_if_no_progress extract_lets) | (fail_if_no_progress intros) | (with_reducible apply Keeps.ite) | split
    | (dsimp only) | (dsimp +zetaDelta only) | (fail_if_no_progress (with_reducible apply Keeps.lit))
    | (fail_if_no_progress (with_reducible apply Keeps.filter))
    | (with_reducible refine Keeps.of_pair (by assumption) ?_))

theorem replayShare_keeps {x0 : Blk} (c : Cmd) {b : Blk} (hk : Keeps x0 b) : Keeps x0 (replayShare c b) := by
  unfold replayShare
  repeat' (first
    | with_reducible assumption | (with_reducible apply countReplays_keeps)
    | (with_reducible refine updCmd_keeps _ _ ?_ ?_)
    | (intro c hc; first | exact hc | rfl | exact cmdOf_id (by assumption) | (dsimp only; first | exact hc | rfl | exact cmdOf_id (by assumption)) | (split <;> first | exact hc | rfl) | (dsimp +zetaDelta only; first | exact hc | rfl | exact cmdOf_id (by assumption)))
    | (with_reducible refine Keeps.foldl _ ?_ (fun b r h => ?_)) | (fail_if_no_progress extract_lets)
    | (fail_if_no_progress intros) | (with_reducible apply Keeps.ite) | split | (dsimp only)
    | (dsimp +zetaDelta only) | (fail_if_no_progress (with_reducible apply Keeps.lit))
    | (fail_if_no_progress (with_reducible apply Keeps.filter))
    | (with_reducible refine Keeps.of_pair (by assumption) ?_))

theorem decideGallery_keeps {x0 : Blk} (id : Nat) {b : Blk} (hk : Keeps x0 b) : Keeps x0 (decideGallery id b) := by
  unfold decideGallery
  repeat' (first
    | with_reducible assumption | (with_reducible apply replayShare_keeps) | (with_reducible apply broadcast_keeps)
    | (with_reducible apply galleryFails_keeps) | (with_reducible apply tallyRecord_keeps)
    | (with_reducible apply commitShare_keeps) | (with_reducible apply unitDone_keeps)
    | (with_reducible refine updCmd_keeps _ _ ?_ ?_)
    | (intro c hc; first | exact hc | rfl | exact cmdOf_id (by assumption) | (dsimp only; first | exact hc | rfl | exact cmdOf_id (by assumption)) | (split <;> first | exact hc | rfl) | (dsimp +zetaDelta only; first | exact hc | rfl | exact cmdOf_id (by assumption)))
    | (with_reducible refine Keeps.foldl _ ?_ (fun b r h => ?_)) | (fail_if_no_progress extract_lets)
    | (fail_if_no_progress intros) | (with_reducible apply Keeps.ite) | split | (dsimp only)
    | (dsimp +zetaDelta only) | (fail_if_no_progress (with_reducible apply Keeps.lit))
    | (fail_if_no_progress (with_reducible apply Keeps.filter))
    | (with_reducible refine Keeps.of_pair (by assumption) ?_))

theorem reportOwn_keeps {x0 : Blk} (c : Cmd) (body : ReportBody) {b : Blk} (hk : Keeps x0 b) :
    Keeps x0 (reportOwn c body b) := by
  unfold reportOwn
  repeat' (first
    | with_reducible assumption | (with_reducible apply decideGallery_keeps)
    | (with_reducible refine updCmd_keeps _ _ ?_ ?_) | (with_reducible apply sendMsg_keeps)
    | (intro c hc; first | exact hc | rfl | exact cmdOf_id (by assumption) | (dsimp only; first | exact hc | rfl | exact cmdOf_id (by assumption)) | (split <;> first | exact hc | rfl) | (dsimp +zetaDelta only; first | exact hc | rfl | exact cmdOf_id (by assumption)))
    | (with_reducible refine Keeps.foldl _ ?_ (fun b r h => ?_)) | (fail_if_no_progress extract_lets)
    | (fail_if_no_progress intros) | (with_reducible apply Keeps.ite) | split | (dsimp only)
    | (dsimp +zetaDelta only) | (fail_if_no_progress (with_reducible apply Keeps.lit))
    | (fail_if_no_progress (with_reducible apply Keeps.filter))
    | (with_reducible refine Keeps.of_pair (by assumption) ?_))

theorem reportBegun_keeps {x0 : Blk} (c : Cmd) {b : Blk} (hk : Keeps x0 b) : Keeps x0 (reportBegun c b) := by
  unfold reportBegun
  repeat' (first
    | with_reducible assumption | (with_reducible apply decideGallery_keeps)
    | (with_reducible refine updCmd_keeps _ _ ?_ ?_) | (with_reducible apply sendMsg_keeps)
    | (intro c hc; first | exact hc | rfl | exact cmdOf_id (by assumption) | (dsimp only; first | exact hc | rfl | exact cmdOf_id (by assumption)) | (split <;> first | exact hc | rfl) | (dsimp +zetaDelta only; first | exact hc | rfl | exact cmdOf_id (by assumption)))
    | (with_reducible refine Keeps.foldl _ ?_ (fun b r h => ?_)) | (fail_if_no_progress extract_lets)
    | (fail_if_no_progress intros) | (with_reducible apply Keeps.ite) | split | (dsimp only)
    | (dsimp +zetaDelta only) | (fail_if_no_progress (with_reducible apply Keeps.lit))
    | (fail_if_no_progress (with_reducible apply Keeps.filter))
    | (with_reducible refine Keeps.of_pair (by assumption) ?_))

theorem stopHere_keeps {x0 : Blk} (c : Cmd) (code : Code) (addr : Nat) {b : Blk} (hk : Keeps x0 b) :
    Keeps x0 (stopHere c code addr b) := by
  unfold stopHere
  repeat' (first
    | with_reducible assumption | (with_reducible apply reportOwn_keeps) | (with_reducible apply unitFails_keeps)
    | (with_reducible refine Keeps.foldl _ ?_ (fun b r h => ?_)) | (fail_if_no_progress extract_lets)
    | (fail_if_no_progress intros) | (with_reducible apply Keeps.ite) | split | (dsimp only)
    | (dsimp +zetaDelta only) | (fail_if_no_progress (with_reducible apply Keeps.lit))
    | (fail_if_no_progress (with_reducible apply Keeps.filter))
    | (with_reducible refine Keeps.of_pair (by assumption) ?_))

theorem sectionFails_keeps {x0 : Blk} (c : Cmd) (x : Nat × Code) {b : Blk} (hk : Keeps x0 b) :
    Keeps x0 (sectionFails c x b) := by
  unfold sectionFails
  repeat' (first
    | with_reducible assumption | (with_reducible apply stopHere_keeps) | (with_reducible apply haltOrEnd_keeps)
    | (with_reducible refine updCmd_keeps _ _ ?_ ?_) | (with_reducible apply readParity_keeps)
    | (intro c hc; first | exact hc | rfl | exact cmdOf_id (by assumption) | (dsimp only; first | exact hc | rfl | exact cmdOf_id (by assumption)) | (split <;> first | exact hc | rfl) | (dsimp +zetaDelta only; first | exact hc | rfl | exact cmdOf_id (by assumption)))
    | (with_reducible refine Keeps.foldl _ ?_ (fun b r h => ?_)) | (fail_if_no_progress extract_lets)
    | (fail_if_no_progress intros) | (with_reducible apply Keeps.ite) | split | (dsimp only)
    | (dsimp +zetaDelta only) | (fail_if_no_progress (with_reducible apply Keeps.lit))
    | (fail_if_no_progress (with_reducible apply Keeps.filter))
    | (with_reducible refine Keeps.of_pair (by assumption) ?_))

theorem endSet_keeps {x0 : Blk} (op : Op) (c : Cmd) (ev : UnitEvent) (outs : List CopyOut) {b : Blk} (hk : Keeps x0 b) :
    Keeps x0 (endSet op c ev outs b) := by
  unfold endSet
  repeat' (first
    | with_reducible assumption | (with_reducible apply meetParity_keeps) | (with_reducible apply unitFails_keeps)
    | (with_reducible apply checkSet_keeps) | (with_reducible apply countMoved_keeps)
    | (with_reducible apply fillBanks_keeps) | (with_reducible apply unitDone_keeps)
    | (with_reducible apply commitSet_keeps) | (with_reducible refine Keeps.foldl _ ?_ (fun b r h => ?_))
    | (with_reducible refine Keeps.foldlFst _ ?_ (fun b r h => ?_)) | (fail_if_no_progress extract_lets)
    | (fail_if_no_progress intros) | (with_reducible apply Keeps.ite) | split | (dsimp only)
    | (dsimp +zetaDelta only) | (fail_if_no_progress (with_reducible apply Keeps.lit))
    | (fail_if_no_progress (with_reducible apply Keeps.filter))
    | (with_reducible refine Keeps.of_pair (by assumption) ?_))

theorem endShare_keeps {x0 : Blk} (op : Op) (c : Cmd) (ev : UnitEvent) (outs : List CopyOut) {b : Blk} (hk : Keeps x0 b) :
    Keeps x0 (endShare op c ev outs b) := by
  unfold endShare
  repeat' (first
    | with_reducible assumption | (with_reducible apply meetAttempt_keeps) | (with_reducible apply reportOwn_keeps)
    | (with_reducible apply checkSet_keeps) | (with_reducible apply countMoved_keeps)
    | (with_reducible apply fillBanks_keeps) | (with_reducible refine Keeps.foldl _ ?_ (fun b r h => ?_))
    | (with_reducible refine Keeps.foldlFst _ ?_ (fun b r h => ?_)) | (fail_if_no_progress extract_lets)
    | (fail_if_no_progress intros) | (with_reducible apply Keeps.ite) | split | (dsimp only)
    | (dsimp +zetaDelta only) | (fail_if_no_progress (with_reducible apply Keeps.lit))
    | (fail_if_no_progress (with_reducible apply Keeps.filter))
    | (with_reducible refine Keeps.of_pair (by assumption) ?_))

theorem runSet_keeps {x : Blk} (op : Op) (c : Cmd) (ev : UnitEvent) {b : Blk} (h : Keeps x b) : Keeps x (runSet op c ev b) := by
  unfold runSet
  split
  · exact stopHere_keeps _ _ _ h
  · extract_lets b1 c1 one y b2 outs b3
    have h1 : Keeps x b1 := by
      show Keeps x (if _ then _ else _)
      split
      · exact h
      · exact emptyLatches_keeps _ h
    split
    · exact sectionFails_keeps _ _ (updCmd_keeps _ _ h1 (fun _ _ => rfl))
    · have hy : Keeps x y.2.1 ∧ y.1.id = c1.id := by
        show Keeps x (if _ then _ else _ : Cmd × Blk × Bool).2.1 ∧ (if _ then _ else _ : Cmd × Blk × Bool).1.id = c1.id
        split
        · exact ⟨h1, rfl⟩
        · exact exchange_keeps op _ c1 h1
      have h2 : Keeps x b2 := updCmd_keeps _ _ hy.1 (fun _ _ => hy.2)
      have h3 : Keeps x b3 := readLatches_keeps _ h2
      split
      · exact reportBegun_keeps _ h2
      · split
        · exact endSet_keeps _ _ _ _ h3
        · exact endShare_keeps _ _ _ _ h3

theorem runClear_keeps {x0 : Blk} (c : Cmd) {b : Blk} (hk : Keeps x0 b) : Keeps x0 (runClear c b) := by
  unfold runClear
  repeat' (first
    | with_reducible assumption | (with_reducible apply unitDone_keeps) | (with_reducible apply clearAccs_keeps)
    | (with_reducible apply reportOwn_keeps) | (with_reducible refine Keeps.foldl _ ?_ (fun b r h => ?_))
    | (fail_if_no_progress extract_lets) | (fail_if_no_progress intros) | (with_reducible apply Keeps.ite) | split
    | (dsimp only) | (dsimp +zetaDelta only) | (fail_if_no_progress (with_reducible apply Keeps.lit))
    | (fail_if_no_progress (with_reducible apply Keeps.filter))
    | (with_reducible refine Keeps.of_pair (by assumption) ?_))

theorem releaseApply_keeps {x0 : Blk} (id : Nat) {b : Blk} (hk : Keeps x0 b) : Keeps x0 (releaseApply id b) := by
  unfold releaseApply
  repeat' (first
    | with_reducible assumption | (with_reducible apply stopHere_keeps) | (with_reducible apply reportOwn_keeps)
    | (with_reducible apply finishCmd_keeps) | (with_reducible apply releaseAll_keeps)
    | (with_reducible refine Keeps.foldl _ ?_ (fun b r h => ?_)) | (fail_if_no_progress extract_lets)
    | (fail_if_no_progress intros) | (with_reducible apply Keeps.ite) | split | (dsimp only)
    | (dsimp +zetaDelta only) | (fail_if_no_progress (with_reducible apply Keeps.lit))
    | (fail_if_no_progress (with_reducible apply Keeps.filter))
    | (with_reducible refine Keeps.of_pair (by assumption) ?_))

theorem stageBlock_keeps {x0 : Blk} (c : Cmd) (copy slot : Nat) (vs : List Granule) {b : Blk} (hk : Keeps x0 b) :
    Keeps x0 (stageBlock c copy slot vs b) := by
  unfold stageBlock
  repeat' (first
    | with_reducible assumption | (with_reducible apply putGranuleKey_keeps)
    | (with_reducible refine Keeps.foldl _ ?_ (fun b r h => ?_))
    | (with_reducible refine Keeps.foldlFst _ ?_ (fun b r h => ?_)) | (fail_if_no_progress extract_lets)
    | (fail_if_no_progress intros) | (with_reducible apply Keeps.ite) | split | (dsimp only)
    | (dsimp +zetaDelta only) | (fail_if_no_progress (with_reducible apply Keeps.lit))
    | (fail_if_no_progress (with_reducible apply Keeps.filter))
    | (with_reducible refine Keeps.of_pair (by assumption) ?_))

theorem stageBlocks_keeps {x0 : Blk} (op : Op) (c : Cmd) (copy : Nat) (o : CopyOut) {b : Blk} (hk : Keeps x0 b) :
    Keeps x0 (stageBlocks op c copy o b) := by
  unfold stageBlocks
  repeat' (first
    | with_reducible assumption | (with_reducible apply stageBlock_keeps)
    | (with_reducible refine Keeps.foldl _ ?_ (fun b r h => ?_))
    | (with_reducible refine Keeps.foldlFst _ ?_ (fun b r h => ?_)) | (fail_if_no_progress extract_lets)
    | (fail_if_no_progress intros) | (with_reducible apply Keeps.ite) | split | (dsimp only)
    | (dsimp +zetaDelta only) | (fail_if_no_progress (with_reducible apply Keeps.lit))
    | (fail_if_no_progress (with_reducible apply Keeps.filter))
    | (with_reducible refine Keeps.of_pair (by assumption) ?_))

theorem writeItems_keeps {x0 : Blk} (op : Op) (c : Cmd) (key : Bool) (items : List Item) (copy : Nat) (o : CopyOut) {b : Blk} (hk : Keeps x0 b) :
    Keeps x0 (writeItems op c key items copy o b) := by
  unfold writeItems
  repeat' (first
    | with_reducible assumption | (with_reducible apply sendRequest_keeps)
    | (with_reducible apply putGranuleKey_keeps) | (with_reducible refine Keeps.foldl _ ?_ (fun b r h => ?_))
    | (with_reducible refine Keeps.foldlFst _ ?_ (fun b r h => ?_)) | (fail_if_no_progress extract_lets)
    | (fail_if_no_progress intros) | (with_reducible apply Keeps.ite) | split | (dsimp only)
    | (dsimp +zetaDelta only) | (fail_if_no_progress (with_reducible apply Keeps.lit))
    | (fail_if_no_progress (with_reducible apply Keeps.filter))
    | (with_reducible refine Keeps.of_pair (by assumption) ?_))

theorem commitItems_keeps {x0 : Blk} (op : Op) (c : Cmd) (outs : List CopyOut) (r0 r1 : Nat) {b : Blk} (hk : Keeps x0 b) :
    Keeps x0 (commitItems op c outs r0 r1 b) := by
  unfold commitItems
  repeat' (first
    | with_reducible assumption | (with_reducible apply countMoved_keeps) | (with_reducible apply writeItems_keeps)
    | (with_reducible apply markWrites_keeps) | (with_reducible apply touchLines_keeps)
    | (with_reducible refine updCmd_keeps _ _ ?_ ?_) | (with_reducible apply unitDone_keeps)
    | (intro c hc; first | exact hc | rfl | exact cmdOf_id (by assumption) | (dsimp only; first | exact hc | rfl | exact cmdOf_id (by assumption)) | (split <;> first | exact hc | rfl) | (dsimp +zetaDelta only; first | exact hc | rfl | exact cmdOf_id (by assumption)))
    | (with_reducible refine Keeps.foldl _ ?_ (fun b r h => ?_))
    | (with_reducible refine Keeps.foldlFst _ ?_ (fun b r h => ?_)) | (fail_if_no_progress extract_lets)
    | (fail_if_no_progress intros) | (with_reducible apply Keeps.ite) | split | (dsimp only)
    | (dsimp +zetaDelta only) | (fail_if_no_progress (with_reducible apply Keeps.lit))
    | (fail_if_no_progress (with_reducible apply Keeps.filter))
    | (with_reducible refine Keeps.of_pair (by assumption) ?_))

theorem checkItems_keeps {x0 : Blk} (op : Op) (c : Cmd) (outs : List CopyOut) {b : Blk} (hk : Keeps x0 b) :
    Keeps x0 (checkItems op c outs b).1 := by
  unfold checkItems
  repeat' (first
    | with_reducible assumption | (with_reducible apply tallyRecord_keeps) | (with_reducible apply twinRecord_keeps)
    | (with_reducible refine Keeps.foldl _ ?_ (fun b r h => ?_)) | (fail_if_no_progress extract_lets)
    | (fail_if_no_progress intros) | (with_reducible apply Keeps.ite) | split | (dsimp only)
    | (dsimp +zetaDelta only) | (fail_if_no_progress (with_reducible apply Keeps.lit))
    | (fail_if_no_progress (with_reducible apply Keeps.filter))
    | (with_reducible refine Keeps.of_pair (by assumption) ?_))

theorem pageFails_keeps {x0 : Blk} (c : Cmd) (x : Nat × Code) {b : Blk} (hk : Keeps x0 b) :
    Keeps x0 (pageFails c x b) := by
  unfold pageFails
  repeat' (first
    | with_reducible assumption | (with_reducible apply haltOrEnd_keeps)
    | (with_reducible refine updCmd_keeps _ _ ?_ ?_) | (with_reducible apply unitFails_keeps)
    | (with_reducible apply parityRecord_keeps) | (with_reducible apply allReplays_keeps)
    | (intro c hc; first | exact hc | rfl | exact cmdOf_id (by assumption) | (dsimp only; first | exact hc | rfl | exact cmdOf_id (by assumption)) | (split <;> first | exact hc | rfl) | (dsimp +zetaDelta only; first | exact hc | rfl | exact cmdOf_id (by assumption)))
    | (with_reducible refine Keeps.foldl _ ?_ (fun b r h => ?_)) | (fail_if_no_progress extract_lets)
    | (fail_if_no_progress intros) | (with_reducible apply Keeps.ite) | split | (dsimp only)
    | (dsimp +zetaDelta only) | (fail_if_no_progress (with_reducible apply Keeps.lit))
    | (fail_if_no_progress (with_reducible apply Keeps.filter))
    | (with_reducible refine Keeps.of_pair (by assumption) ?_))

theorem farFails_keeps {x0 : Blk} (c : Cmd) (a : Nat) (reads : List Nat) {b : Blk} (hk : Keeps x0 b) :
    Keeps x0 (farFails c a reads b) := by
  unfold farFails
  repeat' (first
    | with_reducible assumption | (with_reducible apply dropRemote_keeps)
    | (with_reducible refine updCmd_keeps _ _ ?_ ?_) | (with_reducible apply requestReads_keeps)
    | (with_reducible apply countReplays_keeps) | (with_reducible apply unitFails_keeps)
    | (with_reducible apply parityRecord_keeps)
    | (intro c hc; first | exact hc | rfl | exact cmdOf_id (by assumption) | (dsimp only; first | exact hc | rfl | exact cmdOf_id (by assumption)) | (split <;> first | exact hc | rfl) | (dsimp +zetaDelta only; first | exact hc | rfl | exact cmdOf_id (by assumption)))
    | (with_reducible refine Keeps.foldl _ ?_ (fun b r h => ?_)) | (fail_if_no_progress extract_lets)
    | (fail_if_no_progress intros) | (with_reducible apply Keeps.ite) | split | (dsimp only)
    | (dsimp +zetaDelta only) | (fail_if_no_progress (with_reducible apply Keeps.lit))
    | (fail_if_no_progress (with_reducible apply Keeps.filter))
    | (with_reducible refine Keeps.of_pair (by assumption) ?_))

theorem passItems_keeps {x0 : Blk} (op : Op) (c : Cmd) (ev : UnitEvent) (reads : List Nat) {b : Blk} (hk : Keeps x0 b) :
    Keeps x0 (passItems op c ev reads b) := by
  unfold passItems
  repeat' (first
    | with_reducible assumption | (with_reducible apply touchLines_keeps) | (with_reducible apply readLatches_keeps)
    | (with_reducible apply meetParity_keeps) | (with_reducible apply unitFails_keeps)
    | (with_reducible apply dropRemote_keeps) | (with_reducible apply stageBlocks_keeps)
    | (with_reducible apply checkItems_keeps) | (with_reducible apply commitItems_keeps)
    | (with_reducible refine Keeps.foldl _ ?_ (fun b r h => ?_))
    | (with_reducible refine Keeps.foldlFst _ ?_ (fun b r h => ?_)) | (fail_if_no_progress extract_lets)
    | (fail_if_no_progress intros) | (with_reducible apply Keeps.ite) | split | (dsimp only)
    | (dsimp +zetaDelta only) | (fail_if_no_progress (with_reducible apply Keeps.lit))
    | (fail_if_no_progress (with_reducible apply Keeps.filter))
    | (with_reducible refine Keeps.of_pair (by assumption) ?_))

theorem runItems_keeps {x0 : Blk} (op : Op) (c : Cmd) (ev : UnitEvent) {b : Blk} (hk : Keeps x0 b) :
    Keeps x0 (runItems op c ev b) := by
  unfold runItems
  repeat' (first
    | with_reducible assumption | (with_reducible apply requestReads_keeps) | (with_reducible apply unitFails_keeps)
    | (with_reducible apply dropRemote_keeps) | (with_reducible apply emptyLatches_keeps)
    | (with_reducible refine updCmd_keeps _ _ ?_ ?_) | (with_reducible apply pageFails_keeps)
    | (with_reducible apply farFails_keeps) | (with_reducible apply passItems_keeps)
    | (intro c hc; first | exact hc | rfl | exact cmdOf_id (by assumption) | (dsimp only; first | exact hc | rfl | exact cmdOf_id (by assumption)) | (split <;> first | exact hc | rfl) | (dsimp +zetaDelta only; first | exact hc | rfl | exact cmdOf_id (by assumption)) | exact startItems_id (by assumption))
    | (with_reducible refine Keeps.foldl _ ?_ (fun b r h => ?_)) | (fail_if_no_progress extract_lets)
    | (fail_if_no_progress intros) | (with_reducible apply Keeps.ite) | split | (dsimp only)
    | (dsimp +zetaDelta only) | (fail_if_no_progress (with_reducible apply Keeps.lit))
    | (fail_if_no_progress (with_reducible apply Keeps.filter))
    | (with_reducible refine Keeps.of_pair (by assumption) ?_))

theorem commitUnit_keeps {x0 : Blk} (id : Nat) (ev : UnitEvent) {b : Blk} (hk : Keeps x0 b) :
    Keeps x0 (commitUnit id ev b) := by
  unfold commitUnit
  repeat' (first
    | with_reducible assumption | (with_reducible apply runClear_keeps) | (with_reducible apply runSet_keeps)
    | (with_reducible apply runItems_keeps) | (with_reducible refine Keeps.foldl _ ?_ (fun b r h => ?_))
    | (fail_if_no_progress extract_lets) | (fail_if_no_progress intros) | (with_reducible apply Keeps.ite) | split
    | (dsimp only) | (dsimp +zetaDelta only) | (fail_if_no_progress (with_reducible apply Keeps.lit))
    | (fail_if_no_progress (with_reducible apply Keeps.filter))
    | (with_reducible refine Keeps.of_pair (by assumption) ?_))

theorem interruptCmd_keeps {x0 : Blk} (cause : Nat) (c : Cmd) {b : Blk} (hk : Keeps x0 b) :
    Keeps x0 (interruptCmd cause c b) := by
  unfold interruptCmd
  repeat' (first
    | with_reducible assumption | (with_reducible refine updCmd_keeps _ _ ?_ ?_)
    | (with_reducible apply haltOrEnd_keeps)
    | (intro c hc; first | exact hc | rfl | exact cmdOf_id (by assumption) | (dsimp only; first | exact hc | rfl | exact cmdOf_id (by assumption)) | (split <;> first | exact hc | rfl) | (dsimp +zetaDelta only; first | exact hc | rfl | exact cmdOf_id (by assumption)))
    | (with_reducible refine Keeps.foldl _ ?_ (fun b r h => ?_)) | (fail_if_no_progress extract_lets)
    | (fail_if_no_progress intros) | (with_reducible apply Keeps.ite) | split | (dsimp only)
    | (dsimp +zetaDelta only) | (fail_if_no_progress (with_reducible apply Keeps.lit))
    | (fail_if_no_progress (with_reducible apply Keeps.filter))
    | (with_reducible refine Keeps.of_pair (by assumption) ?_))

theorem rowsGo_keeps {x0 : Blk} (c : Cmd) {b : Blk} (hk : Keeps x0 b) : Keeps x0 (rowsGo c b) := by
  unfold rowsGo
  repeat' (first
    | with_reducible assumption | (with_reducible refine updCmd_keeps _ _ ?_ ?_)
    | (intro c hc; first | exact hc | rfl | exact cmdOf_id (by assumption) | (dsimp only; first | exact hc | rfl | exact cmdOf_id (by assumption)) | (split <;> first | exact hc | rfl) | (dsimp +zetaDelta only; first | exact hc | rfl | exact cmdOf_id (by assumption)))
    | (with_reducible refine Keeps.foldl _ ?_ (fun b r h => ?_)) | (fail_if_no_progress extract_lets)
    | (fail_if_no_progress intros) | (with_reducible apply Keeps.ite) | split | (dsimp only)
    | (dsimp +zetaDelta only) | (fail_if_no_progress (with_reducible apply Keeps.lit))
    | (fail_if_no_progress (with_reducible apply Keeps.filter))
    | (with_reducible refine Keeps.of_pair (by assumption) ?_))

theorem stopMarks_keeps {x0 : Blk} (c : Cmd) (part : Bool) {b : Blk} (hk : Keeps x0 b) :
    Keeps x0 (stopMarks c part b) := by
  unfold stopMarks
  repeat' (first
    | with_reducible assumption | (with_reducible apply updReg_keeps)
    | (with_reducible refine Keeps.foldl _ ?_ (fun b r h => ?_)) | (fail_if_no_progress extract_lets)
    | (fail_if_no_progress intros) | (with_reducible apply Keeps.ite) | split | (dsimp only)
    | (dsimp +zetaDelta only) | (fail_if_no_progress (with_reducible apply Keeps.lit))
    | (fail_if_no_progress (with_reducible apply Keeps.filter))
    | (with_reducible refine Keeps.of_pair (by assumption) ?_))

theorem finishRows_keeps {x0 : Blk} (c : Cmd) (code : Code) {b : Blk} (hk : Keeps x0 b) :
    Keeps x0 (finishRows c code b) := by
  unfold finishRows
  repeat' (first
    | with_reducible assumption | (with_reducible apply finishCmd_keeps) | (with_reducible apply clearPartial_keeps)
    | (with_reducible refine Keeps.foldl _ ?_ (fun b r h => ?_)) | (fail_if_no_progress extract_lets)
    | (fail_if_no_progress intros) | (with_reducible apply Keeps.ite) | split | (dsimp only)
    | (dsimp +zetaDelta only) | (fail_if_no_progress (with_reducible apply Keeps.lit))
    | (fail_if_no_progress (with_reducible apply Keeps.filter))
    | (with_reducible refine Keeps.of_pair (by assumption) ?_))

theorem moveRow_keeps {x0 : Blk} (c : Cmd) (row : Nat) {b : Blk} (hk : Keeps x0 b) : Keeps x0 (moveRow c row b) := by
  unfold moveRow
  repeat' (first
    | with_reducible assumption | (with_reducible apply writeBytes_keeps) | (with_reducible apply touchLines_keeps)
    | (with_reducible apply countMoved_keeps) | (with_reducible apply readLatches_keeps)
    | (with_reducible refine Keeps.foldl _ ?_ (fun b r h => ?_))
    | (with_reducible refine Keeps.foldlFst _ ?_ (fun b r h => ?_)) | (fail_if_no_progress extract_lets)
    | (fail_if_no_progress intros) | (with_reducible apply Keeps.ite) | split | (dsimp only)
    | (dsimp +zetaDelta only) | (fail_if_no_progress (with_reducible apply Keeps.lit))
    | (fail_if_no_progress (with_reducible apply Keeps.filter))
    | (with_reducible refine Keeps.of_pair (by assumption) ?_))

theorem landRow_keeps {x0 : Blk} (c : Cmd) (row : Nat) {b : Blk} (hk : Keeps x0 b) : Keeps x0 (landRow c row b) := by
  unfold landRow
  repeat' (first
    | with_reducible assumption | (with_reducible refine updCmd_keeps _ _ ?_ ?_)
    | (with_reducible apply moveRow_keeps) | (with_reducible apply markWrites_keeps)
    | (with_reducible apply finishRows_keeps)
    | (intro c hc; first | exact hc | rfl | exact cmdOf_id (by assumption) | (dsimp only; first | exact hc | rfl | exact cmdOf_id (by assumption)) | (split <;> first | exact hc | rfl) | (dsimp +zetaDelta only; first | exact hc | rfl | exact cmdOf_id (by assumption)))
    | (with_reducible refine Keeps.foldl _ ?_ (fun b r h => ?_)) | (fail_if_no_progress extract_lets)
    | (fail_if_no_progress intros) | (with_reducible apply Keeps.ite) | split | (dsimp only)
    | (dsimp +zetaDelta only) | (fail_if_no_progress (with_reducible apply Keeps.lit))
    | (fail_if_no_progress (with_reducible apply Keeps.filter))
    | (with_reducible refine Keeps.of_pair (by assumption) ?_))

theorem rowLands_keeps {x0 : Blk} (c : Cmd) (row : Nat) (ev : List ParityEvent) {b : Blk} (hk : Keeps x0 b) :
    Keeps x0 (rowLands c row ev b) := by
  unfold rowLands
  repeat' (first
    | with_reducible assumption | (with_reducible refine updCmd_keeps _ _ ?_ ?_)
    | (with_reducible apply finishRows_keeps) | (with_reducible apply parityRecord_keeps)
    | (with_reducible apply allReplays_keeps) | (with_reducible apply meetParity_keeps)
    | (with_reducible apply landRow_keeps)
    | (intro c hc; first | exact hc | rfl | exact cmdOf_id (by assumption) | (dsimp only; first | exact hc | rfl | exact cmdOf_id (by assumption)) | (split <;> first | exact hc | rfl) | (dsimp +zetaDelta only; first | exact hc | rfl | exact cmdOf_id (by assumption)))
    | (with_reducible refine Keeps.foldl _ ?_ (fun b r h => ?_)) | (fail_if_no_progress extract_lets)
    | (fail_if_no_progress intros) | (with_reducible apply Keeps.ite) | split | (dsimp only)
    | (dsimp +zetaDelta only) | (fail_if_no_progress (with_reducible apply Keeps.lit))
    | (fail_if_no_progress (with_reducible apply Keeps.filter))
    | (with_reducible refine Keeps.of_pair (by assumption) ?_))

theorem rowCommit_keeps {x0 : Blk} (id row : Nat) (ev : List ParityEvent) {b : Blk} (hk : Keeps x0 b) :
    Keeps x0 (rowCommit id row ev b) := by
  unfold rowCommit
  repeat' (first
    | with_reducible assumption | (with_reducible apply finishRows_keeps) | (with_reducible apply rowLands_keeps)
    | (with_reducible apply emptyLatches_keeps) | (with_reducible refine Keeps.foldl _ ?_ (fun b r h => ?_))
    | (fail_if_no_progress extract_lets) | (fail_if_no_progress intros) | (with_reducible apply Keeps.ite) | split
    | (dsimp only) | (dsimp +zetaDelta only) | (fail_if_no_progress (with_reducible apply Keeps.lit))
    | (fail_if_no_progress (with_reducible apply Keeps.filter))
    | (with_reducible refine Keeps.of_pair (by assumption) ?_))

theorem haltRows_keeps {x0 : Blk} (c : Cmd) (cause : Nat) {b : Blk} (hk : Keeps x0 b) :
    Keeps x0 (haltRows c cause b) := by
  unfold haltRows
  repeat' (first
    | with_reducible assumption | (with_reducible apply haltOrEnd_keeps) | (with_reducible apply stopMarks_keeps)
    | (with_reducible refine Keeps.foldl _ ?_ (fun b r h => ?_)) | (fail_if_no_progress extract_lets)
    | (fail_if_no_progress intros) | (with_reducible apply Keeps.ite) | split | (dsimp only)
    | (dsimp +zetaDelta only) | (fail_if_no_progress (with_reducible apply Keeps.lit))
    | (fail_if_no_progress (with_reducible apply Keeps.filter))
    | (with_reducible refine Keeps.of_pair (by assumption) ?_))

theorem rowHalt_keeps {x0 : Blk} (id : Nat) {b : Blk} (hk : Keeps x0 b) : Keeps x0 (rowHalt id b) := by
  unfold rowHalt
  repeat' (first
    | with_reducible assumption | (with_reducible apply haltRows_keeps)
    | (with_reducible refine Keeps.foldl _ ?_ (fun b r h => ?_)) | (fail_if_no_progress extract_lets)
    | (fail_if_no_progress intros) | (with_reducible apply Keeps.ite) | split | (dsimp only)
    | (dsimp +zetaDelta only) | (fail_if_no_progress (with_reducible apply Keeps.lit))
    | (fail_if_no_progress (with_reducible apply Keeps.filter))
    | (with_reducible refine Keeps.of_pair (by assumption) ?_))

theorem rowDenied_keeps {x0 : Blk} (id : Nat) {b : Blk} (hk : Keeps x0 b) : Keeps x0 (rowDenied id b) := by
  unfold rowDenied
  repeat' (first
    | with_reducible assumption | (with_reducible apply finishRows_keeps) | (with_reducible apply stopMarks_keeps)
    | (with_reducible refine Keeps.foldl _ ?_ (fun b r h => ?_)) | (fail_if_no_progress extract_lets)
    | (fail_if_no_progress intros) | (with_reducible apply Keeps.ite) | split | (dsimp only)
    | (dsimp +zetaDelta only) | (fail_if_no_progress (with_reducible apply Keeps.lit))
    | (fail_if_no_progress (with_reducible apply Keeps.filter))
    | (with_reducible refine Keeps.of_pair (by assumption) ?_))

theorem loseLink_keeps {x0 : Blk} (c : Cmd) {b : Blk} (hk : Keeps x0 b) : Keeps x0 (loseLink c b) := by
  unfold loseLink
  repeat' (first
    | with_reducible assumption | (with_reducible apply finishCmd_keeps) | (with_reducible apply sumpPut_keeps)
    | (with_reducible apply dropBulk_keeps) | (with_reducible apply withdrawAll_keeps)
    | (with_reducible refine Keeps.foldl _ ?_ (fun b r h => ?_)) | (fail_if_no_progress extract_lets)
    | (fail_if_no_progress intros) | (with_reducible apply Keeps.ite) | split | (dsimp only)
    | (dsimp +zetaDelta only) | (fail_if_no_progress (with_reducible apply Keeps.lit))
    | (fail_if_no_progress (with_reducible apply Keeps.filter))
    | (with_reducible refine Keeps.of_pair (by assumption) ?_))

theorem forwardedGo_keeps {x0 : Blk} (c : Cmd) {b : Blk} (hk : Keeps x0 b) : Keeps x0 (forwardedGo c b) := by
  unfold forwardedGo
  repeat' (first
    | with_reducible assumption | (with_reducible refine updCmd_keeps _ _ ?_ ?_)
    | (intro c hc; first | exact hc | rfl | exact cmdOf_id (by assumption) | (dsimp only; first | exact hc | rfl | exact cmdOf_id (by assumption)) | (split <;> first | exact hc | rfl) | (dsimp +zetaDelta only; first | exact hc | rfl | exact cmdOf_id (by assumption)))
    | (with_reducible refine Keeps.foldl _ ?_ (fun b r h => ?_)) | (fail_if_no_progress extract_lets)
    | (fail_if_no_progress intros) | (with_reducible apply Keeps.ite) | split | (dsimp only)
    | (dsimp +zetaDelta only) | (fail_if_no_progress (with_reducible apply Keeps.lit))
    | (fail_if_no_progress (with_reducible apply Keeps.filter))
    | (with_reducible refine Keeps.of_pair (by assumption) ?_))

theorem judgeShare_keeps {x0 : Blk} (c : Cmd) (op : Op) {b : Blk} (hk : Keeps x0 b) : Keeps x0 (judgeShare c op b) := by
  unfold judgeShare
  repeat' (first
    | with_reducible assumption | (with_reducible apply holdTable_keeps) | (with_reducible apply failDecode_keeps)
    | (with_reducible apply passDecode_keeps) | (with_reducible apply forwardedGo_keeps)
    | (with_reducible refine Keeps.foldl _ ?_ (fun b r h => ?_)) | (fail_if_no_progress extract_lets)
    | (fail_if_no_progress intros) | (with_reducible apply Keeps.ite) | split | (dsimp only)
    | (dsimp +zetaDelta only) | (fail_if_no_progress (with_reducible apply Keeps.lit))
    | (fail_if_no_progress (with_reducible apply Keeps.filter))
    | (with_reducible refine Keeps.of_pair (by assumption) ?_))

theorem forwarded_keeps {x : Blk} (die p homeCmd : Nat) (d : Desc) {b : Blk} (h : Keeps x b) :
    Keeps x (forwarded die p homeCmd d b) := by
  unfold forwarded
  split
  · exact h
  · split
    · exact h
    · extract_lets b1 c b2
      have h1 : Keeps x b1 := broadcast_keeps _ _ _ h
      have h2 : Keeps x b2 := landMail_keeps _ _ _ (h1.addCmd c rfl)
      split
      · exact h2
      · exact judgeShare_keeps _ _ h2

theorem releaseHeld_keeps {x0 : Blk} {b : Blk} (hk : Keeps x0 b) : Keeps x0 (releaseHeld b) := by
  unfold releaseHeld
  repeat' (first
    | with_reducible assumption | (with_reducible apply judgeShare_keeps)
    | (with_reducible refine updCmd_keeps _ _ ?_ ?_)
    | (intro c hc; first | exact hc | rfl | exact cmdOf_id (by assumption) | (dsimp only; first | exact hc | rfl | exact cmdOf_id (by assumption)) | (split <;> first | exact hc | rfl) | (dsimp +zetaDelta only; first | exact hc | rfl | exact cmdOf_id (by assumption)))
    | (with_reducible refine Keeps.foldl _ ?_ (fun b r h => ?_))
    | (with_reducible refine Keeps.foldlFst _ ?_ (fun b r h => ?_)) | (fail_if_no_progress extract_lets)
    | (fail_if_no_progress intros) | (with_reducible apply Keeps.ite) | split | (dsimp only)
    | (dsimp +zetaDelta only) | (fail_if_no_progress (with_reducible apply Keeps.lit))
    | (fail_if_no_progress (with_reducible apply Keeps.filter))
    | (with_reducible refine Keeps.of_pair (by assumption) ?_))

theorem withdraw_keeps {x0 : Blk} (c : Cmd) (r : ReportBody) {b : Blk} (hk : Keeps x0 b) :
    Keeps x0 (withdraw c r b) := by
  unfold withdraw
  repeat' (first
    | with_reducible assumption | (with_reducible apply dropNotices_keeps) | (with_reducible apply dropBulk_keeps)
    | (with_reducible refine Keeps.foldl _ ?_ (fun b r h => ?_)) | (fail_if_no_progress extract_lets)
    | (fail_if_no_progress intros) | (with_reducible apply Keeps.ite) | split | (dsimp only)
    | (dsimp +zetaDelta only) | (fail_if_no_progress (with_reducible apply Keeps.lit))
    | (fail_if_no_progress (with_reducible apply Keeps.filter))
    | (with_reducible refine Keeps.of_pair (by assumption) ?_))

theorem homeWord_keeps {x0 : Blk} (r : ReportBody) {b : Blk} (hk : Keeps x0 b) : Keeps x0 (homeWord r b) := by
  unfold homeWord
  repeat' (first
    | with_reducible assumption | (with_reducible apply broadcast_keeps) | (with_reducible apply landMail_keeps)
    | (with_reducible apply withdraw_keeps) | (with_reducible apply replayShare_keeps)
    | (with_reducible refine Keeps.foldl _ ?_ (fun b r h => ?_)) | (fail_if_no_progress extract_lets)
    | (fail_if_no_progress intros) | (with_reducible apply Keeps.ite) | split | (dsimp only)
    | (dsimp +zetaDelta only) | (fail_if_no_progress (with_reducible apply Keeps.lit))
    | (fail_if_no_progress (with_reducible apply Keeps.filter))
    | (with_reducible refine Keeps.of_pair (by assumption) ?_))

theorem homeReport_keeps {x0 : Blk} (r : ReportBody) {b : Blk} (hk : Keeps x0 b) : Keeps x0 (homeReport r b) := by
  unfold homeReport
  repeat' (first
    | with_reducible assumption | (with_reducible apply decideGallery_keeps)
    | (with_reducible refine updCmd_keeps _ _ ?_ ?_) | (with_reducible apply landMail_keeps)
    | (intro c hc; first | exact hc | rfl | exact cmdOf_id (by assumption) | (dsimp only; first | exact hc | rfl | exact cmdOf_id (by assumption)) | (split <;> first | exact hc | rfl) | (dsimp +zetaDelta only; first | exact hc | rfl | exact cmdOf_id (by assumption)))
    | (with_reducible refine Keeps.foldl _ ?_ (fun b r h => ?_)) | (fail_if_no_progress extract_lets)
    | (fail_if_no_progress intros) | (with_reducible apply Keeps.ite) | split | (dsimp only)
    | (dsimp +zetaDelta only) | (fail_if_no_progress (with_reducible apply Keeps.lit))
    | (fail_if_no_progress (with_reducible apply Keeps.filter))
    | (with_reducible refine Keeps.of_pair (by assumption) ?_))

theorem takeReport_keeps {x0 : Blk} (r : ReportBody) {b : Blk} (hk : Keeps x0 b) : Keeps x0 (takeReport r b) := by
  unfold takeReport
  repeat' (first
    | with_reducible assumption | (with_reducible apply withdraw_keeps) | (with_reducible apply homeWord_keeps)
    | (with_reducible apply homeReport_keeps) | (with_reducible apply sendMsg_keeps)
    | (with_reducible apply landMail_keeps) | (with_reducible refine Keeps.foldl _ ?_ (fun b r h => ?_))
    | (fail_if_no_progress extract_lets) | (fail_if_no_progress intros) | (with_reducible apply Keeps.ite) | split
    | (dsimp only) | (dsimp +zetaDelta only) | (fail_if_no_progress (with_reducible apply Keeps.lit))
    | (fail_if_no_progress (with_reducible apply Keeps.filter))
    | (with_reducible refine Keeps.of_pair (by assumption) ?_))

theorem galleryCommit_keeps {x0 : Blk} (die homeCmd : Nat) (key : Bool) {b : Blk} (hk : Keeps x0 b) :
    Keeps x0 (galleryCommit die homeCmd key b) := by
  unfold galleryCommit
  repeat' (first
    | with_reducible assumption | (with_reducible apply broadcast_keeps) | (with_reducible apply landMail_keeps)
    | (with_reducible apply sendMsg_keeps) | (with_reducible apply commitShare_keeps)
    | (with_reducible refine updCmd_keeps _ _ ?_ ?_)
    | (intro c hc; first | exact hc | rfl | exact cmdOf_id (by assumption) | (dsimp only; first | exact hc | rfl | exact cmdOf_id (by assumption)) | (split <;> first | exact hc | rfl) | (dsimp +zetaDelta only; first | exact hc | rfl | exact cmdOf_id (by assumption)))
    | (with_reducible refine Keeps.foldl _ ?_ (fun b r h => ?_)) | (fail_if_no_progress extract_lets)
    | (fail_if_no_progress intros) | (with_reducible apply Keeps.ite) | split | (dsimp only)
    | (dsimp +zetaDelta only) | (fail_if_no_progress (with_reducible apply Keeps.lit))
    | (fail_if_no_progress (with_reducible apply Keeps.filter))
    | (with_reducible refine Keeps.of_pair (by assumption) ?_))

theorem commitAck_keeps {x0 : Blk} (home id die : Nat) {b : Blk} (hk : Keeps x0 b) :
    Keeps x0 (commitAck home id die b) := by
  unfold commitAck
  repeat' (first
    | with_reducible assumption | (with_reducible apply sendMsg_keeps) | (with_reducible apply landMail_keeps)
    | (with_reducible refine updCmd_keeps _ _ ?_ ?_) | (with_reducible apply finishCmd_keeps)
    | (with_reducible apply unitDone_keeps)
    | (intro c hc; first | exact hc | rfl | exact cmdOf_id (by assumption) | (dsimp only; first | exact hc | rfl | exact cmdOf_id (by assumption)) | (split <;> first | exact hc | rfl) | (dsimp +zetaDelta only; first | exact hc | rfl | exact cmdOf_id (by assumption)))
    | (with_reducible refine Keeps.foldl _ ?_ (fun b r h => ?_)) | (fail_if_no_progress extract_lets)
    | (fail_if_no_progress intros) | (with_reducible apply Keeps.ite) | split | (dsimp only)
    | (dsimp +zetaDelta only) | (fail_if_no_progress (with_reducible apply Keeps.lit))
    | (fail_if_no_progress (with_reducible apply Keeps.filter))
    | (with_reducible refine Keeps.of_pair (by assumption) ?_))

theorem answerPeer_keeps {x0 : Blk} (k op die txn bytes : Nat) (poison : Bool) {b : Blk} (hk : Keeps x0 b) :
    Keeps x0 (answerPeer k op die txn bytes poison b) := by
  unfold answerPeer
  repeat' (first
    | with_reducible assumption | (with_reducible apply transmitBytes_keeps) | (with_reducible apply sendMsg_keeps)
    | (with_reducible refine Keeps.foldl _ ?_ (fun b r h => ?_)) | (fail_if_no_progress extract_lets)
    | (fail_if_no_progress intros) | (with_reducible apply Keeps.ite) | split | (dsimp only)
    | (dsimp +zetaDelta only) | (fail_if_no_progress (with_reducible apply Keeps.lit))
    | (fail_if_no_progress (with_reducible apply Keeps.filter))
    | (with_reducible refine Keeps.of_pair (by assumption) ?_))

theorem linkRead_keeps {x0 : Blk} (k : Nat) (h : MsgHeader) {b : Blk} (hk : Keeps x0 b) :
    Keeps x0 (linkRead k h b) := by
  unfold linkRead
  repeat' (first
    | with_reducible assumption | (with_reducible apply answerPeer_keeps) | (with_reducible apply busError_keeps)
    | (with_reducible apply busAnswer_keeps) | (with_reducible refine Keeps.foldl _ ?_ (fun b r h => ?_))
    | (fail_if_no_progress extract_lets) | (fail_if_no_progress intros) | (with_reducible apply Keeps.ite) | split
    | (dsimp only) | (dsimp +zetaDelta only) | (fail_if_no_progress (with_reducible apply Keeps.lit))
    | (fail_if_no_progress (with_reducible apply Keeps.filter))
    | (with_reducible refine Keeps.of_pair (by assumption) ?_))

theorem markRemote_keeps {x0 : Blk} (a : Nat) (m : RegMark) {b : Blk} (hk : Keeps x0 b) :
    Keeps x0 (markRemote a m b) := by
  unfold markRemote
  repeat' (first
    | with_reducible assumption | (with_reducible apply updReg_keeps)
    | (with_reducible refine Keeps.foldl _ ?_ (fun b r h => ?_)) | (fail_if_no_progress extract_lets)
    | (fail_if_no_progress intros) | (with_reducible apply Keeps.ite) | split | (dsimp only)
    | (dsimp +zetaDelta only) | (fail_if_no_progress (with_reducible apply Keeps.lit))
    | (fail_if_no_progress (with_reducible apply Keeps.filter))
    | (with_reducible refine Keeps.of_pair (by assumption) ?_))

theorem spoil_keeps {x0 : Blk} (a bytes : Nat) {b : Blk} (hk : Keeps x0 b) : Keeps x0 (spoil a bytes b) := by
  unfold spoil
  repeat' (first
    | with_reducible assumption | (with_reducible refine Keeps.foldl _ ?_ (fun b r h => ?_))
    | (fail_if_no_progress extract_lets) | (fail_if_no_progress intros) | (with_reducible apply Keeps.ite) | split
    | (dsimp only) | (dsimp +zetaDelta only) | (fail_if_no_progress (with_reducible apply Keeps.lit))
    | (fail_if_no_progress (with_reducible apply Keeps.filter))
    | (with_reducible refine Keeps.of_pair (by assumption) ?_))

theorem linkWrite_keeps {x0 : Blk} (k : Nat) (h : MsgHeader) (data : BitVec 2048) (m : RegMark) {b : Blk} (hk : Keeps x0 b) :
    Keeps x0 (linkWrite k h data m b) := by
  unfold linkWrite
  repeat' (first
    | with_reducible assumption | (with_reducible apply answerPeer_keeps) | (with_reducible apply busError_keeps)
    | (with_reducible apply markRemote_keeps) | (with_reducible apply writeBytes_keeps)
    | (with_reducible apply spoil_keeps) | (with_reducible refine Keeps.foldl _ ?_ (fun b r h => ?_))
    | (fail_if_no_progress extract_lets) | (fail_if_no_progress intros) | (with_reducible apply Keeps.ite) | split
    | (dsimp only) | (dsimp +zetaDelta only) | (fail_if_no_progress (with_reducible apply Keeps.lit))
    | (fail_if_no_progress (with_reducible apply Keeps.filter))
    | (with_reducible refine Keeps.of_pair (by assumption) ?_))

theorem takeReq_keeps {x0 : Blk} (k txn : Nat) {b : Blk} (hk : Keeps x0 b) : Keeps x0 (takeReq k txn b).1 := by
  unfold takeReq
  repeat' (first
    | with_reducible assumption | (with_reducible refine Keeps.foldl _ ?_ (fun b r h => ?_))
    | (fail_if_no_progress extract_lets) | (fail_if_no_progress intros) | (with_reducible apply Keeps.ite) | split
    | (dsimp only) | (dsimp +zetaDelta only) | (fail_if_no_progress (with_reducible apply Keeps.lit))
    | (fail_if_no_progress (with_reducible apply Keeps.filter))
    | (with_reducible refine Keeps.of_pair (by assumption) ?_))

theorem crossFails_keeps {x0 : Blk} (id : Option Nat) {b : Blk} (hk : Keeps x0 b) : Keeps x0 (crossFails id b) := by
  unfold crossFails
  repeat' (first
    | with_reducible assumption | (with_reducible apply loseLink_keeps)
    | (with_reducible refine Keeps.foldl _ ?_ (fun b r h => ?_)) | (fail_if_no_progress extract_lets)
    | (fail_if_no_progress intros) | (with_reducible apply Keeps.ite) | split | (dsimp only)
    | (dsimp +zetaDelta only) | (fail_if_no_progress (with_reducible apply Keeps.lit))
    | (fail_if_no_progress (with_reducible apply Keeps.filter))
    | (with_reducible refine Keeps.of_pair (by assumption) ?_))

theorem readData_keeps {x0 : Blk} (k : Nat) (h : MsgHeader) (ok : Bool) (data : BitVec 2048) (m : RegMark) {b : Blk} (hk : Keeps x0 b) :
    Keeps x0 (readData k h ok data m b) := by
  unfold readData
  repeat' (first
    | with_reducible assumption | (with_reducible apply takeReq_keeps) | (with_reducible apply crossFails_keeps)
    | (with_reducible apply busAnswer_keeps) | (with_reducible refine Keeps.foldl _ ?_ (fun b r h => ?_))
    | (fail_if_no_progress extract_lets) | (fail_if_no_progress intros) | (with_reducible apply Keeps.ite) | split
    | (dsimp only) | (dsimp +zetaDelta only) | (fail_if_no_progress (with_reducible apply Keeps.lit))
    | (fail_if_no_progress (with_reducible apply Keeps.filter))
    | (with_reducible refine Keeps.of_pair (by assumption) ?_))

theorem writeResponse_keeps {x0 : Blk} (k : Nat) (h : MsgHeader) (ok : Bool) {b : Blk} (hk : Keeps x0 b) :
    Keeps x0 (writeResponse k h ok b) := by
  unfold writeResponse
  repeat' (first
    | with_reducible assumption | (with_reducible apply takeReq_keeps) | (with_reducible apply crossFails_keeps)
    | (with_reducible apply unitDone_keeps) | (with_reducible refine Keeps.foldl _ ?_ (fun b r h => ?_))
    | (fail_if_no_progress extract_lets) | (fail_if_no_progress intros) | (with_reducible apply Keeps.ite) | split
    | (dsimp only) | (dsimp +zetaDelta only) | (fail_if_no_progress (with_reducible apply Keeps.lit))
    | (fail_if_no_progress (with_reducible apply Keeps.filter))
    | (with_reducible refine Keeps.of_pair (by assumption) ?_))

end Sys2Proof.Machine
end

