-- ==== Sys2Proof/Laws/KeepsLinks.lean ====
section
/-! SUPPORT. What the bus matrix and the Gallery links keep. -/
namespace Sys2Proof.Machine

theorem updBusPort_keeps {x0 : Blk} (k : Nat) (f : BusPort → BusPort) {b : Blk} (hk : Keeps x0 b) :
    Keeps x0 (updBusPort k f b) := by
  unfold updBusPort
  repeat' (first
    | with_reducible assumption | (with_reducible apply updBus_keeps)
    | (with_reducible refine Keeps.foldl _ ?_ (fun b r h => ?_)) | (fail_if_no_progress extract_lets)
    | (fail_if_no_progress intros) | (with_reducible apply Keeps.ite) | split | (dsimp only)
    | (dsimp +zetaDelta only) | (fail_if_no_progress (with_reducible apply Keeps.lit))
    | (fail_if_no_progress (with_reducible apply Keeps.filter))
    | (with_reducible refine Keeps.of_pair (by assumption) ?_))

theorem quadrantLeaves_keeps {x0 : Blk} (quad bank : Nat) {b : Blk} (hk : Keeps x0 b) :
    Keeps x0 (quadrantLeaves quad bank b) := by
  unfold quadrantLeaves
  repeat' (first
    | with_reducible assumption | (with_reducible apply dropLines_keeps) | (with_reducible apply updBus_keeps)
    | (with_reducible apply raiseAlert_keeps) | (with_reducible apply sumpPut_keeps)
    | (with_reducible apply newEpoch_keeps) | (with_reducible refine Keeps.foldl _ ?_ (fun b r h => ?_))
    | (fail_if_no_progress extract_lets) | (fail_if_no_progress intros) | (with_reducible apply Keeps.ite) | split
    | (dsimp only) | (dsimp +zetaDelta only) | (fail_if_no_progress (with_reducible apply Keeps.lit))
    | (fail_if_no_progress (with_reducible apply Keeps.filter))
    | (with_reducible refine Keeps.of_pair (by assumption) ?_))

theorem bankFault_keeps {x0 : Blk} (bank : Nat) {b : Blk} (hk : Keeps x0 b) : Keeps x0 (bankFault bank b) := by
  unfold bankFault
  repeat' (first
    | with_reducible assumption | (with_reducible apply updBus_keeps) | (with_reducible apply quadrantLeaves_keeps)
    | (with_reducible refine Keeps.foldl _ ?_ (fun b r h => ?_)) | (fail_if_no_progress extract_lets)
    | (fail_if_no_progress intros) | (with_reducible apply Keeps.ite) | split | (dsimp only)
    | (dsimp +zetaDelta only) | (fail_if_no_progress (with_reducible apply Keeps.lit))
    | (fail_if_no_progress (with_reducible apply Keeps.filter))
    | (with_reducible refine Keeps.of_pair (by assumption) ?_))

theorem markSectors_keeps {x0 : Blk} (l : Line) (sectors : BitVec 8) {b : Blk} (hk : Keeps x0 b) :
    Keeps x0 (markSectors l sectors b) := by
  unfold markSectors
  repeat' (first
    | with_reducible assumption | (with_reducible refine Keeps.foldl _ ?_ (fun b r h => ?_))
    | (fail_if_no_progress extract_lets) | (fail_if_no_progress intros) | (with_reducible apply Keeps.ite) | split
    | (dsimp only) | (dsimp +zetaDelta only) | (fail_if_no_progress (with_reducible apply Keeps.lit))
    | (fail_if_no_progress (with_reducible apply Keeps.filter))
    | (with_reducible refine Keeps.of_pair (by assumption) ?_))

theorem badLine_keeps {x0 : Blk} (l : Line) (r : BusReq) {b : Blk} (hk : Keeps x0 b) : Keeps x0 (badLine l r b) := by
  unfold badLine
  repeat' (first
    | with_reducible assumption | (with_reducible apply dropLines_keeps) | (with_reducible apply markSectors_keeps)
    | (with_reducible apply countReplays_keeps) | (with_reducible apply bankFault_keeps)
    | (with_reducible refine Keeps.foldl _ ?_ (fun b r h => ?_)) | (fail_if_no_progress extract_lets)
    | (fail_if_no_progress intros) | (with_reducible apply Keeps.ite) | split | (dsimp only)
    | (dsimp +zetaDelta only) | (fail_if_no_progress (with_reducible apply Keeps.lit))
    | (fail_if_no_progress (with_reducible apply Keeps.filter))
    | (with_reducible refine Keeps.of_pair (by assumption) ?_))

theorem charge_keeps {x0 : Blk} (r : BusReq) {b : Blk} (hk : Keeps x0 b) : Keeps x0 (charge r b) := by
  unfold charge
  repeat' (first
    | with_reducible assumption | (with_reducible apply chargeSlot_keeps)
    | (with_reducible refine Keeps.foldl _ ?_ (fun b r h => ?_)) | (fail_if_no_progress extract_lets)
    | (fail_if_no_progress intros) | (with_reducible apply Keeps.ite) | split | (dsimp only)
    | (dsimp +zetaDelta only) | (fail_if_no_progress (with_reducible apply Keeps.lit))
    | (fail_if_no_progress (with_reducible apply Keeps.filter))
    | (with_reducible refine Keeps.of_pair (by assumption) ?_))

theorem writeHalts_keeps {x0 : Blk} (m : Master) (p : Nat) (v : Granule) {b : Blk} (hk : Keeps x0 b) :
    Keeps x0 (writeHalts m p v b) := by
  unfold writeHalts
  repeat' (first
    | with_reducible assumption | (with_reducible apply haltWrite_keeps)
    | (with_reducible refine Keeps.foldl _ ?_ (fun b r h => ?_))
    | (with_reducible refine Keeps.foldlFst _ ?_ (fun b r h => ?_)) | (fail_if_no_progress extract_lets)
    | (fail_if_no_progress intros) | (with_reducible apply Keeps.ite) | split | (dsimp only)
    | (dsimp +zetaDelta only) | (fail_if_no_progress (with_reducible apply Keeps.lit))
    | (fail_if_no_progress (with_reducible apply Keeps.filter))
    | (with_reducible refine Keeps.of_pair (by assumption) ?_))

theorem busPut_keeps {x : Blk} (m : Master) (a : Nat) (v : Granule) {b : Blk} (h : Keeps x b) : Keeps x (busPut m a v b) := by
  unfold busPut
  split
  · split
    · exact putGranuleKey_keeps _ _ h
    · exact putGranuleKey_keeps _ _ h
    · exact writeHalts_keeps _ _ _ h
    · exact h.lit
    · exact h
  · split
    · exact putGranuleKey_keeps _ _ h
    · exact h

theorem busWrite_keeps {x0 : Blk} (m : Master) (a n data : Nat) {b : Blk} (hk : Keeps x0 b) :
    Keeps x0 (busWrite m a n data b) := by
  unfold busWrite
  repeat' (first
    | with_reducible assumption | (with_reducible apply busPut_keeps)
    | (with_reducible refine Keeps.foldl _ ?_ (fun b r h => ?_))
    | (with_reducible refine Keeps.foldlFst _ ?_ (fun b r h => ?_)) | (fail_if_no_progress extract_lets)
    | (fail_if_no_progress intros) | (with_reducible apply Keeps.ite) | split | (dsimp only)
    | (dsimp +zetaDelta only) | (fail_if_no_progress (with_reducible apply Keeps.lit))
    | (fail_if_no_progress (with_reducible apply Keeps.filter))
    | (with_reducible refine Keeps.of_pair (by assumption) ?_))

theorem writeSeg_keeps {x0 : Blk} (r : BusReq) {b : Blk} (hk : Keeps x0 b) : Keeps x0 (writeSeg r b) := by
  unfold writeSeg
  repeat' (first
    | with_reducible assumption | (with_reducible apply inCtx_keeps) | (with_reducible apply busWrite_keeps)
    | (with_reducible refine Keeps.foldl _ ?_ (fun b r h => ?_)) | (fail_if_no_progress extract_lets)
    | (fail_if_no_progress intros) | (with_reducible apply Keeps.ite) | split | (dsimp only)
    | (dsimp +zetaDelta only) | (fail_if_no_progress (with_reducible apply Keeps.lit))
    | (fail_if_no_progress (with_reducible apply Keeps.filter))
    | (with_reducible refine Keeps.of_pair (by assumption) ?_))

theorem answerRead_keeps {x0 : Blk} (r : BusReq) {b : Blk} (hk : Keeps x0 b) : Keeps x0 (answerRead r b) := by
  unfold answerRead
  repeat' (first
    | with_reducible assumption | (with_reducible apply busAnswer_keeps)
    | (with_reducible refine Keeps.foldl _ ?_ (fun b r h => ?_)) | (fail_if_no_progress extract_lets)
    | (fail_if_no_progress intros) | (with_reducible apply Keeps.ite) | split | (dsimp only)
    | (dsimp +zetaDelta only) | (fail_if_no_progress (with_reducible apply Keeps.lit))
    | (fail_if_no_progress (with_reducible apply Keeps.filter))
    | (with_reducible refine Keeps.of_pair (by assumption) ?_))

theorem answerWrite_keeps {x0 : Blk} {b : Blk} (hk : Keeps x0 b) : Keeps x0 (answerWrite b) := by
  unfold answerWrite
  repeat' (first
    | with_reducible assumption | (with_reducible refine Keeps.foldl _ ?_ (fun b r h => ?_))
    | (fail_if_no_progress extract_lets) | (fail_if_no_progress intros) | (with_reducible apply Keeps.ite) | split
    | (dsimp only) | (dsimp +zetaDelta only) | (fail_if_no_progress (with_reducible apply Keeps.lit))
    | (fail_if_no_progress (with_reducible apply Keeps.filter))
    | (with_reducible refine Keeps.of_pair (by assumption) ?_))

theorem cellarServe_keeps {x0 : Blk} (r : BusReq) {b : Blk} (hk : Keeps x0 b) : Keeps x0 (cellarServe r b) := by
  unfold cellarServe
  repeat' (first
    | with_reducible assumption | (with_reducible apply dropLines_keeps) | (with_reducible apply badLine_keeps)
    | (with_reducible apply answerWrite_keeps) | (with_reducible apply writeSeg_keeps)
    | (with_reducible apply countAdd_keeps) | (with_reducible apply updBus_keeps)
    | (with_reducible apply answerRead_keeps) | (with_reducible apply charge_keeps)
    | (with_reducible refine Keeps.foldl _ ?_ (fun b r h => ?_)) | (fail_if_no_progress extract_lets)
    | (fail_if_no_progress intros) | (with_reducible apply Keeps.ite) | split | (dsimp only)
    | (dsimp +zetaDelta only) | (fail_if_no_progress (with_reducible apply Keeps.lit))
    | (fail_if_no_progress (with_reducible apply Keeps.filter))
    | (with_reducible refine Keeps.of_pair (by assumption) ?_))

theorem serve_keeps {x0 : Blk} (k : Nat) (r : BusReq) {b : Blk} (hk : Keeps x0 b) : Keeps x0 (serve k r b) := by
  unfold serve
  repeat' (first
    | with_reducible assumption | (with_reducible apply cellarServe_keeps) | (with_reducible apply transmit_keeps)
    | (with_reducible apply sendRequestOf_keeps) | (with_reducible apply answerWrite_keeps)
    | (with_reducible apply writeSeg_keeps) | (with_reducible apply answerRead_keeps)
    | (with_reducible refine Keeps.foldl _ ?_ (fun b r h => ?_))
    | (with_reducible refine Keeps.foldlFst _ ?_ (fun b r h => ?_)) | (fail_if_no_progress extract_lets)
    | (fail_if_no_progress intros) | (with_reducible apply Keeps.ite) | split | (dsimp only)
    | (dsimp +zetaDelta only) | (fail_if_no_progress (with_reducible apply Keeps.lit))
    | (fail_if_no_progress (with_reducible apply Keeps.filter))
    | (with_reducible refine Keeps.of_pair (by assumption) ?_))

theorem serveBeats_keeps {x0 : Blk} (k : Nat) (r : BusReq) {b : Blk} (hk : Keeps x0 b) :
    Keeps x0 (serveBeats k r b) := by
  unfold serveBeats
  repeat' (first
    | with_reducible assumption | (with_reducible apply serve_keeps) | (with_reducible apply countReplays_keeps)
    | (with_reducible apply parityRecord_keeps) | (with_reducible apply allReplays_keeps)
    | (with_reducible refine Keeps.foldl _ ?_ (fun b r h => ?_)) | (fail_if_no_progress extract_lets)
    | (fail_if_no_progress intros) | (with_reducible apply Keeps.ite) | split | (dsimp only)
    | (dsimp +zetaDelta only) | (fail_if_no_progress (with_reducible apply Keeps.lit))
    | (fail_if_no_progress (with_reducible apply Keeps.filter))
    | (with_reducible refine Keeps.of_pair (by assumption) ?_))

theorem grant_keeps {x0 : Blk} (k t : Nat) (r : BusReq) {b : Blk} (hk : Keeps x0 b) : Keeps x0 (grant k t r b) := by
  unfold grant
  repeat' (first
    | with_reducible assumption | (with_reducible apply updBusPort_keeps) | (with_reducible apply updBus_keeps)
    | (with_reducible apply serveBeats_keeps) | (with_reducible refine Keeps.foldl _ ?_ (fun b r h => ?_))
    | (fail_if_no_progress extract_lets) | (fail_if_no_progress intros) | (with_reducible apply Keeps.ite) | split
    | (dsimp only) | (dsimp +zetaDelta only) | (fail_if_no_progress (with_reducible apply Keeps.lit))
    | (fail_if_no_progress (with_reducible apply Keeps.filter))
    | (with_reducible refine Keeps.of_pair (by assumption) ?_))

theorem portMc_keeps {x0 : Blk} (k t : Nat) {b : Blk} (hk : Keeps x0 b) : Keeps x0 (portMc k t b) := by
  unfold portMc
  repeat' (first
    | with_reducible assumption | (with_reducible apply grant_keeps)
    | (with_reducible refine Keeps.foldl _ ?_ (fun b r h => ?_)) | (fail_if_no_progress extract_lets)
    | (fail_if_no_progress intros) | (with_reducible apply Keeps.ite) | split | (dsimp only)
    | (dsimp +zetaDelta only) | (fail_if_no_progress (with_reducible apply Keeps.lit))
    | (fail_if_no_progress (with_reducible apply Keeps.filter))
    | (with_reducible refine Keeps.of_pair (by assumption) ?_))

theorem giveEntries_keeps {x0 : Blk} {b : Blk} (hk : Keeps x0 b) : Keeps x0 (giveEntries b) := by
  unfold giveEntries
  repeat' (first
    | with_reducible assumption | (with_reducible apply updBus_keeps)
    | (with_reducible refine Keeps.foldl _ ?_ (fun b r h => ?_))
    | (with_reducible refine Keeps.foldlFst _ ?_ (fun b r h => ?_)) | (fail_if_no_progress extract_lets)
    | (fail_if_no_progress intros) | (with_reducible apply Keeps.ite) | split | (dsimp only)
    | (dsimp +zetaDelta only) | (fail_if_no_progress (with_reducible apply Keeps.lit))
    | (fail_if_no_progress (with_reducible apply Keeps.filter))
    | (with_reducible refine Keeps.of_pair (by assumption) ?_))

theorem memoryMc_keeps {x0 : Blk} (m t : Nat) {b : Blk} (hk : Keeps x0 b) : Keeps x0 (memoryMc m t b) := by
  unfold memoryMc
  repeat' (first
    | with_reducible assumption | (with_reducible apply updBusPort_keeps) | (with_reducible apply updBus_keeps)
    | (with_reducible refine Keeps.foldl _ ?_ (fun b r h => ?_)) | (fail_if_no_progress extract_lets)
    | (fail_if_no_progress intros) | (with_reducible apply Keeps.ite) | split | (dsimp only)
    | (dsimp +zetaDelta only) | (fail_if_no_progress (with_reducible apply Keeps.lit))
    | (fail_if_no_progress (with_reducible apply Keeps.filter))
    | (with_reducible refine Keeps.of_pair (by assumption) ?_))

theorem memoriesMc_keeps {x0 : Blk} (t : Nat) {b : Blk} (hk : Keeps x0 b) : Keeps x0 (memoriesMc t b) := by
  unfold memoriesMc
  repeat' (first
    | with_reducible assumption | (with_reducible apply memoryMc_keeps) | (with_reducible apply giveEntries_keeps)
    | (with_reducible refine Keeps.foldl _ ?_ (fun b r h => ?_))
    | (with_reducible refine Keeps.foldlFst _ ?_ (fun b r h => ?_)) | (fail_if_no_progress extract_lets)
    | (fail_if_no_progress intros) | (with_reducible apply Keeps.ite) | split | (dsimp only)
    | (dsimp +zetaDelta only) | (fail_if_no_progress (with_reducible apply Keeps.lit))
    | (fail_if_no_progress (with_reducible apply Keeps.filter))
    | (with_reducible refine Keeps.of_pair (by assumption) ?_))

theorem present_keeps {x0 : Blk} (k : Nat) (r : BusReq) {b : Blk} (hk : Keeps x0 b) : Keeps x0 (present k r b) := by
  unfold present
  repeat' (first
    | with_reducible assumption | (with_reducible apply memoriesMc_keeps) | (with_reducible apply updBus_keeps)
    | (with_reducible apply updBusPort_keeps) | (with_reducible apply grant_keeps)
    | (with_reducible refine Keeps.foldl _ ?_ (fun b r h => ?_)) | (fail_if_no_progress extract_lets)
    | (fail_if_no_progress intros) | (with_reducible apply Keeps.ite) | split | (dsimp only)
    | (dsimp +zetaDelta only) | (fail_if_no_progress (with_reducible apply Keeps.lit))
    | (fail_if_no_progress (with_reducible apply Keeps.filter))
    | (with_reducible refine Keeps.of_pair (by assumption) ?_))

theorem route_keeps {x0 : Blk} (r : BusReq) {b : Blk} (hk : Keeps x0 b) : Keeps x0 (route r b) := by
  unfold route
  repeat' (first
    | with_reducible assumption | (with_reducible apply busError_keeps) | (with_reducible apply updBus_keeps)
    | (with_reducible apply present_keeps) | (with_reducible refine Keeps.foldl _ ?_ (fun b r h => ?_))
    | (fail_if_no_progress extract_lets) | (fail_if_no_progress intros) | (with_reducible apply Keeps.ite) | split
    | (dsimp only) | (dsimp +zetaDelta only) | (fail_if_no_progress (with_reducible apply Keeps.lit))
    | (fail_if_no_progress (with_reducible apply Keeps.filter))
    | (with_reducible refine Keeps.of_pair (by assumption) ?_))

theorem busRequest_keeps {x0 : Blk} (r : BusReq) {b : Blk} (hk : Keeps x0 b) : Keeps x0 (busRequest r b) := by
  unfold busRequest
  repeat' (first
    | with_reducible assumption | (with_reducible apply busError_keeps) | (with_reducible apply route_keeps)
    | (with_reducible refine Keeps.foldl _ ?_ (fun b r h => ?_))
    | (with_reducible refine Keeps.foldlFst _ ?_ (fun b r h => ?_)) | (fail_if_no_progress extract_lets)
    | (fail_if_no_progress intros) | (with_reducible apply Keeps.ite) | split | (dsimp only)
    | (dsimp +zetaDelta only) | (fail_if_no_progress (with_reducible apply Keeps.lit))
    | (fail_if_no_progress (with_reducible apply Keeps.filter))
    | (with_reducible refine Keeps.of_pair (by assumption) ?_))

theorem retryHeld_keeps {x0 : Blk} (t : Nat) {b : Blk} (hk : Keeps x0 b) : Keeps x0 (retryHeld t b) := by
  unfold retryHeld
  repeat' (first
    | with_reducible assumption | (with_reducible apply updBus_keeps) | (with_reducible apply updBusPort_keeps)
    | (with_reducible apply busError_keeps) | (with_reducible refine Keeps.foldl _ ?_ (fun b r h => ?_))
    | (with_reducible refine Keeps.foldlFst _ ?_ (fun b r h => ?_)) | (fail_if_no_progress extract_lets)
    | (fail_if_no_progress intros) | (with_reducible apply Keeps.ite) | split | (dsimp only)
    | (dsimp +zetaDelta only) | (fail_if_no_progress (with_reducible apply Keeps.lit))
    | (fail_if_no_progress (with_reducible apply Keeps.filter))
    | (with_reducible refine Keeps.of_pair (by assumption) ?_))

theorem countHeld_keeps {x0 : Blk} {b : Blk} (hk : Keeps x0 b) : Keeps x0 (countHeld b) := by
  unfold countHeld
  repeat' (first
    | with_reducible assumption | (with_reducible apply countAdd_keeps)
    | (with_reducible refine Keeps.foldl _ ?_ (fun b r h => ?_))
    | (with_reducible refine Keeps.foldlFst _ ?_ (fun b r h => ?_)) | (fail_if_no_progress extract_lets)
    | (fail_if_no_progress intros) | (with_reducible apply Keeps.ite) | split | (dsimp only)
    | (dsimp +zetaDelta only) | (fail_if_no_progress (with_reducible apply Keeps.lit))
    | (fail_if_no_progress (with_reducible apply Keeps.filter))
    | (with_reducible refine Keeps.of_pair (by assumption) ?_))

theorem matrixMc_keeps {x0 : Blk} (t : Nat) {b : Blk} (hk : Keeps x0 b) : Keeps x0 (matrixMc t b) := by
  unfold matrixMc
  repeat' (first
    | with_reducible assumption | (with_reducible apply retryHeld_keeps) | (with_reducible apply fillBuckets_keeps)
    | (with_reducible apply portMc_keeps) | (with_reducible apply countHeld_keeps)
    | (with_reducible apply memoriesMc_keeps) | (with_reducible refine Keeps.foldl _ ?_ (fun b r h => ?_))
    | (with_reducible refine Keeps.foldlFst _ ?_ (fun b r h => ?_)) | (fail_if_no_progress extract_lets)
    | (fail_if_no_progress intros) | (with_reducible apply Keeps.ite) | split | (dsimp only)
    | (dsimp +zetaDelta only) | (fail_if_no_progress (with_reducible apply Keeps.lit))
    | (fail_if_no_progress (with_reducible apply Keeps.filter))
    | (with_reducible refine Keeps.of_pair (by assumption) ?_))

theorem runMatrix_keeps {x : Blk} (t n : Nat) {b : Blk} (h : Keeps x b) : Keeps x (runMatrix t n b) := by
  induction n generalizing b with
  | zero => exact h
  | succ n ih =>
    unfold runMatrix
    split
    · exact fillBuckets_keeps _ h
    · exact ih (matrixMc_keeps _ h)

theorem loadLine_keeps {x : Blk} (ctx line : Nat) (data : List Byte) {b : Blk} (h : Keeps x b) :
    Keeps x (loadLine ctx line data b) := by
  unfold loadLine
  split
  · exact h
  · exact Keeps.foldl _ (h.of_mem rfl (memWf_memPutBytes _ _) rfl rfl) (fun _ _ h => writeSeg_keeps _ h)

theorem answerFlight_keeps {x0 : Blk} (f : Flight) (status : RspStatus) {b : Blk} (hk : Keeps x0 b) :
    Keeps x0 (answerFlight f status b) := by
  unfold answerFlight
  repeat' (first
    | with_reducible assumption | (with_reducible apply answerRead_keeps)
    | (with_reducible refine Keeps.foldl _ ?_ (fun b r h => ?_)) | (fail_if_no_progress extract_lets)
    | (fail_if_no_progress intros) | (with_reducible apply Keeps.ite) | split | (dsimp only)
    | (dsimp +zetaDelta only) | (fail_if_no_progress (with_reducible apply Keeps.lit))
    | (fail_if_no_progress (with_reducible apply Keeps.filter))
    | (with_reducible refine Keeps.of_pair (by assumption) ?_))

theorem landResponse_keeps {x0 : Blk} (f : Flight) (status : RspStatus) {b : Blk} (hk : Keeps x0 b) :
    Keeps x0 (landResponse f status b) := by
  unfold landResponse
  repeat' (first
    | with_reducible assumption | (with_reducible apply updBus_keeps) | (with_reducible apply keepLine_keeps)
    | (with_reducible apply answerFlight_keeps) | (with_reducible refine Keeps.foldl _ ?_ (fun b r h => ?_))
    | (with_reducible refine Keeps.foldlFst _ ?_ (fun b r h => ?_)) | (fail_if_no_progress extract_lets)
    | (fail_if_no_progress intros) | (with_reducible apply Keeps.ite) | split | (dsimp only)
    | (dsimp +zetaDelta only) | (fail_if_no_progress (with_reducible apply Keeps.lit))
    | (fail_if_no_progress (with_reducible apply Keeps.filter))
    | (with_reducible refine Keeps.of_pair (by assumption) ?_))

theorem askAgain_keeps {x0 : Blk} (f : Flight) {b : Blk} (hk : Keeps x0 b) : Keeps x0 (askAgain f b) := by
  unfold askAgain
  repeat' (first
    | with_reducible assumption | (with_reducible apply countReplays_keeps) | (with_reducible apply updBus_keeps)
    | (with_reducible refine Keeps.foldl _ ?_ (fun b r h => ?_)) | (fail_if_no_progress extract_lets)
    | (fail_if_no_progress intros) | (with_reducible apply Keeps.ite) | split | (dsimp only)
    | (dsimp +zetaDelta only) | (fail_if_no_progress (with_reducible apply Keeps.lit))
    | (fail_if_no_progress (with_reducible apply Keeps.filter))
    | (with_reducible refine Keeps.of_pair (by assumption) ?_))

theorem memoryResponse_keeps {x0 : Blk} (m ctx line : Nat) (status : RspStatus) (data : List Byte) {b : Blk} (hk : Keeps x0 b) :
    Keeps x0 (memoryResponse m ctx line status data b) := by
  unfold memoryResponse
  repeat' (first
    | with_reducible assumption | (with_reducible apply askAgain_keeps) | (with_reducible apply landResponse_keeps)
    | (with_reducible apply loadLine_keeps) | (with_reducible refine Keeps.foldl _ ?_ (fun b r h => ?_))
    | (fail_if_no_progress extract_lets) | (fail_if_no_progress intros) | (with_reducible apply Keeps.ite) | split
    | (dsimp only) | (dsimp +zetaDelta only) | (fail_if_no_progress (with_reducible apply Keeps.lit))
    | (fail_if_no_progress (with_reducible apply Keeps.filter))
    | (with_reducible refine Keeps.of_pair (by assumption) ?_))

theorem lineInvalidate_keeps {x0 : Blk} (line : Nat) (data : List Byte) {b : Blk} (hk : Keeps x0 b) :
    Keeps x0 (lineInvalidate line data b) := by
  unfold lineInvalidate
  repeat' (first
    | with_reducible assumption | (with_reducible apply updBus_keeps) | (with_reducible apply inCtx_keeps)
    | (with_reducible apply writeBytes_keeps) | (with_reducible refine Keeps.foldl _ ?_ (fun b r h => ?_))
    | (with_reducible refine Keeps.foldlFst _ ?_ (fun b r h => ?_)) | (fail_if_no_progress extract_lets)
    | (fail_if_no_progress intros) | (with_reducible apply Keeps.ite) | split | (dsimp only)
    | (dsimp +zetaDelta only) | (fail_if_no_progress (with_reducible apply Keeps.lit))
    | (fail_if_no_progress (with_reducible apply Keeps.filter))
    | (with_reducible refine Keeps.of_pair (by assumption) ?_))

theorem undefine_keeps {x0 : Blk} (addrs : List Nat) {b : Blk} (hk : Keeps x0 b) : Keeps x0 (undefine addrs b) := by
  unfold undefine
  repeat' (first
    | with_reducible assumption | (with_reducible apply drawFresh_keeps) | (with_reducible apply writeBytes_keeps)
    | (with_reducible refine Keeps.foldl _ ?_ (fun b r h => ?_))
    | (with_reducible refine Keeps.foldlFst _ ?_ (fun b r h => ?_)) | (fail_if_no_progress extract_lets)
    | (fail_if_no_progress intros) | (with_reducible apply Keeps.ite) | split | (dsimp only)
    | (dsimp +zetaDelta only) | (fail_if_no_progress (with_reducible apply Keeps.lit))
    | (fail_if_no_progress (with_reducible apply Keeps.filter))
    | (with_reducible refine Keeps.of_pair (by assumption) ?_))

theorem cutCmd_keeps {x0 : Blk} (c : Cmd) {b : Blk} (hk : Keeps x0 b) : Keeps x0 (cutCmd c b) := by
  unfold cutCmd
  repeat' (first
    | with_reducible assumption | (with_reducible apply finishCmd_keeps) | (with_reducible apply withdrawAll_keeps)
    | (with_reducible apply inCtx_keeps) | (with_reducible apply undefine_keeps)
    | (with_reducible refine Keeps.foldl _ ?_ (fun b r h => ?_)) | (fail_if_no_progress extract_lets)
    | (fail_if_no_progress intros) | (with_reducible apply Keeps.ite) | split | (dsimp only)
    | (dsimp +zetaDelta only) | (fail_if_no_progress (with_reducible apply Keeps.lit))
    | (fail_if_no_progress (with_reducible apply Keeps.filter))
    | (with_reducible refine Keeps.of_pair (by assumption) ?_))

theorem cutSegment_keeps {x0 : Blk} (k : Nat) (m : Master) {b : Blk} (hk : Keeps x0 b) :
    Keeps x0 (cutSegment k m b) := by
  unfold cutSegment
  repeat' (first
    | with_reducible assumption | (with_reducible apply updBus_keeps) | (with_reducible apply inCtx_keeps)
    | (with_reducible apply busPut_keeps) | (with_reducible refine Keeps.foldl _ ?_ (fun b r h => ?_))
    | (with_reducible refine Keeps.foldlFst _ ?_ (fun b r h => ?_)) | (fail_if_no_progress extract_lets)
    | (fail_if_no_progress intros) | (with_reducible apply Keeps.ite) | split | (dsimp only)
    | (dsimp +zetaDelta only) | (fail_if_no_progress (with_reducible apply Keeps.lit))
    | (fail_if_no_progress (with_reducible apply Keeps.filter))
    | (with_reducible refine Keeps.of_pair (by assumption) ?_))

theorem resetMaster_keeps {x0 : Blk} (m : Master) {b : Blk} (hk : Keeps x0 b) : Keeps x0 (resetMaster m b) := by
  unfold resetMaster
  repeat' (first
    | with_reducible assumption | (with_reducible apply cutSegment_keeps) | (with_reducible apply updBus_keeps)
    | (with_reducible refine Keeps.foldl _ ?_ (fun b r h => ?_))
    | (with_reducible refine Keeps.foldlFst _ ?_ (fun b r h => ?_)) | (fail_if_no_progress extract_lets)
    | (fail_if_no_progress intros) | (with_reducible apply Keeps.ite) | split | (dsimp only)
    | (dsimp +zetaDelta only) | (fail_if_no_progress (with_reducible apply Keeps.lit))
    | (fail_if_no_progress (with_reducible apply Keeps.filter))
    | (with_reducible refine Keeps.of_pair (by assumption) ?_))

theorem masterReset_keeps {x0 : Blk} (m : Master) {b : Blk} (hk : Keeps x0 b) : Keeps x0 (masterReset m b) := by
  unfold masterReset
  repeat' (first
    | with_reducible assumption | (with_reducible apply resetMaster_keeps) | (with_reducible apply cutCmd_keeps)
    | (with_reducible refine Keeps.foldl _ ?_ (fun b r h => ?_))
    | (with_reducible refine Keeps.foldlFst _ ?_ (fun b r h => ?_)) | (fail_if_no_progress extract_lets)
    | (fail_if_no_progress intros) | (with_reducible apply Keeps.ite) | split | (dsimp only)
    | (dsimp +zetaDelta only) | (fail_if_no_progress (with_reducible apply Keeps.lit))
    | (fail_if_no_progress (with_reducible apply Keeps.filter))
    | (with_reducible refine Keeps.of_pair (by assumption) ?_))

theorem writeWbase_keeps {x0 : Blk} (m : Master) (core : Nat) (v : BitVec 64) {b : Blk} (hk : Keeps x0 b) :
    Keeps x0 (writeWbase m core v b) := by
  unfold writeWbase
  repeat' (first
    | with_reducible assumption | (with_reducible apply updBus_keeps) | (with_reducible apply busError_keeps)
    | (with_reducible refine Keeps.foldl _ ?_ (fun b r h => ?_)) | (fail_if_no_progress extract_lets)
    | (fail_if_no_progress intros) | (with_reducible apply Keeps.ite) | split | (dsimp only)
    | (dsimp +zetaDelta only) | (fail_if_no_progress (with_reducible apply Keeps.lit))
    | (fail_if_no_progress (with_reducible apply Keeps.filter))
    | (with_reducible refine Keeps.of_pair (by assumption) ?_))

theorem fragAccess_keeps {x : Blk} (m : Master) (write : Bool) (addr : Nat) (data : Granule) {b : Blk} (h : Keeps x b) :
    Keeps x (fragAccess m write addr data b) := by
  unfold fragAccess
  split
  · exact busError_keeps _ _ _ h
  · extract_lets l k
    split
    · exact (putGranuleKey_keeps k data h).lit
    · split
      · exact (parityRecord_keeps _ _ _ _ _ h).lit
      · exact busAnswer_keeps _ h

theorem endCrossDie_keeps {x0 : Blk} {b : Blk} (hk : Keeps x0 b) : Keeps x0 (endCrossDie b) := by
  unfold endCrossDie
  repeat' (first
    | with_reducible assumption | (with_reducible apply loseLink_keeps)
    | (with_reducible refine Keeps.foldl _ ?_ (fun b r h => ?_))
    | (with_reducible refine Keeps.foldlFst _ ?_ (fun b r h => ?_)) | (fail_if_no_progress extract_lets)
    | (fail_if_no_progress intros) | (with_reducible apply Keeps.ite) | split | (dsimp only)
    | (dsimp +zetaDelta only) | (fail_if_no_progress (with_reducible apply Keeps.lit))
    | (fail_if_no_progress (with_reducible apply Keeps.filter))
    | (with_reducible refine Keeps.of_pair (by assumption) ?_))

theorem floodLoss_keeps {x0 : Blk} {b : Blk} (hk : Keeps x0 b) : Keeps x0 (floodLoss b) := by
  unfold floodLoss
  repeat' (first
    | with_reducible assumption | (with_reducible apply transmit_keeps)
    | (with_reducible refine Keeps.foldl _ ?_ (fun b r h => ?_))
    | (with_reducible refine Keeps.foldlFst _ ?_ (fun b r h => ?_)) | (fail_if_no_progress extract_lets)
    | (fail_if_no_progress intros) | (with_reducible apply Keeps.ite) | split | (dsimp only)
    | (dsimp +zetaDelta only) | (fail_if_no_progress (with_reducible apply Keeps.lit))
    | (fail_if_no_progress (with_reducible apply Keeps.filter))
    | (with_reducible refine Keeps.of_pair (by assumption) ?_))

theorem takeLoss_keeps {x0 : Blk} (mask : BitVec 8) {b : Blk} (hk : Keeps x0 b) : Keeps x0 (takeLoss mask b) := by
  unfold takeLoss
  repeat' (first
    | with_reducible assumption | (with_reducible apply floodLoss_keeps) | (with_reducible apply endCrossDie_keeps)
    | (with_reducible refine Keeps.foldl _ ?_ (fun b r h => ?_)) | (fail_if_no_progress extract_lets)
    | (fail_if_no_progress intros) | (with_reducible apply Keeps.ite) | split | (dsimp only)
    | (dsimp +zetaDelta only) | (fail_if_no_progress (with_reducible apply Keeps.lit))
    | (fail_if_no_progress (with_reducible apply Keeps.filter))
    | (with_reducible refine Keeps.of_pair (by assumption) ?_))

theorem portPower_keeps {x0 : Blk} (k v : Nat) {b : Blk} (hk : Keeps x0 b) : Keeps x0 (portPower k v b) := by
  unfold portPower
  repeat' (first
    | with_reducible assumption | (with_reducible refine Keeps.foldl _ ?_ (fun b r h => ?_))
    | (fail_if_no_progress extract_lets) | (fail_if_no_progress intros) | (with_reducible apply Keeps.ite) | split
    | (dsimp only) | (dsimp +zetaDelta only) | (fail_if_no_progress (with_reducible apply Keeps.lit))
    | (fail_if_no_progress (with_reducible apply Keeps.filter))
    | (with_reducible refine Keeps.of_pair (by assumption) ?_))

theorem trainPort_keeps {x0 : Blk} (k : Nat) {b : Blk} (hk : Keeps x0 b) : Keeps x0 (trainPort k b) := by
  unfold trainPort
  repeat' (first
    | with_reducible assumption | (with_reducible apply portPower_keeps) | (with_reducible apply updPort_keeps)
    | (with_reducible refine Keeps.foldl _ ?_ (fun b r h => ?_)) | (fail_if_no_progress extract_lets)
    | (fail_if_no_progress intros) | (with_reducible apply Keeps.ite) | split | (dsimp only)
    | (dsimp +zetaDelta only) | (fail_if_no_progress (with_reducible apply Keeps.lit))
    | (fail_if_no_progress (with_reducible apply Keeps.filter))
    | (with_reducible refine Keeps.of_pair (by assumption) ?_))

theorem linkPwrGood_keeps {x0 : Blk} (k : Nat) {b : Blk} (hk : Keeps x0 b) : Keeps x0 (linkPwrGood k b) := by
  unfold linkPwrGood
  repeat' (first
    | with_reducible assumption | (with_reducible apply trainPort_keeps)
    | (with_reducible refine Keeps.foldl _ ?_ (fun b r h => ?_)) | (fail_if_no_progress extract_lets)
    | (fail_if_no_progress intros) | (with_reducible apply Keeps.ite) | split | (dsimp only)
    | (dsimp +zetaDelta only) | (fail_if_no_progress (with_reducible apply Keeps.lit))
    | (fail_if_no_progress (with_reducible apply Keeps.filter))
    | (with_reducible refine Keeps.of_pair (by assumption) ?_))

theorem capacityEpoch_keeps {x0 : Blk} (k cause : Nat) {b : Blk} (hk : Keeps x0 b) :
    Keeps x0 (capacityEpoch k cause b) := by
  unfold capacityEpoch
  repeat' (first
    | with_reducible assumption | (with_reducible apply newEpoch_keeps) | (with_reducible apply updPort_keeps)
    | (with_reducible refine Keeps.foldl _ ?_ (fun b r h => ?_)) | (fail_if_no_progress extract_lets)
    | (fail_if_no_progress intros) | (with_reducible apply Keeps.ite) | split | (dsimp only)
    | (dsimp +zetaDelta only) | (fail_if_no_progress (with_reducible apply Keeps.lit))
    | (fail_if_no_progress (with_reducible apply Keeps.filter))
    | (with_reducible refine Keeps.of_pair (by assumption) ?_))

theorem portDown_keeps {x0 : Blk} (k : Nat) {b : Blk} (hk : Keeps x0 b) : Keeps x0 (portDown k b) := by
  unfold portDown
  repeat' (first
    | with_reducible assumption | (with_reducible apply transmit_keeps) | (with_reducible apply capacityEpoch_keeps)
    | (with_reducible apply takeLoss_keeps) | (with_reducible refine Keeps.foldl _ ?_ (fun b r h => ?_))
    | (fail_if_no_progress extract_lets) | (fail_if_no_progress intros) | (with_reducible apply Keeps.ite) | split
    | (dsimp only) | (dsimp +zetaDelta only) | (fail_if_no_progress (with_reducible apply Keeps.lit))
    | (fail_if_no_progress (with_reducible apply Keeps.filter))
    | (with_reducible refine Keeps.of_pair (by assumption) ?_))

theorem failPort_keeps {x0 : Blk} (k : Nat) {b : Blk} (hk : Keeps x0 b) : Keeps x0 (failPort k b) := by
  unfold failPort
  repeat' (first
    | with_reducible assumption | (with_reducible apply resetMaster_keeps) | (with_reducible apply raiseAlert_keeps)
    | (with_reducible apply sumpPut_keeps) | (with_reducible apply portDown_keeps)
    | (with_reducible apply portPower_keeps) | (with_reducible apply updPort_keeps)
    | (with_reducible refine Keeps.foldl _ ?_ (fun b r h => ?_)) | (fail_if_no_progress extract_lets)
    | (fail_if_no_progress intros) | (with_reducible apply Keeps.ite) | split | (dsimp only)
    | (dsimp +zetaDelta only) | (fail_if_no_progress (with_reducible apply Keeps.lit))
    | (fail_if_no_progress (with_reducible apply Keeps.filter))
    | (with_reducible refine Keeps.of_pair (by assumption) ?_))

theorem degradeLane_keeps {x0 : Blk} (k lane : Nat) {b : Blk} (hk : Keeps x0 b) : Keeps x0 (degradeLane k lane b) := by
  unfold degradeLane
  repeat' (first
    | with_reducible assumption | (with_reducible apply updPort_keeps) | (with_reducible apply raiseAlert_keeps)
    | (with_reducible apply sumpPut_keeps) | (with_reducible apply failPort_keeps)
    | (with_reducible apply capacityEpoch_keeps) | (with_reducible refine Keeps.foldl _ ?_ (fun b r h => ?_))
    | (fail_if_no_progress extract_lets) | (fail_if_no_progress intros) | (with_reducible apply Keeps.ite) | split
    | (dsimp only) | (dsimp +zetaDelta only) | (fail_if_no_progress (with_reducible apply Keeps.lit))
    | (fail_if_no_progress (with_reducible apply Keeps.filter))
    | (with_reducible refine Keeps.of_pair (by assumption) ?_))

theorem laneRetrain_keeps {x0 : Blk} (k lane : Nat) (failures : Option Nat) {b : Blk} (hk : Keeps x0 b) :
    Keeps x0 (laneRetrain k lane failures b) := by
  unfold laneRetrain
  repeat' (first
    | with_reducible assumption | (with_reducible apply updPort_keeps) | (with_reducible apply degradeLane_keeps)
    | (with_reducible refine Keeps.foldl _ ?_ (fun b r h => ?_)) | (fail_if_no_progress extract_lets)
    | (fail_if_no_progress intros) | (with_reducible apply Keeps.ite) | split | (dsimp only)
    | (dsimp +zetaDelta only) | (fail_if_no_progress (with_reducible apply Keeps.lit))
    | (fail_if_no_progress (with_reducible apply Keeps.filter))
    | (with_reducible refine Keeps.of_pair (by assumption) ?_))

theorem portSilence_keeps {x0 : Blk} (k : Nat) {b : Blk} (hk : Keeps x0 b) : Keeps x0 (portSilence k b) := by
  unfold portSilence
  repeat' (first
    | with_reducible assumption | (with_reducible apply failPort_keeps)
    | (with_reducible refine Keeps.foldl _ ?_ (fun b r h => ?_)) | (fail_if_no_progress extract_lets)
    | (fail_if_no_progress intros) | (with_reducible apply Keeps.ite) | split | (dsimp only)
    | (dsimp +zetaDelta only) | (fail_if_no_progress (with_reducible apply Keeps.lit))
    | (fail_if_no_progress (with_reducible apply Keeps.filter))
    | (with_reducible refine Keeps.of_pair (by assumption) ?_))

theorem settleTraining_keeps {x0 : Blk} (k : Nat) {b : Blk} (hk : Keeps x0 b) : Keeps x0 (settleTraining k b) := by
  unfold settleTraining
  repeat' (first
    | with_reducible assumption | (with_reducible apply failPort_keeps) | (with_reducible apply portPower_keeps)
    | (with_reducible apply updPort_keeps) | (with_reducible refine Keeps.foldl _ ?_ (fun b r h => ?_))
    | (fail_if_no_progress extract_lets) | (fail_if_no_progress intros) | (with_reducible apply Keeps.ite) | split
    | (dsimp only) | (dsimp +zetaDelta only) | (fail_if_no_progress (with_reducible apply Keeps.lit))
    | (fail_if_no_progress (with_reducible apply Keeps.filter))
    | (with_reducible refine Keeps.of_pair (by assumption) ?_))

theorem laneTraining_keeps {x0 : Blk} (k lane skewNs codewords : Nat) {b : Blk} (hk : Keeps x0 b) :
    Keeps x0 (laneTraining k lane skewNs codewords b) := by
  unfold laneTraining
  repeat' (first
    | with_reducible assumption | (with_reducible apply settleTraining_keeps) | (with_reducible apply updPort_keeps)
    | (with_reducible refine Keeps.foldl _ ?_ (fun b r h => ?_)) | (fail_if_no_progress extract_lets)
    | (fail_if_no_progress intros) | (with_reducible apply Keeps.ite) | split | (dsimp only)
    | (dsimp +zetaDelta only) | (fail_if_no_progress (with_reducible apply Keeps.lit))
    | (fail_if_no_progress (with_reducible apply Keeps.filter))
    | (with_reducible refine Keeps.of_pair (by assumption) ?_))

theorem trainingTimeout_keeps {x0 : Blk} (k lane : Nat) {b : Blk} (hk : Keeps x0 b) :
    Keeps x0 (trainingTimeout k lane b) := by
  unfold trainingTimeout
  repeat' (first
    | with_reducible assumption | (with_reducible apply settleTraining_keeps) | (with_reducible apply updPort_keeps)
    | (with_reducible refine Keeps.foldl _ ?_ (fun b r h => ?_)) | (fail_if_no_progress extract_lets)
    | (fail_if_no_progress intros) | (with_reducible apply Keeps.ite) | split | (dsimp only)
    | (dsimp +zetaDelta only) | (fail_if_no_progress (with_reducible apply Keeps.lit))
    | (fail_if_no_progress (with_reducible apply Keeps.filter))
    | (with_reducible refine Keeps.of_pair (by assumption) ?_))

theorem takeIdent_keeps {x0 : Blk} (k : Nat) (lanes : BitVec 8) (i : IdentBody) {b : Blk} (hk : Keeps x0 b) :
    Keeps x0 (takeIdent k lanes i b) := by
  unfold takeIdent
  repeat' (first
    | with_reducible assumption | (with_reducible apply portPower_keeps) | (with_reducible apply updPort_keeps)
    | (with_reducible apply raiseAlert_keeps) | (with_reducible apply sumpPut_keeps)
    | (with_reducible apply newEpoch_keeps) | (with_reducible refine Keeps.foldl _ ?_ (fun b r h => ?_))
    | (fail_if_no_progress extract_lets) | (fail_if_no_progress intros) | (with_reducible apply Keeps.ite) | split
    | (dsimp only) | (dsimp +zetaDelta only) | (fail_if_no_progress (with_reducible apply Keeps.lit))
    | (fail_if_no_progress (with_reducible apply Keeps.filter))
    | (with_reducible refine Keeps.of_pair (by assumption) ?_))

theorem acceptFlit_keeps {x0 : Blk} (k : Nat) {b : Blk} (hk : Keeps x0 b) : Keeps x0 (acceptFlit k b) := by
  unfold acceptFlit
  repeat' (first
    | with_reducible assumption | (with_reducible apply updPort_keeps) | (with_reducible apply transmit_keeps)
    | (with_reducible refine Keeps.foldl _ ?_ (fun b r h => ?_)) | (fail_if_no_progress extract_lets)
    | (fail_if_no_progress intros) | (with_reducible apply Keeps.ite) | split | (dsimp only)
    | (dsimp +zetaDelta only) | (fail_if_no_progress (with_reducible apply Keeps.lit))
    | (fail_if_no_progress (with_reducible apply Keeps.filter))
    | (with_reducible refine Keeps.of_pair (by assumption) ?_))

theorem discardFlit_keeps {x0 : Blk} (k : Nat) {b : Blk} (hk : Keeps x0 b) : Keeps x0 (discardFlit k b) := by
  unfold discardFlit
  repeat' (first
    | with_reducible assumption | (with_reducible apply updPort_keeps) | (with_reducible apply transmit_keeps)
    | (with_reducible refine Keeps.foldl _ ?_ (fun b r h => ?_)) | (fail_if_no_progress extract_lets)
    | (fail_if_no_progress intros) | (with_reducible apply Keeps.ite) | split | (dsimp only)
    | (dsimp +zetaDelta only) | (fail_if_no_progress (with_reducible apply Keeps.lit))
    | (fail_if_no_progress (with_reducible apply Keeps.filter))
    | (with_reducible refine Keeps.of_pair (by assumption) ?_))

theorem freeBuffer_keeps {x0 : Blk} (k cls : Nat) {b : Blk} (hk : Keeps x0 b) : Keeps x0 (freeBuffer k cls b) := by
  unfold freeBuffer
  repeat' (first
    | with_reducible assumption | (with_reducible apply updPort_keeps)
    | (with_reducible refine Keeps.foldl _ ?_ (fun b r h => ?_)) | (fail_if_no_progress extract_lets)
    | (fail_if_no_progress intros) | (with_reducible apply Keeps.ite) | split | (dsimp only)
    | (dsimp +zetaDelta only) | (fail_if_no_progress (with_reducible apply Keeps.lit))
    | (fail_if_no_progress (with_reducible apply Keeps.filter))
    | (with_reducible refine Keeps.of_pair (by assumption) ?_))

theorem landRuns_keeps {x0 : Blk} (k : Nat) (f : Flit) (runs : List BulkRun) {b : Blk} (hk : Keeps x0 b) :
    Keeps x0 (landRuns k f runs b) := by
  unfold landRuns
  repeat' (first
    | with_reducible assumption | (with_reducible refine Keeps.foldl _ ?_ (fun b r h => ?_))
    | (fail_if_no_progress extract_lets) | (fail_if_no_progress intros) | (with_reducible apply Keeps.ite) | split
    | (dsimp only) | (dsimp +zetaDelta only) | (fail_if_no_progress (with_reducible apply Keeps.lit))
    | (fail_if_no_progress (with_reducible apply Keeps.filter))
    | (with_reducible refine Keeps.of_pair (by assumption) ?_))

theorem countCodewords_keeps {x0 : Blk} (k : Nat) (f : Flit) {b : Blk} (hk : Keeps x0 b) :
    Keeps x0 (countCodewords k f b) := by
  unfold countCodewords
  repeat' (first
    | with_reducible assumption | (with_reducible apply countAdd_keeps) | (with_reducible apply updPort_keeps)
    | (with_reducible refine Keeps.foldl _ ?_ (fun b r h => ?_)) | (fail_if_no_progress extract_lets)
    | (fail_if_no_progress intros) | (with_reducible apply Keeps.ite) | split | (dsimp only)
    | (dsimp +zetaDelta only) | (fail_if_no_progress (with_reducible apply Keeps.lit))
    | (fail_if_no_progress (with_reducible apply Keeps.filter))
    | (with_reducible refine Keeps.of_pair (by assumption) ?_))

theorem enterStandby_keeps {x0 : Blk} (k : Nat) {b : Blk} (hk : Keeps x0 b) : Keeps x0 (enterStandby k b) := by
  unfold enterStandby
  repeat' (first
    | with_reducible assumption | (with_reducible apply portPower_keeps)
    | (with_reducible refine Keeps.foldl _ ?_ (fun b r h => ?_)) | (fail_if_no_progress extract_lets)
    | (fail_if_no_progress intros) | (with_reducible apply Keeps.ite) | split | (dsimp only)
    | (dsimp +zetaDelta only) | (fail_if_no_progress (with_reducible apply Keeps.lit))
    | (fail_if_no_progress (with_reducible apply Keeps.filter))
    | (with_reducible refine Keeps.of_pair (by assumption) ?_))

theorem ctrlBody_keeps {x0 : Blk} (k : Nat) (c : CtrlBody) {b : Blk} (hk : Keeps x0 b) : Keeps x0 (ctrlBody k c b) := by
  unfold ctrlBody
  repeat' (first
    | with_reducible assumption | (with_reducible apply enterStandby_keeps) | (with_reducible apply updPort_keeps)
    | (with_reducible refine Keeps.foldl _ ?_ (fun b r h => ?_)) | (fail_if_no_progress extract_lets)
    | (fail_if_no_progress intros) | (with_reducible apply Keeps.ite) | split | (dsimp only)
    | (dsimp +zetaDelta only) | (fail_if_no_progress (with_reducible apply Keeps.lit))
    | (fail_if_no_progress (with_reducible apply Keeps.filter))
    | (with_reducible refine Keeps.of_pair (by assumption) ?_))

theorem resendAll_keeps {x0 : Blk} (k : Nat) {b : Blk} (hk : Keeps x0 b) : Keeps x0 (resendAll k b) := by
  unfold resendAll
  repeat' (first
    | with_reducible assumption | (with_reducible apply failPort_keeps) | (with_reducible apply countAdd_keeps)
    | (with_reducible apply updPort_keeps) | (with_reducible refine Keeps.foldl _ ?_ (fun b r h => ?_))
    | (fail_if_no_progress extract_lets) | (fail_if_no_progress intros) | (with_reducible apply Keeps.ite) | split
    | (dsimp only) | (dsimp +zetaDelta only) | (fail_if_no_progress (with_reducible apply Keeps.lit))
    | (fail_if_no_progress (with_reducible apply Keeps.filter))
    | (with_reducible refine Keeps.of_pair (by assumption) ?_))

theorem takeItem_keeps {x0 : Blk} (k : Nat) (i : RxItem) {b : Blk} (hk : Keeps x0 b) : Keeps x0 (takeItem k i b) := by
  unfold takeItem
  repeat' (first
    | with_reducible assumption | (with_reducible apply freeBuffer_keeps) | (with_reducible apply landRuns_keeps)
    | (with_reducible apply ctrlBody_keeps) | (with_reducible apply resendAll_keeps)
    | (with_reducible refine Keeps.foldl _ ?_ (fun b r h => ?_)) | (fail_if_no_progress extract_lets)
    | (fail_if_no_progress intros) | (with_reducible apply Keeps.ite) | split | (dsimp only)
    | (dsimp +zetaDelta only) | (fail_if_no_progress (with_reducible apply Keeps.lit))
    | (fail_if_no_progress (with_reducible apply Keeps.filter))
    | (with_reducible refine Keeps.of_pair (by assumption) ?_))

theorem drainHeld_keeps {x : Blk} (k n : Nat) {b : Blk} (h : Keeps x b) : Keeps x (drainHeld k n b) := by
  induction n generalizing b with
  | zero => exact h
  | succ n ih =>
    unfold drainHeld
    dsimp only
    split
    · exact ih (takeItem_keeps _ _ (acceptFlit_keeps _ (updPort_keeps _ _ h)))
    · exact h

theorem takeFlit_keeps {x0 : Blk} (k : Nat) (f : Flit) (i : RxItem) {b : Blk} (hk : Keeps x0 b) :
    Keeps x0 (takeFlit k f i b) := by
  unfold takeFlit
  repeat' (first
    | with_reducible assumption | (with_reducible apply countCodewords_keeps)
    | (with_reducible apply drainHeld_keeps) | (with_reducible apply takeItem_keeps)
    | (with_reducible apply acceptFlit_keeps) | (with_reducible apply updPort_keeps)
    | (with_reducible apply discardFlit_keeps) | (with_reducible refine Keeps.foldl _ ?_ (fun b r h => ?_))
    | (fail_if_no_progress extract_lets) | (fail_if_no_progress intros) | (with_reducible apply Keeps.ite) | split
    | (dsimp only) | (dsimp +zetaDelta only) | (fail_if_no_progress (with_reducible apply Keeps.lit))
    | (fail_if_no_progress (with_reducible apply Keeps.filter))
    | (with_reducible refine Keeps.of_pair (by assumption) ?_))

theorem replayTimer_keeps {x0 : Blk} (k : Nat) {b : Blk} (hk : Keeps x0 b) : Keeps x0 (replayTimer k b) := by
  unfold replayTimer
  repeat' (first
    | with_reducible assumption | (with_reducible apply resendAll_keeps)
    | (with_reducible refine Keeps.foldl _ ?_ (fun b r h => ?_)) | (fail_if_no_progress extract_lets)
    | (fail_if_no_progress intros) | (with_reducible apply Keeps.ite) | split | (dsimp only)
    | (dsimp +zetaDelta only) | (fail_if_no_progress (with_reducible apply Keeps.lit))
    | (fail_if_no_progress (with_reducible apply Keeps.filter))
    | (with_reducible refine Keeps.of_pair (by assumption) ?_))

theorem idleFlit_keeps {x0 : Blk} (k : Nat) (f : Flit) {b : Blk} (hk : Keeps x0 b) : Keeps x0 (idleFlit k f b) := by
  unfold idleFlit
  repeat' (first
    | with_reducible assumption | (with_reducible apply countCodewords_keeps)
    | (with_reducible refine Keeps.foldl _ ?_ (fun b r h => ?_)) | (fail_if_no_progress extract_lets)
    | (fail_if_no_progress intros) | (with_reducible apply Keeps.ite) | split | (dsimp only)
    | (dsimp +zetaDelta only) | (fail_if_no_progress (with_reducible apply Keeps.lit))
    | (fail_if_no_progress (with_reducible apply Keeps.filter))
    | (with_reducible refine Keeps.of_pair (by assumption) ?_))

theorem takeHandover_keeps {x0 : Blk} (k failed : Nat) (lastSeq : BitVec 12) {b : Blk} (hk : Keeps x0 b) :
    Keeps x0 (takeHandover k failed lastSeq b) := by
  unfold takeHandover
  repeat' (first
    | with_reducible assumption | (with_reducible apply acceptFlit_keeps) | (with_reducible apply failPort_keeps)
    | (with_reducible apply updPort_keeps) | (with_reducible apply countAdd_keeps)
    | (with_reducible refine Keeps.foldl _ ?_ (fun b r h => ?_)) | (fail_if_no_progress extract_lets)
    | (fail_if_no_progress intros) | (with_reducible apply Keeps.ite) | split | (dsimp only)
    | (dsimp +zetaDelta only) | (fail_if_no_progress (with_reducible apply Keeps.lit))
    | (fail_if_no_progress (with_reducible apply Keeps.filter))
    | (with_reducible refine Keeps.of_pair (by assumption) ?_))

theorem takeStandby_keeps {x0 : Blk} (k : Nat) {b : Blk} (hk : Keeps x0 b) : Keeps x0 (takeStandby k b) := by
  unfold takeStandby
  repeat' (first
    | with_reducible assumption | (with_reducible apply acceptFlit_keeps) | (with_reducible apply transmit_keeps)
    | (with_reducible apply enterStandby_keeps) | (with_reducible apply updPort_keeps)
    | (with_reducible refine Keeps.foldl _ ?_ (fun b r h => ?_)) | (fail_if_no_progress extract_lets)
    | (fail_if_no_progress intros) | (with_reducible apply Keeps.ite) | split | (dsimp only)
    | (dsimp +zetaDelta only) | (fail_if_no_progress (with_reducible apply Keeps.lit))
    | (fail_if_no_progress (with_reducible apply Keeps.filter))
    | (with_reducible refine Keeps.of_pair (by assumption) ?_))

theorem linkWake_keeps {x0 : Blk} (k : Nat) {b : Blk} (hk : Keeps x0 b) : Keeps x0 (linkWake k b) := by
  unfold linkWake
  repeat' (first
    | with_reducible assumption | (with_reducible apply portPower_keeps) | (with_reducible apply updPort_keeps)
    | (with_reducible refine Keeps.foldl _ ?_ (fun b r h => ?_))
    | (with_reducible refine Keeps.foldlFst _ ?_ (fun b r h => ?_)) | (fail_if_no_progress extract_lets)
    | (fail_if_no_progress intros) | (with_reducible apply Keeps.ite) | split | (dsimp only)
    | (dsimp +zetaDelta only) | (fail_if_no_progress (with_reducible apply Keeps.lit))
    | (fail_if_no_progress (with_reducible apply Keeps.filter))
    | (with_reducible refine Keeps.of_pair (by assumption) ?_))

theorem setGalleryActive_keeps {x0 : Blk} (agree : List Bool) (logD : Nat) {b : Blk} (hk : Keeps x0 b) :
    Keeps x0 (setGalleryActive agree logD b) := by
  unfold setGalleryActive
  repeat' (first
    | with_reducible assumption | (with_reducible refine Keeps.foldl _ ?_ (fun b r h => ?_))
    | (with_reducible refine Keeps.foldlFst _ ?_ (fun b r h => ?_)) | (fail_if_no_progress extract_lets)
    | (fail_if_no_progress intros) | (with_reducible apply Keeps.ite) | split | (dsimp only)
    | (dsimp +zetaDelta only) | (fail_if_no_progress (with_reducible apply Keeps.lit))
    | (fail_if_no_progress (with_reducible apply Keeps.filter))
    | (with_reducible refine Keeps.of_pair (by assumption) ?_))

theorem takeMembers_keeps {x0 : Blk} (members : Nat) (s : PeerStates) {b : Blk} (hk : Keeps x0 b) :
    Keeps x0 (takeMembers members s b) := by
  unfold takeMembers
  repeat' (first
    | with_reducible assumption | (with_reducible apply setGalleryActive_keeps)
    | (with_reducible apply setEpochTo_keeps) | (with_reducible apply releaseHeld_keeps)
    | (with_reducible apply raiseAlert_keeps) | (with_reducible apply sumpPut_keeps)
    | (with_reducible refine Keeps.foldl _ ?_ (fun b r h => ?_)) | (fail_if_no_progress extract_lets)
    | (fail_if_no_progress intros) | (with_reducible apply Keeps.ite) | split | (dsimp only)
    | (dsimp +zetaDelta only) | (fail_if_no_progress (with_reducible apply Keeps.lit))
    | (fail_if_no_progress (with_reducible apply Keeps.filter))
    | (with_reducible refine Keeps.of_pair (by assumption) ?_))

theorem discovery_keeps {x0 : Blk} (st : PeerStates) {b : Blk} (hk : Keeps x0 b) : Keeps x0 (discovery st b) := by
  unfold discovery
  repeat' (first
    | with_reducible assumption | (with_reducible apply setGalleryActive_keeps)
    | (with_reducible apply takeMembers_keeps) | (with_reducible refine Keeps.foldl _ ?_ (fun b r h => ?_))
    | (fail_if_no_progress extract_lets) | (fail_if_no_progress intros) | (with_reducible apply Keeps.ite) | split
    | (dsimp only) | (dsimp +zetaDelta only) | (fail_if_no_progress (with_reducible apply Keeps.lit))
    | (fail_if_no_progress (with_reducible apply Keeps.filter))
    | (with_reducible refine Keeps.of_pair (by assumption) ?_))

end Sys2Proof.Machine
end

