-- ==== Sys2Proof/Laws/KeepsVault.lean ====
section
/-! SUPPORT. What the Vault does, kept: quiescing, saving and restoring tiles, retirement, and commits. -/
namespace Sys2Proof.Machine

theorem runWhole_keeps {x0 : Blk} (c : Cmd) {b : Blk} (hk : Keeps x0 b) : Keeps x0 (runWhole c b) := by
  unfold runWhole
  repeat' (first
    | with_reducible assumption | (with_reducible apply inCtx_keeps) | (with_reducible apply rowDenied_keeps)
    | (with_reducible apply rowHalt_keeps) | (with_reducible apply rowCommit_keeps)
    | (with_reducible apply commitUnit_keeps) | (with_reducible refine Keeps.foldl _ ?_ (fun b r h => ?_))
    | (with_reducible refine Keeps.foldlFst _ ?_ (fun b r h => ?_)) | (fail_if_no_progress extract_lets)
    | (fail_if_no_progress intros) | (with_reducible apply Keeps.ite) | split | (dsimp only)
    | (dsimp +zetaDelta only) | (fail_if_no_progress (with_reducible apply Keeps.lit))
    | (fail_if_no_progress (with_reducible apply Keeps.filter))
    | (with_reducible refine Keeps.of_pair (by assumption) ?_))

theorem settleRows_keeps {x0 : Blk} (id : Nat) {b : Blk} (hk : Keeps x0 b) : Keeps x0 (settleRows id b) := by
  unfold settleRows
  repeat' (first
    | with_reducible assumption | (with_reducible apply rowCommit_keeps) | (with_reducible apply rowDenied_keeps)
    | (with_reducible apply haltRows_keeps) | (with_reducible refine Keeps.foldl _ ?_ (fun b r h => ?_))
    | (with_reducible refine Keeps.foldlFst _ ?_ (fun b r h => ?_)) | (fail_if_no_progress extract_lets)
    | (fail_if_no_progress intros) | (with_reducible apply Keeps.ite) | split | (dsimp only)
    | (dsimp +zetaDelta only) | (fail_if_no_progress (with_reducible apply Keeps.lit))
    | (fail_if_no_progress (with_reducible apply Keeps.filter))
    | (with_reducible refine Keeps.of_pair (by assumption) ?_))

theorem settleOne_keeps {x0 : Blk} (tiles : List Nat) (id : Nat) {b : Blk} (hk : Keeps x0 b) :
    Keeps x0 (settleOne tiles id b) := by
  unfold settleOne
  repeat' (first
    | with_reducible assumption | (with_reducible apply runWhole_keeps) | (with_reducible apply inCtx_keeps)
    | (with_reducible apply settleRows_keeps) | (with_reducible apply haltCmd_keeps)
    | (with_reducible apply releaseApply_keeps) | (with_reducible refine Keeps.foldl _ ?_ (fun b r h => ?_))
    | (fail_if_no_progress extract_lets) | (fail_if_no_progress intros) | (with_reducible apply Keeps.ite) | split
    | (dsimp only) | (dsimp +zetaDelta only) | (fail_if_no_progress (with_reducible apply Keeps.lit))
    | (fail_if_no_progress (with_reducible apply Keeps.filter))
    | (with_reducible refine Keeps.of_pair (by assumption) ?_))

theorem settleTiles_keeps {x0 : Blk} (tiles : List Nat) {b : Blk} (hk : Keeps x0 b) :
    Keeps x0 (settleTiles tiles b) := by
  unfold settleTiles
  repeat' (first
    | with_reducible assumption | (with_reducible apply settleOne_keeps)
    | (with_reducible refine Keeps.foldl _ ?_ (fun b r h => ?_))
    | (with_reducible refine Keeps.foldlFst _ ?_ (fun b r h => ?_)) | (fail_if_no_progress extract_lets)
    | (fail_if_no_progress intros) | (with_reducible apply Keeps.ite) | split | (dsimp only)
    | (dsimp +zetaDelta only) | (fail_if_no_progress (with_reducible apply Keeps.lit))
    | (fail_if_no_progress (with_reducible apply Keeps.filter))
    | (with_reducible refine Keeps.of_pair (by assumption) ?_))

theorem whenQuiet_keeps {x0 : Blk} (tiles : List Nat) (act : Blk → Blk) {b : Blk} (hk : Keeps x0 b) (hact : ∀ b, Keeps x0 b → Keeps x0 (act b)) :
    Keeps x0 (whenQuiet tiles act b) := by
  unfold whenQuiet
  repeat' (first
    | with_reducible assumption | (with_reducible apply settleTiles_keeps) | (with_reducible apply hact)
    | (with_reducible refine Keeps.foldl _ ?_ (fun b r h => ?_)) | (fail_if_no_progress extract_lets)
    | (fail_if_no_progress intros) | (with_reducible apply Keeps.ite) | split | (dsimp only)
    | (dsimp +zetaDelta only) | (fail_if_no_progress (with_reducible apply Keeps.lit))
    | (fail_if_no_progress (with_reducible apply Keeps.filter))
    | (with_reducible refine Keeps.of_pair (by assumption) ?_))

theorem eachVaultHalt_keeps {x0 : Blk} (p : Nat) (tiles : List Nat) (act : Cmd → Blk → Blk) {b : Blk} (hk : Keeps x0 b) (hact : ∀ a0 b, Keeps x0 b → Keeps x0 (act a0 b)) :
    Keeps x0 (eachVaultHalt p tiles act b) := by
  unfold eachVaultHalt
  repeat' (first
    | with_reducible assumption | (with_reducible apply hact)
    | (with_reducible refine Keeps.foldl _ ?_ (fun b r h => ?_))
    | (with_reducible refine Keeps.foldlFst _ ?_ (fun b r h => ?_)) | (fail_if_no_progress extract_lets)
    | (fail_if_no_progress intros) | (with_reducible apply Keeps.ite) | split | (dsimp only)
    | (dsimp +zetaDelta only) | (fail_if_no_progress (with_reducible apply Keeps.lit))
    | (fail_if_no_progress (with_reducible apply Keeps.filter))
    | (with_reducible refine Keeps.of_pair (by assumption) ?_))

theorem vaultResume_keeps {x0 : Blk} (p : Nat) (tiles : List Nat) {b : Blk} (hk : Keeps x0 b) :
    Keeps x0 (vaultResume p tiles b) := by
  unfold vaultResume
  repeat' (first
    | with_reducible assumption | (with_reducible apply eachVaultHalt_keeps) | (with_reducible apply inCtx_keeps)
    | (with_reducible apply resumeHalted_keeps) | (with_reducible apply vaultResumeStreams_keeps)
    | (with_reducible refine Keeps.foldl _ ?_ (fun b r h => ?_)) | (fail_if_no_progress extract_lets)
    | (fail_if_no_progress intros) | (with_reducible apply Keeps.ite) | split | (dsimp only)
    | (dsimp +zetaDelta only) | (fail_if_no_progress (with_reducible apply Keeps.lit))
    | (fail_if_no_progress (with_reducible apply Keeps.filter))
    | (with_reducible refine Keeps.of_pair (by assumption) ?_))

theorem copyKeys_keeps {x b : Blk} (src dst n : Nat) (h : Keeps x b) : Keeps x (copyKeys src dst n b) :=
  h.of_mem rfl (memWf_memCopy _ _ _) rfl rfl

theorem chargeImage_keeps {x0 : Blk} (p a n : Nat) {b : Blk} (hk : Keeps x0 b) : Keeps x0 (chargeImage p a n b) := by
  unfold chargeImage
  repeat' (first
    | with_reducible assumption | (with_reducible apply chargeContext_keeps)
    | (with_reducible refine Keeps.foldl _ ?_ (fun b r h => ?_))
    | (with_reducible refine Keeps.foldlFst _ ?_ (fun b r h => ?_)) | (fail_if_no_progress extract_lets)
    | (fail_if_no_progress intros) | (with_reducible apply Keeps.ite) | split | (dsimp only)
    | (dsimp +zetaDelta only) | (fail_if_no_progress (with_reducible apply Keeps.lit))
    | (fail_if_no_progress (with_reducible apply Keeps.filter))
    | (with_reducible refine Keeps.of_pair (by assumption) ?_))

theorem saveTile_keeps {x0 : Blk} (o t p seq base : Nat) (unreadable : List Nat) {b : Blk} (hk : Keeps x0 b) :
    Keeps x0 (saveTile o t p seq base unreadable b) := by
  unfold saveTile
  repeat' (first
    | with_reducible assumption | (with_reducible apply chargeImage_keeps) | (with_reducible apply dropLines_keeps)
    | (with_reducible apply zeroKeys_keeps) | (with_reducible apply inCtx_keeps)
    | (with_reducible apply writeBytes_keeps) | (with_reducible apply copyKeys_keeps)
    | (with_reducible refine Keeps.foldl _ ?_ (fun b r h => ?_))
    | (with_reducible refine Keeps.foldlFst _ ?_ (fun b r h => ?_)) | (fail_if_no_progress extract_lets)
    | (fail_if_no_progress intros) | (with_reducible apply Keeps.ite) | split | (dsimp only)
    | (dsimp +zetaDelta only) | (fail_if_no_progress (with_reducible apply Keeps.lit))
    | (fail_if_no_progress (with_reducible apply Keeps.filter))
    | (with_reducible refine Keeps.of_pair (by assumption) ?_))

theorem saveTiles_keeps {x0 : Blk} (p : Nat) (r : PartRec) (tiles unreadable : List Nat) {b : Blk} (hk : Keeps x0 b) :
    Keeps x0 (saveTiles p r tiles unreadable b) := by
  unfold saveTiles
  repeat' (first
    | with_reducible assumption | (with_reducible apply saveTile_keeps)
    | (with_reducible refine Keeps.foldl _ ?_ (fun b r h => ?_))
    | (with_reducible refine Keeps.foldlFst _ ?_ (fun b r h => ?_)) | (fail_if_no_progress extract_lets)
    | (fail_if_no_progress intros) | (with_reducible apply Keeps.ite) | split | (dsimp only)
    | (dsimp +zetaDelta only) | (fail_if_no_progress (with_reducible apply Keeps.lit))
    | (fail_if_no_progress (with_reducible apply Keeps.filter))
    | (with_reducible refine Keeps.of_pair (by assumption) ?_))

theorem loadImage_keeps {x0 : Blk} (o p : Nat) (s : Saved) {b : Blk} (hk : Keeps x0 b) :
    Keeps x0 (loadImage o p s b) := by
  unfold loadImage
  repeat' (first
    | with_reducible assumption | (with_reducible apply copyKeys_keeps) | (with_reducible apply updReg_keeps)
    | (with_reducible refine Keeps.foldl _ ?_ (fun b r h => ?_))
    | (with_reducible refine Keeps.foldlFst _ ?_ (fun b r h => ?_)) | (fail_if_no_progress extract_lets)
    | (fail_if_no_progress intros) | (with_reducible apply Keeps.ite) | split | (dsimp only)
    | (dsimp +zetaDelta only) | (fail_if_no_progress (with_reducible apply Keeps.lit))
    | (fail_if_no_progress (with_reducible apply Keeps.filter))
    | (with_reducible refine Keeps.of_pair (by assumption) ?_))

theorem restoreTile_keeps {x0 : Blk} (p t : Nat) {b : Blk} (hk : Keeps x0 b) : Keeps x0 (restoreTile p t b) := by
  unfold restoreTile
  repeat' (first
    | with_reducible assumption | (with_reducible apply chargeImage_keeps) | (with_reducible apply loadImage_keeps)
    | (with_reducible apply addNotice_keeps) | (with_reducible refine Keeps.foldl _ ?_ (fun b r h => ?_))
    | (fail_if_no_progress extract_lets) | (fail_if_no_progress intros) | (with_reducible apply Keeps.ite) | split
    | (dsimp only) | (dsimp +zetaDelta only) | (fail_if_no_progress (with_reducible apply Keeps.lit))
    | (fail_if_no_progress (with_reducible apply Keeps.filter))
    | (with_reducible refine Keeps.of_pair (by assumption) ?_))

theorem zeroiseTiles_keeps {x0 : Blk} (tiles : List Nat) {b : Blk} (hk : Keeps x0 b) :
    Keeps x0 (zeroiseTiles tiles b) := by
  unfold zeroiseTiles
  repeat' (first
    | with_reducible assumption | (with_reducible apply zeroiseTile_keeps)
    | (with_reducible refine Keeps.foldl _ ?_ (fun b r h => ?_))
    | (with_reducible refine Keeps.foldlFst _ ?_ (fun b r h => ?_)) | (fail_if_no_progress extract_lets)
    | (fail_if_no_progress intros) | (with_reducible apply Keeps.ite) | split | (dsimp only)
    | (dsimp +zetaDelta only) | (fail_if_no_progress (with_reducible apply Keeps.lit))
    | (fail_if_no_progress (with_reducible apply Keeps.filter))
    | (with_reducible refine Keeps.of_pair (by assumption) ?_))

theorem switchTo_keeps {x0 : Blk} (p o : Nat) (tiles : List Nat) {b : Blk} (hk : Keeps x0 b) :
    Keeps x0 (switchTo p o tiles b) := by
  unfold switchTo
  repeat' (first
    | with_reducible assumption | (with_reducible apply vaultHaltStreams_keeps)
    | (with_reducible apply saveTiles_keeps) | (with_reducible apply restoreTile_keeps)
    | (with_reducible apply zeroiseTiles_keeps) | (with_reducible apply vaultResume_keeps)
    | (with_reducible refine Keeps.foldl _ ?_ (fun b r h => ?_))
    | (with_reducible refine Keeps.foldlFst _ ?_ (fun b r h => ?_)) | (fail_if_no_progress extract_lets)
    | (fail_if_no_progress intros) | (with_reducible apply Keeps.ite) | split | (dsimp only)
    | (dsimp +zetaDelta only) | (fail_if_no_progress (with_reducible apply Keeps.lit))
    | (fail_if_no_progress (with_reducible apply Keeps.filter))
    | (with_reducible refine Keeps.of_pair (by assumption) ?_))

theorem applyTurns_keeps {x0 : Blk} {b : Blk} (hk : Keeps x0 b) : Keeps x0 (applyTurns b) := by
  unfold applyTurns
  repeat' (first
    | with_reducible assumption | (with_reducible apply whenQuiet_keeps) | (with_reducible apply switchTo_keeps)
    | (with_reducible refine Keeps.foldl _ ?_ (fun b r h => ?_))
    | (with_reducible refine Keeps.foldlFst _ ?_ (fun b r h => ?_)) | (fail_if_no_progress extract_lets)
    | (fail_if_no_progress intros) | (with_reducible apply Keeps.ite) | split | (dsimp only)
    | (dsimp +zetaDelta only) | (fail_if_no_progress (with_reducible apply Keeps.lit))
    | (fail_if_no_progress (with_reducible apply Keeps.filter))
    | (with_reducible refine Keeps.of_pair (by assumption) ?_))

theorem timeSlice_keeps {x0 : Blk} (p : Nat) {b : Blk} (hk : Keeps x0 b) : Keeps x0 (timeSlice p b) := by
  unfold timeSlice
  repeat' (first
    | with_reducible assumption | (with_reducible apply applyTurns_keeps)
    | (with_reducible refine Keeps.foldl _ ?_ (fun b r h => ?_)) | (fail_if_no_progress extract_lets)
    | (fail_if_no_progress intros) | (with_reducible apply Keeps.ite) | split | (dsimp only)
    | (dsimp +zetaDelta only) | (fail_if_no_progress (with_reducible apply Keeps.lit))
    | (fail_if_no_progress (with_reducible apply Keeps.filter))
    | (with_reducible refine Keeps.of_pair (by assumption) ?_))

theorem setPhysState_keeps {x0 : Blk} (p v : Nat) {b : Blk} (hk : Keeps x0 b) : Keeps x0 (setPhysState p v b) := by
  unfold setPhysState
  repeat' (first
    | with_reducible assumption | (with_reducible refine Keeps.foldl _ ?_ (fun b r h => ?_))
    | (fail_if_no_progress extract_lets) | (fail_if_no_progress intros) | (with_reducible apply Keeps.ite) | split
    | (dsimp only) | (dsimp +zetaDelta only) | (fail_if_no_progress (with_reducible apply Keeps.lit))
    | (fail_if_no_progress (with_reducible apply Keeps.filter))
    | (with_reducible refine Keeps.of_pair (by assumption) ?_))

theorem bindTile_keeps {x0 : Blk} (t p : Nat) {b : Blk} (hk : Keeps x0 b) : Keeps x0 (bindTile t p b) := by
  unfold bindTile
  repeat' (first
    | with_reducible assumption | (with_reducible apply setPhysState_keeps)
    | (with_reducible refine Keeps.foldl _ ?_ (fun b r h => ?_)) | (fail_if_no_progress extract_lets)
    | (fail_if_no_progress intros) | (with_reducible apply Keeps.ite) | split | (dsimp only)
    | (dsimp +zetaDelta only) | (fail_if_no_progress (with_reducible apply Keeps.lit))
    | (fail_if_no_progress (with_reducible apply Keeps.filter))
    | (with_reducible refine Keeps.of_pair (by assumption) ?_))

theorem unbindTile_keeps {x0 : Blk} (t : Nat) {b : Blk} (hk : Keeps x0 b) : Keeps x0 (unbindTile t b) := by
  unfold unbindTile
  repeat' (first
    | with_reducible assumption | (with_reducible refine Keeps.foldl _ ?_ (fun b r h => ?_))
    | (fail_if_no_progress extract_lets) | (fail_if_no_progress intros) | (with_reducible apply Keeps.ite) | split
    | (dsimp only) | (dsimp +zetaDelta only) | (fail_if_no_progress (with_reducible apply Keeps.lit))
    | (fail_if_no_progress (with_reducible apply Keeps.filter))
    | (with_reducible refine Keeps.of_pair (by assumption) ?_))

theorem copyFrames_keeps {x0 : Blk} (p s : Nat) (unreadable : List Nat) {b : Blk} (hk : Keeps x0 b) :
    Keeps x0 (copyFrames p s unreadable b) := by
  unfold copyFrames
  repeat' (first
    | with_reducible assumption | (with_reducible apply copyKeys_keeps) | (with_reducible apply updReg_keeps)
    | (with_reducible refine Keeps.foldl _ ?_ (fun b r h => ?_))
    | (with_reducible refine Keeps.foldlFst _ ?_ (fun b r h => ?_)) | (fail_if_no_progress extract_lets)
    | (fail_if_no_progress intros) | (with_reducible apply Keeps.ite) | split | (dsimp only)
    | (dsimp +zetaDelta only) | (fail_if_no_progress (with_reducible apply Keeps.lit))
    | (fail_if_no_progress (with_reducible apply Keeps.filter))
    | (with_reducible refine Keeps.of_pair (by assumption) ?_))

theorem moveTile_keeps {x0 : Blk} (t p s cause : Nat) (unreadable : List Nat) {b : Blk} (hk : Keeps x0 b) :
    Keeps x0 (moveTile t p s cause unreadable b) := by
  unfold moveTile
  repeat' (first
    | with_reducible assumption | (with_reducible apply copyFrames_keeps) | (with_reducible apply zeroiseTile_keeps)
    | (with_reducible apply addNotice_keeps) | (with_reducible apply newEpoch_keeps)
    | (with_reducible apply bindTile_keeps) | (with_reducible refine Keeps.foldl _ ?_ (fun b r h => ?_))
    | (with_reducible refine Keeps.foldlFst _ ?_ (fun b r h => ?_)) | (fail_if_no_progress extract_lets)
    | (fail_if_no_progress intros) | (with_reducible apply Keeps.ite) | split | (dsimp only)
    | (dsimp +zetaDelta only) | (fail_if_no_progress (with_reducible apply Keeps.lit))
    | (fail_if_no_progress (with_reducible apply Keeps.filter))
    | (with_reducible refine Keeps.of_pair (by assumption) ?_))

theorem whileHalted_keeps {x0 : Blk} (tiles : List Nat) (act : Blk → Blk) {b : Blk} (hk : Keeps x0 b) (hact : ∀ b, Keeps x0 b → Keeps x0 (act b)) :
    Keeps x0 (whileHalted tiles act b) := by
  unfold whileHalted
  repeat' (first
    | with_reducible assumption | (with_reducible apply vaultHaltStreams_keeps)
    | (with_reducible apply vaultResume_keeps) | (with_reducible apply hact)
    | (with_reducible refine Keeps.foldl _ ?_ (fun b r h => ?_))
    | (with_reducible refine Keeps.foldlFst _ ?_ (fun b r h => ?_)) | (fail_if_no_progress extract_lets)
    | (fail_if_no_progress intros) | (with_reducible apply Keeps.ite) | split | (dsimp only)
    | (dsimp +zetaDelta only) | (fail_if_no_progress (with_reducible apply Keeps.lit))
    | (fail_if_no_progress (with_reducible apply Keeps.filter))
    | (with_reducible refine Keeps.of_pair (by assumption) ?_))

theorem failTile_keeps {x0 : Blk} (p : Nat) {b : Blk} (hk : Keeps x0 b) : Keeps x0 (failTile p b) := by
  unfold failTile
  repeat' (first
    | with_reducible assumption | (with_reducible apply setPhysState_keeps)
    | (with_reducible apply zeroiseTile_keeps) | (with_reducible refine Keeps.foldl _ ?_ (fun b r h => ?_))
    | (fail_if_no_progress extract_lets) | (fail_if_no_progress intros) | (with_reducible apply Keeps.ite) | split
    | (dsimp only) | (dsimp +zetaDelta only) | (fail_if_no_progress (with_reducible apply Keeps.lit))
    | (fail_if_no_progress (with_reducible apply Keeps.filter))
    | (with_reducible refine Keeps.of_pair (by assumption) ?_))

theorem retireRecord_keeps {x0 : Blk} (p t : Nat) (repl : Option Nat) (lost : List Nat) (left : Bool) {b : Blk} (hk : Keeps x0 b) :
    Keeps x0 (retireRecord p t repl lost left b) := by
  unfold retireRecord
  repeat' (first
    | with_reducible assumption | (with_reducible apply sumpPut_keeps)
    | (with_reducible refine Keeps.foldl _ ?_ (fun b r h => ?_)) | (fail_if_no_progress extract_lets)
    | (fail_if_no_progress intros) | (with_reducible apply Keeps.ite) | split | (dsimp only)
    | (dsimp +zetaDelta only) | (fail_if_no_progress (with_reducible apply Keeps.lit))
    | (fail_if_no_progress (with_reducible apply Keeps.filter))
    | (with_reducible refine Keeps.of_pair (by assumption) ?_))

theorem replaceTile_keeps {x0 : Blk} (t p s alert : Nat) (unreadable : List Nat) {b : Blk} (hk : Keeps x0 b) :
    Keeps x0 (replaceTile t p s alert unreadable b) := by
  unfold replaceTile
  repeat' (first
    | with_reducible assumption | (with_reducible apply failTile_keeps) | (with_reducible apply whileHalted_keeps)
    | (with_reducible apply raiseAlert_keeps) | (with_reducible apply retireRecord_keeps)
    | (with_reducible apply moveTile_keeps) | (with_reducible refine Keeps.foldl _ ?_ (fun b r h => ?_))
    | (fail_if_no_progress extract_lets) | (fail_if_no_progress intros) | (with_reducible apply Keeps.ite) | split
    | (dsimp only) | (dsimp +zetaDelta only) | (fail_if_no_progress (with_reducible apply Keeps.lit))
    | (fail_if_no_progress (with_reducible apply Keeps.filter))
    | (with_reducible refine Keeps.of_pair (by assumption) ?_))

theorem leavePorts_keeps {x0 : Blk} (ps : List Nat) (t : Nat) {b : Blk} (hk : Keeps x0 b) :
    Keeps x0 (leavePorts ps t b) := by
  unfold leavePorts
  repeat' (first
    | with_reducible assumption | (with_reducible refine Keeps.foldl _ ?_ (fun b r h => ?_))
    | (with_reducible refine Keeps.foldlFst _ ?_ (fun b r h => ?_)) | (fail_if_no_progress extract_lets)
    | (fail_if_no_progress intros) | (with_reducible apply Keeps.ite) | split | (dsimp only)
    | (dsimp +zetaDelta only) | (fail_if_no_progress (with_reducible apply Keeps.lit))
    | (fail_if_no_progress (with_reducible apply Keeps.filter))
    | (with_reducible refine Keeps.of_pair (by assumption) ?_))

theorem endTileStreams_keeps {x0 : Blk} (t : Nat) {b : Blk} (hk : Keeps x0 b) : Keeps x0 (endTileStreams t b) := by
  unfold endTileStreams
  repeat' (first
    | with_reducible assumption | (with_reducible apply endStream_keeps)
    | (with_reducible refine Keeps.foldl _ ?_ (fun b r h => ?_))
    | (with_reducible refine Keeps.foldlFst _ ?_ (fun b r h => ?_)) | (fail_if_no_progress extract_lets)
    | (fail_if_no_progress intros) | (with_reducible apply Keeps.ite) | split | (dsimp only)
    | (dsimp +zetaDelta only) | (fail_if_no_progress (with_reducible apply Keeps.lit))
    | (fail_if_no_progress (with_reducible apply Keeps.filter))
    | (with_reducible refine Keeps.of_pair (by assumption) ?_))

theorem vacateTile_keeps {x0 : Blk} (t : Nat) (lost : List Nat) {b : Blk} (hk : Keeps x0 b) :
    Keeps x0 (vacateTile t lost b) := by
  unfold vacateTile
  repeat' (first
    | with_reducible assumption | (with_reducible apply saveTiles_keeps)
    | (with_reducible apply eachVaultHalt_keeps) | (with_reducible apply discardCmd_keeps)
    | (with_reducible apply endTileStreams_keeps) | (with_reducible refine Keeps.foldl _ ?_ (fun b r h => ?_))
    | (with_reducible refine Keeps.foldlFst _ ?_ (fun b r h => ?_)) | (fail_if_no_progress extract_lets)
    | (fail_if_no_progress intros) | (with_reducible apply Keeps.ite) | split | (dsimp only)
    | (dsimp +zetaDelta only) | (fail_if_no_progress (with_reducible apply Keeps.lit))
    | (fail_if_no_progress (with_reducible apply Keeps.filter))
    | (with_reducible refine Keeps.of_pair (by assumption) ?_))

theorem loseTile_keeps {x0 : Blk} (t p : Nat) (unreadable : List Nat) {b : Blk} (hk : Keeps x0 b) :
    Keeps x0 (loseTile t p unreadable b) := by
  unfold loseTile
  repeat' (first
    | with_reducible assumption | (with_reducible apply unbindTile_keeps) | (with_reducible apply leavePorts_keeps)
    | (with_reducible apply vacateTile_keeps) | (with_reducible apply failTile_keeps)
    | (with_reducible apply raiseAlert_keeps) | (with_reducible apply retireRecord_keeps)
    | (with_reducible apply newEpoch_keeps) | (with_reducible refine Keeps.foldl _ ?_ (fun b r h => ?_))
    | (fail_if_no_progress extract_lets) | (fail_if_no_progress intros) | (with_reducible apply Keeps.ite) | split
    | (dsimp only) | (dsimp +zetaDelta only) | (fail_if_no_progress (with_reducible apply Keeps.lit))
    | (fail_if_no_progress (with_reducible apply Keeps.filter))
    | (with_reducible refine Keeps.of_pair (by assumption) ?_))

theorem retireTile_keeps {x0 : Blk} (p : Nat) (unreadable : List Nat) {b : Blk} (hk : Keeps x0 b) :
    Keeps x0 (retireTile p unreadable b) := by
  unfold retireTile
  repeat' (first
    | with_reducible assumption | (with_reducible apply whenQuiet_keeps) | (with_reducible apply loseTile_keeps)
    | (with_reducible apply replaceTile_keeps) | (with_reducible apply unbindTile_keeps)
    | (with_reducible refine Keeps.foldl _ ?_ (fun b r h => ?_)) | (fail_if_no_progress extract_lets)
    | (fail_if_no_progress intros) | (with_reducible apply Keeps.ite) | split | (dsimp only)
    | (dsimp +zetaDelta only) | (fail_if_no_progress (with_reducible apply Keeps.lit))
    | (fail_if_no_progress (with_reducible apply Keeps.filter))
    | (with_reducible refine Keeps.of_pair (by assumption) ?_))

theorem applyRetire_keeps {x0 : Blk} {b : Blk} (hk : Keeps x0 b) : Keeps x0 (applyRetire b) := by
  unfold applyRetire
  repeat' (first
    | with_reducible assumption | (with_reducible apply retireTile_keeps)
    | (with_reducible refine Keeps.foldl _ ?_ (fun b r h => ?_))
    | (with_reducible refine Keeps.foldlFst _ ?_ (fun b r h => ?_)) | (fail_if_no_progress extract_lets)
    | (fail_if_no_progress intros) | (with_reducible apply Keeps.ite) | split | (dsimp only)
    | (dsimp +zetaDelta only) | (fail_if_no_progress (with_reducible apply Keeps.lit))
    | (fail_if_no_progress (with_reducible apply Keeps.filter))
    | (with_reducible refine Keeps.of_pair (by assumption) ?_))

theorem tileRetire_keeps {x0 : Blk} (p : Nat) (unreadable : List Nat) {b : Blk} (hk : Keeps x0 b) :
    Keeps x0 (tileRetire p unreadable b) := by
  unfold tileRetire
  repeat' (first
    | with_reducible assumption | (with_reducible apply retireTile_keeps)
    | (with_reducible refine Keeps.foldl _ ?_ (fun b r h => ?_)) | (fail_if_no_progress extract_lets)
    | (fail_if_no_progress intros) | (with_reducible apply Keeps.ite) | split | (dsimp only)
    | (dsimp +zetaDelta only) | (fail_if_no_progress (with_reducible apply Keeps.lit))
    | (fail_if_no_progress (with_reducible apply Keeps.filter))
    | (with_reducible refine Keeps.of_pair (by assumption) ?_))

theorem leaveGallery_keeps {x0 : Blk} (t : Nat) {b : Blk} (hk : Keeps x0 b) : Keeps x0 (leaveGallery t b) := by
  unfold leaveGallery
  repeat' (first
    | with_reducible assumption | (with_reducible apply zeroiseTiles_keeps)
    | (with_reducible apply leavePorts_keeps) | (with_reducible apply vacateTile_keeps)
    | (with_reducible refine Keeps.foldl _ ?_ (fun b r h => ?_)) | (fail_if_no_progress extract_lets)
    | (fail_if_no_progress intros) | (with_reducible apply Keeps.ite) | split | (dsimp only)
    | (dsimp +zetaDelta only) | (fail_if_no_progress (with_reducible apply Keeps.lit))
    | (fail_if_no_progress (with_reducible apply Keeps.filter))
    | (with_reducible refine Keeps.of_pair (by assumption) ?_))

theorem applyLeave_keeps {x0 : Blk} {b : Blk} (hk : Keeps x0 b) : Keeps x0 (applyLeave b) := by
  unfold applyLeave
  repeat' (first
    | with_reducible assumption | (with_reducible apply whenQuiet_keeps) | (with_reducible apply leaveGallery_keeps)
    | (with_reducible refine Keeps.foldl _ ?_ (fun b r h => ?_))
    | (with_reducible refine Keeps.foldlFst _ ?_ (fun b r h => ?_)) | (fail_if_no_progress extract_lets)
    | (fail_if_no_progress intros) | (with_reducible apply Keeps.ite) | split | (dsimp only)
    | (dsimp +zetaDelta only) | (fail_if_no_progress (with_reducible apply Keeps.lit))
    | (fail_if_no_progress (with_reducible apply Keeps.filter))
    | (with_reducible refine Keeps.of_pair (by assumption) ?_))

theorem takeNews_keeps {x0 : Blk} (n : VaultNews) {b : Blk} (hk : Keeps x0 b) : Keeps x0 (takeNews n b) := by
  unfold takeNews
  repeat' (first
    | with_reducible assumption | (with_reducible apply setGalleryActive_keeps)
    | (with_reducible apply setEpochTo_keeps) | (with_reducible apply applyLeave_keeps)
    | (with_reducible refine Keeps.foldl _ ?_ (fun b r h => ?_)) | (fail_if_no_progress extract_lets)
    | (fail_if_no_progress intros) | (with_reducible apply Keeps.ite) | split | (dsimp only)
    | (dsimp +zetaDelta only) | (fail_if_no_progress (with_reducible apply Keeps.lit))
    | (fail_if_no_progress (with_reducible apply Keeps.filter))
    | (with_reducible refine Keeps.of_pair (by assumption) ?_))

theorem takeMessage_keeps {x0 : Blk} (r : ReportBody) {b : Blk} (hk : Keeps x0 b) : Keeps x0 (takeMessage r b) := by
  unfold takeMessage
  repeat' (first
    | with_reducible assumption | (with_reducible apply takeNews_keeps) | (with_reducible apply landMail_keeps)
    | (with_reducible apply takeReport_keeps) | (with_reducible refine Keeps.foldl _ ?_ (fun b r h => ?_))
    | (fail_if_no_progress extract_lets) | (fail_if_no_progress intros) | (with_reducible apply Keeps.ite) | split
    | (dsimp only) | (dsimp +zetaDelta only) | (fail_if_no_progress (with_reducible apply Keeps.lit))
    | (fail_if_no_progress (with_reducible apply Keeps.filter))
    | (with_reducible refine Keeps.of_pair (by assumption) ?_))

theorem spareScrub_keeps {x0 : Blk} (bad : List Nat) {b : Blk} (hk : Keeps x0 b) : Keeps x0 (spareScrub bad b) := by
  unfold spareScrub
  repeat' (first
    | with_reducible assumption | (with_reducible apply raiseAlert_keeps) | (with_reducible apply sumpPut_keeps)
    | (with_reducible apply setPhysState_keeps) | (with_reducible refine Keeps.foldl _ ?_ (fun b r h => ?_))
    | (with_reducible refine Keeps.foldlFst _ ?_ (fun b r h => ?_)) | (fail_if_no_progress extract_lets)
    | (fail_if_no_progress intros) | (with_reducible apply Keeps.ite) | split | (dsimp only)
    | (dsimp +zetaDelta only) | (fail_if_no_progress (with_reducible apply Keeps.lit))
    | (fail_if_no_progress (with_reducible apply Keeps.filter))
    | (with_reducible refine Keeps.of_pair (by assumption) ?_))

theorem fwCopy_keeps {x : Blk} (a : Nat) {b : Blk} (h : Keeps x b) : Keeps x (fwCopy a b) := by
  unfold fwCopy
  extract_lets n b'
  have hb : Keeps x b' := zeroKeys_keeps _ _ h
  exact hb.of_mem rfl (memWf_memCopy _ _ _) rfl rfl

theorem loadFirmware_keeps {x0 : Blk} (readOk : Bool) {b : Blk} (hk : Keeps x0 b) :
    Keeps x0 (loadFirmware readOk b) := by
  unfold loadFirmware
  repeat' (first
    | with_reducible assumption | (with_reducible apply resetMaster_keeps) | (with_reducible apply fwCopy_keeps)
    | (with_reducible apply zeroKeys_keeps) | (with_reducible apply raiseAlert_keeps)
    | (with_reducible apply sumpPut_keeps) | (with_reducible refine Keeps.foldl _ ?_ (fun b r h => ?_))
    | (with_reducible refine Keeps.foldlFst _ ?_ (fun b r h => ?_)) | (fail_if_no_progress extract_lets)
    | (fail_if_no_progress intros) | (with_reducible apply Keeps.ite) | split | (dsimp only)
    | (dsimp +zetaDelta only) | (fail_if_no_progress (with_reducible apply Keeps.lit))
    | (fail_if_no_progress (with_reducible apply Keeps.filter))
    | (with_reducible refine Keeps.of_pair (by assumption) ?_))

theorem controlSramParity_keeps {x0 : Blk} (addr : Nat) (readOk : Bool) {b : Blk} (hk : Keeps x0 b) :
    Keeps x0 (controlSramParity addr readOk b) := by
  unfold controlSramParity
  repeat' (first
    | with_reducible assumption | (with_reducible apply raiseAlert_keeps) | (with_reducible apply sumpPut_keeps)
    | (with_reducible apply loadFirmware_keeps) | (with_reducible refine Keeps.foldl _ ?_ (fun b r h => ?_))
    | (fail_if_no_progress extract_lets) | (fail_if_no_progress intros) | (with_reducible apply Keeps.ite) | split
    | (dsimp only) | (dsimp +zetaDelta only) | (fail_if_no_progress (with_reducible apply Keeps.lit))
    | (fail_if_no_progress (with_reducible apply Keeps.filter))
    | (with_reducible refine Keeps.of_pair (by assumption) ?_))

theorem vaultSramParity_keeps {x0 : Blk} (addr : Nat) {b : Blk} (hk : Keeps x0 b) :
    Keeps x0 (vaultSramParity addr b) := by
  unfold vaultSramParity
  repeat' (first
    | with_reducible assumption | (with_reducible apply raiseAlert_keeps) | (with_reducible apply sumpPut_keeps)
    | (with_reducible refine Keeps.foldl _ ?_ (fun b r h => ?_)) | (fail_if_no_progress extract_lets)
    | (fail_if_no_progress intros) | (with_reducible apply Keeps.ite) | split | (dsimp only)
    | (dsimp +zetaDelta only) | (fail_if_no_progress (with_reducible apply Keeps.lit))
    | (fail_if_no_progress (with_reducible apply Keeps.filter))
    | (with_reducible refine Keeps.of_pair (by assumption) ?_))

theorem abortCmd_keeps {x0 : Blk} (c : Cmd) {b : Blk} (hk : Keeps x0 b) : Keeps x0 (abortCmd c b) := by
  unfold abortCmd
  repeat' (first
    | with_reducible assumption | (with_reducible apply finishCmd_keeps) | (with_reducible apply discardCmd_keeps)
    | (with_reducible apply galleryFails_keeps) | (with_reducible refine Keeps.foldl _ ?_ (fun b r h => ?_))
    | (fail_if_no_progress extract_lets) | (fail_if_no_progress intros) | (with_reducible apply Keeps.ite) | split
    | (dsimp only) | (dsimp +zetaDelta only) | (fail_if_no_progress (with_reducible apply Keeps.lit))
    | (fail_if_no_progress (with_reducible apply Keeps.filter))
    | (with_reducible refine Keeps.of_pair (by assumption) ?_))

theorem abortForwarded_keeps {x0 : Blk} (c : Cmd) {b : Blk} (hk : Keeps x0 b) : Keeps x0 (abortForwarded c b) := by
  unfold abortForwarded
  repeat' (first
    | with_reducible assumption | (with_reducible apply reportError_keeps)
    | (with_reducible refine Keeps.foldl _ ?_ (fun b r h => ?_)) | (fail_if_no_progress extract_lets)
    | (fail_if_no_progress intros) | (with_reducible apply Keeps.ite) | split | (dsimp only)
    | (dsimp +zetaDelta only) | (fail_if_no_progress (with_reducible apply Keeps.lit))
    | (fail_if_no_progress (with_reducible apply Keeps.filter))
    | (with_reducible refine Keeps.of_pair (by assumption) ?_))

theorem endCommands_keeps {x0 : Blk} (p : Nat) (records : Bool) {b : Blk} (hk : Keeps x0 b) :
    Keeps x0 (endCommands p records b) := by
  unfold endCommands
  repeat' (first
    | with_reducible assumption | (with_reducible apply abortForwarded_keeps)
    | (with_reducible apply abortCmd_keeps) | (with_reducible apply withdrawAll_keeps)
    | (with_reducible refine Keeps.foldl _ ?_ (fun b r h => ?_))
    | (with_reducible refine Keeps.foldlFst _ ?_ (fun b r h => ?_)) | (fail_if_no_progress extract_lets)
    | (fail_if_no_progress intros) | (with_reducible apply Keeps.ite) | split | (dsimp only)
    | (dsimp +zetaDelta only) | (fail_if_no_progress (with_reducible apply Keeps.lit))
    | (fail_if_no_progress (with_reducible apply Keeps.filter))
    | (with_reducible refine Keeps.of_pair (by assumption) ?_))

theorem abortWaits_keeps {x0 : Blk} (p : Nat) {b : Blk} (hk : Keeps x0 b) : Keeps x0 (abortWaits p b) := by
  unfold abortWaits
  repeat' (first
    | with_reducible assumption | (with_reducible apply grant_keeps) | (with_reducible apply finishCmd_keeps)
    | (with_reducible refine Keeps.foldl _ ?_ (fun b r h => ?_))
    | (with_reducible refine Keeps.foldlFst _ ?_ (fun b r h => ?_)) | (fail_if_no_progress extract_lets)
    | (fail_if_no_progress intros) | (with_reducible apply Keeps.ite) | split | (dsimp only)
    | (dsimp +zetaDelta only) | (fail_if_no_progress (with_reducible apply Keeps.lit))
    | (fail_if_no_progress (with_reducible apply Keeps.filter))
    | (with_reducible refine Keeps.of_pair (by assumption) ?_))

theorem clearModuli_keeps {x0 : Blk} (p : Nat) {b : Blk} (hk : Keeps x0 b) : Keeps x0 (clearModuli p b) := by
  unfold clearModuli
  repeat' (first
    | with_reducible assumption | (with_reducible refine Keeps.foldl _ ?_ (fun b r h => ?_))
    | (fail_if_no_progress extract_lets) | (fail_if_no_progress intros) | (with_reducible apply Keeps.ite) | split
    | (dsimp only) | (dsimp +zetaDelta only) | (fail_if_no_progress (with_reducible apply Keeps.lit))
    | (fail_if_no_progress (with_reducible apply Keeps.filter))
    | (with_reducible refine Keeps.of_pair (by assumption) ?_))

theorem clearFlags_keeps {x0 : Blk} (p : Nat) {b : Blk} (hk : Keeps x0 b) : Keeps x0 (clearFlags p b) := by
  unfold clearFlags
  repeat' (first
    | with_reducible assumption | (with_reducible refine Keeps.foldl _ ?_ (fun b r h => ?_))
    | (fail_if_no_progress extract_lets) | (fail_if_no_progress intros) | (with_reducible apply Keeps.ite) | split
    | (dsimp only) | (dsimp +zetaDelta only) | (fail_if_no_progress (with_reducible apply Keeps.lit))
    | (fail_if_no_progress (with_reducible apply Keeps.filter))
    | (with_reducible refine Keeps.of_pair (by assumption) ?_))

theorem clearQueues_keeps {x0 : Blk} (p : Nat) {b : Blk} (hk : Keeps x0 b) : Keeps x0 (clearQueues p b) := by
  unfold clearQueues
  repeat' (first
    | with_reducible assumption | (with_reducible refine Keeps.foldl _ ?_ (fun b r h => ?_))
    | (fail_if_no_progress extract_lets) | (fail_if_no_progress intros) | (with_reducible apply Keeps.ite) | split
    | (dsimp only) | (dsimp +zetaDelta only) | (fail_if_no_progress (with_reducible apply Keeps.lit))
    | (fail_if_no_progress (with_reducible apply Keeps.filter))
    | (with_reducible refine Keeps.of_pair (by assumption) ?_))

theorem dropTenantLines_keeps {x0 : Blk} (p : Nat) {b : Blk} (hk : Keeps x0 b) : Keeps x0 (dropTenantLines p b) := by
  unfold dropTenantLines
  repeat' (first
    | with_reducible assumption | (with_reducible apply dropLines_keeps)
    | (with_reducible refine Keeps.foldl _ ?_ (fun b r h => ?_)) | (fail_if_no_progress extract_lets)
    | (fail_if_no_progress intros) | (with_reducible apply Keeps.ite) | split | (dsimp only)
    | (dsimp +zetaDelta only) | (fail_if_no_progress (with_reducible apply Keeps.lit))
    | (fail_if_no_progress (with_reducible apply Keeps.filter))
    | (with_reducible refine Keeps.of_pair (by assumption) ?_))

theorem dropSaved_keeps {x0 : Blk} (p : Nat) {b : Blk} (hk : Keeps x0 b) : Keeps x0 (dropSaved p b) := by
  unfold dropSaved
  repeat' (first
    | with_reducible assumption | (with_reducible refine Keeps.foldl _ ?_ (fun b r h => ?_))
    | (fail_if_no_progress extract_lets) | (fail_if_no_progress intros) | (with_reducible apply Keeps.ite) | split
    | (dsimp only) | (dsimp +zetaDelta only) | (fail_if_no_progress (with_reducible apply Keeps.lit))
    | (fail_if_no_progress (with_reducible apply Keeps.filter))
    | (with_reducible refine Keeps.of_pair (by assumption) ?_))

theorem tenantReset_keeps {x0 : Blk} (p : Nat) {b : Blk} (hk : Keeps x0 b) : Keeps x0 (tenantReset p b) := by
  unfold tenantReset
  repeat' (first
    | with_reducible assumption | (with_reducible apply abortStreams_keeps)
    | (with_reducible apply endCommands_keeps) | (with_reducible apply zeroiseTiles_keeps)
    | (with_reducible apply dropTenantLines_keeps) | (with_reducible apply zeroiseHandle_keeps)
    | (with_reducible apply clearQueues_keeps) | (with_reducible apply dropSaved_keeps)
    | (with_reducible apply clearModuli_keeps) | (with_reducible apply clearFlags_keeps)
    | (with_reducible refine Keeps.foldl _ ?_ (fun b r h => ?_))
    | (with_reducible refine Keeps.foldlFst _ ?_ (fun b r h => ?_)) | (fail_if_no_progress extract_lets)
    | (fail_if_no_progress intros) | (with_reducible apply Keeps.ite) | split | (dsimp only)
    | (dsimp +zetaDelta only) | (fail_if_no_progress (with_reducible apply Keeps.lit))
    | (fail_if_no_progress (with_reducible apply Keeps.filter))
    | (with_reducible refine Keeps.of_pair (by assumption) ?_))

theorem discardHalted_keeps {x0 : Blk} (p : Nat) {b : Blk} (hk : Keeps x0 b) : Keeps x0 (discardHalted p b) := by
  unfold discardHalted
  repeat' (first
    | with_reducible assumption | (with_reducible apply discardCmd_keeps)
    | (with_reducible refine Keeps.foldl _ ?_ (fun b r h => ?_))
    | (with_reducible refine Keeps.foldlFst _ ?_ (fun b r h => ?_)) | (fail_if_no_progress extract_lets)
    | (fail_if_no_progress intros) | (with_reducible apply Keeps.ite) | split | (dsimp only)
    | (dsimp +zetaDelta only) | (fail_if_no_progress (with_reducible apply Keeps.lit))
    | (fail_if_no_progress (with_reducible apply Keeps.filter))
    | (with_reducible refine Keeps.of_pair (by assumption) ?_))

theorem saveLost_keeps {x0 : Blk} (g : Change) (e : Nat × PartRec) {b : Blk} (hk : Keeps x0 b) :
    Keeps x0 (saveLost g e b) := by
  unfold saveLost
  repeat' (first
    | with_reducible assumption | (with_reducible apply saveTiles_keeps)
    | (with_reducible refine Keeps.foldl _ ?_ (fun b r h => ?_)) | (fail_if_no_progress extract_lets)
    | (fail_if_no_progress intros) | (with_reducible apply Keeps.ite) | split | (dsimp only)
    | (dsimp +zetaDelta only) | (fail_if_no_progress (with_reducible apply Keeps.lit))
    | (fail_if_no_progress (with_reducible apply Keeps.filter))
    | (with_reducible refine Keeps.of_pair (by assumption) ?_))

theorem endLost_keeps {x0 : Blk} (e : Nat × PartRec) {b : Blk} (hk : Keeps x0 b) : Keeps x0 (endLost e b) := by
  unfold endLost
  repeat' (first
    | with_reducible assumption | (with_reducible apply abortStreams_keeps)
    | (with_reducible apply abortWaits_keeps) | (with_reducible refine Keeps.foldl _ ?_ (fun b r h => ?_))
    | (fail_if_no_progress extract_lets) | (fail_if_no_progress intros) | (with_reducible apply Keeps.ite) | split
    | (dsimp only) | (dsimp +zetaDelta only) | (fail_if_no_progress (with_reducible apply Keeps.lit))
    | (fail_if_no_progress (with_reducible apply Keeps.filter))
    | (with_reducible refine Keeps.of_pair (by assumption) ?_))

theorem trimTenant_keeps {x0 : Blk} (e : Nat × PartRec) {b : Blk} (hk : Keeps x0 b) : Keeps x0 (trimTenant e b) := by
  unfold trimTenant
  repeat' (first
    | with_reducible assumption | (with_reducible apply dropLines_keeps)
    | (with_reducible apply dropTenantLines_keeps) | (with_reducible refine Keeps.foldl _ ?_ (fun b r h => ?_))
    | (fail_if_no_progress extract_lets) | (fail_if_no_progress intros) | (with_reducible apply Keeps.ite) | split
    | (dsimp only) | (dsimp +zetaDelta only) | (fail_if_no_progress (with_reducible apply Keeps.lit))
    | (fail_if_no_progress (with_reducible apply Keeps.filter))
    | (with_reducible refine Keeps.of_pair (by assumption) ?_))

theorem clearTables_keeps {x0 : Blk} (e : Nat × PartRec) {b : Blk} (hk : Keeps x0 b) : Keeps x0 (clearTables e b) := by
  unfold clearTables
  repeat' (first
    | with_reducible assumption | (with_reducible apply clearFlags_keeps) | (with_reducible apply clearModuli_keeps)
    | (with_reducible refine Keeps.foldl _ ?_ (fun b r h => ?_)) | (fail_if_no_progress extract_lets)
    | (fail_if_no_progress intros) | (with_reducible apply Keeps.ite) | split | (dsimp only)
    | (dsimp +zetaDelta only) | (fail_if_no_progress (with_reducible apply Keeps.lit))
    | (fail_if_no_progress (with_reducible apply Keeps.filter))
    | (with_reducible refine Keeps.of_pair (by assumption) ?_))

theorem rejudgeHeld_keeps {x : Blk} (p : Nat) {b : Blk} (h : Keeps x b) : Keeps x (rejudgeHeld p b) := by
  refine h.of_cmds rfl rfl (fun g c hc => ?_)
  obtain ⟨y, hy, rfl⟩ := List.mem_map.mp hc
  have := g y hy
  repeat' split
  all_goals exact this

theorem installRec_keeps {x0 : Blk} (e : Nat × PartRec) {b : Blk} (hk : Keeps x0 b) : Keeps x0 (installRec e b) := by
  unfold installRec
  repeat' (first
    | with_reducible assumption | (with_reducible apply rejudgeHeld_keeps)
    | (with_reducible apply clearQueues_keeps) | (with_reducible refine Keeps.foldl _ ?_ (fun b r h => ?_))
    | (fail_if_no_progress extract_lets) | (fail_if_no_progress intros) | (with_reducible apply Keeps.ite) | split
    | (dsimp only) | (dsimp +zetaDelta only) | (fail_if_no_progress (with_reducible apply Keeps.lit))
    | (fail_if_no_progress (with_reducible apply Keeps.filter))
    | (with_reducible refine Keeps.of_pair (by assumption) ?_))

theorem applyQuiet_keeps {x0 : Blk} (g : Change) {b : Blk} (hk : Keeps x0 b) : Keeps x0 (applyQuiet g b) := by
  unfold applyQuiet
  repeat' (first
    | with_reducible assumption | (with_reducible apply discardHalted_keeps)
    | (with_reducible apply vaultHaltStreams_keeps) | (with_reducible apply saveLost_keeps)
    | (with_reducible apply endLost_keeps) | (with_reducible apply zeroiseHandle_keeps)
    | (with_reducible apply zeroiseTiles_keeps) | (with_reducible apply trimTenant_keeps)
    | (with_reducible apply clearTables_keeps) | (with_reducible apply restoreTile_keeps)
    | (with_reducible apply installRec_keeps) | (with_reducible apply vaultResumeStreams_keeps)
    | (with_reducible apply tellVaults_keeps) | (with_reducible apply vaultResume_keeps)
    | (with_reducible refine Keeps.foldl _ ?_ (fun b r h => ?_))
    | (with_reducible refine Keeps.foldlFst _ ?_ (fun b r h => ?_)) | (fail_if_no_progress extract_lets)
    | (fail_if_no_progress intros) | (with_reducible apply Keeps.ite) | split | (dsimp only)
    | (dsimp +zetaDelta only) | (fail_if_no_progress (with_reducible apply Keeps.lit))
    | (fail_if_no_progress (with_reducible apply Keeps.filter))
    | (with_reducible refine Keeps.of_pair (by assumption) ?_))

theorem applyCommit_keeps {x0 : Blk} {b : Blk} (hk : Keeps x0 b) : Keeps x0 (applyCommit b) := by
  unfold applyCommit
  repeat' (first
    | with_reducible assumption | (with_reducible apply endCommands_keeps) | (with_reducible apply whenQuiet_keeps)
    | (with_reducible apply applyQuiet_keeps) | (with_reducible refine Keeps.foldl _ ?_ (fun b r h => ?_))
    | (with_reducible refine Keeps.foldlFst _ ?_ (fun b r h => ?_)) | (fail_if_no_progress extract_lets)
    | (fail_if_no_progress intros) | (with_reducible apply Keeps.ite) | split | (dsimp only)
    | (dsimp +zetaDelta only) | (fail_if_no_progress (with_reducible apply Keeps.lit))
    | (fail_if_no_progress (with_reducible apply Keeps.filter))
    | (with_reducible refine Keeps.of_pair (by assumption) ?_))

theorem commitRecords_keeps {x0 : Blk} {b : Blk} (hk : Keeps x0 b) : Keeps x0 (commitRecords b) := by
  unfold commitRecords
  repeat' (first
    | with_reducible assumption | (with_reducible apply applyCommit_keeps)
    | (with_reducible refine Keeps.foldl _ ?_ (fun b r h => ?_)) | (fail_if_no_progress extract_lets)
    | (fail_if_no_progress intros) | (with_reducible apply Keeps.ite) | split | (dsimp only)
    | (dsimp +zetaDelta only) | (fail_if_no_progress (with_reducible apply Keeps.lit))
    | (fail_if_no_progress (with_reducible apply Keeps.filter))
    | (with_reducible refine Keeps.of_pair (by assumption) ?_))

theorem disableAll_keeps {x0 : Blk} {b : Blk} (hk : Keeps x0 b) : Keeps x0 (disableAll b) := by
  unfold disableAll
  repeat' (first
    | with_reducible assumption | (with_reducible apply applyCommit_keeps)
    | (with_reducible refine Keeps.foldl _ ?_ (fun b r h => ?_)) | (fail_if_no_progress extract_lets)
    | (fail_if_no_progress intros) | (with_reducible apply Keeps.ite) | split | (dsimp only)
    | (dsimp +zetaDelta only) | (fail_if_no_progress (with_reducible apply Keeps.lit))
    | (fail_if_no_progress (with_reducible apply Keeps.filter))
    | (with_reducible refine Keeps.of_pair (by assumption) ?_))

end Sys2Proof.Machine
end

