-- ==== Sys2Proof/Laws/KeepsLantern.lean ====
section
/-! SUPPORT. What power, resets, the dictionary and its actions, and the passing of time keep. -/
namespace Sys2Proof.Machine

theorem bitsStay_setBit {w : Nat} (v : BitVec w) (i : Nat) : bitsStay v (setBit v i true) := by
  unfold bitsStay setBit
  simp only [if_true]
  ext j hj
  simp
  intro h
  exact Or.inl h

theorem bitsStay_of_zero {w : Nat} {v y : BitVec w} (h : bitsStay v y) (e : y = 0) (z : BitVec w) : bitsStay v z := by
  unfold bitsStay at *
  rw [e] at h
  rw [← h]
  simp

/-- A relation that a change of one entry keeps holds between every entry before and after. -/
theorem tabGet_tabUpd_rel {α : Type} [DecidableEq α] {d : α} {R : α → α → Prop} {f : α → α} (hr : ∀ v, R v v)
    (hf : ∀ v, R v (f v)) (hd : ∀ v, f v = d → ∀ w, R v w) (t : Tab α) (k n : Nat) :
    R (tabGet d t n) (tabGet d (tabUpd d t k f) n) := by
  by_cases e : n = k
  · subst e
    by_cases g : f (tabGet d t n) = d
    · exact hd _ g _
    · unfold tabUpd; rw [tabGet_tabPut_of_ne g]; exact hf _
  · rw [tabGet_tabUpd_other e]; exact hr _

/-- Every fuse of one row that is blown is blown in the other. -/
def rowStays (u v : FuseRow) : Prop := bitsStay u.a v.a ∧ bitsStay u.b v.b ∧ bitsStay u.c v.c

theorem rowStays_blowRow (copy bit : Nat) (r : FuseRow) : rowStays r (blowRow copy bit r) := by
  unfold blowRow
  split
  · exact ⟨bitsStay_setBit _ _, bitsStay_refl _, bitsStay_refl _⟩
  · exact ⟨bitsStay_refl _, bitsStay_setBit _ _, bitsStay_refl _⟩
  · exact ⟨bitsStay_refl _, bitsStay_refl _, bitsStay_setBit _ _⟩

theorem blow_fusesStay (p : Pulse) (b : Blk) : fusesStay b.fab (blow p b).fab := by
  unfold blow
  split
  · refine ⟨fun n => ⟨bitsStay_refl _, bitsStay_refl _, bitsStay_refl _⟩, fun n => ?_⟩
    exact tabGet_tabUpd_rel bitsStay_refl (fun v => bitsStay_setBit v _)
      (fun v e w => bitsStay_of_zero (bitsStay_setBit v p.copy) e w) _ _ n
  · refine ⟨fun n => ?_, fun n => bitsStay_refl _⟩
    exact tabGet_tabUpd_rel (R := rowStays) (fun v => ⟨bitsStay_refl _, bitsStay_refl _, bitsStay_refl _⟩)
      (fun v => rowStays_blowRow p.copy p.bit v)
      (fun v e w => by
        have h := rowStays_blowRow p.copy p.bit v
        rw [e] at h
        exact ⟨bitsStay_of_zero h.1 rfl _, bitsStay_of_zero h.2.1 rfl _, bitsStay_of_zero h.2.2 rfl _⟩) _ _ n

theorem bitAt_of_bitsStay {w : Nat} {x y : BitVec w} (h : bitsStay x y) {i : Nat} (e : bitAt x i = true) : bitAt y i = true := by
  unfold bitsStay at h
  unfold bitAt at *
  rw [← h] at e
  simp only [BitVec.getLsbD_and, Bool.and_eq_true] at e
  exact e.2

theorem flagBlown_of_fusesStay {a b : Blk} (h : fusesStay a.fab b.fab) {n : Nat} (e : flagBlown a n = true) : flagBlown b n = true := by
  have hn := h.2 n
  unfold flagBlown at *
  simp only [Bool.or_eq_true, Bool.and_eq_true] at *
  rcases e with (⟨e, g⟩ | ⟨e, g⟩) | ⟨e, g⟩
  · exact Or.inl (Or.inl ⟨bitAt_of_bitsStay hn e, bitAt_of_bitsStay hn g⟩)
  · exact Or.inl (Or.inr ⟨bitAt_of_bitsStay hn e, bitAt_of_bitsStay hn g⟩)
  · exact Or.inr ⟨bitAt_of_bitsStay hn e, bitAt_of_bitsStay hn g⟩

/-- A seal that was latched is one that the fuses hold now. -/
theorem Keeps.seal {x b : Blk} (h : Keeps x b) (g : sealHeld x) (e : x.fab.lat.sealed = true) : flagBlown b 68 = true :=
  h.held g (h.latched g e)

/-- A change of the fabric that leaves the fuses, the straps and the latched seal alone. -/
theorem Keeps.of_fab {x b : Blk} (f : Fab) (h : Keeps x b) (hs : f.flagFuses = b.fab.flagFuses) (hr : f.rows = b.fab.rows)
    (hd : strapsSame b.fab f) (hl : f.lat.sealed = b.fab.lat.sealed) : Keeps x { b with fab := f } := by
  obtain ⟨h1, h2, h3, h4, h5, h6⟩ := h
  refine ⟨⟨fun n => ?_, fun n => ?_⟩, ?_, fun g => ?_, fun g g' => hl ▸ h4 g g', h5, h6⟩
  · rw [hr]; exact h1.1 n
  · rw [hs]; exact h1.2 n
  · exact ⟨hd.1.trans h2.1, hd.2.1.trans h2.2.1, hd.2.2.trans h2.2.2⟩
  · have := h3 g; unfold sealHeld flagBlown at *; simp only [hs, hl]; exact this

theorem updPwr_keeps {x0 : Blk} (f : Pwr → Pwr) {b : Blk} (hk : Keeps x0 b) : Keeps x0 (updPwr f b) := by
  unfold updPwr
  repeat' (first
    | with_reducible assumption | (with_reducible refine Keeps.foldl _ ?_ (fun b r h => ?_))
    | (fail_if_no_progress extract_lets) | (fail_if_no_progress intros) | (with_reducible apply Keeps.ite) | split
    | (dsimp only) | (dsimp +zetaDelta only) | (fail_if_no_progress (with_reducible apply Keeps.lit))
    | (fail_if_no_progress (with_reducible apply Keeps.filter))
    | (with_reducible refine Keeps.of_pair (by assumption) ?_))

theorem cutMemory_keeps {x0 : Blk} {b : Blk} (hk : Keeps x0 b) : Keeps x0 (cutMemory b) := by
  unfold cutMemory
  repeat' (first
    | with_reducible assumption | (with_reducible apply inCtx_keeps) | (with_reducible apply undefine_keeps)
    | (with_reducible refine Keeps.foldl _ ?_ (fun b r h => ?_))
    | (with_reducible refine Keeps.foldlFst _ ?_ (fun b r h => ?_)) | (fail_if_no_progress extract_lets)
    | (fail_if_no_progress intros) | (with_reducible apply Keeps.ite) | split | (dsimp only)
    | (dsimp +zetaDelta only) | (fail_if_no_progress (with_reducible apply Keeps.lit))
    | (fail_if_no_progress (with_reducible apply Keeps.filter))
    | (with_reducible refine Keeps.of_pair (by assumption) ?_))

theorem resetMasters_keeps {x0 : Blk} {b : Blk} (hk : Keeps x0 b) : Keeps x0 (resetMasters b) := by
  unfold resetMasters
  repeat' (first
    | with_reducible assumption | (with_reducible apply resetMaster_keeps)
    | (with_reducible refine Keeps.foldl _ ?_ (fun b r h => ?_))
    | (with_reducible refine Keeps.foldlFst _ ?_ (fun b r h => ?_)) | (fail_if_no_progress extract_lets)
    | (fail_if_no_progress intros) | (with_reducible apply Keeps.ite) | split | (dsimp only)
    | (dsimp +zetaDelta only) | (fail_if_no_progress (with_reducible apply Keeps.lit))
    | (fail_if_no_progress (with_reducible apply Keeps.filter))
    | (with_reducible refine Keeps.of_pair (by assumption) ?_))

theorem heldInReset_keeps {x : Blk} {b : Blk} (h : Keeps x b) : Keeps x (heldInReset b) :=
  ⟨h.fuses, h.straps, h.held, h.latched, fun g => memWf_tabKeep _ (h.mem g), fun _ _ hc => absurd hc List.not_mem_nil⟩

theorem blockReset_keeps {x0 : Blk} {b : Blk} (hk : Keeps x0 b) : Keeps x0 (blockReset b) := by
  unfold blockReset
  repeat' (first
    | with_reducible assumption | (with_reducible apply heldInReset_keeps) | (with_reducible apply cutMemory_keeps)
    | (with_reducible apply resetMasters_keeps) | (with_reducible refine Keeps.foldl _ ?_ (fun b r h => ?_))
    | (fail_if_no_progress extract_lets) | (fail_if_no_progress intros) | (with_reducible apply Keeps.ite) | split
    | (dsimp only) | (dsimp +zetaDelta only) | (fail_if_no_progress (with_reducible apply Keeps.lit))
    | (fail_if_no_progress (with_reducible apply Keeps.filter))
    | (with_reducible refine Keeps.of_pair (by assumption) ?_))

theorem clockAbsent_keeps {x0 : Blk} (mask : BitVec 21) {b : Blk} (hk : Keeps x0 b) :
    Keeps x0 (clockAbsent mask b) := by
  unfold clockAbsent
  repeat' (first
    | with_reducible assumption | (with_reducible apply updPwr_keeps) | (with_reducible apply blockReset_keeps)
    | (with_reducible refine Keeps.foldl _ ?_ (fun b r h => ?_)) | (fail_if_no_progress extract_lets)
    | (fail_if_no_progress intros) | (with_reducible apply Keeps.ite) | split | (dsimp only)
    | (dsimp +zetaDelta only) | (fail_if_no_progress (with_reducible apply Keeps.lit))
    | (fail_if_no_progress (with_reducible apply Keeps.filter))
    | (with_reducible refine Keeps.of_pair (by assumption) ?_))

theorem startPorts_keeps {x0 : Blk} {b : Blk} (hk : Keeps x0 b) : Keeps x0 (startPorts b) := by
  unfold startPorts
  repeat' (first
    | with_reducible assumption | (with_reducible apply sumpPut_keeps) | (with_reducible apply trainPort_keeps)
    | (with_reducible refine Keeps.foldl _ ?_ (fun b r h => ?_))
    | (with_reducible refine Keeps.foldlFst _ ?_ (fun b r h => ?_)) | (fail_if_no_progress extract_lets)
    | (fail_if_no_progress intros) | (with_reducible apply Keeps.ite) | split | (dsimp only)
    | (dsimp +zetaDelta only) | (fail_if_no_progress (with_reducible apply Keeps.lit))
    | (fail_if_no_progress (with_reducible apply Keeps.filter))
    | (with_reducible refine Keeps.of_pair (by assumption) ?_))

theorem becomeReady_keeps {x0 : Blk} {b : Blk} (hk : Keeps x0 b) : Keeps x0 (becomeReady b) := by
  unfold becomeReady
  repeat' (first
    | with_reducible assumption | (with_reducible apply startPorts_keeps) | (with_reducible apply updPwr_keeps)
    | (with_reducible refine Keeps.foldl _ ?_ (fun b r h => ?_)) | (fail_if_no_progress extract_lets)
    | (fail_if_no_progress intros) | (with_reducible apply Keeps.ite) | split | (dsimp only)
    | (dsimp +zetaDelta only) | (fail_if_no_progress (with_reducible apply Keeps.lit))
    | (fail_if_no_progress (with_reducible apply Keeps.filter))
    | (with_reducible refine Keeps.of_pair (by assumption) ?_))

theorem blockStart_keeps {x0 : Blk} {b : Blk} (hk : Keeps x0 b) : Keeps x0 (blockStart b) := by
  unfold blockStart
  repeat' (first
    | with_reducible assumption | (with_reducible apply becomeReady_keeps) | (with_reducible apply elapse_keeps)
    | (with_reducible apply newEpoch_keeps) | (with_reducible refine Keeps.foldl _ ?_ (fun b r h => ?_))
    | (fail_if_no_progress extract_lets) | (fail_if_no_progress intros) | (with_reducible apply Keeps.ite) | split
    | (dsimp only) | (dsimp +zetaDelta only) | (fail_if_no_progress (with_reducible apply Keeps.lit))
    | (fail_if_no_progress (with_reducible apply Keeps.filter))
    | (with_reducible refine Keeps.of_pair (by assumption) ?_))

theorem coldBlk_keeps {x : Blk} {b : Blk} (h : Keeps x b) : Keeps x (coldBlk b) := by
  have h1 := cutMemory_keeps h
  exact ⟨h1.fuses, h1.straps, fun _ e => e, fun g e => h1.seal g e, fun g => memWf_tabKeep _ (h1.mem g),
    fun _ _ hc => absurd hc List.not_mem_nil⟩

theorem coldReset_keeps {x0 : Blk} (bad : List Nat) {b : Blk} (hk : Keeps x0 b) : Keeps x0 (coldReset bad b) := by
  unfold coldReset
  repeat' (first
    | with_reducible assumption | (with_reducible apply coldBlk_keeps) | (with_reducible apply startPorts_keeps)
    | (with_reducible apply updPwr_keeps) | (with_reducible refine Keeps.foldl _ ?_ (fun b r h => ?_))
    | (fail_if_no_progress extract_lets) | (fail_if_no_progress intros) | (with_reducible apply Keeps.ite) | split
    | (dsimp only) | (dsimp +zetaDelta only) | (fail_if_no_progress (with_reducible apply Keeps.lit))
    | (fail_if_no_progress (with_reducible apply Keeps.filter))
    | (with_reducible refine Keeps.of_pair (by assumption) ?_))

theorem powerLoss_keeps {x0 : Blk} {b : Blk} (hk : Keeps x0 b) : Keeps x0 (powerLoss b) := by
  unfold powerLoss
  repeat' (first
    | with_reducible assumption | (with_reducible apply coldBlk_keeps) | (with_reducible apply updPwr_keeps)
    | (with_reducible refine Keeps.foldl _ ?_ (fun b r h => ?_)) | (fail_if_no_progress extract_lets)
    | (fail_if_no_progress intros) | (with_reducible apply Keeps.ite) | split | (dsimp only)
    | (dsimp +zetaDelta only) | (fail_if_no_progress (with_reducible apply Keeps.lit))
    | (fail_if_no_progress (with_reducible apply Keeps.filter))
    | (with_reducible refine Keeps.of_pair (by assumption) ?_))

theorem quadOff_keeps {x0 : Blk} (n : Nat) {b : Blk} (hk : Keeps x0 b) : Keeps x0 (quadOff n b) := by
  unfold quadOff
  repeat' (first
    | with_reducible assumption | (with_reducible apply zeroiseHandle_keeps)
    | (with_reducible apply zeroiseTile_keeps) | (with_reducible apply updPwr_keeps)
    | (with_reducible apply resetMaster_keeps) | (with_reducible refine Keeps.foldl _ ?_ (fun b r h => ?_))
    | (with_reducible refine Keeps.foldlFst _ ?_ (fun b r h => ?_)) | (fail_if_no_progress extract_lets)
    | (fail_if_no_progress intros) | (with_reducible apply Keeps.ite) | split | (dsimp only)
    | (dsimp +zetaDelta only) | (fail_if_no_progress (with_reducible apply Keeps.lit))
    | (fail_if_no_progress (with_reducible apply Keeps.filter))
    | (with_reducible refine Keeps.of_pair (by assumption) ?_))

theorem quadRetain_keeps {x0 : Blk} (n : Nat) {b : Blk} (hk : Keeps x0 b) : Keeps x0 (quadRetain n b) := by
  unfold quadRetain
  repeat' (first
    | with_reducible assumption | (with_reducible apply updPwr_keeps)
    | (with_reducible refine Keeps.foldl _ ?_ (fun b r h => ?_)) | (fail_if_no_progress extract_lets)
    | (fail_if_no_progress intros) | (with_reducible apply Keeps.ite) | split | (dsimp only)
    | (dsimp +zetaDelta only) | (fail_if_no_progress (with_reducible apply Keeps.lit))
    | (fail_if_no_progress (with_reducible apply Keeps.filter))
    | (with_reducible refine Keeps.of_pair (by assumption) ?_))

theorem quadDelay_keeps {x0 : Blk} (n : Nat) {b : Blk} (hk : Keeps x0 b) : Keeps x0 (quadDelay n b) := by
  unfold quadDelay
  repeat' (first
    | with_reducible assumption | (with_reducible apply quadOff_keeps) | (with_reducible apply quadRetain_keeps)
    | (with_reducible refine Keeps.foldl _ ?_ (fun b r h => ?_)) | (fail_if_no_progress extract_lets)
    | (fail_if_no_progress intros) | (with_reducible apply Keeps.ite) | split | (dsimp only)
    | (dsimp +zetaDelta only) | (fail_if_no_progress (with_reducible apply Keeps.lit))
    | (fail_if_no_progress (with_reducible apply Keeps.filter))
    | (with_reducible refine Keeps.of_pair (by assumption) ?_))

theorem quadrantDelay_keeps {x0 : Blk} (n : Nat) {b : Blk} (hk : Keeps x0 b) : Keeps x0 (quadrantDelay n b) := by
  unfold quadrantDelay
  repeat' (first
    | with_reducible assumption | (with_reducible apply updPwr_keeps)
    | (with_reducible refine Keeps.foldl _ ?_ (fun b r h => ?_)) | (fail_if_no_progress extract_lets)
    | (fail_if_no_progress intros) | (with_reducible apply Keeps.ite) | split | (dsimp only)
    | (dsimp +zetaDelta only) | (fail_if_no_progress (with_reducible apply Keeps.lit))
    | (fail_if_no_progress (with_reducible apply Keeps.filter))
    | (with_reducible refine Keeps.of_pair (by assumption) ?_))

theorem portDelay_keeps {x0 : Blk} (k : Nat) {b : Blk} (hk : Keeps x0 b) : Keeps x0 (portDelay k b) := by
  unfold portDelay
  repeat' (first
    | with_reducible assumption | (with_reducible apply enterStandby_keeps) | (with_reducible apply updPort_keeps)
    | (with_reducible apply transmit_keeps) | (with_reducible refine Keeps.foldl _ ?_ (fun b r h => ?_))
    | (fail_if_no_progress extract_lets) | (fail_if_no_progress intros) | (with_reducible apply Keeps.ite) | split
    | (dsimp only) | (dsimp +zetaDelta only) | (fail_if_no_progress (with_reducible apply Keeps.lit))
    | (fail_if_no_progress (with_reducible apply Keeps.filter))
    | (with_reducible refine Keeps.of_pair (by assumption) ?_))

theorem idleDelay_keeps {x0 : Blk} (u : PowerUnit) {b : Blk} (hk : Keeps x0 b) : Keeps x0 (idleDelay u b) := by
  unfold idleDelay
  repeat' (first
    | with_reducible assumption | (with_reducible apply quadDelay_keeps)
    | (with_reducible apply quadrantDelay_keeps) | (with_reducible apply portDelay_keeps)
    | (with_reducible refine Keeps.foldl _ ?_ (fun b r h => ?_)) | (fail_if_no_progress extract_lets)
    | (fail_if_no_progress intros) | (with_reducible apply Keeps.ite) | split | (dsimp only)
    | (dsimp +zetaDelta only) | (fail_if_no_progress (with_reducible apply Keeps.lit))
    | (fail_if_no_progress (with_reducible apply Keeps.filter))
    | (with_reducible refine Keeps.of_pair (by assumption) ?_))

theorem raiseWake_keeps {x0 : Blk} {b : Blk} (hk : Keeps x0 b) : Keeps x0 (raiseWake b) := by
  unfold raiseWake
  repeat' (first
    | with_reducible assumption | (with_reducible apply updPwr_keeps)
    | (with_reducible refine Keeps.foldl _ ?_ (fun b r h => ?_)) | (fail_if_no_progress extract_lets)
    | (fail_if_no_progress intros) | (with_reducible apply Keeps.ite) | split | (dsimp only)
    | (dsimp +zetaDelta only) | (fail_if_no_progress (with_reducible apply Keeps.lit))
    | (fail_if_no_progress (with_reducible apply Keeps.filter))
    | (with_reducible refine Keeps.of_pair (by assumption) ?_))

theorem tapInstruction_keeps {x0 : Blk} (i : Nat) {b : Blk} (hk : Keeps x0 b) : Keeps x0 (tapInstruction i b) := by
  unfold tapInstruction
  repeat' (first
    | with_reducible assumption | (with_reducible refine Keeps.foldl _ ?_ (fun b r h => ?_))
    | (fail_if_no_progress extract_lets) | (fail_if_no_progress intros) | (with_reducible apply Keeps.ite) | split
    | (dsimp only) | (dsimp +zetaDelta only) | (fail_if_no_progress (with_reducible apply Keeps.lit))
    | (fail_if_no_progress (with_reducible apply Keeps.filter))
    | (with_reducible refine Keeps.of_pair (by assumption) ?_))

theorem respond_keeps {x0 : Blk} (op : DOp) (r : DictReq) (st : DStatus) (data : List Byte) {b : Blk} (hk : Keeps x0 b) :
    Keeps x0 (respond op r st data b) := by
  unfold respond
  repeat' (first
    | with_reducible assumption | (with_reducible refine Keeps.foldl _ ?_ (fun b r h => ?_))
    | (fail_if_no_progress extract_lets) | (fail_if_no_progress intros) | (with_reducible apply Keeps.ite) | split
    | (dsimp only) | (dsimp +zetaDelta only) | (fail_if_no_progress (with_reducible apply Keeps.lit))
    | (fail_if_no_progress (with_reducible apply Keeps.filter))
    | (with_reducible refine Keeps.of_pair (by assumption) ?_))

theorem refuse_keeps {x0 : Blk} (op : DOp) (r : DictReq) (st : DStatus) {b : Blk} (hk : Keeps x0 b) :
    Keeps x0 (refuse op r st b) := by
  unfold refuse
  repeat' (first
    | with_reducible assumption | (with_reducible apply respond_keeps) | (with_reducible apply raiseWake_keeps)
    | (with_reducible refine Keeps.foldl _ ?_ (fun b r h => ?_)) | (fail_if_no_progress extract_lets)
    | (fail_if_no_progress intros) | (with_reducible apply Keeps.ite) | split | (dsimp only)
    | (dsimp +zetaDelta only) | (fail_if_no_progress (with_reducible apply Keeps.lit))
    | (fail_if_no_progress (with_reducible apply Keeps.filter))
    | (with_reducible refine Keeps.of_pair (by assumption) ?_))

theorem serveReq_keeps {x0 : Blk} (op : DOp) (r : DictReq) (go : Blk → Blk) {b : Blk} (hk : Keeps x0 b) (hgo : ∀ b, Keeps x0 b → Keeps x0 (go b)) :
    Keeps x0 (serveReq op r go b) := by
  unfold serveReq
  repeat' (first
    | with_reducible assumption | (with_reducible apply refuse_keeps) | (with_reducible apply hgo)
    | (with_reducible refine Keeps.foldl _ ?_ (fun b r h => ?_)) | (fail_if_no_progress extract_lets)
    | (fail_if_no_progress intros) | (with_reducible apply Keeps.ite) | split | (dsimp only)
    | (dsimp +zetaDelta only) | (fail_if_no_progress (with_reducible apply Keeps.lit))
    | (fail_if_no_progress (with_reducible apply Keeps.filter))
    | (with_reducible refine Keeps.of_pair (by assumption) ?_))

theorem serveWrite_keeps {x0 : Blk} (mine : Nat → Nat → Bool) (r : DictReq) (valueOk : Blk → Bool) (act : Blk → Blk) {b : Blk} (hk : Keeps x0 b) (hact : ∀ b, Keeps x0 b → Keeps x0 (act b)) :
    Keeps x0 (serveWrite mine r valueOk act b) := by
  unfold serveWrite
  repeat' (first
    | with_reducible assumption | (with_reducible apply serveReq_keeps) | (with_reducible apply respond_keeps)
    | (with_reducible apply refuse_keeps) | (with_reducible apply hact)
    | (with_reducible refine Keeps.foldl _ ?_ (fun b r h => ?_)) | (fail_if_no_progress extract_lets)
    | (fail_if_no_progress intros) | (with_reducible apply Keeps.ite) | split | (dsimp only)
    | (dsimp +zetaDelta only) | (fail_if_no_progress (with_reducible apply Keeps.lit))
    | (fail_if_no_progress (with_reducible apply Keeps.filter))
    | (with_reducible refine Keeps.of_pair (by assumption) ?_))

theorem dictRead_keeps {x0 : Blk} (r : DictReq) {b : Blk} (hk : Keeps x0 b) : Keeps x0 (dictRead r b) := by
  unfold dictRead
  repeat' (first
    | with_reducible assumption | (with_reducible apply serveReq_keeps) | (with_reducible apply respond_keeps)
    | (with_reducible apply drawFresh_keeps) | (with_reducible refine Keeps.foldl _ ?_ (fun b r h => ?_))
    | (fail_if_no_progress extract_lets) | (fail_if_no_progress intros) | (with_reducible apply Keeps.ite) | split
    | (dsimp only) | (dsimp +zetaDelta only) | (fail_if_no_progress (with_reducible apply Keeps.lit))
    | (fail_if_no_progress (with_reducible apply Keeps.filter))
    | (with_reducible refine Keeps.of_pair (by assumption) ?_))

theorem dictDescribe_keeps {x0 : Blk} (r : DictReq) {b : Blk} (hk : Keeps x0 b) : Keeps x0 (dictDescribe r b) := by
  unfold dictDescribe
  repeat' (first
    | with_reducible assumption | (with_reducible apply serveReq_keeps) | (with_reducible apply respond_keeps)
    | (with_reducible refine Keeps.foldl _ ?_ (fun b r h => ?_)) | (fail_if_no_progress extract_lets)
    | (fail_if_no_progress intros) | (with_reducible apply Keeps.ite) | split | (dsimp only)
    | (dsimp +zetaDelta only) | (fail_if_no_progress (with_reducible apply Keeps.lit))
    | (fail_if_no_progress (with_reducible apply Keeps.filter))
    | (with_reducible refine Keeps.of_pair (by assumption) ?_))

theorem dictNext_keeps {x0 : Blk} (r : DictReq) {b : Blk} (hk : Keeps x0 b) : Keeps x0 (dictNext r b) := by
  unfold dictNext
  repeat' (first
    | with_reducible assumption | (with_reducible apply respond_keeps)
    | (with_reducible refine Keeps.foldl _ ?_ (fun b r h => ?_)) | (fail_if_no_progress extract_lets)
    | (fail_if_no_progress intros) | (with_reducible apply Keeps.ite) | split | (dsimp only)
    | (dsimp +zetaDelta only) | (fail_if_no_progress (with_reducible apply Keeps.lit))
    | (fail_if_no_progress (with_reducible apply Keeps.filter))
    | (with_reducible refine Keeps.of_pair (by assumption) ?_))

theorem updDict_keeps {x0 : Blk} (f : Dict → Dict) {b : Blk} (hk : Keeps x0 b) : Keeps x0 (updDict f b) := by
  unfold updDict
  repeat' (first
    | with_reducible assumption | (with_reducible refine Keeps.foldl _ ?_ (fun b r h => ?_))
    | (fail_if_no_progress extract_lets) | (fail_if_no_progress intros) | (with_reducible apply Keeps.ite) | split
    | (dsimp only) | (dsimp +zetaDelta only) | (fail_if_no_progress (with_reducible apply Keeps.lit))
    | (fail_if_no_progress (with_reducible apply Keeps.filter))
    | (with_reducible refine Keeps.of_pair (by assumption) ?_))

theorem writePortEnable_keeps {x0 : Blk} (v : Nat) {b : Blk} (hk : Keeps x0 b) : Keeps x0 (writePortEnable v b) := by
  unfold writePortEnable
  repeat' (first
    | with_reducible assumption | (with_reducible apply updDict_keeps) | (with_reducible apply trainPort_keeps)
    | (with_reducible refine Keeps.foldl _ ?_ (fun b r h => ?_))
    | (with_reducible refine Keeps.foldlFst _ ?_ (fun b r h => ?_)) | (fail_if_no_progress extract_lets)
    | (fail_if_no_progress intros) | (with_reducible apply Keeps.ite) | split | (dsimp only)
    | (dsimp +zetaDelta only) | (fail_if_no_progress (with_reducible apply Keeps.lit))
    | (fail_if_no_progress (with_reducible apply Keeps.filter))
    | (with_reducible refine Keeps.of_pair (by assumption) ?_))

theorem writeCtxSeq_keeps {x0 : Blk} (l : List Byte) {b : Blk} (hk : Keeps x0 b) : Keeps x0 (writeCtxSeq l b) := by
  unfold writeCtxSeq
  repeat' (first
    | with_reducible assumption | (with_reducible refine Keeps.foldl _ ?_ (fun b r h => ?_))
    | (with_reducible refine Keeps.foldlFst _ ?_ (fun b r h => ?_)) | (fail_if_no_progress extract_lets)
    | (fail_if_no_progress intros) | (with_reducible apply Keeps.ite) | split | (dsimp only)
    | (dsimp +zetaDelta only) | (fail_if_no_progress (with_reducible apply Keeps.lit))
    | (fail_if_no_progress (with_reducible apply Keeps.filter))
    | (with_reducible refine Keeps.of_pair (by assumption) ?_))

theorem storeEntry_keeps {x0 : Blk} (index sub v : Nat) (l : List Byte) {b : Blk} (hk : Keeps x0 b) :
    Keeps x0 (storeEntry index sub v l b) := by
  unfold storeEntry
  repeat' (first
    | with_reducible assumption | (with_reducible apply updDict_keeps) | (with_reducible apply writeCtxSeq_keeps)
    | (with_reducible apply updPwr_keeps) | (with_reducible apply idleDelay_keeps)
    | (with_reducible apply writePortEnable_keeps) | (with_reducible refine Keeps.foldl _ ?_ (fun b r h => ?_))
    | (fail_if_no_progress extract_lets) | (fail_if_no_progress intros) | (with_reducible apply Keeps.ite) | split
    | (dsimp only) | (dsimp +zetaDelta only) | (fail_if_no_progress (with_reducible apply Keeps.lit))
    | (fail_if_no_progress (with_reducible apply Keeps.filter))
    | (with_reducible refine Keeps.of_pair (by assumption) ?_))

theorem dictWrite_keeps {x0 : Blk} (r : DictReq) {b : Blk} (hk : Keeps x0 b) : Keeps x0 (dictWrite r b) := by
  unfold dictWrite
  repeat' (first
    | with_reducible assumption | (with_reducible apply serveWrite_keeps) | (with_reducible apply storeEntry_keeps)
    | (with_reducible refine Keeps.foldl _ ?_ (fun b r h => ?_)) | (fail_if_no_progress extract_lets)
    | (fail_if_no_progress intros) | (with_reducible apply Keeps.ite) | split | (dsimp only)
    | (dsimp +zetaDelta only) | (fail_if_no_progress (with_reducible apply Keeps.lit))
    | (fail_if_no_progress (with_reducible apply Keeps.filter))
    | (with_reducible refine Keeps.of_pair (by assumption) ?_))

theorem writeSelect_keeps {x0 : Blk} (r : DictReq) {b : Blk} (hk : Keeps x0 b) : Keeps x0 (writeSelect r b) := by
  unfold writeSelect
  repeat' (first
    | with_reducible assumption | (with_reducible apply serveWrite_keeps) | (with_reducible apply updDict_keeps)
    | (with_reducible refine Keeps.foldl _ ?_ (fun b r h => ?_)) | (fail_if_no_progress extract_lets)
    | (fail_if_no_progress intros) | (with_reducible apply Keeps.ite) | split | (dsimp only)
    | (dsimp +zetaDelta only) | (fail_if_no_progress (with_reducible apply Keeps.lit))
    | (fail_if_no_progress (with_reducible apply Keeps.filter))
    | (with_reducible refine Keeps.of_pair (by assumption) ?_))

theorem writeBootswap_keeps {x0 : Blk} (r : DictReq) {b : Blk} (hk : Keeps x0 b) : Keeps x0 (writeBootswap r b) := by
  unfold writeBootswap
  repeat' (first
    | with_reducible assumption | (with_reducible apply serveWrite_keeps) | (with_reducible apply updDict_keeps)
    | (with_reducible refine Keeps.foldl _ ?_ (fun b r h => ?_)) | (fail_if_no_progress extract_lets)
    | (fail_if_no_progress intros) | (with_reducible apply Keeps.ite) | split | (dsimp only)
    | (dsimp +zetaDelta only) | (fail_if_no_progress (with_reducible apply Keeps.lit))
    | (fail_if_no_progress (with_reducible apply Keeps.filter))
    | (with_reducible refine Keeps.of_pair (by assumption) ?_))

theorem writeHold_keeps {x0 : Blk} (r : DictReq) {b : Blk} (hk : Keeps x0 b) : Keeps x0 (writeHold r b) := by
  unfold writeHold
  repeat' (first
    | with_reducible assumption | (with_reducible apply serveWrite_keeps) | (with_reducible apply updDict_keeps)
    | (with_reducible refine Keeps.foldl _ ?_ (fun b r h => ?_)) | (fail_if_no_progress extract_lets)
    | (fail_if_no_progress intros) | (with_reducible apply Keeps.ite) | split | (dsimp only)
    | (dsimp +zetaDelta only) | (fail_if_no_progress (with_reducible apply Keeps.lit))
    | (fail_if_no_progress (with_reducible apply Keeps.filter))
    | (with_reducible refine Keeps.of_pair (by assumption) ?_))

theorem writeClear_keeps {x0 : Blk} (r : DictReq) {b : Blk} (hk : Keeps x0 b) : Keeps x0 (writeClear r b) := by
  unfold writeClear
  repeat' (first
    | with_reducible assumption | (with_reducible apply serveWrite_keeps)
    | (with_reducible refine Keeps.foldl _ ?_ (fun b r h => ?_)) | (fail_if_no_progress extract_lets)
    | (fail_if_no_progress intros) | (with_reducible apply Keeps.ite) | split | (dsimp only)
    | (dsimp +zetaDelta only) | (fail_if_no_progress (with_reducible apply Keeps.lit))
    | (fail_if_no_progress (with_reducible apply Keeps.filter))
    | (with_reducible refine Keeps.of_pair (by assumption) ?_))

theorem writeClose_keeps {x0 : Blk} (r : DictReq) {b : Blk} (hk : Keeps x0 b) : Keeps x0 (writeClose r b) := by
  unfold writeClose
  repeat' (first
    | with_reducible assumption | (with_reducible apply serveWrite_keeps)
    | (with_reducible refine Keeps.foldl _ ?_ (fun b r h => ?_)) | (fail_if_no_progress extract_lets)
    | (fail_if_no_progress intros) | (with_reducible apply Keeps.ite) | split | (dsimp only)
    | (dsimp +zetaDelta only) | (fail_if_no_progress (with_reducible apply Keeps.lit))
    | (fail_if_no_progress (with_reducible apply Keeps.filter))
    | (with_reducible refine Keeps.of_pair (by assumption) ?_))

theorem writeAlertCause_keeps {x0 : Blk} (r : DictReq) (raised : BitVec 32) {b : Blk} (hk : Keeps x0 b) :
    Keeps x0 (writeAlertCause r raised b) := by
  unfold writeAlertCause
  repeat' (first
    | with_reducible assumption | (with_reducible apply serveWrite_keeps)
    | (with_reducible refine Keeps.foldl _ ?_ (fun b r h => ?_)) | (fail_if_no_progress extract_lets)
    | (fail_if_no_progress intros) | (with_reducible apply Keeps.ite) | split | (dsimp only)
    | (dsimp +zetaDelta only) | (fail_if_no_progress (with_reducible apply Keeps.lit))
    | (fail_if_no_progress (with_reducible apply Keeps.filter))
    | (with_reducible refine Keeps.of_pair (by assumption) ?_))

theorem writePowerCap_keeps {x0 : Blk} (r : DictReq) {b : Blk} (hk : Keeps x0 b) : Keeps x0 (writePowerCap r b) := by
  unfold writePowerCap
  repeat' (first
    | with_reducible assumption | (with_reducible apply serveWrite_keeps) | (with_reducible apply updPwr_keeps)
    | (with_reducible refine Keeps.foldl _ ?_ (fun b r h => ?_)) | (fail_if_no_progress extract_lets)
    | (fail_if_no_progress intros) | (with_reducible apply Keeps.ite) | split | (dsimp only)
    | (dsimp +zetaDelta only) | (fail_if_no_progress (with_reducible apply Keeps.lit))
    | (fail_if_no_progress (with_reducible apply Keeps.filter))
    | (with_reducible refine Keeps.of_pair (by assumption) ?_))

theorem setClockFloor_keeps {x0 : Blk} (v : Nat) {b : Blk} (hk : Keeps x0 b) : Keeps x0 (setClockFloor v b) := by
  unfold setClockFloor
  repeat' (first
    | with_reducible assumption | (with_reducible apply newEpoch_keeps) | (with_reducible apply updPwr_keeps)
    | (with_reducible refine Keeps.foldl _ ?_ (fun b r h => ?_)) | (fail_if_no_progress extract_lets)
    | (fail_if_no_progress intros) | (with_reducible apply Keeps.ite) | split | (dsimp only)
    | (dsimp +zetaDelta only) | (fail_if_no_progress (with_reducible apply Keeps.lit))
    | (fail_if_no_progress (with_reducible apply Keeps.filter))
    | (with_reducible refine Keeps.of_pair (by assumption) ?_))

theorem writeClockFloor_keeps {x0 : Blk} (r : DictReq) {b : Blk} (hk : Keeps x0 b) :
    Keeps x0 (writeClockFloor r b) := by
  unfold writeClockFloor
  repeat' (first
    | with_reducible assumption | (with_reducible apply serveWrite_keeps)
    | (with_reducible apply setClockFloor_keeps) | (with_reducible refine Keeps.foldl _ ?_ (fun b r h => ?_))
    | (fail_if_no_progress extract_lets) | (fail_if_no_progress intros) | (with_reducible apply Keeps.ite) | split
    | (dsimp only) | (dsimp +zetaDelta only) | (fail_if_no_progress (with_reducible apply Keeps.lit))
    | (fail_if_no_progress (with_reducible apply Keeps.filter))
    | (with_reducible refine Keeps.of_pair (by assumption) ?_))

theorem localRequest_keeps {x0 : Blk} (m : Master) (slot op : Nat) (r : DictReq) {b : Blk} (hk : Keeps x0 b) :
    Keeps x0 (localRequest m slot op r b) := by
  unfold localRequest
  repeat' (first
    | with_reducible assumption | (with_reducible apply busError_keeps)
    | (with_reducible refine Keeps.foldl _ ?_ (fun b r h => ?_)) | (fail_if_no_progress extract_lets)
    | (fail_if_no_progress intros) | (with_reducible apply Keeps.ite) | split | (dsimp only)
    | (dsimp +zetaDelta only) | (fail_if_no_progress (with_reducible apply Keeps.lit))
    | (fail_if_no_progress (with_reducible apply Keeps.filter))
    | (with_reducible refine Keeps.of_pair (by assumption) ?_))

theorem badRequest_keeps {x0 : Blk} (l : List Byte) {b : Blk} (hk : Keeps x0 b) : Keeps x0 (badRequest l b) := by
  unfold badRequest
  repeat' (first
    | with_reducible assumption | (with_reducible refine Keeps.foldl _ ?_ (fun b r h => ?_))
    | (fail_if_no_progress extract_lets) | (fail_if_no_progress intros) | (with_reducible apply Keeps.ite) | split
    | (dsimp only) | (dsimp +zetaDelta only) | (fail_if_no_progress (with_reducible apply Keeps.lit))
    | (fail_if_no_progress (with_reducible apply Keeps.filter))
    | (with_reducible refine Keeps.of_pair (by assumption) ?_))

theorem writeCommit_keeps {x0 : Blk} (r : DictReq) {b : Blk} (hk : Keeps x0 b) : Keeps x0 (writeCommit r b) := by
  unfold writeCommit
  repeat' (first
    | with_reducible assumption | (with_reducible apply serveWrite_keeps)
    | (with_reducible apply commitRecords_keeps) | (with_reducible refine Keeps.foldl _ ?_ (fun b r h => ?_))
    | (fail_if_no_progress extract_lets) | (fail_if_no_progress intros) | (with_reducible apply Keeps.ite) | split
    | (dsimp only) | (dsimp +zetaDelta only) | (fail_if_no_progress (with_reducible apply Keeps.lit))
    | (fail_if_no_progress (with_reducible apply Keeps.filter))
    | (with_reducible refine Keeps.of_pair (by assumption) ?_))

theorem writeStaged_keeps {x0 : Blk} (r : DictReq) {b : Blk} (hk : Keeps x0 b) : Keeps x0 (writeStaged r b) := by
  unfold writeStaged
  repeat' (first
    | with_reducible assumption | (with_reducible apply serveWrite_keeps)
    | (with_reducible refine Keeps.foldl _ ?_ (fun b r h => ?_)) | (fail_if_no_progress extract_lets)
    | (fail_if_no_progress intros) | (with_reducible apply Keeps.ite) | split | (dsimp only)
    | (dsimp +zetaDelta only) | (fail_if_no_progress (with_reducible apply Keeps.lit))
    | (fail_if_no_progress (with_reducible apply Keeps.filter))
    | (with_reducible refine Keeps.of_pair (by assumption) ?_))

theorem writeFwLoad_keeps {x0 : Blk} (r : DictReq) (readOk : Bool) {b : Blk} (hk : Keeps x0 b) :
    Keeps x0 (writeFwLoad r readOk b) := by
  unfold writeFwLoad
  repeat' (first
    | with_reducible assumption | (with_reducible apply serveWrite_keeps)
    | (with_reducible apply loadFirmware_keeps) | (with_reducible refine Keeps.foldl _ ?_ (fun b r h => ?_))
    | (fail_if_no_progress extract_lets) | (fail_if_no_progress intros) | (with_reducible apply Keeps.ite) | split
    | (dsimp only) | (dsimp +zetaDelta only) | (fail_if_no_progress (with_reducible apply Keeps.lit))
    | (fail_if_no_progress (with_reducible apply Keeps.filter))
    | (with_reducible refine Keeps.of_pair (by assumption) ?_))

theorem blow_keeps {x b : Blk} (p : Pulse) (h : Keeps x b) : Keeps x (blow p b) := by
  have hs := blow_fusesStay p b
  have hb : (blow p b).mem = b.mem ∧ (blow p b).cmds = b.cmds ∧ (blow p b).nextId = b.nextId
      ∧ (blow p b).fab.lat = b.fab.lat ∧ strapsSame b.fab (blow p b).fab := by
    unfold blow; split <;> exact ⟨rfl, rfl, rfl, rfl, rfl, rfl, rfl⟩
  obtain ⟨hm, hc, hn, hl, hd⟩ := hb
  obtain ⟨h1, h2, h3, h4, h5, h6⟩ := h
  refine ⟨fusesStay_trans h1 hs, ⟨hd.1.trans h2.1, hd.2.1.trans h2.2.1, hd.2.2.trans h2.2.2⟩, fun g e => ?_,
    fun g e => ?_, fun g => hm ▸ h5 g, fun g => ?_⟩
  · rw [hl] at e; exact flagBlown_of_fusesStay hs (h3 g e)
  · rw [hl]; exact h4 g e
  · have := h6 g; unfold numbered at *; rwa [hc, hn]

theorem fuseStatus_keeps {x b : Blk} (v : BitVec 3) (h : Keeps x b) : Keeps x (fuseStatus v b) :=
  h.of_fab _ rfl rfl ⟨rfl, rfl, rfl⟩ rfl

theorem senseAgain_keeps {x : Blk} {b : Blk} (h : Keeps x b) : Keeps x (senseAgain b) := by
  unfold senseAgain
  extract_lets l newSeal v w b1 b2
  have h1 : Keeps x b1 := ⟨h.fuses, h.straps, fun _ e => e, fun g e => h.seal g e, h.mem, h.cmds⟩
  split
  · exact (resetMaster_keeps _ h1).lit
  · exact h1

theorem programFuse_keeps {x : Blk} (l : List Byte) (supply : Option Nat) {b : Blk} (h : Keeps x b) :
    Keeps x (programFuse l supply b) := by
  unfold programFuse
  extract_lets field v todo n b1
  split
  · exact fuseStatus_keeps _ h
  · split
    · exact fuseStatus_keeps _ (h.of_fab _ rfl rfl ⟨rfl, rfl, rfl⟩ rfl)
    · exact senseAgain_keeps (fuseStatus_keeps _ (Keeps.foldl _ h (fun _ _ h => blow_keeps _ h)))

theorem writeFuse_keeps {x0 : Blk} (r : DictReq) (supply : Option Nat) {b : Blk} (hk : Keeps x0 b) :
    Keeps x0 (writeFuse r supply b) := by
  unfold writeFuse
  repeat' (first
    | with_reducible assumption | (with_reducible apply serveWrite_keeps) | (with_reducible apply programFuse_keeps)
    | (with_reducible refine Keeps.foldl _ ?_ (fun b r h => ?_)) | (fail_if_no_progress extract_lets)
    | (fail_if_no_progress intros) | (with_reducible apply Keeps.ite) | split | (dsimp only)
    | (dsimp +zetaDelta only) | (fail_if_no_progress (with_reducible apply Keeps.lit))
    | (fail_if_no_progress (with_reducible apply Keeps.filter))
    | (with_reducible refine Keeps.of_pair (by assumption) ?_))

theorem applyReform_keeps {x0 : Blk} {b : Blk} (hk : Keeps x0 b) : Keeps x0 (applyReform b) := by
  unfold applyReform
  repeat' (first
    | with_reducible assumption | (with_reducible apply whenQuiet_keeps) | (with_reducible apply whileHalted_keeps)
    | (with_reducible apply takeMembers_keeps) | (with_reducible refine Keeps.foldl _ ?_ (fun b r h => ?_))
    | (fail_if_no_progress extract_lets) | (fail_if_no_progress intros) | (with_reducible apply Keeps.ite) | split
    | (dsimp only) | (dsimp +zetaDelta only) | (fail_if_no_progress (with_reducible apply Keeps.lit))
    | (fail_if_no_progress (with_reducible apply Keeps.filter))
    | (with_reducible refine Keeps.of_pair (by assumption) ?_))

theorem startReform_keeps {x0 : Blk} (s : PeerStates) {b : Blk} (hk : Keeps x0 b) : Keeps x0 (startReform s b) := by
  unfold startReform
  repeat' (first
    | with_reducible assumption | (with_reducible apply applyReform_keeps)
    | (with_reducible refine Keeps.foldl _ ?_ (fun b r h => ?_)) | (fail_if_no_progress extract_lets)
    | (fail_if_no_progress intros) | (with_reducible apply Keeps.ite) | split | (dsimp only)
    | (dsimp +zetaDelta only) | (fail_if_no_progress (with_reducible apply Keeps.lit))
    | (fail_if_no_progress (with_reducible apply Keeps.filter))
    | (with_reducible refine Keeps.of_pair (by assumption) ?_))

theorem writeReform_keeps {x0 : Blk} (r : DictReq) (s : PeerStates) {b : Blk} (hk : Keeps x0 b) :
    Keeps x0 (writeReform r s b) := by
  unfold writeReform
  repeat' (first
    | with_reducible assumption | (with_reducible apply serveWrite_keeps) | (with_reducible apply startReform_keeps)
    | (with_reducible refine Keeps.foldl _ ?_ (fun b r h => ?_)) | (fail_if_no_progress extract_lets)
    | (fail_if_no_progress intros) | (with_reducible apply Keeps.ite) | split | (dsimp only)
    | (dsimp +zetaDelta only) | (fail_if_no_progress (with_reducible apply Keeps.lit))
    | (fail_if_no_progress (with_reducible apply Keeps.filter))
    | (with_reducible refine Keeps.of_pair (by assumption) ?_))

theorem passTraffic_keeps {x0 : Blk} (k : Nat) {b : Blk} (hk : Keeps x0 b) : Keeps x0 (passTraffic k b) := by
  unfold passTraffic
  repeat' (first
    | with_reducible assumption | (with_reducible apply updPort_keeps)
    | (with_reducible refine Keeps.foldl _ ?_ (fun b r h => ?_)) | (fail_if_no_progress extract_lets)
    | (fail_if_no_progress intros) | (with_reducible apply Keeps.ite) | split | (dsimp only)
    | (dsimp +zetaDelta only) | (fail_if_no_progress (with_reducible apply Keeps.lit))
    | (fail_if_no_progress (with_reducible apply Keeps.filter))
    | (with_reducible refine Keeps.of_pair (by assumption) ?_))

theorem retrainPort_keeps {x0 : Blk} (k : Nat) {b : Blk} (hk : Keeps x0 b) : Keeps x0 (retrainPort k b) := by
  unfold retrainPort
  repeat' (first
    | with_reducible assumption | (with_reducible apply passTraffic_keeps)
    | (with_reducible apply resetMaster_keeps) | (with_reducible apply updPort_keeps)
    | (with_reducible apply trainPort_keeps) | (with_reducible apply portDown_keeps)
    | (with_reducible refine Keeps.foldl _ ?_ (fun b r h => ?_)) | (fail_if_no_progress extract_lets)
    | (fail_if_no_progress intros) | (with_reducible apply Keeps.ite) | split | (dsimp only)
    | (dsimp +zetaDelta only) | (fail_if_no_progress (with_reducible apply Keeps.lit))
    | (fail_if_no_progress (with_reducible apply Keeps.filter))
    | (with_reducible refine Keeps.of_pair (by assumption) ?_))

theorem writeRetrain_keeps {x0 : Blk} (r : DictReq) {b : Blk} (hk : Keeps x0 b) : Keeps x0 (writeRetrain r b) := by
  unfold writeRetrain
  repeat' (first
    | with_reducible assumption | (with_reducible apply serveWrite_keeps) | (with_reducible apply retrainPort_keeps)
    | (with_reducible refine Keeps.foldl _ ?_ (fun b r h => ?_))
    | (with_reducible refine Keeps.foldlFst _ ?_ (fun b r h => ?_)) | (fail_if_no_progress extract_lets)
    | (fail_if_no_progress intros) | (with_reducible apply Keeps.ite) | split | (dsimp only)
    | (dsimp +zetaDelta only) | (fail_if_no_progress (with_reducible apply Keeps.lit))
    | (fail_if_no_progress (with_reducible apply Keeps.filter))
    | (with_reducible refine Keeps.of_pair (by assumption) ?_))

theorem mapStatus_keeps {x0 : Blk} (state p : Nat) {b : Blk} (hk : Keeps x0 b) : Keeps x0 (mapStatus state p b) := by
  unfold mapStatus
  repeat' (first
    | with_reducible assumption | (with_reducible refine Keeps.foldl _ ?_ (fun b r h => ?_))
    | (fail_if_no_progress extract_lets) | (fail_if_no_progress intros) | (with_reducible apply Keeps.ite) | split
    | (dsimp only) | (dsimp +zetaDelta only) | (fail_if_no_progress (with_reducible apply Keeps.lit))
    | (fail_if_no_progress (with_reducible apply Keeps.filter))
    | (with_reducible refine Keeps.of_pair (by assumption) ?_))

theorem bindMoved_keeps {x0 : Blk} (t q p : Nat) (unreadable : List Nat) {b : Blk} (hk : Keeps x0 b) :
    Keeps x0 (bindMoved t q p unreadable b) := by
  unfold bindMoved
  repeat' (first
    | with_reducible assumption | (with_reducible apply whileHalted_keeps) | (with_reducible apply raiseAlert_keeps)
    | (with_reducible apply retireRecord_keeps) | (with_reducible apply moveTile_keeps)
    | (with_reducible apply setPhysState_keeps) | (with_reducible apply zeroiseTile_keeps)
    | (with_reducible refine Keeps.foldl _ ?_ (fun b r h => ?_)) | (fail_if_no_progress extract_lets)
    | (fail_if_no_progress intros) | (with_reducible apply Keeps.ite) | split | (dsimp only)
    | (dsimp +zetaDelta only) | (fail_if_no_progress (with_reducible apply Keeps.lit))
    | (fail_if_no_progress (with_reducible apply Keeps.filter))
    | (with_reducible refine Keeps.of_pair (by assumption) ?_))

theorem bindFailed_keeps {x0 : Blk} (t p : Nat) {b : Blk} (hk : Keeps x0 b) : Keeps x0 (bindFailed t p b) := by
  unfold bindFailed
  repeat' (first
    | with_reducible assumption | (with_reducible apply retireRecord_keeps) | (with_reducible apply newEpoch_keeps)
    | (with_reducible apply bindTile_keeps) | (with_reducible apply zeroiseTile_keeps)
    | (with_reducible refine Keeps.foldl _ ?_ (fun b r h => ?_)) | (fail_if_no_progress extract_lets)
    | (fail_if_no_progress intros) | (with_reducible apply Keeps.ite) | split | (dsimp only)
    | (dsimp +zetaDelta only) | (fail_if_no_progress (with_reducible apply Keeps.lit))
    | (fail_if_no_progress (with_reducible apply Keeps.filter))
    | (with_reducible refine Keeps.of_pair (by assumption) ?_))

theorem applyBind_keeps {x0 : Blk} {b : Blk} (hk : Keeps x0 b) : Keeps x0 (applyBind b) := by
  unfold applyBind
  repeat' (first
    | with_reducible assumption | (with_reducible apply mapStatus_keeps) | (with_reducible apply bindFailed_keeps)
    | (with_reducible apply whenQuiet_keeps) | (with_reducible apply bindMoved_keeps)
    | (with_reducible refine Keeps.foldl _ ?_ (fun b r h => ?_)) | (fail_if_no_progress extract_lets)
    | (fail_if_no_progress intros) | (with_reducible apply Keeps.ite) | split | (dsimp only)
    | (dsimp +zetaDelta only) | (fail_if_no_progress (with_reducible apply Keeps.lit))
    | (fail_if_no_progress (with_reducible apply Keeps.filter))
    | (with_reducible refine Keeps.of_pair (by assumption) ?_))

theorem startBind_keeps {x0 : Blk} (t p : Nat) (unreadable : List Nat) {b : Blk} (hk : Keeps x0 b) :
    Keeps x0 (startBind t p unreadable b) := by
  unfold startBind
  repeat' (first
    | with_reducible assumption | (with_reducible apply mapStatus_keeps) | (with_reducible apply applyBind_keeps)
    | (with_reducible refine Keeps.foldl _ ?_ (fun b r h => ?_)) | (fail_if_no_progress extract_lets)
    | (fail_if_no_progress intros) | (with_reducible apply Keeps.ite) | split | (dsimp only)
    | (dsimp +zetaDelta only) | (fail_if_no_progress (with_reducible apply Keeps.lit))
    | (fail_if_no_progress (with_reducible apply Keeps.filter))
    | (with_reducible refine Keeps.of_pair (by assumption) ?_))

theorem writeTileBind_keeps {x0 : Blk} (r : DictReq) (unreadable : List Nat) {b : Blk} (hk : Keeps x0 b) :
    Keeps x0 (writeTileBind r unreadable b) := by
  unfold writeTileBind
  repeat' (first
    | with_reducible assumption | (with_reducible apply serveWrite_keeps) | (with_reducible apply startBind_keeps)
    | (with_reducible refine Keeps.foldl _ ?_ (fun b r h => ?_)) | (fail_if_no_progress extract_lets)
    | (fail_if_no_progress intros) | (with_reducible apply Keeps.ite) | split | (dsimp only)
    | (dsimp +zetaDelta only) | (fail_if_no_progress (with_reducible apply Keeps.lit))
    | (fail_if_no_progress (with_reducible apply Keeps.filter))
    | (with_reducible refine Keeps.of_pair (by assumption) ?_))

theorem returnTile_keeps {x0 : Blk} (p : Nat) (good : Bool) {b : Blk} (hk : Keeps x0 b) :
    Keeps x0 (returnTile p good b) := by
  unfold returnTile
  repeat' (first
    | with_reducible assumption | (with_reducible apply mapStatus_keeps) | (with_reducible apply setPhysState_keeps)
    | (with_reducible apply zeroiseTile_keeps) | (with_reducible refine Keeps.foldl _ ?_ (fun b r h => ?_))
    | (fail_if_no_progress extract_lets) | (fail_if_no_progress intros) | (with_reducible apply Keeps.ite) | split
    | (dsimp only) | (dsimp +zetaDelta only) | (fail_if_no_progress (with_reducible apply Keeps.lit))
    | (fail_if_no_progress (with_reducible apply Keeps.filter))
    | (with_reducible refine Keeps.of_pair (by assumption) ?_))

theorem writeTileReturn_keeps {x0 : Blk} (r : DictReq) (good : Bool) {b : Blk} (hk : Keeps x0 b) :
    Keeps x0 (writeTileReturn r good b) := by
  unfold writeTileReturn
  repeat' (first
    | with_reducible assumption | (with_reducible apply serveWrite_keeps) | (with_reducible apply returnTile_keeps)
    | (with_reducible refine Keeps.foldl _ ?_ (fun b r h => ?_)) | (fail_if_no_progress extract_lets)
    | (fail_if_no_progress intros) | (with_reducible apply Keeps.ite) | split | (dsimp only)
    | (dsimp +zetaDelta only) | (fail_if_no_progress (with_reducible apply Keeps.lit))
    | (fail_if_no_progress (with_reducible apply Keeps.filter))
    | (with_reducible refine Keeps.of_pair (by assumption) ?_))

theorem zeroStores_keeps {x b : Blk} (h : Keeps x b) : Keeps x (zeroStores b) :=
  h.of_mem rfl (memWf_tabKeep _) rfl rfl

theorem dropFirmware_keeps {x0 : Blk} {b : Blk} (hk : Keeps x0 b) : Keeps x0 (dropFirmware b) := by
  unfold dropFirmware
  repeat' (first
    | with_reducible assumption | (with_reducible apply resetMaster_keeps)
    | (with_reducible refine Keeps.foldl _ ?_ (fun b r h => ?_))
    | (with_reducible refine Keeps.foldlFst _ ?_ (fun b r h => ?_)) | (fail_if_no_progress extract_lets)
    | (fail_if_no_progress intros) | (with_reducible apply Keeps.ite) | split | (dsimp only)
    | (dsimp +zetaDelta only) | (fail_if_no_progress (with_reducible apply Keeps.lit))
    | (fail_if_no_progress (with_reducible apply Keeps.filter))
    | (with_reducible refine Keeps.of_pair (by assumption) ?_))

theorem endAllCommands_keeps {x b : Blk} (h : Keeps x b) : Keeps x (endAllCommands b) := by
  unfold endAllCommands
  have h1 : Keeps x ((List.range 6).foldl (fun b p => endCommands p true b) b) :=
    Keeps.foldl _ h (fun _ _ h => endCommands_keeps _ _ h)
  generalize (List.range 6).foldl (fun b p => endCommands p true b) b = b1 at *
  exact h1.of_cmds rfl rfl (fun _ _ hc => absurd hc List.not_mem_nil)

theorem openTrapdoor_keeps {x0 : Blk} {b : Blk} (hk : Keeps x0 b) : Keeps x0 (openTrapdoor b) := by
  unfold openTrapdoor
  repeat' (first
    | with_reducible assumption | (with_reducible apply zeroStores_keeps)
    | (with_reducible apply dropFirmware_keeps) | (with_reducible apply disableAll_keeps)
    | (with_reducible apply endAllCommands_keeps) | (with_reducible refine Keeps.foldl _ ?_ (fun b r h => ?_))
    | (fail_if_no_progress extract_lets) | (fail_if_no_progress intros) | (with_reducible apply Keeps.ite) | split
    | (dsimp only) | (dsimp +zetaDelta only) | (fail_if_no_progress (with_reducible apply Keeps.lit))
    | (fail_if_no_progress (with_reducible apply Keeps.filter))
    | (with_reducible refine Keeps.of_pair (by assumption) ?_))

theorem closeTrapdoor_keeps {x0 : Blk} {b : Blk} (hk : Keeps x0 b) : Keeps x0 (closeTrapdoor b) := by
  unfold closeTrapdoor
  repeat' (first
    | with_reducible assumption | (with_reducible apply resetMaster_keeps)
    | (with_reducible refine Keeps.foldl _ ?_ (fun b r h => ?_)) | (fail_if_no_progress extract_lets)
    | (fail_if_no_progress intros) | (with_reducible apply Keeps.ite) | split | (dsimp only)
    | (dsimp +zetaDelta only) | (fail_if_no_progress (with_reducible apply Keeps.lit))
    | (fail_if_no_progress (with_reducible apply Keeps.filter))
    | (with_reducible refine Keeps.of_pair (by assumption) ?_))

theorem writeTrapdoorEn_keeps {x0 : Blk} (r : DictReq) {b : Blk} (hk : Keeps x0 b) :
    Keeps x0 (writeTrapdoorEn r b) := by
  unfold writeTrapdoorEn
  repeat' (first
    | with_reducible assumption | (with_reducible apply serveWrite_keeps)
    | (with_reducible apply openTrapdoor_keeps) | (with_reducible apply closeTrapdoor_keeps)
    | (with_reducible refine Keeps.foldl _ ?_ (fun b r h => ?_)) | (fail_if_no_progress extract_lets)
    | (fail_if_no_progress intros) | (with_reducible apply Keeps.ite) | split | (dsimp only)
    | (dsimp +zetaDelta only) | (fail_if_no_progress (with_reducible apply Keeps.lit))
    | (fail_if_no_progress (with_reducible apply Keeps.filter))
    | (with_reducible refine Keeps.of_pair (by assumption) ?_))

theorem countDead_keeps {x0 : Blk} (n p : Nat) {b : Blk} (hk : Keeps x0 b) : Keeps x0 (countDead n b p) := by
  unfold countDead
  repeat' (first
    | with_reducible assumption | (with_reducible apply declareDeadlock_keeps)
    | (with_reducible refine Keeps.foldl _ ?_ (fun b r h => ?_)) | (fail_if_no_progress extract_lets)
    | (fail_if_no_progress intros) | (with_reducible apply Keeps.ite) | split | (dsimp only)
    | (dsimp +zetaDelta only) | (fail_if_no_progress (with_reducible apply Keeps.lit))
    | (fail_if_no_progress (with_reducible apply Keeps.filter))
    | (with_reducible refine Keeps.of_pair (by assumption) ?_))

theorem tickDeadlock_keeps {x0 : Blk} {b : Blk} (hk : Keeps x0 b) : Keeps x0 (tickDeadlock b) := by
  unfold tickDeadlock
  repeat' (first
    | with_reducible assumption | (with_reducible apply countDead_keeps)
    | (with_reducible refine Keeps.foldl _ ?_ (fun b r h => ?_))
    | (with_reducible refine Keeps.foldlFst _ ?_ (fun b r h => ?_)) | (fail_if_no_progress extract_lets)
    | (fail_if_no_progress intros) | (with_reducible apply Keeps.ite) | split | (dsimp only)
    | (dsimp +zetaDelta only) | (fail_if_no_progress (with_reducible apply Keeps.lit))
    | (fail_if_no_progress (with_reducible apply Keeps.filter))
    | (with_reducible refine Keeps.of_pair (by assumption) ?_))

theorem tickCounters_keeps {x0 : Blk} {b : Blk} (hk : Keeps x0 b) : Keeps x0 (tickCounters b) := by
  unfold tickCounters
  repeat' (first
    | with_reducible assumption | (with_reducible apply countAdd_keeps)
    | (with_reducible refine Keeps.foldl _ ?_ (fun b r h => ?_)) | (fail_if_no_progress extract_lets)
    | (fail_if_no_progress intros) | (with_reducible apply Keeps.ite) | split | (dsimp only)
    | (dsimp +zetaDelta only) | (fail_if_no_progress (with_reducible apply Keeps.lit))
    | (fail_if_no_progress (with_reducible apply Keeps.filter))
    | (with_reducible refine Keeps.of_pair (by assumption) ?_))

theorem tickPort_keeps {x0 : Blk} (k : Nat) {b : Blk} (hk : Keeps x0 b) : Keeps x0 (tickPort k b) := by
  unfold tickPort
  repeat' (first
    | with_reducible assumption | (with_reducible apply transmit_keeps) | (with_reducible apply updPort_keeps)
    | (with_reducible refine Keeps.foldl _ ?_ (fun b r h => ?_)) | (fail_if_no_progress extract_lets)
    | (fail_if_no_progress intros) | (with_reducible apply Keeps.ite) | split | (dsimp only)
    | (dsimp +zetaDelta only) | (fail_if_no_progress (with_reducible apply Keeps.lit))
    | (fail_if_no_progress (with_reducible apply Keeps.filter))
    | (with_reducible refine Keeps.of_pair (by assumption) ?_))

theorem tickPorts_keeps {x0 : Blk} {b : Blk} (hk : Keeps x0 b) : Keeps x0 (tickPorts b) := by
  unfold tickPorts
  repeat' (first
    | with_reducible assumption | (with_reducible apply tickPort_keeps)
    | (with_reducible refine Keeps.foldl _ ?_ (fun b r h => ?_))
    | (with_reducible refine Keeps.foldlFst _ ?_ (fun b r h => ?_)) | (fail_if_no_progress extract_lets)
    | (fail_if_no_progress intros) | (with_reducible apply Keeps.ite) | split | (dsimp only)
    | (dsimp +zetaDelta only) | (fail_if_no_progress (with_reducible apply Keeps.lit))
    | (fail_if_no_progress (with_reducible apply Keeps.filter))
    | (with_reducible refine Keeps.of_pair (by assumption) ?_))

theorem tickVault_keeps {x0 : Blk} {b : Blk} (hk : Keeps x0 b) : Keeps x0 (tickVault b) := by
  unfold tickVault
  repeat' (first
    | with_reducible assumption | (with_reducible apply applyLeave_keeps) | (with_reducible apply applyRetire_keeps)
    | (with_reducible apply applyTurns_keeps) | (with_reducible apply applyReform_keeps)
    | (with_reducible apply applyBind_keeps) | (with_reducible apply applyCommit_keeps)
    | (with_reducible refine Keeps.foldl _ ?_ (fun b r h => ?_)) | (fail_if_no_progress extract_lets)
    | (fail_if_no_progress intros) | (with_reducible apply Keeps.ite) | split | (dsimp only)
    | (dsimp +zetaDelta only) | (fail_if_no_progress (with_reducible apply Keeps.lit))
    | (fail_if_no_progress (with_reducible apply Keeps.filter))
    | (with_reducible refine Keeps.of_pair (by assumption) ?_))

theorem tickOnce_keeps {x0 : Blk} {b : Blk} (hk : Keeps x0 b) : Keeps x0 (tickOnce b) := by
  unfold tickOnce
  repeat' (first
    | with_reducible assumption | (with_reducible apply elapse_keeps) | (with_reducible apply tickVault_keeps)
    | (with_reducible apply tickDeadlock_keeps) | (with_reducible apply expireWaits_keeps)
    | (with_reducible apply tickCounters_keeps) | (with_reducible apply tickPorts_keeps)
    | (with_reducible apply runMatrix_keeps) | (with_reducible refine Keeps.foldl _ ?_ (fun b r h => ?_))
    | (fail_if_no_progress extract_lets) | (fail_if_no_progress intros) | (with_reducible apply Keeps.ite) | split
    | (dsimp only) | (dsimp +zetaDelta only) | (fail_if_no_progress (with_reducible apply Keeps.lit))
    | (fail_if_no_progress (with_reducible apply Keeps.filter))
    | (with_reducible refine Keeps.of_pair (by assumption) ?_))

theorem passTicks_keeps {x : Blk} (n : Nat) : ∀ {b : Blk}, Keeps x b → Keeps x (passTicks n b) := by
  induction n with
  | zero => intro b h; exact h
  | succ n ih =>
    intro b h
    unfold passTicks
    split
    · exact fillBuckets_keeps _ (elapse_keeps _ h)
    · exact ih (tickOnce_keeps h)

theorem pass_keeps {x0 : Blk} (n : Nat) {b : Blk} (hk : Keeps x0 b) : Keeps x0 (pass n b) := by
  unfold pass
  repeat' (first
    | with_reducible assumption | (with_reducible apply elapse_keeps) | (with_reducible apply passTicks_keeps)
    | (with_reducible refine Keeps.foldl _ ?_ (fun b r h => ?_)) | (fail_if_no_progress extract_lets)
    | (fail_if_no_progress intros) | (with_reducible apply Keeps.ite) | split | (dsimp only)
    | (dsimp +zetaDelta only) | (fail_if_no_progress (with_reducible apply Keeps.lit))
    | (fail_if_no_progress (with_reducible apply Keeps.filter))
    | (with_reducible refine Keeps.of_pair (by assumption) ?_))

theorem passTo_keeps {x0 : Blk} (t : Nat) {b : Blk} (hk : Keeps x0 b) : Keeps x0 (passTo t b) := by
  unfold passTo
  repeat' (first
    | with_reducible assumption | (with_reducible apply pass_keeps)
    | (with_reducible refine Keeps.foldl _ ?_ (fun b r h => ?_)) | (fail_if_no_progress extract_lets)
    | (fail_if_no_progress intros) | (with_reducible apply Keeps.ite) | split | (dsimp only)
    | (dsimp +zetaDelta only) | (fail_if_no_progress (with_reducible apply Keeps.lit))
    | (fail_if_no_progress (with_reducible apply Keeps.filter))
    | (with_reducible refine Keeps.of_pair (by assumption) ?_))

theorem passTc_keeps {x0 : Blk} (n : Nat) {b : Blk} (hk : Keeps x0 b) : Keeps x0 (passTc n b) := by
  unfold passTc
  repeat' (first
    | with_reducible assumption | (with_reducible apply pass_keeps)
    | (with_reducible refine Keeps.foldl _ ?_ (fun b r h => ?_)) | (fail_if_no_progress extract_lets)
    | (fail_if_no_progress intros) | (with_reducible apply Keeps.ite) | split | (dsimp only)
    | (dsimp +zetaDelta only) | (fail_if_no_progress (with_reducible apply Keeps.lit))
    | (fail_if_no_progress (with_reducible apply Keeps.filter))
    | (with_reducible refine Keeps.of_pair (by assumption) ?_))

theorem idleTick_keeps {x0 : Blk} {b : Blk} (hk : Keeps x0 b) : Keeps x0 (idleTick b) := by
  unfold idleTick
  repeat' (first
    | with_reducible assumption | (with_reducible apply pass_keeps)
    | (with_reducible refine Keeps.foldl _ ?_ (fun b r h => ?_)) | (fail_if_no_progress extract_lets)
    | (fail_if_no_progress intros) | (with_reducible apply Keeps.ite) | split | (dsimp only)
    | (dsimp +zetaDelta only) | (fail_if_no_progress (with_reducible apply Keeps.lit))
    | (fail_if_no_progress (with_reducible apply Keeps.filter))
    | (with_reducible refine Keeps.of_pair (by assumption) ?_))

theorem flagWaitTimeout_keeps {x0 : Blk} (id : Nat) {b : Blk} (hk : Keeps x0 b) : Keeps x0 (flagWaitTimeout id b) := by
  unfold flagWaitTimeout
  repeat' (first
    | with_reducible assumption | (with_reducible apply passTc_keeps) | (with_reducible apply expireWait_keeps)
    | (with_reducible refine Keeps.foldl _ ?_ (fun b r h => ?_)) | (fail_if_no_progress extract_lets)
    | (fail_if_no_progress intros) | (with_reducible apply Keeps.ite) | split | (dsimp only)
    | (dsimp +zetaDelta only) | (fail_if_no_progress (with_reducible apply Keeps.lit))
    | (fail_if_no_progress (with_reducible apply Keeps.filter))
    | (with_reducible refine Keeps.of_pair (by assumption) ?_))

theorem flagDeadlock_keeps {x0 : Blk} (p : Nat) {b : Blk} (hk : Keeps x0 b) : Keeps x0 (flagDeadlock p b) := by
  unfold flagDeadlock
  repeat' (first
    | with_reducible assumption | (with_reducible apply passTc_keeps)
    | (with_reducible refine Keeps.foldl _ ?_ (fun b r h => ?_)) | (fail_if_no_progress extract_lets)
    | (fail_if_no_progress intros) | (with_reducible apply Keeps.ite) | split | (dsimp only)
    | (dsimp +zetaDelta only) | (fail_if_no_progress (with_reducible apply Keeps.lit))
    | (fail_if_no_progress (with_reducible apply Keeps.filter))
    | (with_reducible refine Keeps.of_pair (by assumption) ?_))

theorem multicastDetach_keeps {x0 : Blk} (n : Nat) (positions : List (Nat × Nat)) {b : Blk} (hk : Keeps x0 b) :
    Keeps x0 (multicastDetach n positions b) := by
  unfold multicastDetach
  repeat' (first
    | with_reducible assumption | (with_reducible apply passTc_keeps) | (with_reducible apply onStream_keeps)
    | (with_reducible apply detachSlow_keeps) | (with_reducible refine Keeps.foldl _ ?_ (fun b r h => ?_))
    | (fail_if_no_progress extract_lets) | (fail_if_no_progress intros) | (with_reducible apply Keeps.ite) | split
    | (dsimp only) | (dsimp +zetaDelta only) | (fail_if_no_progress (with_reducible apply Keeps.lit))
    | (fail_if_no_progress (with_reducible apply Keeps.filter))
    | (with_reducible refine Keeps.of_pair (by assumption) ?_))

theorem feWatchdog_keeps {x0 : Blk} (n : Nat) {b : Blk} (hk : Keeps x0 b) : Keeps x0 (feWatchdog n b) := by
  unfold feWatchdog
  repeat' (first
    | with_reducible assumption | (with_reducible apply pass_keeps) | (with_reducible apply masterReset_keeps)
    | (with_reducible refine Keeps.foldl _ ?_ (fun b r h => ?_)) | (fail_if_no_progress extract_lets)
    | (fail_if_no_progress intros) | (with_reducible apply Keeps.ite) | split | (dsimp only)
    | (dsimp +zetaDelta only) | (fail_if_no_progress (with_reducible apply Keeps.lit))
    | (fail_if_no_progress (with_reducible apply Keeps.filter))
    | (with_reducible refine Keeps.of_pair (by assumption) ?_))

theorem powerCapCheck_keeps {x0 : Blk} (now : BitVec 16) {b : Blk} (hk : Keeps x0 b) :
    Keeps x0 (powerCapCheck now b) := by
  unfold powerCapCheck
  repeat' (first
    | with_reducible assumption | (with_reducible apply updPwr_keeps) | (with_reducible apply passTo_keeps)
    | (with_reducible refine Keeps.foldl _ ?_ (fun b r h => ?_)) | (fail_if_no_progress extract_lets)
    | (fail_if_no_progress intros) | (with_reducible apply Keeps.ite) | split | (dsimp only)
    | (dsimp +zetaDelta only) | (fail_if_no_progress (with_reducible apply Keeps.lit))
    | (fail_if_no_progress (with_reducible apply Keeps.filter))
    | (with_reducible refine Keeps.of_pair (by assumption) ?_))

theorem quadWake_keeps {x0 : Blk} (n : Nat) {b : Blk} (hk : Keeps x0 b) : Keeps x0 (quadWake n b) := by
  unfold quadWake
  repeat' (first
    | with_reducible assumption | (with_reducible apply updPwr_keeps) | (with_reducible apply pass_keeps)
    | (with_reducible refine Keeps.foldl _ ?_ (fun b r h => ?_)) | (fail_if_no_progress extract_lets)
    | (fail_if_no_progress intros) | (with_reducible apply Keeps.ite) | split | (dsimp only)
    | (dsimp +zetaDelta only) | (fail_if_no_progress (with_reducible apply Keeps.lit))
    | (fail_if_no_progress (with_reducible apply Keeps.filter))
    | (with_reducible refine Keeps.of_pair (by assumption) ?_))

theorem quadrantWake_keeps {x0 : Blk} (n : Nat) {b : Blk} (hk : Keeps x0 b) : Keeps x0 (quadrantWake n b) := by
  unfold quadrantWake
  repeat' (first
    | with_reducible assumption | (with_reducible apply updPwr_keeps) | (with_reducible apply pass_keeps)
    | (with_reducible refine Keeps.foldl _ ?_ (fun b r h => ?_)) | (fail_if_no_progress extract_lets)
    | (fail_if_no_progress intros) | (with_reducible apply Keeps.ite) | split | (dsimp only)
    | (dsimp +zetaDelta only) | (fail_if_no_progress (with_reducible apply Keeps.lit))
    | (fail_if_no_progress (with_reducible apply Keeps.filter))
    | (with_reducible refine Keeps.of_pair (by assumption) ?_))

theorem unitWake_keeps {x0 : Blk} (u : PowerUnit) {b : Blk} (hk : Keeps x0 b) : Keeps x0 (unitWake u b) := by
  unfold unitWake
  repeat' (first
    | with_reducible assumption | (with_reducible apply quadWake_keeps) | (with_reducible apply quadrantWake_keeps)
    | (with_reducible apply linkWake_keeps) | (with_reducible refine Keeps.foldl _ ?_ (fun b r h => ?_))
    | (fail_if_no_progress extract_lets) | (fail_if_no_progress intros) | (with_reducible apply Keeps.ite) | split
    | (dsimp only) | (dsimp +zetaDelta only) | (fail_if_no_progress (with_reducible apply Keeps.lit))
    | (fail_if_no_progress (with_reducible apply Keeps.filter))
    | (with_reducible refine Keeps.of_pair (by assumption) ?_))

theorem openWindow_keeps {x0 : Blk} {b : Blk} (hk : Keeps x0 b) : Keeps x0 (openWindow b) := by
  unfold openWindow
  repeat' (first
    | with_reducible assumption | (with_reducible apply pass_keeps) | (with_reducible apply raiseWake_keeps)
    | (with_reducible refine Keeps.foldl _ ?_ (fun b r h => ?_)) | (fail_if_no_progress extract_lets)
    | (fail_if_no_progress intros) | (with_reducible apply Keeps.ite) | split | (dsimp only)
    | (dsimp +zetaDelta only) | (fail_if_no_progress (with_reducible apply Keeps.lit))
    | (fail_if_no_progress (with_reducible apply Keeps.filter))
    | (with_reducible refine Keeps.of_pair (by assumption) ?_))

theorem expireWindow_keeps {x0 : Blk} {b : Blk} (hk : Keeps x0 b) : Keeps x0 (expireWindow b) := by
  unfold expireWindow
  repeat' (first
    | with_reducible assumption | (with_reducible apply passTo_keeps)
    | (with_reducible refine Keeps.foldl _ ?_ (fun b r h => ?_)) | (fail_if_no_progress extract_lets)
    | (fail_if_no_progress intros) | (with_reducible apply Keeps.ite) | split | (dsimp only)
    | (dsimp +zetaDelta only) | (fail_if_no_progress (with_reducible apply Keeps.lit))
    | (fail_if_no_progress (with_reducible apply Keeps.filter))
    | (with_reducible refine Keeps.of_pair (by assumption) ?_))

theorem becomeStuck_keeps {x0 : Blk} {b : Blk} (hk : Keeps x0 b) : Keeps x0 (becomeStuck b) := by
  unfold becomeStuck
  repeat' (first
    | with_reducible assumption | (with_reducible apply passTo_keeps)
    | (with_reducible refine Keeps.foldl _ ?_ (fun b r h => ?_)) | (fail_if_no_progress extract_lets)
    | (fail_if_no_progress intros) | (with_reducible apply Keeps.ite) | split | (dsimp only)
    | (dsimp +zetaDelta only) | (fail_if_no_progress (with_reducible apply Keeps.lit))
    | (fail_if_no_progress (with_reducible apply Keeps.filter))
    | (with_reducible refine Keeps.of_pair (by assumption) ?_))

theorem clearStuck_keeps {x0 : Blk} {b : Blk} (hk : Keeps x0 b) : Keeps x0 (clearStuck b) := by
  unfold clearStuck
  repeat' (first
    | with_reducible assumption | (with_reducible apply pass_keeps)
    | (with_reducible refine Keeps.foldl _ ?_ (fun b r h => ?_)) | (fail_if_no_progress extract_lets)
    | (fail_if_no_progress intros) | (with_reducible apply Keeps.ite) | split | (dsimp only)
    | (dsimp +zetaDelta only) | (fail_if_no_progress (with_reducible apply Keeps.lit))
    | (fail_if_no_progress (with_reducible apply Keeps.filter))
    | (with_reducible refine Keeps.of_pair (by assumption) ?_))

theorem sumpInterval_keeps {x0 : Blk} {b : Blk} (hk : Keeps x0 b) : Keeps x0 (sumpInterval b) := by
  unfold sumpInterval
  repeat' (first
    | with_reducible assumption | (with_reducible apply passTo_keeps)
    | (with_reducible refine Keeps.foldl _ ?_ (fun b r h => ?_)) | (fail_if_no_progress extract_lets)
    | (fail_if_no_progress intros) | (with_reducible apply Keeps.ite) | split | (dsimp only)
    | (dsimp +zetaDelta only) | (fail_if_no_progress (with_reducible apply Keeps.lit))
    | (fail_if_no_progress (with_reducible apply Keeps.filter))
    | (with_reducible refine Keeps.of_pair (by assumption) ?_))

end Sys2Proof.Machine
end

