-- ==== Sys2Proof/Laws/KeepsExec.lean ====
section
/-! SUPPORT. Every command answers a next state that keeps what `Keeps` names. -/
namespace Sys2Proof.Machine

/-- An outcome is a next state with the same commands waiting, whose block keeps everything `Keeps` names. -/
def Ran (s : State) (o : Host.Outcome State Fault Refusal) : Prop := ∃ b, o = .next { s with blk := b } ∧ Keeps s.blk b

theorem onBlk_ran {f : Blk → Blk} {s : State} (h : ∀ x b, Keeps x b → Keeps x (f b)) : Ran s (onBlk f s) :=
  ⟨f s.blk, rfl, h _ _ (Keeps.refl _)⟩

/-- The end of a run that answered a next state. -/
theorem Ran.keeps {s t : State} {o : Host.Outcome State Fault Refusal} (h :
    Ran s o) (e : o = .next t) : Keeps s.blk t.blk := by
  obtain ⟨b, rfl, g⟩ := h
  cases e
  exact g

theorem execNop_ran (p q : Nat) (d : Desc) (s : State) : Ran s (execNop p q d s) := by
  unfold execNop
  apply onBlk_ran
  intro x b hk
  repeat' (first
    | with_reducible assumption | (with_reducible apply decodeAs_keeps) | (with_reducible apply nopGo_keeps)
    | (with_reducible refine Keeps.foldl _ ?_ (fun b r h => ?_)) | (fail_if_no_progress extract_lets)
    | (fail_if_no_progress intros) | (with_reducible apply Keeps.ite) | split | (dsimp only)
    | (dsimp +zetaDelta only) | (fail_if_no_progress (with_reducible apply Keeps.lit))
    | (fail_if_no_progress (with_reducible apply Keeps.filter))
    | (with_reducible refine Keeps.of_pair (by assumption) ?_))

theorem execRelease_ran (p q : Nat) (d : Desc) (s : State) : Ran s (execRelease p q d s) := by
  unfold execRelease
  apply onBlk_ran
  intro x b hk
  repeat' (first
    | with_reducible assumption | (with_reducible apply decodeAs_keeps) | (with_reducible apply releaseGo_keeps)
    | (with_reducible refine Keeps.foldl _ ?_ (fun b r h => ?_)) | (fail_if_no_progress extract_lets)
    | (fail_if_no_progress intros) | (with_reducible apply Keeps.ite) | split | (dsimp only)
    | (dsimp +zetaDelta only) | (fail_if_no_progress (with_reducible apply Keeps.lit))
    | (fail_if_no_progress (with_reducible apply Keeps.filter))
    | (with_reducible refine Keeps.of_pair (by assumption) ?_))

theorem execReleaseApply_ran (id : Nat) (s : State) : Ran s (execReleaseApply id s) := by
  unfold execReleaseApply
  apply onBlk_ran
  intro x b hk
  repeat' (first
    | with_reducible assumption | (with_reducible apply releaseApply_keeps)
    | (with_reducible refine Keeps.foldl _ ?_ (fun b r h => ?_)) | (fail_if_no_progress extract_lets)
    | (fail_if_no_progress intros) | (with_reducible apply Keeps.ite) | split | (dsimp only)
    | (dsimp +zetaDelta only) | (fail_if_no_progress (with_reducible apply Keeps.lit))
    | (fail_if_no_progress (with_reducible apply Keeps.filter))
    | (with_reducible refine Keeps.of_pair (by assumption) ?_))

theorem execSetEpoch_ran (p q : Nat) (d : Desc) (s : State) : Ran s (execSetEpoch p q d s) := by
  unfold execSetEpoch
  apply onBlk_ran
  intro x b hk
  repeat' (first
    | with_reducible assumption | (with_reducible apply decodeAs_keeps) | (with_reducible apply nopGo_keeps)
    | (with_reducible apply loadEpoch_keeps) | (with_reducible refine Keeps.foldl _ ?_ (fun b r h => ?_))
    | (fail_if_no_progress extract_lets) | (fail_if_no_progress intros) | (with_reducible apply Keeps.ite) | split
    | (dsimp only) | (dsimp +zetaDelta only) | (fail_if_no_progress (with_reducible apply Keeps.lit))
    | (fail_if_no_progress (with_reducible apply Keeps.filter))
    | (with_reducible refine Keeps.of_pair (by assumption) ?_))

theorem execFence_ran (p q : Nat) (d : Desc) (s : State) : Ran s (execFence p q d s) := by
  unfold execFence
  apply onBlk_ran
  intro x b hk
  repeat' (first
    | with_reducible assumption | (with_reducible apply decodeAs_keeps) | (with_reducible apply fenceGo_keeps)
    | (with_reducible refine Keeps.foldl _ ?_ (fun b r h => ?_)) | (fail_if_no_progress extract_lets)
    | (fail_if_no_progress intros) | (with_reducible apply Keeps.ite) | split | (dsimp only)
    | (dsimp +zetaDelta only) | (fail_if_no_progress (with_reducible apply Keeps.lit))
    | (fail_if_no_progress (with_reducible apply Keeps.filter))
    | (with_reducible refine Keeps.of_pair (by assumption) ?_))

theorem execFenceEnd_ran (id : Nat) (s : State) : Ran s (execFenceEnd id s) := by
  unfold execFenceEnd
  apply onBlk_ran
  intro x b hk
  repeat' (first
    | with_reducible assumption | (with_reducible apply fenceEnd_keeps)
    | (with_reducible refine Keeps.foldl _ ?_ (fun b r h => ?_)) | (fail_if_no_progress extract_lets)
    | (fail_if_no_progress intros) | (with_reducible apply Keeps.ite) | split | (dsimp only)
    | (dsimp +zetaDelta only) | (fail_if_no_progress (with_reducible apply Keeps.lit))
    | (fail_if_no_progress (with_reducible apply Keeps.filter))
    | (with_reducible refine Keeps.of_pair (by assumption) ?_))

theorem execFlagSet_ran (p q : Nat) (d : Desc) (s : State) : Ran s (execFlagSet p q d s) := by
  unfold execFlagSet
  apply onBlk_ran
  intro x b hk
  repeat' (first
    | with_reducible assumption | (with_reducible apply decodeAs_keeps) | (with_reducible apply flagSetGo_keeps)
    | (with_reducible refine Keeps.foldl _ ?_ (fun b r h => ?_)) | (fail_if_no_progress extract_lets)
    | (fail_if_no_progress intros) | (with_reducible apply Keeps.ite) | split | (dsimp only)
    | (dsimp +zetaDelta only) | (fail_if_no_progress (with_reducible apply Keeps.lit))
    | (fail_if_no_progress (with_reducible apply Keeps.filter))
    | (with_reducible refine Keeps.of_pair (by assumption) ?_))

theorem execFlagSetApply_ran (id : Nat) (s : State) : Ran s (execFlagSetApply id s) := by
  unfold execFlagSetApply
  apply onBlk_ran
  intro x b hk
  repeat' (first
    | with_reducible assumption | (with_reducible apply flagSetApply_keeps)
    | (with_reducible refine Keeps.foldl _ ?_ (fun b r h => ?_)) | (fail_if_no_progress extract_lets)
    | (fail_if_no_progress intros) | (with_reducible apply Keeps.ite) | split | (dsimp only)
    | (dsimp +zetaDelta only) | (fail_if_no_progress (with_reducible apply Keeps.lit))
    | (fail_if_no_progress (with_reducible apply Keeps.filter))
    | (with_reducible refine Keeps.of_pair (by assumption) ?_))

theorem execFlagWait_ran (p q : Nat) (d : Desc) (s : State) : Ran s (execFlagWait p q d s) := by
  unfold execFlagWait
  apply onBlk_ran
  intro x b hk
  repeat' (first
    | with_reducible assumption | (with_reducible apply decodeAs_keeps) | (with_reducible apply flagWaitGo_keeps)
    | (with_reducible refine Keeps.foldl _ ?_ (fun b r h => ?_)) | (fail_if_no_progress extract_lets)
    | (fail_if_no_progress intros) | (with_reducible apply Keeps.ite) | split | (dsimp only)
    | (dsimp +zetaDelta only) | (fail_if_no_progress (with_reducible apply Keeps.lit))
    | (fail_if_no_progress (with_reducible apply Keeps.filter))
    | (with_reducible refine Keeps.of_pair (by assumption) ?_))

theorem execFlagWaitTimeout_ran (id : Nat) (s : State) : Ran s (execFlagWaitTimeout id s) := by
  unfold execFlagWaitTimeout
  apply onBlk_ran
  intro x b hk
  repeat' (first
    | with_reducible assumption | (with_reducible apply flagWaitTimeout_keeps)
    | (with_reducible refine Keeps.foldl _ ?_ (fun b r h => ?_)) | (fail_if_no_progress extract_lets)
    | (fail_if_no_progress intros) | (with_reducible apply Keeps.ite) | split | (dsimp only)
    | (dsimp +zetaDelta only) | (fail_if_no_progress (with_reducible apply Keeps.lit))
    | (fail_if_no_progress (with_reducible apply Keeps.filter))
    | (with_reducible refine Keeps.of_pair (by assumption) ?_))

theorem execFlagDeadlock_ran (p : Nat) (s : State) : Ran s (execFlagDeadlock p s) := by
  unfold execFlagDeadlock
  apply onBlk_ran
  intro x b hk
  repeat' (first
    | with_reducible assumption | (with_reducible apply flagDeadlock_keeps)
    | (with_reducible refine Keeps.foldl _ ?_ (fun b r h => ?_)) | (fail_if_no_progress extract_lets)
    | (fail_if_no_progress intros) | (with_reducible apply Keeps.ite) | split | (dsimp only)
    | (dsimp +zetaDelta only) | (fail_if_no_progress (with_reducible apply Keeps.lit))
    | (fail_if_no_progress (with_reducible apply Keeps.filter))
    | (with_reducible refine Keeps.of_pair (by assumption) ?_))

theorem execResume_ran (p q : Nat) (d : Desc) (s : State) : Ran s (execResume p q d s) := by
  unfold execResume
  apply onBlk_ran
  intro x b hk
  repeat' (first
    | with_reducible assumption | (with_reducible apply decodeAs_keeps) | (with_reducible apply resumeGo_keeps)
    | (with_reducible refine Keeps.foldl _ ?_ (fun b r h => ?_)) | (fail_if_no_progress extract_lets)
    | (fail_if_no_progress intros) | (with_reducible apply Keeps.ite) | split | (dsimp only)
    | (dsimp +zetaDelta only) | (fail_if_no_progress (with_reducible apply Keeps.lit))
    | (fail_if_no_progress (with_reducible apply Keeps.filter))
    | (with_reducible refine Keeps.of_pair (by assumption) ?_))

theorem execDiscard_ran (p q : Nat) (d : Desc) (s : State) : Ran s (execDiscard p q d s) := by
  unfold execDiscard
  apply onBlk_ran
  intro x b hk
  repeat' (first
    | with_reducible assumption | (with_reducible apply decodeAs_keeps) | (with_reducible apply discardGo_keeps)
    | (with_reducible refine Keeps.foldl _ ?_ (fun b r h => ?_)) | (fail_if_no_progress extract_lets)
    | (fail_if_no_progress intros) | (with_reducible apply Keeps.ite) | split | (dsimp only)
    | (dsimp +zetaDelta only) | (fail_if_no_progress (with_reducible apply Keeps.lit))
    | (fail_if_no_progress (with_reducible apply Keeps.filter))
    | (with_reducible refine Keeps.of_pair (by assumption) ?_))

theorem execDebugBreak_ran (p q : Nat) (d : Desc) (s : State) : Ran s (execDebugBreak p q d s) := by
  unfold execDebugBreak
  apply onBlk_ran
  intro x b hk
  repeat' (first
    | with_reducible assumption | (with_reducible apply decodeAs_keeps) | (with_reducible apply breakGo_keeps)
    | (with_reducible refine Keeps.foldl _ ?_ (fun b r h => ?_)) | (fail_if_no_progress extract_lets)
    | (fail_if_no_progress intros) | (with_reducible apply Keeps.ite) | split | (dsimp only)
    | (dsimp +zetaDelta only) | (fail_if_no_progress (with_reducible apply Keeps.lit))
    | (fail_if_no_progress (with_reducible apply Keeps.filter))
    | (with_reducible refine Keeps.of_pair (by assumption) ?_))

theorem execModtabLoad_ran (p q : Nat) (d : Desc) (s : State) : Ran s (execModtabLoad p q d s) := by
  unfold execModtabLoad
  apply onBlk_ran
  intro x b hk
  repeat' (first
    | with_reducible assumption | (with_reducible apply decodeAs_keeps) | (with_reducible apply modtabGo_keeps)
    | (with_reducible refine Keeps.foldl _ ?_ (fun b r h => ?_)) | (fail_if_no_progress extract_lets)
    | (fail_if_no_progress intros) | (with_reducible apply Keeps.ite) | split | (dsimp only)
    | (dsimp +zetaDelta only) | (fail_if_no_progress (with_reducible apply Keeps.lit))
    | (fail_if_no_progress (with_reducible apply Keeps.filter))
    | (with_reducible refine Keeps.of_pair (by assumption) ?_))

theorem execModtabTakeEffect_ran (id : Nat) (s : State) : Ran s (execModtabTakeEffect id s) := by
  unfold execModtabTakeEffect
  apply onBlk_ran
  intro x b hk
  repeat' (first
    | with_reducible assumption | (with_reducible apply onCmd_keeps) | (with_reducible apply modtabTake_keeps)
    | (with_reducible refine Keeps.foldl _ ?_ (fun b r h => ?_)) | (fail_if_no_progress extract_lets)
    | (fail_if_no_progress intros) | (with_reducible apply Keeps.ite) | split | (dsimp only)
    | (dsimp +zetaDelta only) | (fail_if_no_progress (with_reducible apply Keeps.lit))
    | (fail_if_no_progress (with_reducible apply Keeps.filter))
    | (with_reducible refine Keeps.of_pair (by assumption) ?_))

theorem execPermGen_ran (p q : Nat) (d : Desc) (s : State) : Ran s (execPermGen p q d s) := by
  unfold execPermGen
  apply onBlk_ran
  intro x b hk
  repeat' (first
    | with_reducible assumption | (with_reducible apply decodeAs_keeps) | (with_reducible apply getReady_keeps)
    | (with_reducible refine Keeps.foldl _ ?_ (fun b r h => ?_)) | (fail_if_no_progress extract_lets)
    | (fail_if_no_progress intros) | (with_reducible apply Keeps.ite) | split | (dsimp only)
    | (dsimp +zetaDelta only) | (fail_if_no_progress (with_reducible apply Keeps.lit))
    | (fail_if_no_progress (with_reducible apply Keeps.filter))
    | (with_reducible refine Keeps.of_pair (by assumption) ?_))

theorem execPermIdx_ran (p q : Nat) (d : Desc) (s : State) : Ran s (execPermIdx p q d s) := by
  unfold execPermIdx
  apply onBlk_ran
  intro x b hk
  repeat' (first
    | with_reducible assumption | (with_reducible apply decodeAs_keeps) | (with_reducible apply getReady_keeps)
    | (with_reducible refine Keeps.foldl _ ?_ (fun b r h => ?_)) | (fail_if_no_progress extract_lets)
    | (fail_if_no_progress intros) | (with_reducible apply Keeps.ite) | split | (dsimp only)
    | (dsimp +zetaDelta only) | (fail_if_no_progress (with_reducible apply Keeps.lit))
    | (fail_if_no_progress (with_reducible apply Keeps.filter))
    | (with_reducible refine Keeps.of_pair (by assumption) ?_))

theorem execTranspose_ran (p q : Nat) (d : Desc) (s : State) : Ran s (execTranspose p q d s) := by
  unfold execTranspose
  apply onBlk_ran
  intro x b hk
  repeat' (first
    | with_reducible assumption | (with_reducible apply decodeAs_keeps) | (with_reducible apply getReady_keeps)
    | (with_reducible refine Keeps.foldl _ ?_ (fun b r h => ?_)) | (fail_if_no_progress extract_lets)
    | (fail_if_no_progress intros) | (with_reducible apply Keeps.ite) | split | (dsimp only)
    | (dsimp +zetaDelta only) | (fail_if_no_progress (with_reducible apply Keeps.lit))
    | (fail_if_no_progress (with_reducible apply Keeps.filter))
    | (with_reducible refine Keeps.of_pair (by assumption) ?_))

theorem execBitrev_ran (p q : Nat) (d : Desc) (s : State) : Ran s (execBitrev p q d s) := by
  unfold execBitrev
  apply onBlk_ran
  intro x b hk
  repeat' (first
    | with_reducible assumption | (with_reducible apply decodeAs_keeps) | (with_reducible apply getReady_keeps)
    | (with_reducible refine Keeps.foldl _ ?_ (fun b r h => ?_)) | (fail_if_no_progress extract_lets)
    | (fail_if_no_progress intros) | (with_reducible apply Keeps.ite) | split | (dsimp only)
    | (dsimp +zetaDelta only) | (fail_if_no_progress (with_reducible apply Keeps.lit))
    | (fail_if_no_progress (with_reducible apply Keeps.filter))
    | (with_reducible refine Keeps.of_pair (by assumption) ?_))

theorem execLayout_ran (p q : Nat) (d : Desc) (s : State) : Ran s (execLayout p q d s) := by
  unfold execLayout
  apply onBlk_ran
  intro x b hk
  repeat' (first
    | with_reducible assumption | (with_reducible apply decodeAs_keeps) | (with_reducible apply getReady_keeps)
    | (with_reducible refine Keeps.foldl _ ?_ (fun b r h => ?_)) | (fail_if_no_progress extract_lets)
    | (fail_if_no_progress intros) | (with_reducible apply Keeps.ite) | split | (dsimp only)
    | (dsimp +zetaDelta only) | (fail_if_no_progress (with_reducible apply Keeps.lit))
    | (fail_if_no_progress (with_reducible apply Keeps.filter))
    | (with_reducible refine Keeps.of_pair (by assumption) ?_))

theorem execRotacc_ran (p q : Nat) (d : Desc) (s : State) : Ran s (execRotacc p q d s) := by
  unfold execRotacc
  apply onBlk_ran
  intro x b hk
  repeat' (first
    | with_reducible assumption | (with_reducible apply decodeAs_keeps) | (with_reducible apply getReady_keeps)
    | (with_reducible refine Keeps.foldl _ ?_ (fun b r h => ?_)) | (fail_if_no_progress extract_lets)
    | (fail_if_no_progress intros) | (with_reducible apply Keeps.ite) | split | (dsimp only)
    | (dsimp +zetaDelta only) | (fail_if_no_progress (with_reducible apply Keeps.lit))
    | (fail_if_no_progress (with_reducible apply Keeps.filter))
    | (with_reducible refine Keeps.of_pair (by assumption) ?_))

theorem execAccDrain_ran (p q : Nat) (d : Desc) (s : State) : Ran s (execAccDrain p q d s) := by
  unfold execAccDrain
  apply onBlk_ran
  intro x b hk
  repeat' (first
    | with_reducible assumption | (with_reducible apply decodeAs_keeps) | (with_reducible apply getReady_keeps)
    | (with_reducible refine Keeps.foldl _ ?_ (fun b r h => ?_)) | (fail_if_no_progress extract_lets)
    | (fail_if_no_progress intros) | (with_reducible apply Keeps.ite) | split | (dsimp only)
    | (dsimp +zetaDelta only) | (fail_if_no_progress (with_reducible apply Keeps.lit))
    | (fail_if_no_progress (with_reducible apply Keeps.filter))
    | (with_reducible refine Keeps.of_pair (by assumption) ?_))

theorem execAccClear_ran (p q : Nat) (d : Desc) (s : State) : Ran s (execAccClear p q d s) := by
  unfold execAccClear
  apply onBlk_ran
  intro x b hk
  repeat' (first
    | with_reducible assumption | (with_reducible apply decodeAs_keeps) | (with_reducible apply getReady_keeps)
    | (with_reducible refine Keeps.foldl _ ?_ (fun b r h => ?_)) | (fail_if_no_progress extract_lets)
    | (fail_if_no_progress intros) | (with_reducible apply Keeps.ite) | split | (dsimp only)
    | (dsimp +zetaDelta only) | (fail_if_no_progress (with_reducible apply Keeps.lit))
    | (fail_if_no_progress (with_reducible apply Keeps.filter))
    | (with_reducible refine Keeps.of_pair (by assumption) ?_))

theorem execGatherBlk_ran (p q : Nat) (d : Desc) (s : State) : Ran s (execGatherBlk p q d s) := by
  unfold execGatherBlk
  apply onBlk_ran
  intro x b hk
  repeat' (first
    | with_reducible assumption | (with_reducible apply decodeAs_keeps) | (with_reducible apply getReady_keeps)
    | (with_reducible refine Keeps.foldl _ ?_ (fun b r h => ?_)) | (fail_if_no_progress extract_lets)
    | (fail_if_no_progress intros) | (with_reducible apply Keeps.ite) | split | (dsimp only)
    | (dsimp +zetaDelta only) | (fail_if_no_progress (with_reducible apply Keeps.lit))
    | (fail_if_no_progress (with_reducible apply Keeps.filter))
    | (with_reducible refine Keeps.of_pair (by assumption) ?_))

theorem execScatterBlk_ran (p q : Nat) (d : Desc) (s : State) : Ran s (execScatterBlk p q d s) := by
  unfold execScatterBlk
  apply onBlk_ran
  intro x b hk
  repeat' (first
    | with_reducible assumption | (with_reducible apply decodeAs_keeps) | (with_reducible apply getReady_keeps)
    | (with_reducible refine Keeps.foldl _ ?_ (fun b r h => ?_)) | (fail_if_no_progress extract_lets)
    | (fail_if_no_progress intros) | (with_reducible apply Keeps.ite) | split | (dsimp only)
    | (dsimp +zetaDelta only) | (fail_if_no_progress (with_reducible apply Keeps.lit))
    | (fail_if_no_progress (with_reducible apply Keeps.filter))
    | (with_reducible refine Keeps.of_pair (by assumption) ?_))

theorem execMove_ran (p q : Nat) (d : Desc) (s : State) : Ran s (execMove p q d s) := by
  unfold execMove
  apply onBlk_ran
  intro x b hk
  repeat' (first
    | with_reducible assumption | (with_reducible apply decodeAs_keeps) | (with_reducible apply getReady_keeps)
    | (with_reducible refine Keeps.foldl _ ?_ (fun b r h => ?_)) | (fail_if_no_progress extract_lets)
    | (fail_if_no_progress intros) | (with_reducible apply Keeps.ite) | split | (dsimp only)
    | (dsimp +zetaDelta only) | (fail_if_no_progress (with_reducible apply Keeps.lit))
    | (fail_if_no_progress (with_reducible apply Keeps.filter))
    | (with_reducible refine Keeps.of_pair (by assumption) ?_))

theorem execGrid_ran (p q : Nat) (d : Desc) (s : State) : Ran s (execGrid p q d s) := by
  unfold execGrid
  apply onBlk_ran
  intro x b hk
  repeat' (first
    | with_reducible assumption | (with_reducible apply decodeAs_keeps) | (with_reducible apply getReady_keeps)
    | (with_reducible refine Keeps.foldl _ ?_ (fun b r h => ?_)) | (fail_if_no_progress extract_lets)
    | (fail_if_no_progress intros) | (with_reducible apply Keeps.ite) | split | (dsimp only)
    | (dsimp +zetaDelta only) | (fail_if_no_progress (with_reducible apply Keeps.lit))
    | (fail_if_no_progress (with_reducible apply Keeps.filter))
    | (with_reducible refine Keeps.of_pair (by assumption) ?_))

theorem execLoadRows_ran (p q : Nat) (d : Desc) (s : State) : Ran s (execLoadRows p q d s) := by
  unfold execLoadRows
  apply onBlk_ran
  intro x b hk
  repeat' (first
    | with_reducible assumption | (with_reducible apply decodeAs_keeps) | (with_reducible apply rowsGo_keeps)
    | (with_reducible refine Keeps.foldl _ ?_ (fun b r h => ?_)) | (fail_if_no_progress extract_lets)
    | (fail_if_no_progress intros) | (with_reducible apply Keeps.ite) | split | (dsimp only)
    | (dsimp +zetaDelta only) | (fail_if_no_progress (with_reducible apply Keeps.lit))
    | (fail_if_no_progress (with_reducible apply Keeps.filter))
    | (with_reducible refine Keeps.of_pair (by assumption) ?_))

theorem execStoreRows_ran (p q : Nat) (d : Desc) (s : State) : Ran s (execStoreRows p q d s) := by
  unfold execStoreRows
  apply onBlk_ran
  intro x b hk
  repeat' (first
    | with_reducible assumption | (with_reducible apply decodeAs_keeps) | (with_reducible apply rowsGo_keeps)
    | (with_reducible refine Keeps.foldl _ ?_ (fun b r h => ?_)) | (fail_if_no_progress extract_lets)
    | (fail_if_no_progress intros) | (with_reducible apply Keeps.ite) | split | (dsimp only)
    | (dsimp +zetaDelta only) | (fail_if_no_progress (with_reducible apply Keeps.lit))
    | (fail_if_no_progress (with_reducible apply Keeps.filter))
    | (with_reducible refine Keeps.of_pair (by assumption) ?_))

theorem execRowCommit_ran (id row : Nat) (parity : List ParityEvent) (s : State) :
    Ran s (execRowCommit id row parity s) := by
  unfold execRowCommit
  apply onBlk_ran
  intro x b hk
  repeat' (first
    | with_reducible assumption | (with_reducible apply onCmd_keeps) | (with_reducible apply rowCommit_keeps)
    | (with_reducible refine Keeps.foldl _ ?_ (fun b r h => ?_)) | (fail_if_no_progress extract_lets)
    | (fail_if_no_progress intros) | (with_reducible apply Keeps.ite) | split | (dsimp only)
    | (dsimp +zetaDelta only) | (fail_if_no_progress (with_reducible apply Keeps.lit))
    | (fail_if_no_progress (with_reducible apply Keeps.filter))
    | (with_reducible refine Keeps.of_pair (by assumption) ?_))

theorem execRowHalt_ran (id : Nat) (s : State) : Ran s (execRowHalt id s) := by
  unfold execRowHalt
  apply onBlk_ran
  intro x b hk
  repeat' (first
    | with_reducible assumption | (with_reducible apply rowHalt_keeps)
    | (with_reducible refine Keeps.foldl _ ?_ (fun b r h => ?_)) | (fail_if_no_progress extract_lets)
    | (fail_if_no_progress intros) | (with_reducible apply Keeps.ite) | split | (dsimp only)
    | (dsimp +zetaDelta only) | (fail_if_no_progress (with_reducible apply Keeps.lit))
    | (fail_if_no_progress (with_reducible apply Keeps.filter))
    | (with_reducible refine Keeps.of_pair (by assumption) ?_))

theorem execRowDenied_ran (id : Nat) (s : State) : Ran s (execRowDenied id s) := by
  unfold execRowDenied
  apply onBlk_ran
  intro x b hk
  repeat' (first
    | with_reducible assumption | (with_reducible apply rowDenied_keeps)
    | (with_reducible refine Keeps.foldl _ ?_ (fun b r h => ?_)) | (fail_if_no_progress extract_lets)
    | (fail_if_no_progress intros) | (with_reducible apply Keeps.ite) | split | (dsimp only)
    | (dsimp +zetaDelta only) | (fail_if_no_progress (with_reducible apply Keeps.lit))
    | (fail_if_no_progress (with_reducible apply Keeps.filter))
    | (with_reducible refine Keeps.of_pair (by assumption) ?_))

theorem execCommitUnit_ran (id : Nat) (ev : UnitEvent) (s : State) : Ran s (execCommitUnit id ev s) := by
  unfold execCommitUnit
  apply onBlk_ran
  intro x b hk
  repeat' (first
    | with_reducible assumption | (with_reducible apply onCmd_keeps) | (with_reducible apply commitUnit_keeps)
    | (with_reducible refine Keeps.foldl _ ?_ (fun b r h => ?_)) | (fail_if_no_progress extract_lets)
    | (fail_if_no_progress intros) | (with_reducible apply Keeps.ite) | split | (dsimp only)
    | (dsimp +zetaDelta only) | (fail_if_no_progress (with_reducible apply Keeps.lit))
    | (fail_if_no_progress (with_reducible apply Keeps.filter))
    | (with_reducible refine Keeps.of_pair (by assumption) ?_))

theorem execStreamArm_ran (p q : Nat) (d : Desc) (s : State) : Ran s (execStreamArm p q d s) := by
  unfold execStreamArm
  apply onBlk_ran
  intro x b hk
  repeat' (first
    | with_reducible assumption | (with_reducible apply decodeAs_keeps) | (with_reducible apply armStream_keeps)
    | (with_reducible refine Keeps.foldl _ ?_ (fun b r h => ?_)) | (fail_if_no_progress extract_lets)
    | (fail_if_no_progress intros) | (with_reducible apply Keeps.ite) | split | (dsimp only)
    | (dsimp +zetaDelta only) | (fail_if_no_progress (with_reducible apply Keeps.lit))
    | (fail_if_no_progress (with_reducible apply Keeps.filter))
    | (with_reducible refine Keeps.of_pair (by assumption) ?_))

theorem execStreamGrant_ran (p : Nat) (s : State) : Ran s (execStreamGrant p s) := by
  unfold execStreamGrant
  apply onBlk_ran
  intro x b hk
  repeat' (first
    | with_reducible assumption | (with_reducible apply grantStream_keeps)
    | (with_reducible refine Keeps.foldl _ ?_ (fun b r h => ?_)) | (fail_if_no_progress extract_lets)
    | (fail_if_no_progress intros) | (with_reducible apply Keeps.ite) | split | (dsimp only)
    | (dsimp +zetaDelta only) | (fail_if_no_progress (with_reducible apply Keeps.lit))
    | (fail_if_no_progress (with_reducible apply Keeps.filter))
    | (with_reducible refine Keeps.of_pair (by assumption) ?_))

theorem execStreamRearm_ran (p q : Nat) (d : Desc) (s : State) : Ran s (execStreamRearm p q d s) := by
  unfold execStreamRearm
  apply onBlk_ran
  intro x b hk
  repeat' (first
    | with_reducible assumption | (with_reducible apply decodeAs_keeps) | (with_reducible apply rearmStream_keeps)
    | (with_reducible refine Keeps.foldl _ ?_ (fun b r h => ?_)) | (fail_if_no_progress extract_lets)
    | (fail_if_no_progress intros) | (with_reducible apply Keeps.ite) | split | (dsimp only)
    | (dsimp +zetaDelta only) | (fail_if_no_progress (with_reducible apply Keeps.lit))
    | (fail_if_no_progress (with_reducible apply Keeps.filter))
    | (with_reducible refine Keeps.of_pair (by assumption) ?_))

theorem execRearmBoundary_ran (n : Nat) (s : State) : Ran s (execRearmBoundary n s) := by
  unfold execRearmBoundary
  apply onBlk_ran
  intro x b hk
  repeat' (first
    | with_reducible assumption | (with_reducible apply reachBoundary_keeps)
    | (with_reducible refine Keeps.foldl _ ?_ (fun b r h => ?_)) | (fail_if_no_progress extract_lets)
    | (fail_if_no_progress intros) | (with_reducible apply Keeps.ite) | split | (dsimp only)
    | (dsimp +zetaDelta only) | (fail_if_no_progress (with_reducible apply Keeps.lit))
    | (fail_if_no_progress (with_reducible apply Keeps.filter))
    | (with_reducible refine Keeps.of_pair (by assumption) ?_))

theorem execSegmentStart_ran (n : Nat) (s : State) : Ran s (execSegmentStart n s) := by
  unfold execSegmentStart
  apply onBlk_ran
  intro x b hk
  repeat' (first
    | with_reducible assumption | (with_reducible apply onStream_keeps) | (with_reducible apply startSegment_keeps)
    | (with_reducible refine Keeps.foldl _ ?_ (fun b r h => ?_)) | (fail_if_no_progress extract_lets)
    | (fail_if_no_progress intros) | (with_reducible apply Keeps.ite) | split | (dsimp only)
    | (dsimp +zetaDelta only) | (fail_if_no_progress (with_reducible apply Keeps.lit))
    | (fail_if_no_progress (with_reducible apply Keeps.filter))
    | (with_reducible refine Keeps.of_pair (by assumption) ?_))

theorem execSegmentDone_ran (n : Nat) (s : State) : Ran s (execSegmentDone n s) := by
  unfold execSegmentDone
  apply onBlk_ran
  intro x b hk
  repeat' (first
    | with_reducible assumption | (with_reducible apply onStream_keeps) | (with_reducible apply doneSegment_keeps)
    | (with_reducible refine Keeps.foldl _ ?_ (fun b r h => ?_)) | (fail_if_no_progress extract_lets)
    | (fail_if_no_progress intros) | (with_reducible apply Keeps.ite) | split | (dsimp only)
    | (dsimp +zetaDelta only) | (fail_if_no_progress (with_reducible apply Keeps.lit))
    | (fail_if_no_progress (with_reducible apply Keeps.filter))
    | (with_reducible refine Keeps.of_pair (by assumption) ?_))

theorem execRunEnd_ran (n : Nat) (s : State) : Ran s (execRunEnd n s) := by
  unfold execRunEnd
  apply onBlk_ran
  intro x b hk
  repeat' (first
    | with_reducible assumption | (with_reducible apply endRun_keeps)
    | (with_reducible refine Keeps.foldl _ ?_ (fun b r h => ?_)) | (fail_if_no_progress extract_lets)
    | (fail_if_no_progress intros) | (with_reducible apply Keeps.ite) | split | (dsimp only)
    | (dsimp +zetaDelta only) | (fail_if_no_progress (with_reducible apply Keeps.lit))
    | (fail_if_no_progress (with_reducible apply Keeps.filter))
    | (with_reducible refine Keeps.of_pair (by assumption) ?_))

theorem execStreamHalt_ran (n pos : Nat) (s : State) : Ran s (execStreamHalt n pos s) := by
  unfold execStreamHalt
  apply onBlk_ran
  intro x b hk
  repeat' (first
    | with_reducible assumption | (with_reducible apply onStream_keeps) | (with_reducible apply stopStream_keeps)
    | (with_reducible refine Keeps.foldl _ ?_ (fun b r h => ?_)) | (fail_if_no_progress extract_lets)
    | (fail_if_no_progress intros) | (with_reducible apply Keeps.ite) | split | (dsimp only)
    | (dsimp +zetaDelta only) | (fail_if_no_progress (with_reducible apply Keeps.lit))
    | (fail_if_no_progress (with_reducible apply Keeps.filter))
    | (with_reducible refine Keeps.of_pair (by assumption) ?_))

theorem execStreamDisarm_ran (n : Nat) (s : State) : Ran s (execStreamDisarm n s) := by
  unfold execStreamDisarm
  apply onBlk_ran
  intro x b hk
  repeat' (first
    | with_reducible assumption | (with_reducible apply disarmStream_keeps)
    | (with_reducible refine Keeps.foldl _ ?_ (fun b r h => ?_)) | (fail_if_no_progress extract_lets)
    | (fail_if_no_progress intros) | (with_reducible apply Keeps.ite) | split | (dsimp only)
    | (dsimp +zetaDelta only) | (fail_if_no_progress (with_reducible apply Keeps.lit))
    | (fail_if_no_progress (with_reducible apply Keeps.filter))
    | (with_reducible refine Keeps.of_pair (by assumption) ?_))

theorem execHandleReturn_ran (h : Nat) (s : State) : Ran s (execHandleReturn h s) := by
  unfold execHandleReturn
  apply onBlk_ran
  intro x b hk
  repeat' (first
    | with_reducible assumption | (with_reducible apply handleBack_keeps)
    | (with_reducible refine Keeps.foldl _ ?_ (fun b r h => ?_)) | (fail_if_no_progress extract_lets)
    | (fail_if_no_progress intros) | (with_reducible apply Keeps.ite) | split | (dsimp only)
    | (dsimp +zetaDelta only) | (fail_if_no_progress (with_reducible apply Keeps.lit))
    | (fail_if_no_progress (with_reducible apply Keeps.filter))
    | (with_reducible refine Keeps.of_pair (by assumption) ?_))

theorem execMulticastDetach_ran (n : Nat) (positions : List (Nat × Nat)) (s : State) :
    Ran s (execMulticastDetach n positions s) := by
  unfold execMulticastDetach
  apply onBlk_ran
  intro x b hk
  repeat' (first
    | with_reducible assumption | (with_reducible apply multicastDetach_keeps)
    | (with_reducible refine Keeps.foldl _ ?_ (fun b r h => ?_)) | (fail_if_no_progress extract_lets)
    | (fail_if_no_progress intros) | (with_reducible apply Keeps.ite) | split | (dsimp only)
    | (dsimp +zetaDelta only) | (fail_if_no_progress (with_reducible apply Keeps.lit))
    | (fail_if_no_progress (with_reducible apply Keeps.filter))
    | (with_reducible refine Keeps.of_pair (by assumption) ?_))

theorem execHandlePush_ran (p q : Nat) (d : Desc) (s : State) : Ran s (execHandlePush p q d s) := by
  unfold execHandlePush
  apply onBlk_ran
  intro x b hk
  repeat' (first
    | with_reducible assumption | (with_reducible apply decodeAs_keeps) | (with_reducible apply pushHandle_keeps)
    | (with_reducible refine Keeps.foldl _ ?_ (fun b r h => ?_)) | (fail_if_no_progress extract_lets)
    | (fail_if_no_progress intros) | (with_reducible apply Keeps.ite) | split | (dsimp only)
    | (dsimp +zetaDelta only) | (fail_if_no_progress (with_reducible apply Keeps.lit))
    | (fail_if_no_progress (with_reducible apply Keeps.filter))
    | (with_reducible refine Keeps.of_pair (by assumption) ?_))

theorem execHandlePushRoom_ran (id : Nat) (s : State) : Ran s (execHandlePushRoom id s) := by
  unfold execHandlePushRoom
  apply onBlk_ran
  intro x b hk
  repeat' (first
    | with_reducible assumption | (with_reducible apply pushRoom_keeps)
    | (with_reducible refine Keeps.foldl _ ?_ (fun b r h => ?_)) | (fail_if_no_progress extract_lets)
    | (fail_if_no_progress intros) | (with_reducible apply Keeps.ite) | split | (dsimp only)
    | (dsimp +zetaDelta only) | (fail_if_no_progress (with_reducible apply Keeps.lit))
    | (fail_if_no_progress (with_reducible apply Keeps.filter))
    | (with_reducible refine Keeps.of_pair (by assumption) ?_))

theorem execHandlePop_ran (p q : Nat) (d : Desc) (s : State) : Ran s (execHandlePop p q d s) := by
  unfold execHandlePop
  apply onBlk_ran
  intro x b hk
  repeat' (first
    | with_reducible assumption | (with_reducible apply decodeAs_keeps) | (with_reducible apply popHandle_keeps)
    | (with_reducible refine Keeps.foldl _ ?_ (fun b r h => ?_)) | (fail_if_no_progress extract_lets)
    | (fail_if_no_progress intros) | (with_reducible apply Keeps.ite) | split | (dsimp only)
    | (dsimp +zetaDelta only) | (fail_if_no_progress (with_reducible apply Keeps.lit))
    | (fail_if_no_progress (with_reducible apply Keeps.filter))
    | (with_reducible refine Keeps.of_pair (by assumption) ?_))

theorem execHandlePopArrival_ran (id : Nat) (s : State) : Ran s (execHandlePopArrival id s) := by
  unfold execHandlePopArrival
  apply onBlk_ran
  intro x b hk
  repeat' (first
    | with_reducible assumption | (with_reducible apply popArrival_keeps)
    | (with_reducible refine Keeps.foldl _ ?_ (fun b r h => ?_)) | (fail_if_no_progress extract_lets)
    | (fail_if_no_progress intros) | (with_reducible apply Keeps.ite) | split | (dsimp only)
    | (dsimp +zetaDelta only) | (fail_if_no_progress (with_reducible apply Keeps.lit))
    | (fail_if_no_progress (with_reducible apply Keeps.filter))
    | (with_reducible refine Keeps.of_pair (by assumption) ?_))

theorem execSqTail_ran (p q : Nat) (v : BitVec 32) (s : State) : Ran s (execSqTail p q v s) := by
  unfold execSqTail
  apply onBlk_ran
  intro x b hk
  repeat' (first
    | with_reducible assumption | (with_reducible apply writeSqTail_keeps)
    | (with_reducible refine Keeps.foldl _ ?_ (fun b r h => ?_)) | (fail_if_no_progress extract_lets)
    | (fail_if_no_progress intros) | (with_reducible apply Keeps.ite) | split | (dsimp only)
    | (dsimp +zetaDelta only) | (fail_if_no_progress (with_reducible apply Keeps.lit))
    | (fail_if_no_progress (with_reducible apply Keeps.filter))
    | (with_reducible refine Keeps.of_pair (by assumption) ?_))

theorem execCqHead_ran (p q : Nat) (v : BitVec 32) (s : State) : Ran s (execCqHead p q v s) := by
  unfold execCqHead
  apply onBlk_ran
  intro x b hk
  repeat' (first
    | with_reducible assumption | (with_reducible apply writeCqHead_keeps)
    | (with_reducible refine Keeps.foldl _ ?_ (fun b r h => ?_)) | (fail_if_no_progress extract_lets)
    | (fail_if_no_progress intros) | (with_reducible apply Keeps.ite) | split | (dsimp only)
    | (dsimp +zetaDelta only) | (fail_if_no_progress (with_reducible apply Keeps.lit))
    | (fail_if_no_progress (with_reducible apply Keeps.filter))
    | (with_reducible refine Keeps.of_pair (by assumption) ?_))

theorem execEnable_ran (p q : Nat) (config : BitVec 32) (s : State) : Ran s (execEnable p q config s) := by
  unfold execEnable
  apply onBlk_ran
  intro x b hk
  repeat' (first
    | with_reducible assumption | (with_reducible apply updQueue_keeps)
    | (with_reducible refine Keeps.foldl _ ?_ (fun b r h => ?_)) | (fail_if_no_progress extract_lets)
    | (fail_if_no_progress intros) | (with_reducible apply Keeps.ite) | split | (dsimp only)
    | (dsimp +zetaDelta only) | (fail_if_no_progress (with_reducible apply Keeps.lit))
    | (fail_if_no_progress (with_reducible apply Keeps.filter))
    | (with_reducible refine Keeps.of_pair (by assumption) ?_))

theorem execDisable_ran (p q : Nat) (config : BitVec 32) (s : State) : Ran s (execDisable p q config s) := by
  unfold execDisable
  apply onBlk_ran
  intro x b hk
  repeat' (first
    | with_reducible assumption | (with_reducible apply disableQueue_keeps)
    | (with_reducible refine Keeps.foldl _ ?_ (fun b r h => ?_)) | (fail_if_no_progress extract_lets)
    | (fail_if_no_progress intros) | (with_reducible apply Keeps.ite) | split | (dsimp only)
    | (dsimp +zetaDelta only) | (fail_if_no_progress (with_reducible apply Keeps.lit))
    | (fail_if_no_progress (with_reducible apply Keeps.filter))
    | (with_reducible refine Keeps.of_pair (by assumption) ?_))

theorem execStart_ran (p q : Nat) (control : BitVec 32) (s : State) : Ran s (execStart p q control s) := by
  unfold execStart
  apply onBlk_ran
  intro x b hk
  repeat' (first
    | with_reducible assumption | (with_reducible apply startQueue_keeps)
    | (with_reducible refine Keeps.foldl _ ?_ (fun b r h => ?_)) | (fail_if_no_progress extract_lets)
    | (fail_if_no_progress intros) | (with_reducible apply Keeps.ite) | split | (dsimp only)
    | (dsimp +zetaDelta only) | (fail_if_no_progress (with_reducible apply Keeps.lit))
    | (fail_if_no_progress (with_reducible apply Keeps.filter))
    | (with_reducible refine Keeps.of_pair (by assumption) ?_))

theorem execStop_ran (p q : Nat) (control : BitVec 32) (s : State) : Ran s (execStop p q control s) := by
  unfold execStop
  apply onBlk_ran
  intro x b hk
  repeat' (first
    | with_reducible assumption | (with_reducible apply controlStop_keeps)
    | (with_reducible refine Keeps.foldl _ ?_ (fun b r h => ?_)) | (fail_if_no_progress extract_lets)
    | (fail_if_no_progress intros) | (with_reducible apply Keeps.ite) | split | (dsimp only)
    | (dsimp +zetaDelta only) | (fail_if_no_progress (with_reducible apply Keeps.lit))
    | (fail_if_no_progress (with_reducible apply Keeps.filter))
    | (with_reducible refine Keeps.of_pair (by assumption) ?_))

theorem execTenantRegisterWrite_ran (p off : Nat) (v : BitVec 64) (s : State) :
    Ran s (execTenantRegisterWrite p off v s) := by
  unfold execTenantRegisterWrite
  apply onBlk_ran
  intro x b hk
  repeat' (first
    | with_reducible assumption | (with_reducible apply updQueue_keeps)
    | (with_reducible refine Keeps.foldl _ ?_ (fun b r h => ?_)) | (fail_if_no_progress extract_lets)
    | (fail_if_no_progress intros) | (with_reducible apply Keeps.ite) | split | (dsimp only)
    | (dsimp +zetaDelta only) | (fail_if_no_progress (with_reducible apply Keeps.lit))
    | (fail_if_no_progress (with_reducible apply Keeps.filter))
    | (with_reducible refine Keeps.of_pair (by assumption) ?_))

theorem execHaltResume_ran (m : Master) (p q : Nat) (v : BitVec 64) (s : State) : Ran s (execHaltResume m p q v s) := by
  unfold execHaltResume
  apply onBlk_ran
  intro x b hk
  repeat' (first
    | with_reducible assumption | (with_reducible apply haltWrite_keeps)
    | (with_reducible refine Keeps.foldl _ ?_ (fun b r h => ?_)) | (fail_if_no_progress extract_lets)
    | (fail_if_no_progress intros) | (with_reducible apply Keeps.ite) | split | (dsimp only)
    | (dsimp +zetaDelta only) | (fail_if_no_progress (with_reducible apply Keeps.lit))
    | (fail_if_no_progress (with_reducible apply Keeps.filter))
    | (with_reducible refine Keeps.of_pair (by assumption) ?_))

theorem execHaltDiscard_ran (m : Master) (p q : Nat) (v : BitVec 64) (s : State) :
    Ran s (execHaltDiscard m p q v s) := by
  unfold execHaltDiscard
  apply onBlk_ran
  intro x b hk
  repeat' (first
    | with_reducible assumption | (with_reducible apply haltWrite_keeps)
    | (with_reducible refine Keeps.foldl _ ?_ (fun b r h => ?_)) | (fail_if_no_progress extract_lets)
    | (fail_if_no_progress intros) | (with_reducible apply Keeps.ite) | split | (dsimp only)
    | (dsimp +zetaDelta only) | (fail_if_no_progress (with_reducible apply Keeps.lit))
    | (fail_if_no_progress (with_reducible apply Keeps.filter))
    | (with_reducible refine Keeps.of_pair (by assumption) ?_))

theorem execWbase_ran (m : Master) (core : Nat) (v : BitVec 64) (s : State) : Ran s (execWbase m core v s) := by
  unfold execWbase
  apply onBlk_ran
  intro x b hk
  repeat' (first
    | with_reducible assumption | (with_reducible apply writeWbase_keeps)
    | (with_reducible refine Keeps.foldl _ ?_ (fun b r h => ?_)) | (fail_if_no_progress extract_lets)
    | (fail_if_no_progress intros) | (with_reducible apply Keeps.ite) | split | (dsimp only)
    | (dsimp +zetaDelta only) | (fail_if_no_progress (with_reducible apply Keeps.lit))
    | (fail_if_no_progress (with_reducible apply Keeps.filter))
    | (with_reducible refine Keeps.of_pair (by assumption) ?_))

theorem execFragmentViewAccess_ran (m : Master) (write : Bool) (addr : Nat) (data : Granule) (s : State) :
    Ran s (execFragmentViewAccess m write addr data s) := by
  unfold execFragmentViewAccess
  apply onBlk_ran
  intro x b hk
  repeat' (first
    | with_reducible assumption | (with_reducible apply fragAccess_keeps)
    | (with_reducible refine Keeps.foldl _ ?_ (fun b r h => ?_)) | (fail_if_no_progress extract_lets)
    | (fail_if_no_progress intros) | (with_reducible apply Keeps.ite) | split | (dsimp only)
    | (dsimp +zetaDelta only) | (fail_if_no_progress (with_reducible apply Keeps.lit))
    | (fail_if_no_progress (with_reducible apply Keeps.filter))
    | (with_reducible refine Keeps.of_pair (by assumption) ?_))

theorem execBusRequest_ran (r : BusReq) (s : State) : Ran s (execBusRequest r s) := by
  unfold execBusRequest
  apply onBlk_ran
  intro x b hk
  repeat' (first
    | with_reducible assumption | (with_reducible apply busRequest_keeps)
    | (with_reducible refine Keeps.foldl _ ?_ (fun b r h => ?_)) | (fail_if_no_progress extract_lets)
    | (fail_if_no_progress intros) | (with_reducible apply Keeps.ite) | split | (dsimp only)
    | (dsimp +zetaDelta only) | (fail_if_no_progress (with_reducible apply Keeps.lit))
    | (fail_if_no_progress (with_reducible apply Keeps.filter))
    | (with_reducible refine Keeps.of_pair (by assumption) ?_))

theorem execMemoryResponse_ran (m ctx line : Nat) (status : RspStatus) (data : List Byte) (s : State) :
    Ran s (execMemoryResponse m ctx line status data s) := by
  unfold execMemoryResponse
  apply onBlk_ran
  intro x b hk
  repeat' (first
    | with_reducible assumption | (with_reducible apply memoryResponse_keeps)
    | (with_reducible refine Keeps.foldl _ ?_ (fun b r h => ?_)) | (fail_if_no_progress extract_lets)
    | (fail_if_no_progress intros) | (with_reducible apply Keeps.ite) | split | (dsimp only)
    | (dsimp +zetaDelta only) | (fail_if_no_progress (with_reducible apply Keeps.lit))
    | (fail_if_no_progress (with_reducible apply Keeps.filter))
    | (with_reducible refine Keeps.of_pair (by assumption) ?_))

theorem execLineInvalidate_ran (m line : Nat) (data : List Byte) (s : State) :
    Ran s (execLineInvalidate m line data s) := by
  unfold execLineInvalidate
  apply onBlk_ran
  intro x b hk
  repeat' (first
    | with_reducible assumption | (with_reducible apply lineInvalidate_keeps)
    | (with_reducible refine Keeps.foldl _ ?_ (fun b r h => ?_)) | (fail_if_no_progress extract_lets)
    | (fail_if_no_progress intros) | (with_reducible apply Keeps.ite) | split | (dsimp only)
    | (dsimp +zetaDelta only) | (fail_if_no_progress (with_reducible apply Keeps.lit))
    | (fail_if_no_progress (with_reducible apply Keeps.filter))
    | (with_reducible refine Keeps.of_pair (by assumption) ?_))

theorem execMasterReset_ran (m : Master) (s : State) : Ran s (execMasterReset m s) := by
  unfold execMasterReset
  apply onBlk_ran
  intro x b hk
  repeat' (first
    | with_reducible assumption | (with_reducible apply masterReset_keeps)
    | (with_reducible refine Keeps.foldl _ ?_ (fun b r h => ?_)) | (fail_if_no_progress extract_lets)
    | (fail_if_no_progress intros) | (with_reducible apply Keeps.ite) | split | (dsimp only)
    | (dsimp +zetaDelta only) | (fail_if_no_progress (with_reducible apply Keeps.lit))
    | (fail_if_no_progress (with_reducible apply Keeps.filter))
    | (with_reducible refine Keeps.of_pair (by assumption) ?_))

theorem execFeWatchdog_ran (n : Nat) (s : State) : Ran s (execFeWatchdog n s) := by
  unfold execFeWatchdog
  apply onBlk_ran
  intro x b hk
  repeat' (first
    | with_reducible assumption | (with_reducible apply feWatchdog_keeps)
    | (with_reducible refine Keeps.foldl _ ?_ (fun b r h => ?_)) | (fail_if_no_progress extract_lets)
    | (fail_if_no_progress intros) | (with_reducible apply Keeps.ite) | split | (dsimp only)
    | (dsimp +zetaDelta only) | (fail_if_no_progress (with_reducible apply Keeps.lit))
    | (fail_if_no_progress (with_reducible apply Keeps.filter))
    | (with_reducible refine Keeps.of_pair (by assumption) ?_))

theorem execForwardedDescriptor_ran (die p homeCmd : Nat) (d : Desc) (s : State) :
    Ran s (execForwardedDescriptor die p homeCmd d s) := by
  unfold execForwardedDescriptor
  apply onBlk_ran
  intro x b hk
  repeat' (first
    | with_reducible assumption | (with_reducible apply forwarded_keeps)
    | (with_reducible refine Keeps.foldl _ ?_ (fun b r h => ?_)) | (fail_if_no_progress extract_lets)
    | (fail_if_no_progress intros) | (with_reducible apply Keeps.ite) | split | (dsimp only)
    | (dsimp +zetaDelta only) | (fail_if_no_progress (with_reducible apply Keeps.lit))
    | (fail_if_no_progress (with_reducible apply Keeps.filter))
    | (with_reducible refine Keeps.of_pair (by assumption) ?_))

theorem execReport_ran (r : ReportBody) (s : State) : Ran s (execReport r s) := by
  unfold execReport
  apply onBlk_ran
  intro x b hk
  repeat' (first
    | with_reducible assumption | (with_reducible apply takeMessage_keeps)
    | (with_reducible refine Keeps.foldl _ ?_ (fun b r h => ?_)) | (fail_if_no_progress extract_lets)
    | (fail_if_no_progress intros) | (with_reducible apply Keeps.ite) | split | (dsimp only)
    | (dsimp +zetaDelta only) | (fail_if_no_progress (with_reducible apply Keeps.lit))
    | (fail_if_no_progress (with_reducible apply Keeps.filter))
    | (with_reducible refine Keeps.of_pair (by assumption) ?_))

theorem execGalleryCommit_ran (die : Nat) (c : CommitBody) (s : State) : Ran s (execGalleryCommit die c s) := by
  unfold execGalleryCommit
  apply onBlk_ran
  intro x b hk
  repeat' (first
    | with_reducible assumption | (with_reducible apply galleryCommit_keeps)
    | (with_reducible refine Keeps.foldl _ ?_ (fun b r h => ?_)) | (fail_if_no_progress extract_lets)
    | (fail_if_no_progress intros) | (with_reducible apply Keeps.ite) | split | (dsimp only)
    | (dsimp +zetaDelta only) | (fail_if_no_progress (with_reducible apply Keeps.lit))
    | (fail_if_no_progress (with_reducible apply Keeps.filter))
    | (with_reducible refine Keeps.of_pair (by assumption) ?_))

theorem execCommitAcknowledgement_ran (c : CmdName) (die : Nat) (s : State) :
    Ran s (execCommitAcknowledgement c die s) := by
  unfold execCommitAcknowledgement
  apply onBlk_ran
  intro x b hk
  repeat' (first
    | with_reducible assumption | (with_reducible apply commitAck_keeps)
    | (with_reducible refine Keeps.foldl _ ?_ (fun b r h => ?_)) | (fail_if_no_progress extract_lets)
    | (fail_if_no_progress intros) | (with_reducible apply Keeps.ite) | split | (dsimp only)
    | (dsimp +zetaDelta only) | (fail_if_no_progress (with_reducible apply Keeps.lit))
    | (fail_if_no_progress (with_reducible apply Keeps.filter))
    | (with_reducible refine Keeps.of_pair (by assumption) ?_))

theorem execFlagSetMessage_ran (p : Nat) (m : FlagBody) (s : State) : Ran s (execFlagSetMessage p m s) := by
  unfold execFlagSetMessage
  apply onBlk_ran
  intro x b hk
  repeat' (first
    | with_reducible assumption | (with_reducible apply flagMessage_keeps)
    | (with_reducible refine Keeps.foldl _ ?_ (fun b r h => ?_)) | (fail_if_no_progress extract_lets)
    | (fail_if_no_progress intros) | (with_reducible apply Keeps.ite) | split | (dsimp only)
    | (dsimp +zetaDelta only) | (fail_if_no_progress (with_reducible apply Keeps.lit))
    | (fail_if_no_progress (with_reducible apply Keeps.filter))
    | (with_reducible refine Keeps.of_pair (by assumption) ?_))

theorem execLinkRead_ran (k : Nat) (h : MsgHeader) (s : State) : Ran s (execLinkRead k h s) := by
  unfold execLinkRead
  apply onBlk_ran
  intro x b hk
  repeat' (first
    | with_reducible assumption | (with_reducible apply linkRead_keeps)
    | (with_reducible refine Keeps.foldl _ ?_ (fun b r h => ?_)) | (fail_if_no_progress extract_lets)
    | (fail_if_no_progress intros) | (with_reducible apply Keeps.ite) | split | (dsimp only)
    | (dsimp +zetaDelta only) | (fail_if_no_progress (with_reducible apply Keeps.lit))
    | (fail_if_no_progress (with_reducible apply Keeps.filter))
    | (with_reducible refine Keeps.of_pair (by assumption) ?_))

theorem execLinkWrite_ran (k : Nat) (h : MsgHeader) (data : BitVec 2048) (mark : RegMark) (s : State) :
    Ran s (execLinkWrite k h data mark s) := by
  unfold execLinkWrite
  apply onBlk_ran
  intro x b hk
  repeat' (first
    | with_reducible assumption | (with_reducible apply linkWrite_keeps)
    | (with_reducible refine Keeps.foldl _ ?_ (fun b r h => ?_)) | (fail_if_no_progress extract_lets)
    | (fail_if_no_progress intros) | (with_reducible apply Keeps.ite) | split | (dsimp only)
    | (dsimp +zetaDelta only) | (fail_if_no_progress (with_reducible apply Keeps.lit))
    | (fail_if_no_progress (with_reducible apply Keeps.filter))
    | (with_reducible refine Keeps.of_pair (by assumption) ?_))

theorem execReadData_ran (k : Nat) (h : MsgHeader) (ok : Bool) (data : BitVec 2048) (mark : RegMark) (s : State) :
    Ran s (execReadData k h ok data mark s) := by
  unfold execReadData
  apply onBlk_ran
  intro x b hk
  repeat' (first
    | with_reducible assumption | (with_reducible apply readData_keeps)
    | (with_reducible refine Keeps.foldl _ ?_ (fun b r h => ?_)) | (fail_if_no_progress extract_lets)
    | (fail_if_no_progress intros) | (with_reducible apply Keeps.ite) | split | (dsimp only)
    | (dsimp +zetaDelta only) | (fail_if_no_progress (with_reducible apply Keeps.lit))
    | (fail_if_no_progress (with_reducible apply Keeps.filter))
    | (with_reducible refine Keeps.of_pair (by assumption) ?_))

theorem execWriteResponse_ran (k : Nat) (h : MsgHeader) (ok : Bool) (s : State) :
    Ran s (execWriteResponse k h ok s) := by
  unfold execWriteResponse
  apply onBlk_ran
  intro x b hk
  repeat' (first
    | with_reducible assumption | (with_reducible apply writeResponse_keeps)
    | (with_reducible refine Keeps.foldl _ ?_ (fun b r h => ?_)) | (fail_if_no_progress extract_lets)
    | (fail_if_no_progress intros) | (with_reducible apply Keeps.ite) | split | (dsimp only)
    | (dsimp +zetaDelta only) | (fail_if_no_progress (with_reducible apply Keeps.lit))
    | (fail_if_no_progress (with_reducible apply Keeps.filter))
    | (with_reducible refine Keeps.of_pair (by assumption) ?_))

theorem execDataFlit_ran (k : Nat) (f : Flit) (runs : List BulkRun) (s : State) : Ran s (execDataFlit k f runs s) := by
  unfold execDataFlit
  apply onBlk_ran
  intro x b hk
  repeat' (first
    | with_reducible assumption | (with_reducible apply takeFlit_keeps)
    | (with_reducible refine Keeps.foldl _ ?_ (fun b r h => ?_)) | (fail_if_no_progress extract_lets)
    | (fail_if_no_progress intros) | (with_reducible apply Keeps.ite) | split | (dsimp only)
    | (dsimp +zetaDelta only) | (fail_if_no_progress (with_reducible apply Keeps.lit))
    | (fail_if_no_progress (with_reducible apply Keeps.filter))
    | (with_reducible refine Keeps.of_pair (by assumption) ?_))

theorem execCtrlFlit_ran (k : Nat) (f : Flit) (c : CtrlBody) (s : State) : Ran s (execCtrlFlit k f c s) := by
  unfold execCtrlFlit
  apply onBlk_ran
  intro x b hk
  repeat' (first
    | with_reducible assumption | (with_reducible apply takeFlit_keeps)
    | (with_reducible refine Keeps.foldl _ ?_ (fun b r h => ?_)) | (fail_if_no_progress extract_lets)
    | (fail_if_no_progress intros) | (with_reducible apply Keeps.ite) | split | (dsimp only)
    | (dsimp +zetaDelta only) | (fail_if_no_progress (with_reducible apply Keeps.lit))
    | (fail_if_no_progress (with_reducible apply Keeps.filter))
    | (with_reducible refine Keeps.of_pair (by assumption) ?_))

theorem execNak_ran (k : Nat) (f : Flit) (c : CtrlBody) (s : State) : Ran s (execNak k f c s) := by
  unfold execNak
  apply onBlk_ran
  intro x b hk
  repeat' (first
    | with_reducible assumption | (with_reducible apply takeFlit_keeps)
    | (with_reducible refine Keeps.foldl _ ?_ (fun b r h => ?_)) | (fail_if_no_progress extract_lets)
    | (fail_if_no_progress intros) | (with_reducible apply Keeps.ite) | split | (dsimp only)
    | (dsimp +zetaDelta only) | (fail_if_no_progress (with_reducible apply Keeps.lit))
    | (fail_if_no_progress (with_reducible apply Keeps.filter))
    | (with_reducible refine Keeps.of_pair (by assumption) ?_))

theorem execReplayTimer_ran (k : Nat) (s : State) : Ran s (execReplayTimer k s) := by
  unfold execReplayTimer
  apply onBlk_ran
  intro x b hk
  repeat' (first
    | with_reducible assumption | (with_reducible apply replayTimer_keeps)
    | (with_reducible refine Keeps.foldl _ ?_ (fun b r h => ?_)) | (fail_if_no_progress extract_lets)
    | (fail_if_no_progress intros) | (with_reducible apply Keeps.ite) | split | (dsimp only)
    | (dsimp +zetaDelta only) | (fail_if_no_progress (with_reducible apply Keeps.lit))
    | (fail_if_no_progress (with_reducible apply Keeps.filter))
    | (with_reducible refine Keeps.of_pair (by assumption) ?_))

theorem execIdent_ran (k : Nat) (lanes : BitVec 8) (i : IdentBody) (s : State) : Ran s (execIdent k lanes i s) := by
  unfold execIdent
  apply onBlk_ran
  intro x b hk
  repeat' (first
    | with_reducible assumption | (with_reducible apply takeIdent_keeps)
    | (with_reducible refine Keeps.foldl _ ?_ (fun b r h => ?_)) | (fail_if_no_progress extract_lets)
    | (fail_if_no_progress intros) | (with_reducible apply Keeps.ite) | split | (dsimp only)
    | (dsimp +zetaDelta only) | (fail_if_no_progress (with_reducible apply Keeps.lit))
    | (fail_if_no_progress (with_reducible apply Keeps.filter))
    | (with_reducible refine Keeps.of_pair (by assumption) ?_))

theorem execHandover_ran (k failed : Nat) (lastSeq : BitVec 12) (s : State) :
    Ran s (execHandover k failed lastSeq s) := by
  unfold execHandover
  apply onBlk_ran
  intro x b hk
  repeat' (first
    | with_reducible assumption | (with_reducible apply takeHandover_keeps)
    | (with_reducible refine Keeps.foldl _ ?_ (fun b r h => ?_)) | (fail_if_no_progress extract_lets)
    | (fail_if_no_progress intros) | (with_reducible apply Keeps.ite) | split | (dsimp only)
    | (dsimp +zetaDelta only) | (fail_if_no_progress (with_reducible apply Keeps.lit))
    | (fail_if_no_progress (with_reducible apply Keeps.filter))
    | (with_reducible refine Keeps.of_pair (by assumption) ?_))

theorem execLoss_ran (k lostMask die : Nat) (s : State) : Ran s (execLoss k lostMask die s) := by
  unfold execLoss
  apply onBlk_ran
  intro x b hk
  repeat' (first
    | with_reducible assumption | (with_reducible apply takeLoss_keeps) | (with_reducible apply acceptFlit_keeps)
    | (with_reducible refine Keeps.foldl _ ?_ (fun b r h => ?_)) | (fail_if_no_progress extract_lets)
    | (fail_if_no_progress intros) | (with_reducible apply Keeps.ite) | split | (dsimp only)
    | (dsimp +zetaDelta only) | (fail_if_no_progress (with_reducible apply Keeps.lit))
    | (fail_if_no_progress (with_reducible apply Keeps.filter))
    | (with_reducible refine Keeps.of_pair (by assumption) ?_))

theorem execStandby_ran (k : Nat) (s : State) : Ran s (execStandby k s) := by
  unfold execStandby
  apply onBlk_ran
  intro x b hk
  repeat' (first
    | with_reducible assumption | (with_reducible apply takeStandby_keeps)
    | (with_reducible refine Keeps.foldl _ ?_ (fun b r h => ?_)) | (fail_if_no_progress extract_lets)
    | (fail_if_no_progress intros) | (with_reducible apply Keeps.ite) | split | (dsimp only)
    | (dsimp +zetaDelta only) | (fail_if_no_progress (with_reducible apply Keeps.lit))
    | (fail_if_no_progress (with_reducible apply Keeps.filter))
    | (with_reducible refine Keeps.of_pair (by assumption) ?_))

theorem execLinkWake_ran (k : Nat) (s : State) : Ran s (execLinkWake k s) := by
  unfold execLinkWake
  apply onBlk_ran
  intro x b hk
  repeat' (first
    | with_reducible assumption | (with_reducible apply linkWake_keeps)
    | (with_reducible refine Keeps.foldl _ ?_ (fun b r h => ?_)) | (fail_if_no_progress extract_lets)
    | (fail_if_no_progress intros) | (with_reducible apply Keeps.ite) | split | (dsimp only)
    | (dsimp +zetaDelta only) | (fail_if_no_progress (with_reducible apply Keeps.lit))
    | (fail_if_no_progress (with_reducible apply Keeps.filter))
    | (with_reducible refine Keeps.of_pair (by assumption) ?_))

theorem execLaneTraining_ran (k lane : Nat) (rx : LaneRx) (s : State) : Ran s (execLaneTraining k lane rx s) := by
  unfold execLaneTraining
  apply onBlk_ran
  intro x b hk
  repeat' (first
    | with_reducible assumption | (with_reducible apply laneTraining_keeps)
    | (with_reducible refine Keeps.foldl _ ?_ (fun b r h => ?_)) | (fail_if_no_progress extract_lets)
    | (fail_if_no_progress intros) | (with_reducible apply Keeps.ite) | split | (dsimp only)
    | (dsimp +zetaDelta only) | (fail_if_no_progress (with_reducible apply Keeps.lit))
    | (fail_if_no_progress (with_reducible apply Keeps.filter))
    | (with_reducible refine Keeps.of_pair (by assumption) ?_))

theorem execTrainingTimeout_ran (k lane : Nat) (s : State) : Ran s (execTrainingTimeout k lane s) := by
  unfold execTrainingTimeout
  apply onBlk_ran
  intro x b hk
  repeat' (first
    | with_reducible assumption | (with_reducible apply trainingTimeout_keeps)
    | (with_reducible refine Keeps.foldl _ ?_ (fun b r h => ?_)) | (fail_if_no_progress extract_lets)
    | (fail_if_no_progress intros) | (with_reducible apply Keeps.ite) | split | (dsimp only)
    | (dsimp +zetaDelta only) | (fail_if_no_progress (with_reducible apply Keeps.lit))
    | (fail_if_no_progress (with_reducible apply Keeps.filter))
    | (with_reducible refine Keeps.of_pair (by assumption) ?_))

theorem execLaneRetrain_ran (k lane : Nat) (failures : Option Nat) (s : State) :
    Ran s (execLaneRetrain k lane failures s) := by
  unfold execLaneRetrain
  apply onBlk_ran
  intro x b hk
  repeat' (first
    | with_reducible assumption | (with_reducible apply laneRetrain_keeps)
    | (with_reducible refine Keeps.foldl _ ?_ (fun b r h => ?_)) | (fail_if_no_progress extract_lets)
    | (fail_if_no_progress intros) | (with_reducible apply Keeps.ite) | split | (dsimp only)
    | (dsimp +zetaDelta only) | (fail_if_no_progress (with_reducible apply Keeps.lit))
    | (fail_if_no_progress (with_reducible apply Keeps.filter))
    | (with_reducible refine Keeps.of_pair (by assumption) ?_))

theorem execPortSilence_ran (k : Nat) (s : State) : Ran s (execPortSilence k s) := by
  unfold execPortSilence
  apply onBlk_ran
  intro x b hk
  repeat' (first
    | with_reducible assumption | (with_reducible apply portSilence_keeps)
    | (with_reducible refine Keeps.foldl _ ?_ (fun b r h => ?_)) | (fail_if_no_progress extract_lets)
    | (fail_if_no_progress intros) | (with_reducible apply Keeps.ite) | split | (dsimp only)
    | (dsimp +zetaDelta only) | (fail_if_no_progress (with_reducible apply Keeps.lit))
    | (fail_if_no_progress (with_reducible apply Keeps.filter))
    | (with_reducible refine Keeps.of_pair (by assumption) ?_))

theorem execDiscovery_ran (st : PeerStates) (s : State) : Ran s (execDiscovery st s) := by
  unfold execDiscovery
  apply onBlk_ran
  intro x b hk
  repeat' (first
    | with_reducible assumption | (with_reducible apply discovery_keeps)
    | (with_reducible refine Keeps.foldl _ ?_ (fun b r h => ?_)) | (fail_if_no_progress extract_lets)
    | (fail_if_no_progress intros) | (with_reducible apply Keeps.ite) | split | (dsimp only)
    | (dsimp +zetaDelta only) | (fail_if_no_progress (with_reducible apply Keeps.lit))
    | (fail_if_no_progress (with_reducible apply Keeps.filter))
    | (with_reducible refine Keeps.of_pair (by assumption) ?_))

theorem execLinkPwrGood_ran (k : Nat) (s : State) : Ran s (execLinkPwrGood k s) := by
  unfold execLinkPwrGood
  apply onBlk_ran
  intro x b hk
  repeat' (first
    | with_reducible assumption | (with_reducible apply linkPwrGood_keeps)
    | (with_reducible refine Keeps.foldl _ ?_ (fun b r h => ?_)) | (fail_if_no_progress extract_lets)
    | (fail_if_no_progress intros) | (with_reducible apply Keeps.ite) | split | (dsimp only)
    | (dsimp +zetaDelta only) | (fail_if_no_progress (with_reducible apply Keeps.lit))
    | (fail_if_no_progress (with_reducible apply Keeps.filter))
    | (with_reducible refine Keeps.of_pair (by assumption) ?_))

theorem execTileRetire_ran (t : Nat) (unreadable : List Nat) (s : State) : Ran s (execTileRetire t unreadable s) := by
  unfold execTileRetire
  apply onBlk_ran
  intro x b hk
  repeat' (first
    | with_reducible assumption | (with_reducible apply tileRetire_keeps)
    | (with_reducible refine Keeps.foldl _ ?_ (fun b r h => ?_)) | (fail_if_no_progress extract_lets)
    | (fail_if_no_progress intros) | (with_reducible apply Keeps.ite) | split | (dsimp only)
    | (dsimp +zetaDelta only) | (fail_if_no_progress (with_reducible apply Keeps.lit))
    | (fail_if_no_progress (with_reducible apply Keeps.filter))
    | (with_reducible refine Keeps.of_pair (by assumption) ?_))

theorem execSpareScrub_ran (bad : List Nat) (s : State) : Ran s (execSpareScrub bad s) := by
  unfold execSpareScrub
  apply onBlk_ran
  intro x b hk
  repeat' (first
    | with_reducible assumption | (with_reducible apply spareScrub_keeps)
    | (with_reducible refine Keeps.foldl _ ?_ (fun b r h => ?_)) | (fail_if_no_progress extract_lets)
    | (fail_if_no_progress intros) | (with_reducible apply Keeps.ite) | split | (dsimp only)
    | (dsimp +zetaDelta only) | (fail_if_no_progress (with_reducible apply Keeps.lit))
    | (fail_if_no_progress (with_reducible apply Keeps.filter))
    | (with_reducible refine Keeps.of_pair (by assumption) ?_))

theorem execTimeSlice_ran (p : Nat) (s : State) : Ran s (execTimeSlice p s) := by
  unfold execTimeSlice
  apply onBlk_ran
  intro x b hk
  repeat' (first
    | with_reducible assumption | (with_reducible apply timeSlice_keeps)
    | (with_reducible refine Keeps.foldl _ ?_ (fun b r h => ?_)) | (fail_if_no_progress extract_lets)
    | (fail_if_no_progress intros) | (with_reducible apply Keeps.ite) | split | (dsimp only)
    | (dsimp +zetaDelta only) | (fail_if_no_progress (with_reducible apply Keeps.lit))
    | (fail_if_no_progress (with_reducible apply Keeps.filter))
    | (with_reducible refine Keeps.of_pair (by assumption) ?_))

theorem execControlSramParity_ran (addr : Nat) (readOk : Bool) (s : State) :
    Ran s (execControlSramParity addr readOk s) := by
  unfold execControlSramParity
  apply onBlk_ran
  intro x b hk
  repeat' (first
    | with_reducible assumption | (with_reducible apply controlSramParity_keeps)
    | (with_reducible refine Keeps.foldl _ ?_ (fun b r h => ?_)) | (fail_if_no_progress extract_lets)
    | (fail_if_no_progress intros) | (with_reducible apply Keeps.ite) | split | (dsimp only)
    | (dsimp +zetaDelta only) | (fail_if_no_progress (with_reducible apply Keeps.lit))
    | (fail_if_no_progress (with_reducible apply Keeps.filter))
    | (with_reducible refine Keeps.of_pair (by assumption) ?_))

theorem execVaultSramParity_ran (addr : Nat) (s : State) : Ran s (execVaultSramParity addr s) := by
  unfold execVaultSramParity
  apply onBlk_ran
  intro x b hk
  repeat' (first
    | with_reducible assumption | (with_reducible apply vaultSramParity_keeps)
    | (with_reducible refine Keeps.foldl _ ?_ (fun b r h => ?_)) | (fail_if_no_progress extract_lets)
    | (fail_if_no_progress intros) | (with_reducible apply Keeps.ite) | split | (dsimp only)
    | (dsimp +zetaDelta only) | (fail_if_no_progress (with_reducible apply Keeps.lit))
    | (fail_if_no_progress (with_reducible apply Keeps.filter))
    | (with_reducible refine Keeps.of_pair (by assumption) ?_))

theorem execPowerCapCheck_ran (powerNow : BitVec 16) (s : State) : Ran s (execPowerCapCheck powerNow s) := by
  unfold execPowerCapCheck
  apply onBlk_ran
  intro x b hk
  repeat' (first
    | with_reducible assumption | (with_reducible apply powerCapCheck_keeps)
    | (with_reducible refine Keeps.foldl _ ?_ (fun b r h => ?_)) | (fail_if_no_progress extract_lets)
    | (fail_if_no_progress intros) | (with_reducible apply Keeps.ite) | split | (dsimp only)
    | (dsimp +zetaDelta only) | (fail_if_no_progress (with_reducible apply Keeps.lit))
    | (fail_if_no_progress (with_reducible apply Keeps.filter))
    | (with_reducible refine Keeps.of_pair (by assumption) ?_))

theorem execIdleDelay_ran (u : PowerUnit) (s : State) : Ran s (execIdleDelay u s) := by
  unfold execIdleDelay
  apply onBlk_ran
  intro x b hk
  repeat' (first
    | with_reducible assumption | (with_reducible apply idleDelay_keeps)
    | (with_reducible refine Keeps.foldl _ ?_ (fun b r h => ?_)) | (fail_if_no_progress extract_lets)
    | (fail_if_no_progress intros) | (with_reducible apply Keeps.ite) | split | (dsimp only)
    | (dsimp +zetaDelta only) | (fail_if_no_progress (with_reducible apply Keeps.lit))
    | (fail_if_no_progress (with_reducible apply Keeps.filter))
    | (with_reducible refine Keeps.of_pair (by assumption) ?_))

theorem execUnitWake_ran (u : PowerUnit) (s : State) : Ran s (execUnitWake u s) := by
  unfold execUnitWake
  apply onBlk_ran
  intro x b hk
  repeat' (first
    | with_reducible assumption | (with_reducible apply unitWake_keeps)
    | (with_reducible refine Keeps.foldl _ ?_ (fun b r h => ?_)) | (fail_if_no_progress extract_lets)
    | (fail_if_no_progress intros) | (with_reducible apply Keeps.ite) | split | (dsimp only)
    | (dsimp +zetaDelta only) | (fail_if_no_progress (with_reducible apply Keeps.lit))
    | (fail_if_no_progress (with_reducible apply Keeps.filter))
    | (with_reducible refine Keeps.of_pair (by assumption) ?_))

theorem execColdReset_ran (bad : List Nat) (s : State) : Ran s (execColdReset bad s) := by
  unfold execColdReset
  apply onBlk_ran
  intro x b hk
  repeat' (first
    | with_reducible assumption | (with_reducible apply coldReset_keeps)
    | (with_reducible refine Keeps.foldl _ ?_ (fun b r h => ?_)) | (fail_if_no_progress extract_lets)
    | (fail_if_no_progress intros) | (with_reducible apply Keeps.ite) | split | (dsimp only)
    | (dsimp +zetaDelta only) | (fail_if_no_progress (with_reducible apply Keeps.lit))
    | (fail_if_no_progress (with_reducible apply Keeps.filter))
    | (with_reducible refine Keeps.of_pair (by assumption) ?_))

theorem execBlockReset_ran (s : State) : Ran s (execBlockReset s) := by
  unfold execBlockReset
  apply onBlk_ran
  intro x b hk
  repeat' (first
    | with_reducible assumption | (with_reducible apply blockReset_keeps)
    | (with_reducible refine Keeps.foldl _ ?_ (fun b r h => ?_)) | (fail_if_no_progress extract_lets)
    | (fail_if_no_progress intros) | (with_reducible apply Keeps.ite) | split | (dsimp only)
    | (dsimp +zetaDelta only) | (fail_if_no_progress (with_reducible apply Keeps.lit))
    | (fail_if_no_progress (with_reducible apply Keeps.filter))
    | (with_reducible refine Keeps.of_pair (by assumption) ?_))

theorem execBlockStart_ran (s : State) : Ran s (execBlockStart s) := by
  unfold execBlockStart
  apply onBlk_ran
  intro x b hk
  repeat' (first
    | with_reducible assumption | (with_reducible apply blockStart_keeps)
    | (with_reducible refine Keeps.foldl _ ?_ (fun b r h => ?_)) | (fail_if_no_progress extract_lets)
    | (fail_if_no_progress intros) | (with_reducible apply Keeps.ite) | split | (dsimp only)
    | (dsimp +zetaDelta only) | (fail_if_no_progress (with_reducible apply Keeps.lit))
    | (fail_if_no_progress (with_reducible apply Keeps.filter))
    | (with_reducible refine Keeps.of_pair (by assumption) ?_))

theorem execTenantReset_ran (p : Nat) (s : State) : Ran s (execTenantReset p s) := by
  unfold execTenantReset
  apply onBlk_ran
  intro x b hk
  repeat' (first
    | with_reducible assumption | (with_reducible apply tenantReset_keeps)
    | (with_reducible refine Keeps.foldl _ ?_ (fun b r h => ?_)) | (fail_if_no_progress extract_lets)
    | (fail_if_no_progress intros) | (with_reducible apply Keeps.ite) | split | (dsimp only)
    | (dsimp +zetaDelta only) | (fail_if_no_progress (with_reducible apply Keeps.lit))
    | (fail_if_no_progress (with_reducible apply Keeps.filter))
    | (with_reducible refine Keeps.of_pair (by assumption) ?_))

theorem execPowerLoss_ran (s : State) : Ran s (execPowerLoss s) := by
  unfold execPowerLoss
  apply onBlk_ran
  intro x b hk
  repeat' (first
    | with_reducible assumption | (with_reducible apply powerLoss_keeps)
    | (with_reducible refine Keeps.foldl _ ?_ (fun b r h => ?_)) | (fail_if_no_progress extract_lets)
    | (fail_if_no_progress intros) | (with_reducible apply Keeps.ite) | split | (dsimp only)
    | (dsimp +zetaDelta only) | (fail_if_no_progress (with_reducible apply Keeps.lit))
    | (fail_if_no_progress (with_reducible apply Keeps.filter))
    | (with_reducible refine Keeps.of_pair (by assumption) ?_))

theorem execPresenceWindowOpen_ran (s : State) : Ran s (execPresenceWindowOpen s) := by
  unfold execPresenceWindowOpen
  apply onBlk_ran
  intro x b hk
  repeat' (first
    | with_reducible assumption | (with_reducible apply openWindow_keeps)
    | (with_reducible refine Keeps.foldl _ ?_ (fun b r h => ?_)) | (fail_if_no_progress extract_lets)
    | (fail_if_no_progress intros) | (with_reducible apply Keeps.ite) | split | (dsimp only)
    | (dsimp +zetaDelta only) | (fail_if_no_progress (with_reducible apply Keeps.lit))
    | (fail_if_no_progress (with_reducible apply Keeps.filter))
    | (with_reducible refine Keeps.of_pair (by assumption) ?_))

theorem execWindowExpiry_ran (s : State) : Ran s (execWindowExpiry s) := by
  unfold execWindowExpiry
  apply onBlk_ran
  intro x b hk
  repeat' (first
    | with_reducible assumption | (with_reducible apply expireWindow_keeps)
    | (with_reducible refine Keeps.foldl _ ?_ (fun b r h => ?_)) | (fail_if_no_progress extract_lets)
    | (fail_if_no_progress intros) | (with_reducible apply Keeps.ite) | split | (dsimp only)
    | (dsimp +zetaDelta only) | (fail_if_no_progress (with_reducible apply Keeps.lit))
    | (fail_if_no_progress (with_reducible apply Keeps.filter))
    | (with_reducible refine Keeps.of_pair (by assumption) ?_))

theorem execStuck_ran (s : State) : Ran s (execStuck s) := by
  unfold execStuck
  apply onBlk_ran
  intro x b hk
  repeat' (first
    | with_reducible assumption | (with_reducible apply becomeStuck_keeps)
    | (with_reducible refine Keeps.foldl _ ?_ (fun b r h => ?_)) | (fail_if_no_progress extract_lets)
    | (fail_if_no_progress intros) | (with_reducible apply Keeps.ite) | split | (dsimp only)
    | (dsimp +zetaDelta only) | (fail_if_no_progress (with_reducible apply Keeps.lit))
    | (fail_if_no_progress (with_reducible apply Keeps.filter))
    | (with_reducible refine Keeps.of_pair (by assumption) ?_))

theorem execSumpInterval_ran (s : State) : Ran s (execSumpInterval s) := by
  unfold execSumpInterval
  apply onBlk_ran
  intro x b hk
  repeat' (first
    | with_reducible assumption | (with_reducible apply sumpInterval_keeps)
    | (with_reducible refine Keeps.foldl _ ?_ (fun b r h => ?_)) | (fail_if_no_progress extract_lets)
    | (fail_if_no_progress intros) | (with_reducible apply Keeps.ite) | split | (dsimp only)
    | (dsimp +zetaDelta only) | (fail_if_no_progress (with_reducible apply Keeps.lit))
    | (fail_if_no_progress (with_reducible apply Keeps.filter))
    | (with_reducible refine Keeps.of_pair (by assumption) ?_))

theorem execTapInstruction_ran (i : Nat) (s : State) : Ran s (execTapInstruction i s) := by
  unfold execTapInstruction
  apply onBlk_ran
  intro x b hk
  repeat' (first
    | with_reducible assumption | (with_reducible apply tapInstruction_keeps)
    | (with_reducible refine Keeps.foldl _ ?_ (fun b r h => ?_)) | (fail_if_no_progress extract_lets)
    | (fail_if_no_progress intros) | (with_reducible apply Keeps.ite) | split | (dsimp only)
    | (dsimp +zetaDelta only) | (fail_if_no_progress (with_reducible apply Keeps.lit))
    | (fail_if_no_progress (with_reducible apply Keeps.filter))
    | (with_reducible refine Keeps.of_pair (by assumption) ?_))

theorem execRead_ran (r : DictReq) (s : State) : Ran s (execRead r s) := by
  unfold execRead
  apply onBlk_ran
  intro x b hk
  repeat' (first
    | with_reducible assumption | (with_reducible apply dictRead_keeps)
    | (with_reducible refine Keeps.foldl _ ?_ (fun b r h => ?_)) | (fail_if_no_progress extract_lets)
    | (fail_if_no_progress intros) | (with_reducible apply Keeps.ite) | split | (dsimp only)
    | (dsimp +zetaDelta only) | (fail_if_no_progress (with_reducible apply Keeps.lit))
    | (fail_if_no_progress (with_reducible apply Keeps.filter))
    | (with_reducible refine Keeps.of_pair (by assumption) ?_))

theorem execWrite_ran (r : DictReq) (s : State) : Ran s (execWrite r s) := by
  unfold execWrite
  apply onBlk_ran
  intro x b hk
  repeat' (first
    | with_reducible assumption | (with_reducible apply dictWrite_keeps)
    | (with_reducible refine Keeps.foldl _ ?_ (fun b r h => ?_)) | (fail_if_no_progress extract_lets)
    | (fail_if_no_progress intros) | (with_reducible apply Keeps.ite) | split | (dsimp only)
    | (dsimp +zetaDelta only) | (fail_if_no_progress (with_reducible apply Keeps.lit))
    | (fail_if_no_progress (with_reducible apply Keeps.filter))
    | (with_reducible refine Keeps.of_pair (by assumption) ?_))

theorem execDescribe_ran (r : DictReq) (s : State) : Ran s (execDescribe r s) := by
  unfold execDescribe
  apply onBlk_ran
  intro x b hk
  repeat' (first
    | with_reducible assumption | (with_reducible apply dictDescribe_keeps)
    | (with_reducible refine Keeps.foldl _ ?_ (fun b r h => ?_)) | (fail_if_no_progress extract_lets)
    | (fail_if_no_progress intros) | (with_reducible apply Keeps.ite) | split | (dsimp only)
    | (dsimp +zetaDelta only) | (fail_if_no_progress (with_reducible apply Keeps.lit))
    | (fail_if_no_progress (with_reducible apply Keeps.filter))
    | (with_reducible refine Keeps.of_pair (by assumption) ?_))

theorem execNext_ran (r : DictReq) (s : State) : Ran s (execNext r s) := by
  unfold execNext
  apply onBlk_ran
  intro x b hk
  repeat' (first
    | with_reducible assumption | (with_reducible apply dictNext_keeps)
    | (with_reducible refine Keeps.foldl _ ?_ (fun b r h => ?_)) | (fail_if_no_progress extract_lets)
    | (fail_if_no_progress intros) | (with_reducible apply Keeps.ite) | split | (dsimp only)
    | (dsimp +zetaDelta only) | (fail_if_no_progress (with_reducible apply Keeps.lit))
    | (fail_if_no_progress (with_reducible apply Keeps.filter))
    | (with_reducible refine Keeps.of_pair (by assumption) ?_))

theorem execCommit_ran (r : DictReq) (s : State) : Ran s (execCommit r s) := by
  unfold execCommit
  apply onBlk_ran
  intro x b hk
  repeat' (first
    | with_reducible assumption | (with_reducible apply writeCommit_keeps)
    | (with_reducible refine Keeps.foldl _ ?_ (fun b r h => ?_)) | (fail_if_no_progress extract_lets)
    | (fail_if_no_progress intros) | (with_reducible apply Keeps.ite) | split | (dsimp only)
    | (dsimp +zetaDelta only) | (fail_if_no_progress (with_reducible apply Keeps.lit))
    | (fail_if_no_progress (with_reducible apply Keeps.filter))
    | (with_reducible refine Keeps.of_pair (by assumption) ?_))

theorem execStagedRecord_ran (r : DictReq) (s : State) : Ran s (execStagedRecord r s) := by
  unfold execStagedRecord
  apply onBlk_ran
  intro x b hk
  repeat' (first
    | with_reducible assumption | (with_reducible apply writeStaged_keeps)
    | (with_reducible refine Keeps.foldl _ ?_ (fun b r h => ?_)) | (fail_if_no_progress extract_lets)
    | (fail_if_no_progress intros) | (with_reducible apply Keeps.ite) | split | (dsimp only)
    | (dsimp +zetaDelta only) | (fail_if_no_progress (with_reducible apply Keeps.lit))
    | (fail_if_no_progress (with_reducible apply Keeps.filter))
    | (with_reducible refine Keeps.of_pair (by assumption) ?_))

theorem execFwLoad_ran (r : DictReq) (readOk : Bool) (s : State) : Ran s (execFwLoad r readOk s) := by
  unfold execFwLoad
  apply onBlk_ran
  intro x b hk
  repeat' (first
    | with_reducible assumption | (with_reducible apply writeFwLoad_keeps)
    | (with_reducible refine Keeps.foldl _ ?_ (fun b r h => ?_)) | (fail_if_no_progress extract_lets)
    | (fail_if_no_progress intros) | (with_reducible apply Keeps.ite) | split | (dsimp only)
    | (dsimp +zetaDelta only) | (fail_if_no_progress (with_reducible apply Keeps.lit))
    | (fail_if_no_progress (with_reducible apply Keeps.filter))
    | (with_reducible refine Keeps.of_pair (by assumption) ?_))

theorem execFuseProgram_ran (r : DictReq) (supplyOkPulses : Option Nat) (s : State) :
    Ran s (execFuseProgram r supplyOkPulses s) := by
  unfold execFuseProgram
  apply onBlk_ran
  intro x b hk
  repeat' (first
    | with_reducible assumption | (with_reducible apply writeFuse_keeps)
    | (with_reducible refine Keeps.foldl _ ?_ (fun b r h => ?_)) | (fail_if_no_progress extract_lets)
    | (fail_if_no_progress intros) | (with_reducible apply Keeps.ite) | split | (dsimp only)
    | (dsimp +zetaDelta only) | (fail_if_no_progress (with_reducible apply Keeps.lit))
    | (fail_if_no_progress (with_reducible apply Keeps.filter))
    | (with_reducible refine Keeps.of_pair (by assumption) ?_))

theorem execReform_ran (r : DictReq) (st : PeerStates) (s : State) : Ran s (execReform r st s) := by
  unfold execReform
  apply onBlk_ran
  intro x b hk
  repeat' (first
    | with_reducible assumption | (with_reducible apply writeReform_keeps)
    | (with_reducible refine Keeps.foldl _ ?_ (fun b r h => ?_)) | (fail_if_no_progress extract_lets)
    | (fail_if_no_progress intros) | (with_reducible apply Keeps.ite) | split | (dsimp only)
    | (dsimp +zetaDelta only) | (fail_if_no_progress (with_reducible apply Keeps.lit))
    | (fail_if_no_progress (with_reducible apply Keeps.filter))
    | (with_reducible refine Keeps.of_pair (by assumption) ?_))

theorem execPortRetrain_ran (r : DictReq) (s : State) : Ran s (execPortRetrain r s) := by
  unfold execPortRetrain
  apply onBlk_ran
  intro x b hk
  repeat' (first
    | with_reducible assumption | (with_reducible apply writeRetrain_keeps)
    | (with_reducible refine Keeps.foldl _ ?_ (fun b r h => ?_)) | (fail_if_no_progress extract_lets)
    | (fail_if_no_progress intros) | (with_reducible apply Keeps.ite) | split | (dsimp only)
    | (dsimp +zetaDelta only) | (fail_if_no_progress (with_reducible apply Keeps.lit))
    | (fail_if_no_progress (with_reducible apply Keeps.filter))
    | (with_reducible refine Keeps.of_pair (by assumption) ?_))

theorem execTileBind_ran (r : DictReq) (unreadable : List Nat) (s : State) : Ran s (execTileBind r unreadable s) := by
  unfold execTileBind
  apply onBlk_ran
  intro x b hk
  repeat' (first
    | with_reducible assumption | (with_reducible apply writeTileBind_keeps)
    | (with_reducible refine Keeps.foldl _ ?_ (fun b r h => ?_)) | (fail_if_no_progress extract_lets)
    | (fail_if_no_progress intros) | (with_reducible apply Keeps.ite) | split | (dsimp only)
    | (dsimp +zetaDelta only) | (fail_if_no_progress (with_reducible apply Keeps.lit))
    | (fail_if_no_progress (with_reducible apply Keeps.filter))
    | (with_reducible refine Keeps.of_pair (by assumption) ?_))

theorem execTileReturn_ran (r : DictReq) (good : Bool) (s : State) : Ran s (execTileReturn r good s) := by
  unfold execTileReturn
  apply onBlk_ran
  intro x b hk
  repeat' (first
    | with_reducible assumption | (with_reducible apply writeTileReturn_keeps)
    | (with_reducible refine Keeps.foldl _ ?_ (fun b r h => ?_)) | (fail_if_no_progress extract_lets)
    | (fail_if_no_progress intros) | (with_reducible apply Keeps.ite) | split | (dsimp only)
    | (dsimp +zetaDelta only) | (fail_if_no_progress (with_reducible apply Keeps.lit))
    | (fail_if_no_progress (with_reducible apply Keeps.filter))
    | (with_reducible refine Keeps.of_pair (by assumption) ?_))

theorem execTrapdoorEn_ran (r : DictReq) (s : State) : Ran s (execTrapdoorEn r s) := by
  unfold execTrapdoorEn
  apply onBlk_ran
  intro x b hk
  repeat' (first
    | with_reducible assumption | (with_reducible apply writeTrapdoorEn_keeps)
    | (with_reducible refine Keeps.foldl _ ?_ (fun b r h => ?_)) | (fail_if_no_progress extract_lets)
    | (fail_if_no_progress intros) | (with_reducible apply Keeps.ite) | split | (dsimp only)
    | (dsimp +zetaDelta only) | (fail_if_no_progress (with_reducible apply Keeps.lit))
    | (fail_if_no_progress (with_reducible apply Keeps.filter))
    | (with_reducible refine Keeps.of_pair (by assumption) ?_))

theorem execClear_ran (r : DictReq) (s : State) : Ran s (execClear r s) := by
  unfold execClear
  apply onBlk_ran
  intro x b hk
  repeat' (first
    | with_reducible assumption | (with_reducible apply writeClear_keeps)
    | (with_reducible refine Keeps.foldl _ ?_ (fun b r h => ?_)) | (fail_if_no_progress extract_lets)
    | (fail_if_no_progress intros) | (with_reducible apply Keeps.ite) | split | (dsimp only)
    | (dsimp +zetaDelta only) | (fail_if_no_progress (with_reducible apply Keeps.lit))
    | (fail_if_no_progress (with_reducible apply Keeps.filter))
    | (with_reducible refine Keeps.of_pair (by assumption) ?_))

theorem execClose_ran (r : DictReq) (s : State) : Ran s (execClose r s) := by
  unfold execClose
  apply onBlk_ran
  intro x b hk
  repeat' (first
    | with_reducible assumption | (with_reducible apply writeClose_keeps)
    | (with_reducible refine Keeps.foldl _ ?_ (fun b r h => ?_)) | (fail_if_no_progress extract_lets)
    | (fail_if_no_progress intros) | (with_reducible apply Keeps.ite) | split | (dsimp only)
    | (dsimp +zetaDelta only) | (fail_if_no_progress (with_reducible apply Keeps.lit))
    | (fail_if_no_progress (with_reducible apply Keeps.filter))
    | (with_reducible refine Keeps.of_pair (by assumption) ?_))

theorem execAlertCause_ran (r : DictReq) (raised : BitVec 32) (s : State) : Ran s (execAlertCause r raised s) := by
  unfold execAlertCause
  apply onBlk_ran
  intro x b hk
  repeat' (first
    | with_reducible assumption | (with_reducible apply writeAlertCause_keeps)
    | (with_reducible refine Keeps.foldl _ ?_ (fun b r h => ?_)) | (fail_if_no_progress extract_lets)
    | (fail_if_no_progress intros) | (with_reducible apply Keeps.ite) | split | (dsimp only)
    | (dsimp +zetaDelta only) | (fail_if_no_progress (with_reducible apply Keeps.lit))
    | (fail_if_no_progress (with_reducible apply Keeps.filter))
    | (with_reducible refine Keeps.of_pair (by assumption) ?_))

theorem execSelect_ran (r : DictReq) (s : State) : Ran s (execSelect r s) := by
  unfold execSelect
  apply onBlk_ran
  intro x b hk
  repeat' (first
    | with_reducible assumption | (with_reducible apply writeSelect_keeps)
    | (with_reducible refine Keeps.foldl _ ?_ (fun b r h => ?_)) | (fail_if_no_progress extract_lets)
    | (fail_if_no_progress intros) | (with_reducible apply Keeps.ite) | split | (dsimp only)
    | (dsimp +zetaDelta only) | (fail_if_no_progress (with_reducible apply Keeps.lit))
    | (fail_if_no_progress (with_reducible apply Keeps.filter))
    | (with_reducible refine Keeps.of_pair (by assumption) ?_))

theorem execPowerCap_ran (r : DictReq) (s : State) : Ran s (execPowerCap r s) := by
  unfold execPowerCap
  apply onBlk_ran
  intro x b hk
  repeat' (first
    | with_reducible assumption | (with_reducible apply writePowerCap_keeps)
    | (with_reducible refine Keeps.foldl _ ?_ (fun b r h => ?_)) | (fail_if_no_progress extract_lets)
    | (fail_if_no_progress intros) | (with_reducible apply Keeps.ite) | split | (dsimp only)
    | (dsimp +zetaDelta only) | (fail_if_no_progress (with_reducible apply Keeps.lit))
    | (fail_if_no_progress (with_reducible apply Keeps.filter))
    | (with_reducible refine Keeps.of_pair (by assumption) ?_))

theorem execClockFloor_ran (r : DictReq) (s : State) : Ran s (execClockFloor r s) := by
  unfold execClockFloor
  apply onBlk_ran
  intro x b hk
  repeat' (first
    | with_reducible assumption | (with_reducible apply writeClockFloor_keeps)
    | (with_reducible refine Keeps.foldl _ ?_ (fun b r h => ?_)) | (fail_if_no_progress extract_lets)
    | (fail_if_no_progress intros) | (with_reducible apply Keeps.ite) | split | (dsimp only)
    | (dsimp +zetaDelta only) | (fail_if_no_progress (with_reducible apply Keeps.lit))
    | (fail_if_no_progress (with_reducible apply Keeps.filter))
    | (with_reducible refine Keeps.of_pair (by assumption) ?_))

theorem execBootswap_ran (r : DictReq) (s : State) : Ran s (execBootswap r s) := by
  unfold execBootswap
  apply onBlk_ran
  intro x b hk
  repeat' (first
    | with_reducible assumption | (with_reducible apply writeBootswap_keeps)
    | (with_reducible refine Keeps.foldl _ ?_ (fun b r h => ?_)) | (fail_if_no_progress extract_lets)
    | (fail_if_no_progress intros) | (with_reducible apply Keeps.ite) | split | (dsimp only)
    | (dsimp +zetaDelta only) | (fail_if_no_progress (with_reducible apply Keeps.lit))
    | (fail_if_no_progress (with_reducible apply Keeps.filter))
    | (with_reducible refine Keeps.of_pair (by assumption) ?_))

theorem execHoldMode_ran (r : DictReq) (s : State) : Ran s (execHoldMode r s) := by
  unfold execHoldMode
  apply onBlk_ran
  intro x b hk
  repeat' (first
    | with_reducible assumption | (with_reducible apply writeHold_keeps)
    | (with_reducible refine Keeps.foldl _ ?_ (fun b r h => ?_)) | (fail_if_no_progress extract_lets)
    | (fail_if_no_progress intros) | (with_reducible apply Keeps.ite) | split | (dsimp only)
    | (dsimp +zetaDelta only) | (fail_if_no_progress (with_reducible apply Keeps.lit))
    | (fail_if_no_progress (with_reducible apply Keeps.filter))
    | (with_reducible refine Keeps.of_pair (by assumption) ?_))

theorem execLocalDictionaryRequest_ran (m : Master) (slot op : Nat) (r : DictReq) (s : State) :
    Ran s (execLocalDictionaryRequest m slot op r s) := by
  unfold execLocalDictionaryRequest
  apply onBlk_ran
  intro x b hk
  repeat' (first
    | with_reducible assumption | (with_reducible apply localRequest_keeps)
    | (with_reducible refine Keeps.foldl _ ?_ (fun b r h => ?_)) | (fail_if_no_progress extract_lets)
    | (fail_if_no_progress intros) | (with_reducible apply Keeps.ite) | split | (dsimp only)
    | (dsimp +zetaDelta only) | (fail_if_no_progress (with_reducible apply Keeps.lit))
    | (fail_if_no_progress (with_reducible apply Keeps.filter))
    | (with_reducible refine Keeps.of_pair (by assumption) ?_))

theorem execSchedulerInterrupt_ran (id : Nat) (s : State) : Ran s (execSchedulerInterrupt id s) := by
  unfold execSchedulerInterrupt
  apply onBlk_ran
  intro x b hk
  repeat' (first
    | with_reducible assumption | (with_reducible apply interruptCmd_keeps)
    | (with_reducible refine Keeps.foldl _ ?_ (fun b r h => ?_)) | (fail_if_no_progress extract_lets)
    | (fail_if_no_progress intros) | (with_reducible apply Keeps.ite) | split | (dsimp only)
    | (dsimp +zetaDelta only) | (fail_if_no_progress (with_reducible apply Keeps.lit))
    | (fail_if_no_progress (with_reducible apply Keeps.filter))
    | (with_reducible refine Keeps.of_pair (by assumption) ?_))

theorem execClockAbsent_ran (mask : BitVec 21) (s : State) : Ran s (execClockAbsent mask s) := by
  unfold execClockAbsent
  apply onBlk_ran
  intro x b hk
  repeat' (first
    | with_reducible assumption | (with_reducible apply clockAbsent_keeps)
    | (with_reducible refine Keeps.foldl _ ?_ (fun b r h => ?_)) | (fail_if_no_progress extract_lets)
    | (fail_if_no_progress intros) | (with_reducible apply Keeps.ite) | split | (dsimp only)
    | (dsimp +zetaDelta only) | (fail_if_no_progress (with_reducible apply Keeps.lit))
    | (fail_if_no_progress (with_reducible apply Keeps.filter))
    | (with_reducible refine Keeps.of_pair (by assumption) ?_))

theorem execIdleFlit_ran (k : Nat) (f : Flit) (s : State) : Ran s (execIdleFlit k f s) := by
  unfold execIdleFlit
  apply onBlk_ran
  intro x b hk
  repeat' (first
    | with_reducible assumption | (with_reducible apply idleFlit_keeps)
    | (with_reducible refine Keeps.foldl _ ?_ (fun b r h => ?_)) | (fail_if_no_progress extract_lets)
    | (fail_if_no_progress intros) | (with_reducible apply Keeps.ite) | split | (dsimp only)
    | (dsimp +zetaDelta only) | (fail_if_no_progress (with_reducible apply Keeps.lit))
    | (fail_if_no_progress (with_reducible apply Keeps.filter))
    | (with_reducible refine Keeps.of_pair (by assumption) ?_))

theorem execBadRequest_ran (body : List Byte) (s : State) : Ran s (execBadRequest body s) := by
  unfold execBadRequest
  apply onBlk_ran
  intro x b hk
  repeat' (first
    | with_reducible assumption | (with_reducible apply badRequest_keeps)
    | (with_reducible refine Keeps.foldl _ ?_ (fun b r h => ?_)) | (fail_if_no_progress extract_lets)
    | (fail_if_no_progress intros) | (with_reducible apply Keeps.ite) | split | (dsimp only)
    | (dsimp +zetaDelta only) | (fail_if_no_progress (with_reducible apply Keeps.lit))
    | (fail_if_no_progress (with_reducible apply Keeps.filter))
    | (with_reducible refine Keeps.of_pair (by assumption) ?_))

theorem execStuckClear_ran (s : State) : Ran s (execStuckClear s) := by
  unfold execStuckClear
  apply onBlk_ran
  intro x b hk
  repeat' (first
    | with_reducible assumption | (with_reducible apply clearStuck_keeps)
    | (with_reducible refine Keeps.foldl _ ?_ (fun b r h => ?_)) | (fail_if_no_progress extract_lets)
    | (fail_if_no_progress intros) | (with_reducible apply Keeps.ite) | split | (dsimp only)
    | (dsimp +zetaDelta only) | (fail_if_no_progress (with_reducible apply Keeps.lit))
    | (fail_if_no_progress (with_reducible apply Keeps.filter))
    | (with_reducible refine Keeps.of_pair (by assumption) ?_))

end Sys2Proof.Machine
end

