-- ==== Sys2Proof/Laws/Requests.lean ====
section
/-! SUPPORT. What serving a dictionary request does: the answer, and the effect of a request that passes its checks. -/
namespace Sys2Proof.Machine

/-- A request that has arrived and passes its checks takes its effect. -/
theorem serveReq_ok {op : DOp} {r : DictReq} {b : Blk} (ha : arrived b op r = true) (hs : requestStatus b op r = .ok) (go : Blk → Blk) :
    serveReq op r go b = go b := by unfold serveReq; rw [ha, hs]; rfl
/-- A request that fails a check is answered with the status alone. -/
theorem serveReq_bad {op : DOp} {r : DictReq} {b : Blk} {st : DStatus} (ha : arrived b op r = true) (hs : requestStatus b op r = st) (hn : st ≠ .ok) (go : Blk → Blk) :
    serveReq op r go b = refuse op r st b := by
  unfold serveReq; rw [ha, hs]; cases st <;> first | exact absurd rfl hn | rfl
/-- A write with a good value is answered OK and takes its effect. -/
theorem serveWrite_ok {mine : Nat → Nat → Bool} {r : DictReq} {valueOk : Blk → Bool} {act : Blk → Blk} {b : Blk}
    (hm : mine r.index r.sub = true) (ha : arrived b .write r = true) (hs : requestStatus b .write r = .ok) (hv : valueOk b = true) :
    serveWrite mine r valueOk act b = act (respond .write r .ok [] b) := by
  unfold serveWrite; rw [hm, serveReq_ok ha hs]; simp [hv]
/-- A write with a bad value is answered BAD_VALUE and does nothing else. -/
theorem serveWrite_bad {mine : Nat → Nat → Bool} {r : DictReq} {valueOk : Blk → Bool} {act : Blk → Blk} {b : Blk}
    (hm : mine r.index r.sub = true) (ha : arrived b .write r = true) (hs : requestStatus b .write r = .ok) (hv : valueOk b = false) :
    serveWrite mine r valueOk act b = respond .write r .badValue [] b := by
  unfold serveWrite; rw [hm, serveReq_ok ha hs]; simp [hv, refuse]
/-- A write that fails a check is answered with the status alone. -/
theorem serveWrite_refused {mine : Nat → Nat → Bool} {r : DictReq} {valueOk : Blk → Bool} {act : Blk → Blk} {b : Blk} {st : DStatus}
    (hm : mine r.index r.sub = true) (ha : arrived b .write r = true) (hs : requestStatus b .write r = st) (hn : st ≠ .ok) :
    serveWrite mine r valueOk act b = refuse .write r st b := by
  unfold serveWrite; rw [hm, serveReq_bad ha hs hn]; simp
/-- A refused request gets its status, and asks for power when a reset makes the entry unavailable. -/
theorem refuse_eq (o : DOp) (r : DictReq) (st : DStatus) (b : Blk) : refuse o r st b =
    (if st = .unavailable ∧ b.pwr.inReset = true then { respond o r st [] b with pwr := { (respond o r st [] b).pwr with wake := true } } else respond o r st [] b) := by
  unfold refuse raiseWake
  dsimp only
  by_cases h : st = .unavailable
  · rw [if_pos h]
    by_cases h2 : b.pwr.inReset = true
    · rw [if_pos (show (respond o r st [] b).pwr.inReset = true from h2), if_pos ⟨h, h2⟩]; rfl
    · rw [if_neg (show ¬ (respond o r st [] b).pwr.inReset = true from h2), if_neg (fun x => h2 x.2)]
  · rw [if_neg h, if_neg (fun x => h x.1)]
/-- The entry a test names. -/
theorem entry_named {i n : Nat} {r : DictReq} (h : isEntry i n r.index r.sub = true) : r.index = i ∧ r.sub = n := by
  unfold isEntry at h; simpa using h
/-- The range test of a present entry. -/
theorem inRange_at {b : Blk} {r : DictReq} {i n : Nat} {g : List Entry} {e : Entry} (hi : r.index = i ∧ r.sub = n) (hf : dictIndexes.find? (fun e => e.1 == i) = some (i, g))
    (hp : entryPresent b i n = true) (hn : n ≠ 0) (he : g[n - 1]? = some e) : inRange b r = (decide (e.min ≤ reqValue r) && decide (reqValue r ≤ e.max)) := by
  unfold inRange entryOf
  rw [hi.1, hi.2, hf]
  dsimp only
  rw [if_neg (by rw [hp]; decide), if_neg hn, he]

end Sys2Proof.Machine
end

