-- ==== Sys2Proof/Machine/Cost.lean ====
section
/-! DEFINITION. The published time bounds, as functions of a command and the block: pass costs (R83, Table PHA-2), the time of
a command on one die (R355, Table PRF-2) and in a Gallery (R356), block, row and table commands (R365 to R367). No command's
effect depends on them (log entry 4). -/
namespace Sys2Proof.Machine

/-- A local phase, or a commit by copying, over `n` granules of one tile, in tc (Table PHA-2). -/
def localTc (n : Nat) : Nat := ceilDiv n 4 + 16

/-- A tile exchange over `n` granules of one tile, in tc (Table PHA-2). -/
def exchangeTc (n : Nat) : Nat := ceilDiv n 4 + 24

/-- The commit of `n` granules of one tile, in tc (R82, Table PHA-2). -/
def commitTc (byName : Bool) (n : Nat) : Nat := if byName then 4 else localTc n

/-- 180 ns of a hop between dies, in tc at a clock in MHz. -/
def hopTc (mhz : Nat) : Nat := ceilDiv (180 * mhz) 1000

/-- The sub-domains span more than one place (Table PHA-3). -/
def spansPlaces (d : Desc) : Bool := decide (shareOf d < 2 ^ (planeOf d.w8).logn)

/-- The granules of all planes in one tile's share, `P·m`. -/
def tileShare (d : Desc) : Nat := (planeOf d.w8).p * shareOf d

/-- The local phases and the tile exchanges of one member on one die (Table PHA-3; for PERM.IDX the parts that PHASES marks
present, R88). -/
def dieCounts (op : Op) (d : Desc) (phases : Nat) : Nat × Nat :=
  let has := fun k => if natBit phases k then 1 else 0
  match op with
  | .permIdx => (has 0 + has 4, has 1 + has 3)
  | .layout => (1, 0)
  | .permGen | .rotacc => if !spansPlaces d then (1, 0) else if (planeOf d.w8).dom = 0 then (2, 1) else (1, 1)
  | _ => if !spansPlaces d then (1, 0) else (2, 1)

/-- The same on one die of a Gallery, the die exchange excepted (Table PHA-3). -/
def galleryCounts (op : Op) (d : Desc) (phases : Nat) : Nat × Nat :=
  match op with
  | .transpose | .bitrev => if spansPlaces d then (2, 2) else (1, 0)
  | _ => dieCounts op d phases

/-- Passes by their counts, over `n` granules. -/
def passesTc (n : Nat) (counts : Nat × Nat) : Nat := counts.1 * localTc n + counts.2 * exchangeTc n

/-- PHASES of the stream a PERM.IDX names. -/
def phasesOf (b : Blk) (d : Desc) : Nat := (pcsHeader (readBytes b (oxPcs d) 64)).phases

/-- The time of a tile-set command on one die from its decode, in tc (Table PRF-2). -/
def setBound (b : Blk) (op : Op) (c : Cmd) : Nat :=
  let d := c.desc
  let n := tileShare d
  let member := passesTc n (dieCounts op d (phasesOf b d))
  let twin := if flagTwin d then exchangeTc n else 0
  match op with
  | .permGen =>
    16 + ((List.range (max 1 (oxS d))).map (fun i => member + 16 + commitTc (renames op { c with unit := i }) n)).sum + twin
  | .rotacc => 16 + oxS d * member + 16 + localTc n + twin
  | .layout =>
    let (mode, l, alpha, logd, sp, dp) := layoutParams d
    let sides := match layoutPlanes mode l alpha (2 ^ logd) with | some x => (sp * x.1.2, dp * x.2.2) | none => (0, 0)
    let n := max sides.1 sides.2
    16 + localTc n + 16 + commitTc (renames op c) sides.2 + (if flagTwin d then exchangeTc n else 0)
  | .accDrain => 16 + localTc (ox d 0 16) + 16 + (if flagTwin d then exchangeTc (ox d 0 16) else 0)
  | .accClear => 16 + 512
  | _ => 16 + member + 16 + commitTc (renames op c) n + twin

/-- The uncontended bus-matrix time of a 4 KiB block, in mc: its narrowest port is a Cellar bank or not (R365). -/
def blockMc (cellar : Bool) : Nat := if cellar then 32 else 16

/-- The time of a block command or MOVE whose blocks take `bus` tc of the matrix (Table PRF-2). -/
def blockBound (c : Cmd) (bus : Nat) : Nat := 16 + 16 * unitsOf c.desc + bus

/-- The time of a Gallery command from its decode on the home die, in tc (R356): `bytes` is the most that one die sends along
one dimension. The factor 1.04 and the division are rounded up together. -/
def galleryBound (b : Blk) (op : Op) (c : Cmd) (bytes : Nat) : Nat :=
  let d := c.desc
  let n := tileShare d
  let mhz := b.pwr.clockNow.toNat
  let logD := (tsetOf d.tset).logD
  -- LINK_MIN is in units of 0.5 GB/s, so a byte takes 2/LINK_MIN ns and mhz/1000 tc each ns.
  let y := ceilDiv (104 * bytes * 2 * mhz) (100 * b.gal.linkMin * 1000) + logD * (hopTc mhz + 64)
  64 + commitTc (renames op c) n + passesTc n (galleryCounts op d (phasesOf b d)) + y + 4 * logD * hopTc mhz

/-- MODTAB.LOAD's record after the point at which it takes effect, in mc (R366). -/
def modtabBound (b : Blk) (fetched : Bool) : Nat := if fetched then 64 else fetchW b + 64

/-- The commit of a row after its issue, in mc, and the least time between two issues (R367). -/
def rowBound (b : Blk) (bytes : Nat) : Nat × Nat := (fetchW b + ceilDiv bytes 128, ceilDiv bytes 128)

end Sys2Proof.Machine
end

