-- ==== Sys2Proof/WellFormed.lean ====
section
/-! DEFINITION. Well-formed commands: every operand lies in the range its field or number has. The meanings are total
and do not rest on these checks. -/
namespace Sys2Proof.WellFormed

/-- A tenant port (R132). -/
def port (p : Nat) : Bool := decide (p < 5)

/-- A queue: four of each tenant port, and the Vault queue as port 5, queue 0 (R132, R166). -/
def queue (p q : Nat) : Bool := (decide (p < 5) && decide (q < 4)) || (p == 5 && q == 0)

/-- A stream, eight for each of 64 logical tiles (R164). -/
def stream (n : Nat) : Bool := decide (n < 512)

/-- A Pantry handle, one of 512 (R24, R177). -/
def handle (h : Nat) : Bool := decide (h < 512)

/-- A die (R237). -/
def die (d : Nat) : Bool := decide (d < 8)

/-- A link port (R225). -/
def link (k : Nat) : Bool := decide (k < 6)

/-- A lane of a link port (R225). -/
def lane (l : Nat) : Bool := decide (l < 8)

/-- A physical tile (Table SCP-1). -/
def tile (t : Nat) : Bool := decide (t < 68)

/-- A block address of 48 bits (Table GRN-3). -/
def addr (a : Nat) : Bool := decide (a < 2 ^ 48)

/-- A master of Table BMX-1. -/
def master : Master → Bool
  | .fe n => decide (n < 17)
  | .li n => decide (n < 6)
  | .cc n => decide (n < 4)
  | .vault => true
  | .trapdoor => true
  | .cq n => decide (n < 4)

/-- The most bytes that one segment of a master has: a quadrant moves whole lines (R213, R217). -/
def segMax : Master → Nat
  | .cq _ => 512
  | _ => 256

/-- A segment: at least 64 bytes in granules, inside the address space, to a memory port of the sixteen (R204, R206,
R217). -/
def busReq (r : BusReq) : Bool :=
  master r.master && decide (r.tag < 6) && addr r.addr && r.bytes % 64 == 0 && decide (0 < r.bytes) && decide (r.bytes ≤ segMax r.master)
  && decide (r.ctx < 6) && decide (r.home < 16) && decide (r.home2 < 16)

/-- A flit's class and lane (Table GAL-2, R225). -/
def flit (f : Flit) : Bool := decide (f.cls < 4) && lane f.lane

/-- A run of a BULK stream: a step, a tile, a first slot that is a multiple of 64 of a register's 4,096, and the granules of
at most 64 slots (chapter 08, the run header before Table GAL-3). -/
def run (r : BulkRun) : Bool :=
  decide (r.step < 8) && decide (r.tile < 64) && decide (r.first < 64) && decide (r.granules.length ≤ 64)

/-- A CTRL body names the credits of four classes (Table GAL-4). -/
def ctrl (c : CtrlBody) : Bool := c.credit.length == 4

/-- An IDENT payload (Table GAL-4). -/
def ident (i : IdentBody) : Bool :=
  decide (i.die < 8) && decide (i.port < 8) && decide (i.shape < 4) && decide (i.grade < 256) && i.credits.length == 4

/-- A message header (Table GAL-3). -/
def header (h : MsgHeader) : Bool := decide (h.tenant < 8) && decide (h.srcDie < 8) && addr h.addr && decide (h.len ≤ 256)

/-- A report: the dies it names, and an error at one of the four stages of R92. -/
def report (r : ReportBody) : Bool :=
  die r.home && die r.die && addr r.addr && (match r.error with | some e => decide (e.1 < 4) && decide (e.2 < 256) | none => true)

/-- A path: the control cores are CC0 to CC3 (Table DIC-6). -/
def path : Path → Bool
  | .core c => decide (c < 4)
  | _ => true

/-- A dictionary request: its fields hold what their bytes can (Tables DIC-1, DIC-4). -/
def request (r : DictReq) : Bool :=
  path r.path && decide (r.index < 2 ^ 16) && decide (r.sub < 256) && decide (r.len < 2 ^ 16)

/-- A unit of Table PWR-2. -/
def powerUnit : PowerUnit → Bool
  | .quad n => decide (n < 17)
  | .quadrant n => decide (n < 4)
  | .port k => decide (k < 6)

/-- The answers of a discovery: one agreement for each tenant port, lanes between dies of the package (R240, R292). -/
def peers (s : PeerStates) : Bool :=
  s.agree.length == 5 && s.lanes.all (fun x => die x.1.1 && decide (x.1.2 < 3) && decide (x.2 ≤ 48))

/-- A line of data. -/
def line (l : List Byte) : Bool := l.length == 512

end Sys2Proof.WellFormed

namespace Sys2Proof
open WellFormed

/-- The command is well formed. -/
def wellFormed : Instr → Bool
  | .nop p q _ => queue p q
  | .release p q _ => queue p q
  | .releaseApply _ => true
  | .setEpoch p q _ => queue p q
  | .fence p q _ => queue p q
  | .fenceEnd _ => true
  | .flagSet p q _ => queue p q
  | .flagSetApply _ => true
  | .flagWait p q _ => queue p q
  | .flagWaitTimeout _ => true
  | .flagDeadlock p => port p
  | .resume p q _ => queue p q
  | .discard p q _ => queue p q
  | .debugBreak p q _ => queue p q
  | .modtabLoad p q _ => queue p q
  | .modtabTakeEffect _ => true
  | .permGen p q _ => queue p q
  | .permIdx p q _ => queue p q
  | .transpose p q _ => queue p q
  | .bitrev p q _ => queue p q
  | .layout p q _ => queue p q
  | .rotacc p q _ => queue p q
  | .accDrain p q _ => queue p q
  | .accClear p q _ => queue p q
  | .gatherBlk p q _ => queue p q
  | .scatterBlk p q _ => queue p q
  | .move p q _ => queue p q
  | .grid p q _ => queue p q
  | .loadRows p q _ => queue p q
  | .storeRows p q _ => queue p q
  | .rowCommit _ row _ => decide (row < 64)
  | .rowHalt _ => true
  | .rowDenied _ => true
  | .commitUnit _ _ => true
  | .streamArm p q _ => queue p q
  | .streamGrant p => port p
  | .streamRearm p q _ => queue p q
  | .rearmBoundary n => stream n
  | .segmentStart n => stream n
  | .segmentDone n => stream n
  | .runEnd n => stream n
  | .streamHalt n _ => stream n
  | .streamDisarm n => stream n
  | .handleReturn h => handle h
  | .multicastDetach n _ => stream n
  | .handlePush p q _ => queue p q
  | .handlePushRoom _ => true
  | .handlePop p q _ => queue p q
  | .handlePopArrival _ => true
  | .sqTail p q _ => queue p q
  | .cqHead p q _ => queue p q
  | .enable p q config => queue p q && config.getLsbD 8
  | .disable p q config => queue p q && !config.getLsbD 8
  | .start p q control => queue p q && control.getLsbD 0
  | .stop p q control => queue p q && control.getLsbD 1
  | .tenantRegisterWrite p off _ => decide (p < 6) && decide (off < 4096)
  | .haltResume m p q v => master m && queue p q && v.getLsbD 0
  | .haltDiscard m p q v => master m && queue p q && v.getLsbD 1
  | .wbase m core _ => master m && decide (core < 4)
  | .fragmentViewAccess m _ addr _ => master m && WellFormed.addr addr
  | .busRequest r => busReq r
  | .memoryResponse m ctx _ _ data => decide (m < 16) && decide (ctx < 6) && line data
  | .lineInvalidate _ _ data => line data
  | .masterReset m => master m
  | .feWatchdog n => decide (n < 17)
  | .forwardedDescriptor d p _ _ => die d && port p
  | .report r => report r
  | .galleryCommit d _ => die d
  | .commitAcknowledgement c d => die c.home && die d
  | .flagSetMessage p m => port p && decide (m.flag < 256) && die m.source.home
  | .linkRead k h => link k && header h
  | .linkWrite k h _ _ => link k && header h
  | .readData k h _ _ _ => link k && header h
  | .writeResponse k h _ => link k && header h
  | .dataFlit k f runs => link k && flit f && runs.all run
  | .ctrlFlit k _ c => link k && ctrl c
  | .nak k _ c => link k && ctrl c
  | .replayTimer k => link k
  | .ident k _ i => link k && ident i
  | .handover k failed _ => link k && link failed
  | .loss k lostMask d => link k && decide (lostMask < 256) && die d
  | .standby k => link k
  | .linkWake k => link k
  | .laneTraining k l _ => link k && lane l
  | .trainingTimeout k l => link k && lane l
  | .laneRetrain k l _ => link k && lane l
  | .portSilence k => link k
  | .discovery s => peers s
  | .linkPwrGood k => link k
  | .tileRetire t _ => tile t
  | .spareScrub bad => bad.all tile
  | .timeSlice p => port p
  | .controlSramParity a _ => addr a
  | .vaultSramParity a => addr a
  | .powerCapCheck _ => true
  | .idleDelay u => powerUnit u
  | .unitWake u => powerUnit u
  | .coldReset bad => bad.all tile
  | .blockReset => true
  | .blockStart => true
  | .tenantReset p => port p
  | .powerLoss => true
  | .presenceWindowOpen => true
  | .windowExpiry => true
  | .stuck => true
  | .sumpInterval => true
  | .tapInstruction _ => true
  | .read r => request r
  | .write r => request r
  | .describe r => request r
  | .next r => request r
  | .commit r => request r
  | .stagedRecord r => request r
  | .fwLoad r _ => request r
  | .fuseProgram r _ => request r
  | .reform r s => request r && peers s
  | .portRetrain r => request r
  | .tileBind r _ => request r
  | .tileReturn r _ => request r
  | .trapdoorEn r => request r
  | .clear r => request r
  | .close r => request r
  | .alertCause r _ => request r
  | .select r => request r
  | .powerCap r => request r
  | .clockFloor r => request r
  | .bootswap r => request r
  | .holdMode r => request r
  | .localDictionaryRequest m slot op r => master m && decide (slot < 8) && decide (op < 256) && request r
  | .schedulerInterrupt _ => true
  | .clockAbsent _ => true
  | .idleFlit k f => link k && flit f
  | .badRequest body => decide (body.length ≤ 272)
  | .stuckClear => true

end Sys2Proof
end

