-- ==== Sys2Proof/Tests/Slice0.lean ====
section
/-! SUPPORT. Small checks of the model's own author: ill-formed commands are refused by `wellFormed`, each statement's
hypotheses are met by a concrete state (theorems `test_hyps_…`, one conjunct for each clause), and a few effects on
small states whose results stand in the spec. -/
namespace Sys2Proof.Tests
open Sys2Proof.Machine
set_option linter.unusedSimpArgs false
-- Each test waits for the kernel, so tests are elaborated one after another: in parallel every wait costs a thread.
set_option Elab.async false

/-! ### Small states -/

/-- Tenant 0: tiles 0 to 15, Shelf 0, handles 0 to 63, share 64, a context area for 16 tiles. -/
def tRec : PartRec :=
  { tiles := 0xFFFF, shelves := 1, handleFirst := 0, handleCount := 64, share := 64, flags := 1
    ctxBase := 0x800010000000, ctxSize := 71368704 }

/-- A running queue with one descriptor in its ring. -/
def tq : Queue :=
  { ringBase := 0x800000010000, cplBase := 0x800000020000, restartArea := 0x800000030000, logEntries := 4
    enable := true, state := .running, sqTail := 1 }

/-- The block with tenant 0 enabled and its queue 0 running. -/
def tb : Blk := { vlt := { active := [(0, tRec)], fwState := 2 }, qs := [(0, tq)] }

/-- A descriptor from its fields, with tag 7. -/
def dsc (opcode flags tset w8 opa opb opx : Nat) : Desc :=
  ⟨BitVec.ofNat 16 opcode, 7, BitVec.ofNat 16 flags, BitVec.ofNat 16 tset, BitVec.ofNat 32 w8,
   BitVec.ofNat 160 opa, BitVec.ofNat 160 opb, BitVec.ofNat 96 opx⟩

/-- A command in flight of queue 0, number 0. -/
def cmd (st : CmdState) (d : Desc) : Cmd :=
  { id := 0, port := 0, queue := 0, desc := d, count := 0, t0 := 0, st := st, fetched := true }

/-- The block with one command in flight. -/
def one (st : CmdState) (d : Desc) : Blk := { tb with cmds := [cmd st d], nextId := 1 }

/-- A granule operand: base, columns, rows and strides (Table CMD-5A). -/
def gr (base c0 c1 s0 s1 ps : Nat) : Nat := base + c0 * 2 ^ 48 + c1 * 2 ^ 55 + s0 * 2 ^ 64 + s1 * 2 ^ 96 + ps * 2 ^ 128

/-- 64 granules of register `r` of tile 0. -/
def reg64 (r : Nat) : Nat := gr (r * 0x40000) 64 1 64 0 0

/-- PLANE: one limb plane of 2^logn positions (Table CMD-5). -/
def plane (logn dom : Nat) : Nat := logn + dom * 32 + 0x1100

/-- Where the lists of the tests lie, in external memory. -/
def listAt : Nat := 0x800000040000

/-- The block with index entries 0 to 63, an element list of 1, a stream header for one tile of 64 granules, and a
modulus 65537 in entry 0. -/
def lb : Blk :=
  let b := writeBytes (listAt + 0x2000) ([0x01, 0x03, 0, 0, 6, 1, 0, 0] ++ leBytes 4 0 ++ leBytes 4 128) tb
  let b := writeBytes (listAt + 0x1000) (leBytes 4 1) b
  let b := writeBytes listAt ((List.range 64).flatMap (fun i => leBytes 4 i)) b
  { b with moduli := [(0, { q := 65537, valid := true, mu := BitVec.ofNat 64 (2 ^ 34 / 65537) })] }

/-- One descriptor of each catalogue command. -/
def catDescs : List (Op × Desc) :=
  [(.permGen, dsc 0x100 0 0x100 (plane 10 1) (reg64 0) (reg64 1) (5 + 2 ^ 48)),
   (.permIdx, dsc 0x101 0 0 (plane 6 0) (reg64 0) (reg64 1) (listAt + (listAt + 0x2000) * 2 ^ 48)),
   (.transpose, dsc 0x102 0 0 (plane 6 0) (reg64 0) (reg64 1) 3),
   (.bitrev, dsc 0x103 0 0 (plane 6 0) (reg64 0) (reg64 1) 6),
   (.layout, dsc 0x104 0 0 0 (gr 0 8 1 64 0 0) (gr 0x40000 1 1 64 0 512) (8 * 256 + 3 * 2 ^ 24 + 2 ^ 32 + 8 * 2 ^ 40)),
   (.rotacc, dsc 0x105 0 0x100 (plane 10 1) (reg64 0) (gr 0 64 1 64 0 0) (listAt + 0x1000 + 2 ^ 48)),
   (.accDrain, dsc 0x106 0 0 0 0 (gr 0x40000 1 1 64 0 0) 1),
   (.accClear, dsc 0x107 0 0 0 0 0 0),
   (.gather, dsc 0x110 0 0 0 (listAt + 0x10000 + 2 ^ 64 + 2 ^ 96 + 2 ^ 128) 0x40000 (listAt + 0x8000 + 2 ^ 48)),
   (.scatter, dsc 0x111 0 0 (plane 0 0) 0x40000 (listAt + 0x10000 + 2 ^ 64 + 2 ^ 96 + 2 ^ 128) (listAt + 0x8000 + 2 ^ 48)),
   (.move, dsc 0x112 0 0 0x100 (reg64 0) (reg64 1) 0)]

/-! ### The hypotheses as tests -/

def numberedB (b : Blk) : Bool := b.cmds.all (fun c => decide (c.id < b.nextId))
def servesNextB (b : Blk) (p q : Nat) (d : Desc) : Bool :=
  let a := slotAddr (queueOf b p q) (queueOf b p q).sqHead
  canDecode b p q d && !breakHits (queueOf b p q) d && numberedB b && decide (xstat (ofCtx p b) a = .ok) && !badHere (ofCtx p b) a
def takesNextB (b : Blk) (p q : Nat) (d : Desc) (op : Op) : Bool := decide (opOf d = some op) && servesNextB b p q d
def passesDecodeB (b : Blk) (p q : Nat) (d : Desc) (op : Op) : Bool :=
  let e := decoded b p q d (freshCmd b p q d)
  decide (decodeErrs (ofCtx p e) p q op d = []) && decide (tableErrs e p op d = []) && !(isModular op d && loadAhead e (freshCmd b p q d))
def acceptsB (b : Blk) (p q : Nat) (d : Desc) (op : Op) : Bool :=
  takesNextB b p q d op && passesDecodeB b p q d op && !spansGallery (freshCmd b p q d)
  && decide (firstIn fetchOrder (fetchFound b p q d op).errs = none)
def isFlyingB (c : Cmd) (b : Blk) : Bool :=
  decide (c.home = none) && decide (c.st ≠ .record)
  && (cmdOf b c.id).any (fun y => decide (y.port = c.port) && decide (y.queue = c.queue) && decide (y.desc = c.desc))
def canCompleteB (c : Cmd) (b : Blk) : Bool :=
  isFlyingB c b && decide ((queueOf b c.port c.queue).logEntries ≠ 0) && decide ((queueOf b c.port c.queue).cplWait = [])
  && decide (xstat (ofCtx c.port b) (cplAddr (queueOf b c.port c.queue) (queueOf b c.port c.queue).cqTail) = .ok)
def noneHeldB (b : Blk) : Bool := b.cmds.all (fun c => c.st != .table)
def waitsAsB (st : CmdState) (b : Blk) (id : Nat) (c : Cmd) : Bool := decide (cmdOf b id = some c) && decide (c.st = st)
def canHaltB (c : Cmd) (b : Blk) : Bool :=
  let r := queueOf b c.port c.queue
  r.enable && (decide (c.port = 5) || decide (regionOf r.restartArea.toNat = some .external))
  && decide (xstat (ofCtx c.port b) r.restartArea.toNat = .ok)
  && decide (r.cplWait = []) && decide (xstat (ofCtx c.port b) (cplAddr r r.cqTail) = .ok)
def passesDueB (b : Blk) (id : Nat) (c : Cmd) (op : Op) : Bool :=
  waitsAsB .ready b id c && decide (opOf c.desc = some op) && c.fetched && !mustWait b c
def rowDueB (b : Blk) (id row : Nat) (c : Cmd) : Bool :=
  waitsAsB .rows b id c && decide (row < rowCount c.desc) && !bitAt c.rowMask row && !bitAt c.back row && !mustWait b c

theorem numbered_iff {b : Blk} : numbered b ↔ numberedB b = true := by simp [numbered, numberedB]
theorem servesNext_iff {b : Blk} {p q : Nat} {d : Desc} : servesNext b p q d ↔ servesNextB b p q d = true := by
  simp [servesNext, servesNextB, numbered_iff, and_assoc]
theorem takesNext_iff {b : Blk} {p q : Nat} {d : Desc} {op : Op} : takesNext b p q d op ↔ takesNextB b p q d op = true := by
  simp [takesNext, takesNextB, servesNext_iff]
theorem passesDecode_iff {b : Blk} {p q : Nat} {d : Desc} {op : Op} :
    passesDecode b p q d op ↔ passesDecodeB b p q d op = true := by
  simp only [passesDecode, passesDecodeB, Bool.and_eq_true, decide_eq_true_eq, Bool.not_eq_true', and_assoc]
theorem accepts_iff {b : Blk} {p q : Nat} {d : Desc} {op : Op} : accepts b p q d op ↔ acceptsB b p q d op = true := by
  simp [accepts, acceptsB, takesNext_iff, passesDecode_iff, and_assoc]
theorem isFlying_iff {c : Cmd} {b : Blk} : isFlying c b ↔ isFlyingB c b = true := by
  cases h : cmdOf b c.id <;> simp [isFlying, isFlyingB, h, and_assoc]
theorem canComplete_iff {c : Cmd} {b : Blk} : canComplete c b ↔ canCompleteB c b = true := by
  simp [canComplete, canCompleteB, isFlying_iff, and_assoc]
theorem noneHeld_iff {b : Blk} : noneHeld b ↔ noneHeldB b = true := by simp [noneHeld, noneHeldB]
theorem waitsAs_iff {st : CmdState} {b : Blk} {id : Nat} {c : Cmd} : waitsAs st b id c ↔ waitsAsB st b id c = true := by
  simp [waitsAs, waitsAsB]
theorem canHalt_iff {c : Cmd} {b : Blk} : canHalt c b ↔ canHaltB c b = true := by
  simp [canHalt, canHaltB, and_assoc]
theorem passesDue_iff {b : Blk} {id : Nat} {c : Cmd} {op : Op} : passesDue b id c op ↔ passesDueB b id c op = true := by
  simp [passesDue, passesDueB, waitsAs_iff, and_assoc]
theorem rowDue_iff {b : Blk} {id row : Nat} {c : Cmd} : rowDue b id row c ↔ rowDueB b id row c = true := by
  simp [rowDue, rowDueB, waitsAs_iff, and_assoc]

/-! ### Steps and invariants -/

theorem test_hyps_EmptyQueueLetsOneTickPass :
    ({ tb with pwr := { standby := false } } : Blk).pwr.standby = false
    ∧ (({ tb with pwr := { inReset := true } } : Blk).pwr.standby = true ∧ ({ tb with pwr := { inReset := true } } : Blk).pwr.inReset = true)
    ∧ (tb.pwr.standby = true ∧ tb.pwr.inReset = false) := by decide

/-- The four invariants hold at reset, and a step from there gives a next state. -/
theorem test_hyps_MemoryKeepsItsCanonicalForm :
    Memory.wf State.reset.blk.mem = true ∧ ∃ t, step State.reset = .next t := ⟨by decide, _, rfl⟩

theorem test_hyps_NoFuseIsEverUnblown : ∃ t, step State.reset = .next t := ⟨_, rfl⟩

theorem test_hyps_TheTrapdoorSealStaysLatched :
    sealHeld { tb with fab := { flagFuses := [(68, 7)], lat := { sealed := true } } }
    ∧ ∃ t, step { pending := [.tapInstruction 5], blk := { tb with fab := { flagFuses := [(68, 7)], lat := { sealed := true } } } } = .next t :=
  ⟨by unfold sealHeld; decide, _, rfl⟩

theorem test_hyps_CommandsStayNumbered :
    numbered (one .ready (dsc 0 0 0 0 0 0 0)) ∧ ∃ t, step { pending := [], blk := one .ready (dsc 0 0 0 0 0 0 0) } = .next t :=
  ⟨by unfold numbered; decide, _, rfl⟩

/-! ### Decoding -/

/-- Every catalogue command has a descriptor that is accepted. -/
theorem test_hyps_CatalogueCommandsEnterFlight :
    ∀ x ∈ catDescs, x.1 ∈ catalogueOps ∧ accepts lb 0 0 x.2 x.1 := by
  simp only [accepts_iff, takesNext_iff, servesNext_iff, canComplete_iff, noneHeld_iff]; decide +kernel

/-- LOAD_ROWS of 64 rows of one granule, STORE_ROWS back, MODTAB_LOAD, FLAG_SET 255, FENCE, and NOP with the mask of T15. -/
theorem test_hyps_WaitingCommandsEnterFlight :
    accepts tb 0 0 (dsc 0x120 0 0 0 (gr 0x800000050000 1 64 64 64 0) (gr 0 1 64 64 64 0) 0) .loadRows
    ∧ accepts tb 0 0 (dsc 0x121 0 0 0 (gr 0 1 64 64 64 0) (gr 0x800000050000 1 64 64 64 0) 0) .storeRows
    ∧ accepts tb 0 0 (dsc 6 0 0 0 0 0 listAt) .modtabLoad
    ∧ accepts tb 0 0 (dsc 2 0 0 0 0 0 255) .flagSet
    ∧ accepts tb 0 0 (dsc 1 0 0 0 0 0 15) .fence
    ∧ (accepts tb 0 0 (dsc 0 0 0 0 0 0 0x8000) .nop ∧ oxRelease (dsc 0 0 0 0 0 0 0x8000) ≠ 0) := by
  simp only [accepts_iff, takesNext_iff, servesNext_iff, canComplete_iff, noneHeld_iff]; decide +kernel

theorem test_hyps_NopSetEpochAndBreakComplete :
    (accepts tb 0 0 (dsc 0 0 0 0 0 0 0) .nop
      ∧ canComplete (acceptedCmd tb 0 0 (dsc 0 0 0 0 0 0 0) .nop)
          (decoded tb 0 0 (dsc 0 0 0 0 0 0 0) (acceptedCmd tb 0 0 (dsc 0 0 0 0 0 0 0) .nop)))
    ∧ (accepts tb 0 0 (dsc 0 0x100 0 1 0 0 0) .nop ∧ flagOpf0 (dsc 0 0x100 0 1 0 0 0) = true
      ∧ canComplete (acceptedCmd tb 0 0 (dsc 0 0x100 0 1 0 0 0) .nop)
          (updQueue 0 0 (fun r => { r with schedEpoch := 1 }) (decoded tb 0 0 (dsc 0 0x100 0 1 0 0 0)
            (acceptedCmd tb 0 0 (dsc 0 0x100 0 1 0 0 0) .nop))))
    ∧ (accepts tb 0 0 (dsc 5 0 0 0 0 0 0x201) .debugBreak
      ∧ canComplete (acceptedCmd tb 0 0 (dsc 5 0 0 0 0 0 0x201) .debugBreak)
          (updQueue 0 1 (fun r => { r with brkMode := 2 }) (decoded tb 0 0 (dsc 5 0 0 0 0 0 0x201)
            (acceptedCmd tb 0 0 (dsc 5 0 0 0 0 0 0x201) .debugBreak)))) := by
  simp only [accepts_iff, takesNext_iff, servesNext_iff, canComplete_iff, noneHeld_iff]; decide +kernel

/-- A TRANSPOSE with LOG_H above LOGN is SHAPE, one of a tile the tenant does not own NOT_OWNER, one with the block's
notice on its tile ZEROISED; an opcode that Table CMD-6 does not name. -/
theorem test_hyps_RejectedDescriptorCompletesWithItsFirstCode :
    let bad := dsc 0x102 0 0 (plane 6 0) (reg64 0) (reg64 1) 7
    let other := dsc 0x102 0 16 (plane 6 0) (gr 0x4000000 64 1 64 0 0) (gr 0x4040000 64 1 64 0 0) 3
    let good := dsc 0x102 0 0 (plane 6 0) (reg64 0) (reg64 1) 3
    let told : Blk := { tb with vlt := { tb.vlt with notices := [0] } }
    let none_ := dsc 0x7FFF 0 0 0 0 0 0
    (takesNext tb 0 0 bad .transpose ∧ (isModular .transpose bad && loadAhead (decoded tb 0 0 bad (freshCmd tb 0 0 bad)) (freshCmd tb 0 0 bad)) = false
      ∧ firstIn decodeOrder (decodeErrs (decoded tb 0 0 bad (freshCmd tb 0 0 bad)) 0 0 .transpose bad
          ++ tableErrs (decoded tb 0 0 bad (freshCmd tb 0 0 bad)) 0 .transpose bad) = some .shape
      ∧ canComplete (freshCmd tb 0 0 bad) (decoded tb 0 0 bad (freshCmd tb 0 0 bad)))
    ∧ (takesNext tb 0 0 other .transpose
      ∧ firstIn decodeOrder (decodeErrs (decoded tb 0 0 other (freshCmd tb 0 0 other)) 0 0 .transpose other
          ++ tableErrs (decoded tb 0 0 other (freshCmd tb 0 0 other)) 0 .transpose other) = some .notOwner)
    ∧ (takesNext told 0 0 good .transpose
      ∧ firstIn decodeOrder (decodeErrs (decoded told 0 0 good (freshCmd told 0 0 good)) 0 0 .transpose good
          ++ tableErrs (decoded told 0 0 good (freshCmd told 0 0 good)) 0 .transpose good) = some .zeroised
      ∧ canComplete (freshCmd told 0 0 good) (dropNotices 0 (namedTiles told .transpose good) (decoded told 0 0 good (freshCmd told 0 0 good))))
    ∧ (opOf none_ = none ∧ servesNext tb 0 0 none_
      ∧ canComplete (freshCmd tb 0 0 none_) (decoded tb 0 0 none_ (freshCmd tb 0 0 none_))) := by
  simp only [accepts_iff, takesNext_iff, servesNext_iff, canComplete_iff, noneHeld_iff]; decide +kernel

/-- FLAG_WAIT on flag 255, clear and set, the set one plain and CONSUME. -/
theorem test_hyps_FlagWaitWaitsOrCompletes :
    let d := dsc 3 0 0 0 0 0 255
    let e := dsc 3 0x100 0 0 0 0 255
    let set : Blk := { tb with flags := [(255, true)] }
    let c := { acceptedCmd set 0 0 d .flagWait with st := .flagWait }
    let k := { acceptedCmd set 0 0 e .flagWait with st := .flagWait }
    (accepts tb 0 0 d .flagWait ∧ flagOf tb 0 (oxFlag d) = false)
    ∧ (accepts set 0 0 d .flagWait ∧ flagOf set 0 (oxFlag d) = true ∧ waitsOn set 0 (oxFlag d) = []
      ∧ isConsume d = false ∧ canComplete c (blockOn c (entersAs .flagWait set 0 0 d .flagWait)))
    ∧ (accepts set 0 0 e .flagWait ∧ isConsume e = true
      ∧ canComplete k (putFlag 0 (oxFlag e) false (blockOn k (entersAs .flagWait set 0 0 e .flagWait)))) := by
  simp only [accepts_iff, takesNext_iff, servesNext_iff, canComplete_iff, noneHeld_iff]; decide +kernel

/-- A queue halted with cause 1 on a row command, on a catalogue command and on a MODTAB_LOAD. -/
def haltedBlk (cause : Nat) (d : Desc) : Blk :=
  { tb with
    cmds := [cmd .halted d], nextId := 1
    qs := [(0, { tq with
      state := .halted, cause := cause, blockedBy := none
      restart := some ⟨0, d.opcode, d.tag, 0, 0, cause, 1, 0, 0, 0, 0, 0, 0, 0, false⟩ })] }

def moveD : Desc := dsc 0x112 0 0 0x100 (reg64 0) (reg64 1) 0
def rowsD : Desc := dsc 0x120 0 0 0 (gr 0x800000050000 1 64 64 64 0) (gr 0 1 64 64 64 0) 0

theorem test_hyps_HaltedCommandsGoOnOrAreDiscarded :
    let b := haltedBlk 1 moveD
    let v := haltedBlk 3 moveD
    let h := cmd .halted moveD
    let r := dsc 4 0 0 0 0 0 0
    let x := dsc 4 0x100 0 0 0 0 0
    let e := { decoded b 0 0 x (freshCmd b 0 0 x) with cmds := b.cmds }
    (haltedOf b 0 0 = some h ∧ h.st = .halted ∧ accepts b 0 0 r .resume ∧ flagOpf0 r = false)
    ∧ (accepts b 0 0 x .resume ∧ flagOpf0 x = true ∧ noneHeld b ∧ canComplete h (clearPartial h e))
    ∧ (haltedOf v 0 0 = some h ∧ haltMatches .vault v 0 0 = true ∧ noneHeld v ∧ canComplete h (clearPartial h v))
    ∧ haltMatches (.fe 0) b 0 0 = false
    ∧ (opOf rowsD = some .loadRows ∧ opOf (dsc 6 0 0 0 0 0 listAt) = some .modtabLoad ∧ opOf moveD = some .move
      ∧ (cmd .halted moveD).fetched = true)
    ∧ (bitAt (1 : BitVec 64) 0 = true ∧ bitAt (1 : BitVec 64) 1 = false ∧ bitAt (2 : BitVec 64) 1 = true ∧ bitAt (2 : BitVec 64) 0 = false) := by
  simp only [accepts_iff, takesNext_iff, servesNext_iff, canComplete_iff, noneHeld_iff]; decide +kernel

/-! ### Streams -/

/-- A stream descriptor from memory to register 1 of tile 0: one segment of 64 granules, PERSIST, done flag 5, plus `more`. -/
def sdw (more : Nat) : BitVec 512 := BitVec.ofNat 512
  (0x0306 + 2 ^ 16 + 2 ^ 20 + 5 * 2 ^ 40 + 2 ^ 56 + 0x800000100000 * 2 ^ 64 + 2 ^ 112 + 64 * 2 ^ 176 + 64 * 2 ^ 192 + 64 * 2 ^ 256
    + 0x40000 * 2 ^ 320 + 2 ^ 368 + 2 ^ 416 + 0x800000200000 * 2 ^ 448 + more)

/-- The block with that descriptor at `listAt` and one stream of tile 0. -/
def sb (x : Stream) : Blk :=
  { writeBytes listAt (leBytes 64 (sdw 0).toNat) tb with streams := tabPut {} [] 0 x }

/-- STREAM_ARM of stream 0 with `n` handles. -/
def armD (n : Nat) : Desc := dsc 0x130 0 0 0 0 0 (listAt + n * 2 ^ 64)

/-- A stream that runs. -/
def running : Stream := { state := .running, sd := sdw 0, dbase := 0x800000100000, reserved := 1, home := [3] }

/-- The block as a member of a Gallery of two dies, tenant 0 with GALLERY. -/
def galleryBlk (b : Blk) : Blk :=
  { b with
    vlt := { b.vlt with active := [(0, { tRec with flags := 0x83 })] }
    gal := { b.gal with logD := 1, members := 3, working := 3 } }

/-- A TRANSPOSE of 128 granules over two dies of a Gallery. -/
theorem test_hyps_GalleryCommandIsForwarded :
    let b := galleryBlk { lb with fab := { lb.fab with lat := { lb.fab.lat with shape := 3 } } }
    let d := dsc 0x102 0 0x200 (plane 7 0) (reg64 0) (reg64 1) 3
    let c := freshCmd b 0 0 d
    let home := decoded b 0 0 d c
    let e := broadcast 4 (dieOf home) c.id home
    Op.transpose ∈ catalogueOps ∧ takesNext b 0 0 d .transpose ∧ passesDecode b 0 0 d .transpose ∧ spansGallery c = true
      ∧ childDies home (dieOf home) = [1] ∧ firstIn fetchOrder (fetchCheck (ofCtx 0 e) 0 .transpose d [] none).errs = none := by
  simp only [takesNext_iff, passesDecode_iff]; decide +kernel

theorem test_hyps_StreamArmWaitsForItsGrant :
    let b := sb {}
    let d := armD 64
    let taken := fun b : Blk => decoded b 0 0 d (acceptedCmd b 0 0 d .streamArm)
    let e := ofCtx 0 (taken b)
    let page := listAt / 512
    let absent : Blk := { b with xlat := [(page, .notPresent)] }
    let denied : Blk := { b with xlat := [(page, .denied)] }
    let arm := cmd .grant (armD 64)
    let waits : Blk := { sb { state := .waiting, sd := sdw 0, want := 64 } with cmds := [arm], nextId := 1 }
    let few : Blk := { waits with streams := [(0, { state := .waiting, sd := sdw 0, want := 65 })] }
    let take := (grantOrder 0 (grantable waits 0)).take 64
    let g := { waits with
      handles := take.foldl (fun t h => tabUpd {} t h (fun _ => { cond := .granted, owner := some 0 })) waits.handles
      streams := tabUpd {} waits.streams 0 (fun x => { x with state := .running, home := take, reserved := 64 }) }
    let told := inCtx 0 (writeBytes (sdescOf (sdw 0)).status (statusBytes 0 (streamOf g 0))) g
    (accepts b 0 0 d .streamArm ∧ listStat e (oxBase d) = .ok ∧ (streamOf b (oxStream d)).state = .disarmed
      ∧ firstIn decodeOrder (armErrs (touchLine 0 (oxBase d) 64 false e) 0 (oxStream d) (oxHandles d) (readSdesc e (oxBase d))) = none)
    ∧ (accepts absent 0 0 d .streamArm ∧ listStat (ofCtx 0 (taken absent)) (oxBase d) = .notPresent)
    ∧ (accepts denied 0 0 d .streamArm ∧ listStat (ofCtx 0 (taken denied)) (oxBase d) = .denied
      ∧ canComplete (acceptedCmd denied 0 0 d .streamArm) (taken denied))
    ∧ (oldestArm waits 0 = some arm ∧ oxStream arm.desc = 0 ∧ (streamOf waits 0).want = 64 ∧ 64 ≤ (grantable waits 0).length
      ∧ xstat (ofCtx 0 waits) (sdescOf (streamOf g 0).sd).status = .ok ∧ canComplete arm (fillHandles 0 told))
    ∧ (oldestArm few 0 = some arm ∧ (grantable few 0).length < (streamOf few 0).want) := by
  simp only [accepts_iff, canComplete_iff]; decide +kernel

theorem test_hyps_RearmActsByStreamState :
    let d := fun db : Nat => dsc 0x131 0 0 0 db 0 0
    let c := fun (x : Stream) (db : Nat) => acceptedCmd (sb x) 0 0 (d db) .streamRearm
    let e := fun (x : Stream) (db : Nat) => decoded (sb x) 0 0 (d db) (c x db)
    let ok := fun (x : Stream) (db : Nat) => acceptsB (sb x) 0 0 (d db) .streamRearm && canCompleteB (c x db) (e x db)
      && decide (field (d db).opa 0 48 = db)
    let far := 0x800000300000
    let parked := { running with state := .parked }
    (∀ st ∈ [SState.waiting, .running, .halted], ok { running with state := st } 0 = true ∧ ok { running with state := st } far = true)
    ∧ (acceptsB (sb parked) 0 0 (d far) .streamRearm = true
      ∧ canCompleteB (c parked far) (fillHandles 0 (updStream 0 (fun x => newRun x far 0) (e parked far))) = true)
    ∧ (∀ st ∈ [SState.error, .parked], ok { running with state := st } 0 = true
      ∧ xstat (ofCtx 0 (sb { running with state := st })) (sdescOf (sdw 0)).status = .ok)
    ∧ (let z := streamOf (sb { running with segment := 1, rearm := some (far, 0), boundary := 1, fseg := 1 }) 0
       z.rearm = some (far, 0) ∧ z.state = .running ∧ z.turn = none ∧ z.fpos = 0 ∧ z.boundary ≤ z.fseg) := by decide +kernel

/-- A stream with a wait flag, one without, one whose memory side lies outside external memory; delivery of the whole segment;
the end of a run, persistent or not. -/
theorem test_hyps_SegmentsStartFinishAndEndTheRun :
    let w := { running with sd := sdw (9 * 2 ^ 48 + 2 ^ 57) }
    let set : Blk := { sb w with flags := [(9, true)] }
    let bad := sb { running with dbase := 0 }
    let ready := fun b : Blk =>
      (streamOf b 0).state = .running ∧ (streamOf b 0).segStarted = false ∧ (streamOf b 0).segment < (sdescOf (streamOf b 0).sd).segments
        ∧ b.vlt.sliced.contains (streamOf b 0).port = false
    let opened := fun b : Blk => openSegment 0 false 0 (ofCtx 0 b)
    let started := sb { running with segStarted := true, fetched := 1 }
    let ended := { running with segment := 1 }
    let last := { ended with sd := sdw 0 - 2 ^ 20 }
    (ready (sb w) ∧ (opened (sb w)).2 = .done ∧ (sdescOf w.sd).waitEn = true ∧ flagOf (opened (sb w)).1 0 (sdescOf w.sd).waitFlag = false)
    ∧ (ready set ∧ (opened set).2 = .done ∧ flagOf (opened set).1 0 (sdescOf w.sd).waitFlag = true)
    ∧ (ready (sb running) ∧ (opened (sb running)).2 = .done ∧ (sdescOf running.sd).waitEn = false)
    ∧ (ready bad ∧ (opened bad).2 = .bad .indexRange 0 ∧ Code.indexRange ≠ .parity)
    ∧ ((streamOf started 0).state = .running ∧ (streamOf started 0).segStarted = true ∧ (deliverAll 0 (ofCtx 0 started)).2 = .done)
    ∧ ((streamOf (sb ended) 0).state = .running ∧ (sdescOf ended.sd).segments ≤ ended.segment ∧ ended.rearm = none ∧ ended.turn = none
      ∧ xstat (ofCtx 0 (sb ended)) (sdescOf ended.sd).status = .ok ∧ (sdescOf ended.sd).persist = true)
    ∧ ((streamOf (sb last) 0).state = .running ∧ (sdescOf last.sd).segments ≤ last.segment ∧ (sdescOf last.sd).persist = false
      ∧ xstat (ofCtx 0 (sb last)) (sdescOf last.sd).status = .ok) := by decide +kernel

/-- A line not present at granule 32 of a running segment, the granules before it delivered; an ENDING stream with its
handle home, and one with it out. -/
theorem test_hyps_StreamsHaltAndDisarm :
    let x := { running with segStarted := true, fetched := 1 }
    let b : Blk := { sb x with xlat := [((0x800000100000 + 32 * 64) / 512, .notPresent)] }
    let opened := openSegment 0 false 0 (ofCtx 0 b)
    let a := sideAddr (streamOf opened.1 0) false 0 32
    let r := deliver 0 32 (sdescOf x.sd).segG opened.1
    let y := { running with state := .ending }
    (x.position ≤ 32 ∧ 32 < (sdescOf x.sd).segG ∧ (sdescOf x.sd).hasMem = true ∧ opened.2 = .done ∧ xstat opened.1 a = .notPresent
      ∧ r.2 = .done ∧ xstat (ofCtx 0 (updStream 0 (fun x => { x with state := .halted, code := .faultResumable, faultAddr := a })
          (dropFetched 0 r.1))) (sdescOf x.sd).status = .ok)
    ∧ ((streamOf (sb y) 0).state = .ending ∧ y.home.length = y.reserved ∧ xstat (ofCtx 0 (sb y)) (sdescOf y.sd).status = .ok
      ∧ ({ y with state := .disarmed, home := [], reserved := 0 } : Stream) ≠ {})
    ∧ ({ y with home := [] } : Stream).home.length ≠ y.reserved := by decide +kernel

/-! ### Handles, flags and waits -/

/-- A block with handle 3 in condition `h`, and Shelf queue 0 holding `l`. -/
def hb (h : Handle) (l : List Nat) : Blk := { tb with handles := tabPut {} [] 3 h, shelves := tabPut [] [] 0 l }

theorem test_hyps_HandlesArePushedAndPopped :
    let d := dsc 0x132 0 0 0 0 0 3
    let e := dsc 0x133 0 0 0 0 0 0
    let c := fun b => acceptedCmd b 0 0 d .handlePush
    let k := fun b => acceptedCmd b 0 0 e .handlePop
    let after := fun b => decoded b 0 0 d (c b)
    let lent := hb { cond := .lent 0 } []
    let free31 := hb {} (List.range 31)
    let full := hb {} (List.range 32)
    let waits : Blk := { hb {} [9] with cmds := [cmd .push d], nextId := 1 }
    let pops : Blk := { hb {} [9, 8] with cmds := [cmd .pop e], nextId := 1 }
    (accepts lent 0 0 d .handlePush ∧ (handleOf (after lent) (oxHandle d)).cond = .lent (oxShelf d)
      ∧ canComplete (c lent) (returnHandle 3 (after lent)))
    ∧ (accepts free31 0 0 d .handlePush ∧ pushable (after free31) 3 = true ∧ (handleOf (after free31) 3).cond ≠ .lent 0
      ∧ (shelfOf (after free31) 0).length < 32 ∧ canComplete (c free31) (after free31))
    ∧ (accepts full 0 0 d .handlePush ∧ pushable (after full) 3 = true ∧ (handleOf (after full) 3).cond ≠ .lent 0
      ∧ 32 ≤ (shelfOf (after full) 0).length)
    ∧ (waitsAs .push waits 0 (cmd .push d) ∧ pushable waits 3 = true ∧ (shelfOf waits 0).length < 32 ∧ canComplete (cmd .push d) waits)
    ∧ (accepts (hb {} [9, 8]) 0 0 e .handlePop ∧ shelfOf (decoded (hb {} [9, 8]) 0 0 e (k (hb {} [9, 8]))) 0 = 9 :: [8]
      ∧ canComplete (k (hb {} [9, 8])) (decoded (hb {} [9, 8]) 0 0 e (k (hb {} [9, 8]))))
    ∧ (accepts (hb {} []) 0 0 e .handlePop ∧ shelfOf (decoded (hb {} []) 0 0 e (k (hb {} []))) 0 = [])
    ∧ (waitsAs .pop pops 0 (cmd .pop e) ∧ shelfOf pops 0 = 9 :: [8] ∧ canComplete (cmd .pop e) pops) := by
  simp only [accepts_iff, canComplete_iff, waitsAs_iff]; decide +kernel

theorem test_hyps_DeliveredHandlesGoHome :
    let y := fun (d : Bool) (o : Option Nat) => handleOf (hb { cond := .shelved 0, owner := o, delivered := d } [3]) 3
    ((y false none).cond = .shelved 0 ∧ (y false none).delivered = false)
    ∧ ((y true none).cond = .shelved 0 ∧ (y true none).delivered = true ∧ (y true none).owner = none)
    ∧ ((y true (some 7)).cond = .shelved 0 ∧ (y true (some 7)).delivered = true ∧ (y true (some 7)).owner = some 7) := by decide

/-- The block with a commit under way that disables tenant 0, which holds a Shelf queue and no tile or handle. -/
def leaving (b : Blk) : Blk :=
  { b with vlt := { b.vlt with
      active := [(0, { tRec with tiles := 0, handleCount := 0, ctxSize := 0 })], applying := [(0, {})] } }

set_option maxRecDepth 20000 in
/-- A multicast of 65 granules to tiles 0 and 1: one receiver 64 granules ahead, none ahead, and a stall that ends because the
tenant's partition is disabled while PATIENCE passes. -/
theorem test_hyps_SlowReceiversAreDetached :
    let sd := sdw (2 ^ 21 + 2 ^ 256 + 64 * 2 ^ 496)
    let s := sb { running with sd := sd, segStarted := true, fetched := 1 }
    let b : Blk := { s with dict := { s.dict with patience := 0 } }
    let late := fun b : Blk => passTc (b.dict.patience.toNat + 1) b
    let pos := [(0, 0), (1, 64)]
    let out := slowOnes 0 (streamOf (late b) 0) pos
    let e := deliver 0 out.1 (sdescOf sd).segG (ofCtx 0 (late b))
    let marked := updStream 0 (fun x => { x with
      detached := out.2.foldl (fun m t => setBit m t true) x.detached
      behind := out.2.foldl (fun l t => tabIns t out.1 l) x.behind }) e.1
    let gone := leaving b
    stalledAt 0 (streamOf b 0) [(0, 5), (1, 5)] = false
    ∧ (slowOnes 0 (streamOf b 0) [(0, 5), (1, 5)]).2.length = (attached 0 (streamOf b 0)).length
    ∧ (stalledAt 0 (streamOf gone 0) pos = true ∧ stalledAt 0 (streamOf (late gone) 0) pos = false)
    ∧ (stalledAt 0 (streamOf b 0) pos = true ∧ stalledAt 0 (streamOf (late b) 0) pos = true ∧ e.2 = .done
      ∧ (deliver 0 (out.1 + 64) (sdescOf sd).segG marked).2 = .done) := by decide +kernel

/-- A wait of 64 tc ends within its first tick. -/
theorem test_hyps_WaitsEndWhenTheirWorkIsDone :
    let f := dsc 1 0 0 0 0 0 0
    let r := dsc 0 0 0 0 0 0 2
    let g := dsc 2 0 0 0 0 0 9
    let gg := dsc 2 0 0x200 0 0 0 9
    let w := dsc 3 0 0 0 0 0 (9 + 64 * 2 ^ 32)
    let fb : Blk := { one .fence f with cmds := [cmd .ready moveD, { cmd .fence f with id := 1 }], nextId := 2 }
    let part : Blk := { one .release r with regs := [(1, { part := true })] }
    let wb := one .flagWait w
    let late := fun b : Blk => passTc (0 + oxTimeout w - b.clk.tc) b
    let due : Blk := { wb with clk := { wb.clk with tc := 65 } }
    (waitsAs .fence (one .fence f) 0 (cmd .fence f) ∧ earlierOn (one .fence f) (cmd .fence f) (fenceQueues (cmd .fence f)) = false
      ∧ canComplete (cmd .fence f) (one .fence f))
    ∧ (waitsAs .fence fb 1 { cmd .fence f with id := 1 }
      ∧ earlierOn fb { cmd .fence f with id := 1 } (fenceQueues { cmd .fence f with id := 1 }) = true)
    ∧ (waitsAs .release (one .release r) 0 (cmd .release r)
      ∧ earlierNaming (one .release r) (cmd .release r) (maskedRegs (one .release r) r) = false ∧ slicedOut (one .release r) (cmd .release r) = false
      ∧ (tsetOf r.tset).logD = 0 ∧ opOf r = some .nop ∧ spansGallery (cmd .release r) = false
      ∧ anyPartial (one .release r) (maskedRegs (one .release r) r) = false ∧ canComplete (cmd .release r) (releaseAll (cmd .release r) (one .release r)))
    ∧ (waitsAs .release part 0 (cmd .release r) ∧ earlierNaming part (cmd .release r) (maskedRegs part r) = false
      ∧ slicedOut part (cmd .release r) = false ∧ anyPartial part (maskedRegs part r) = true ∧ canComplete (cmd .release r) part)
    ∧ (waitsAs .flagSet (one .flagSet g) 0 (cmd .flagSet g) ∧ earlierOn (one .flagSet g) (cmd .flagSet g) [0] = false
      ∧ (tsetOf g.tset).logD = 0 ∧ waitsOn (one .flagSet g) 0 (oxFlag g) = [] ∧ canComplete (cmd .flagSet g) (one .flagSet g))
    ∧ (waitsAs .flagSet (galleryBlk (one .flagSet gg)) 0 (cmd .flagSet gg)
      ∧ earlierOn (galleryBlk (one .flagSet gg)) (cmd .flagSet gg) [0] = false
      ∧ (tsetOf gg.tset).logD ≠ 0 ∧ otherDies (galleryBlk (one .flagSet gg)) ≠ [])
    ∧ (waitsAs .flagWait wb 0 (cmd .flagWait w) ∧ oxTimeout w ≠ 0 ∧ waitsAs .flagWait (late wb) 0 (cmd .flagWait w)
      ∧ canComplete { cmd .flagWait w with t0 := (late wb).clk.tc - oxTimeout w } (late wb))
    ∧ (waitsDue due (fun t => decide (t < due.clk.tc)) = [cmd .flagWait w]
      ∧ canComplete { cmd .flagWait w with t0 := due.clk.tc - oxTimeout w } due) := by
  simp only [canComplete_iff, waitsAs_iff]; decide +kernel

/-- A wait that the end of its partition takes away is gone before its limit; another port's MOVE keeps the tile busy. -/
theorem test_hyps_WaitsEndWithTheirPartition :
    let w := dsc 3 0 0 0 0 0 (9 + 64 * 2 ^ 32)
    let b := one .flagWait w
    let gone : Blk := { b with
      cmds := b.cmds ++ [{ cmd .drain moveD with id := 1, port := 1 }], nextId := 2
      vlt := { b.vlt with active := [(0, { tRec with tiles := 1 })], applying := [(0, {})] } }
    waitsAsB .flagWait gone 0 (cmd .flagWait w) = true ∧ oxTimeout w ≠ 0 ∧ cmdOf (passTc (0 + oxTimeout w - gone.clk.tc) gone) 0 = none := by
  decide +kernel

theorem test_hyps_ASetFlagEndsItsWaits :
    let w := dsc 3 0 0 0 0 0 255
    let k := dsc 3 0x100 0 0 0 0 255
    let near := fun b : Blk => broadcast 8 1 255 (landMail 8 1 2 b)
    let wb := galleryBlk (one .flagWait w)
    let kb := galleryBlk (one .flagWait k)
    (isPeer (galleryBlk tb) 1 = true ∧ waitsOn (near (galleryBlk tb)) 4 255 = [])
    ∧ (isPeer wb 1 = true ∧ waitsOn (near wb) 0 255 = [cmd .flagWait w] ∧ isConsume w = false ∧ canComplete (cmd .flagWait w) (near wb))
    ∧ (isPeer kb 1 = true ∧ waitsOn (near kb) 0 255 = [cmd .flagWait k] ∧ isConsume k = true ∧ (cmd .flagWait k).queue < 4
      ∧ canComplete (cmd .flagWait k) (near kb))
    ∧ isPeer tb 1 = false := by
  simp only [canComplete_iff]; decide +kernel

/-- One queue blocked in an untimed wait, no other enabled. -/
theorem test_hyps_DeadlockStopsTheWaitingQueues :
    let w := dsc 3 0 0 0 0 0 9
    let b : Blk := { one .flagWait w with qs := [(0, { tq with state := .blocked, blockedBy := some 0 })] }
    deadlocked b 0 = true
    ∧ (4096 ≤ tabGet 0 ({ b with deadTc := [(0, 4094)] } : Blk).deadTc 0 + 2 ∧ tabGet 0 b.deadTc 0 + 2 < 4096)
    ∧ ((List.range 4).filterMap (fun q => (waitOfQueue b 0 q).map (fun c => (q, c)))).head? = some (0, cmd .flagWait w)
    ∧ deadlocked tb 0 = false := by decide +kernel

/-- An image whose entries are all zero is well formed; one with a VALID modulus of 1 is not; a page denied, a page not present. -/
theorem test_hyps_ModtabLoadTakesEffect :
    let m := dsc 6 0 0 0 0 0 listAt
    let c := cmd .modtab m
    let b := one .modtab m
    let bad := writeBytes (listAt + 7) [0x80] (writeBytes listAt [1] b)
    let image := oxBase m
    let good := fun b : Blk => (List.range 64).all (fun i =>
      entryOk (readLe (ofCtx 0 b) (image + 16 * i) 8) (readLe (ofCtx 0 b) (image + 16 * i + 8) 8))
    let x := fun st : RspStatus => ({ b with xlat := [(listAt / 512, st)] } : Blk)
    let due := fun b : Blk => waitsAsB .modtab b 0 c && !earlierOfTenant b c && noneHeldB b
    (due b = true ∧ imagePage (ofCtx 0 b) image = none ∧ canComplete c b ∧ good b = true)
    ∧ (due bad = true ∧ imagePage (ofCtx 0 bad) image = none ∧ good bad = false ∧ canComplete c bad)
    ∧ (due (x .denied) = true ∧ imagePage (ofCtx 0 (x .denied)) image = some (image, .denied) ∧ canComplete c (x .denied))
    ∧ (due (x .notPresent) = true ∧ imagePage (ofCtx 0 (x .notPresent)) image = some (image, .notPresent)
      ∧ (queueOf (x .notPresent) 0 0).enable = true) := by
  simp only [canComplete_iff]; decide +kernel

/-! ### Rows and units -/

/-- LOAD_ROWS and STORE_ROWS of two rows of one granule. -/
def load2 : Desc := dsc 0x120 0 0 0 (gr 0x800000050000 1 2 64 512 0) (gr 0 1 2 64 64 0) 0
def store2 : Desc := dsc 0x121 0 0 0 (gr 0 1 2 64 64 0) (gr 0x800000050000 1 2 64 512 0) 0

/-- The second row of a load, its page answering in every way, and the last row to commit or not; a STORE of a PARTIAL register. -/
theorem test_hyps_RowsCommitAsTheirPagesCome :
    let b := one .rows load2
    let c := cmd .rows load2
    let last := { c with rowMask := 1 }
    let seen := { c with started := true, unit := 2, issued := 2 }
    let a := 0x800000050200
    let x := fun st : RspStatus => ({ b with xlat := [(a / 512, st)] } : Blk)
    let src := rowAddrs (rowSrc load2) 1
    let dst := rowAddrs (rowDst load2) 1
    let begun := fun b : Blk => emptyLatches ((usedTiles (ofCtx 0 b) c).filterMap (physOf (ofCtx 0 b))) (ofCtx 0 b)
    let pages := fun b : Blk => pageOutcome (refused (ofCtx 0 b) (src ++ dst))
    let done := fun c : Cmd => { c with started := true, unit := 2, issued := 2, rowMask := setBit c.rowMask 1 true }
    let moved := fun b : Blk =>
      let copied := (dst.zip (src.map (readGranule (begun b)))).foldl (fun x y => writeBytes y.1 (leBytes 64 y.2.toNat) x) (begun b)
      let lines := touchLines 0 dst true (touchLines 0 src false copied)
      let kept := updCmd 0 (fun _ => done last) (countMoved 0 src.length (readLatches (readKeys lines src) lines))
      markWrites (absRegTags kept (rowDst load2)) (flagKey load2) kept
    let e : Blk := { b with cmds := [last] }
    let part : Blk := { one .rows store2 with regs := [(0, { part := true })] }
    (rowDue b 0 1 c ∧ rowStart (ofCtx 0 b) c = none ∧ pages b = none ∧ firstBad (ofCtx 0 b) (readKeys (ofCtx 0 b) src) = none
      ∧ (List.range (rowCount load2)).all (bitAt (done c).rowMask) = false)
    ∧ (rowDue e 0 1 last ∧ rowStart (ofCtx 0 e) last = none ∧ pages e = none
      ∧ (List.range (rowCount load2)).all (bitAt (done last).rowMask) = true ∧ last.faultAddr = none ∧ last.denied = false
      ∧ wasHalted (moved e) last = false ∧ canComplete (done last) (moved e))
    ∧ (rowDue (x .notPresent) 0 1 c ∧ pages (x .notPresent) = some (a, .faultResumable))
    ∧ (rowDue (x .denied) 0 1 c ∧ pages (x .denied) = some (a, .notOwner))
    ∧ (rowDue (x .error) 0 1 c ∧ pages (x .error) = some (a, .parity)
      ∧ (let k := parityRecord (some c) 7 a 0 1 (allReplays (begun (x .error)))
         wasHalted k c = false ∧ canComplete seen k))
    ∧ (rowDue part 0 0 (cmd .rows store2) ∧ rowStart (ofCtx 0 part) (cmd .rows store2) = some .partialRead
      ∧ wasHalted (ofCtx 0 part) (cmd .rows store2) = false ∧ canComplete (cmd .rows store2) (ofCtx 0 part)) := by
  simp only [canComplete_iff, rowDue_iff]; decide +kernel

/-- MOVE in grid mode, of two blocks in two units. -/
def gridD : Desc :=
  dsc 0x112 0x100 0 0 (listAt + 0x10000 + 2 * 2 ^ 64 + 2 ^ 96 + 2 ^ 128) (2 * 2 ^ 64 + 2 ^ 96 + 2 ^ 128) (listAt + 0x8000 + 17 * 2 ^ 48)

theorem test_hyps_StoppedRowsHaltOrAreDenied :
    let c := cmd .rows load2
    let f := { c with faultAddr := some 0x800000050200, issued := 2, rowMask := 1, back := 2 }
    let i := { c with interrupt := 2, issued := 1, rowMask := 1 }
    let n := { c with denied := true, issued := 1, back := 1 }
    let out := { c with issued := 2, rowMask := 1 }
    let b := fun c : Cmd => ({ tb with cmds := [c], nextId := 1 } : Blk)
    let g := cmd .ready gridD
    let m := cmd .ready moveD
    let v := { c with port := 5 }
    (waitsAs .rows (b f) 0 f ∧ rowsQuiet f = true ∧ f.denied = false ∧ f.faultAddr ≠ none ∧ canHalt f (b f))
    ∧ (waitsAs .rows (b i) 0 i ∧ rowsQuiet i = true ∧ i.denied = false ∧ i.faultAddr = none ∧ 2 ≤ i.interrupt ∧ canHalt i (b i))
    ∧ (waitsAs .rows (b n) 0 n ∧ rowsQuiet n = true ∧ n.denied = true ∧ canComplete n (b n))
    ∧ (cmdOf (b out) 0 = some out ∧ rowsQuiet out = false)
    ∧ (waitsAs .rows (b c) 0 c ∧ isRowCmd load2 = true ∧ c.port ≠ 5)
    ∧ (waitsAs .ready (b g) 0 g ∧ multiUnit gridD = true ∧ g.home = none ∧ g.fetched = true ∧ g.port ≠ 5 ∧ g.stepSent = false
      ∧ g.step = 0 ∧ g.reports = [] ∧ (b g).gal.xreq = [] ∧ canHalt g (b g))
    ∧ (cmdOf (b m) 0 = some m ∧ isRowCmd moveD = false ∧ multiUnit moveD = false)
    ∧ (cmdOf (b v) 0 = some v ∧ v.port = 5) := by
  simp only [canComplete_iff, canHalt_iff, waitsAs_iff]; decide +kernel

theorem test_hyps_ClearedAccumulatorsReadZero :
    let d := dsc 0x107 0 0x100 0 0 0 0
    passesDue (one .ready d) 0 (cmd .ready d) .accClear ∧ (tsetOf d.tset).logD = 0 ∧ canComplete (cmd .ready d) (one .ready d)
      ∧ 15 ∈ setPhys (one .ready d) d := by
  simp only [canComplete_iff, passesDue_iff]; decide +kernel

/-- ACC_DRAIN of one granule: alone; as twins whose ACC granules agree; as twins whose ACC granules differ. PERM_GEN of
two members, its first unit (with LOGN 6, below what a descriptor may ask, so that the check stays short). -/
theorem test_hyps_TileSetUnitsCommitOrFailWhole :
    let d1 := dsc 0x106 0 0 0 0 (gr 0x40000 1 1 64 0 0) 1
    let d2 := dsc 0x106 9 0x40 0 0 (gr 0x40000 1 1 64 0 0) 1
    let d3 := dsc 0x100 0 0 (plane 6 1) (reg64 0) (reg64 1) (listAt + 0x1000 + 2 * 2 ^ 48 + 0x1000 * 2 ^ 64)
    let differ := writeBytes (frameKey 1 24 0) [1] (one .ready d2)
    let now := fun c : Cmd => { c with started := true }
    let ready := fun (b : Blk) (c : Cmd) => updCmd c.id (fun _ => now c) (emptyLatches (setPhys (ofCtx 0 b) c.desc) (ofCtx 0 b))
    let outs := fun (b : Blk) (op : Op) (c : Cmd) => (copiesOf c.desc).map (setCopy (ready b c) op (now c) cleanRun)
    let keys := fun (b : Blk) (op : Op) (c : Cmd) => (outs b op c).flatMap (fun o => o.reads.map (·.2))
    let read := fun (b : Blk) (op : Op) (c : Cmd) => readLatches (keys b op c) (ready b c)
    let checked := fun (b : Blk) (op : Op) (c : Cmd) => checkSet op (now c) (outs b op c) (read b op c)
    let due := fun (b : Blk) (op : Op) (c : Cmd) =>
      passesDueB b 0 c op && isSetCmd op && decide (op ≠ .accClear) && decide ((tsetOf c.desc.tset).logD = 0)
      && decide (c.interrupt = 0) && decide (passStart (ofCtx 0 b) op c = none) && decide (sectionOutcome (ofCtx 0 b) op (now c) = none)
      && !tableFails (read b op c) op (now c) && decide (firstBad (read b op c) (keys b op c) = none)
    let put := fun (b : Blk) (op : Op) (c : Cmd) =>
      let landed := (outs b op c).zipIdx.foldl (fun x o =>
        countMoved c.port o.1.landed.length (fillBanks c.desc o.2 o.1.landed x)) (read b op c)
      commitSet op (now c) (keyClass landed op (now c)) landed
    let p := { cmd .ready d3 with entries := [1, 3] }
    let gen : Blk := { tb with cmds := [p], nextId := 1 }
    (due (one .ready d1) .accDrain (cmd .ready d1) = true ∧ (checked (one .ready d1) .accDrain (cmd .ready d1)).2 = none
      ∧ unitsOf d1 ≤ 1 ∧ canComplete (now (cmd .ready d1)) (put (one .ready d1) .accDrain (cmd .ready d1)))
    ∧ (due (one .ready d2) .accDrain (cmd .ready d2) = true ∧ (checked (one .ready d2) .accDrain (cmd .ready d2)).2 = none)
    ∧ (due differ .accDrain (cmd .ready d2) = true ∧ (checked differ .accDrain (cmd .ready d2)).2 = some .twinMismatch
      ∧ canComplete (now (cmd .ready d2)) (checked differ .accDrain (cmd .ready d2)).1)
    ∧ (due gen .permGen p = true ∧ (checked gen .permGen p).2 = none ∧ p.unit + 1 < unitsOf d3) := by
  simp only [canComplete_iff]; decide +kernel

/-- MOVE of one granule: alone, as twins that agree, as twins that differ, its page absent, its page denied; the first of two
units of a GRID of 17 entries, the first 16 with SKIP. -/
theorem test_hyps_BlockUnitsCommitOrFailWhole :
    let d1 := dsc 0x112 0 0 0x100 (gr 0 1 1 64 0 0) (gr 0x40000 1 1 64 0 0) 0
    let d2 := dsc 0x112 9 0 0x100 (gr 0 1 1 64 0 0) (gr 0x40000 1 1 64 0 0) 0
    let d3 := dsc 0x112 0 0 0x100 (gr 0x800000050000 1 1 64 0 0) (gr 0x40000 1 1 64 0 0) 0
    let differ := writeBytes (frameKey 1 0 0) [1] (one .ready d2)
    let now := fun c : Cmd => { c with started := true, farKey := false }
    let ready := fun (b : Blk) (c : Cmd) =>
      emptyLatches ((usedTiles (ofCtx 0 b) c).filterMap (physOf (ofCtx 0 b))) (updCmd c.id (fun _ => now c) (ofCtx 0 b))
    let items := fun (op : Op) (c : Cmd) => unitItems op (now c)
    let reads := fun (op : Op) (c : Cmd) => (copiesOf c.desc).flatMap (fun k => (items op c).flatMap (itemReads k))
    let pages := fun (b : Blk) (op : Op) (c : Cmd) => pageOutcome (refused (ofCtx 0 b) (reads op c ++ (items op c).map (·.dst)))
    let outs := fun (b : Blk) (op : Op) (c : Cmd) => (copiesOf c.desc).map (itemCopy (ready b c) op (now c) cleanRun)
    let keys := fun (b : Blk) (op : Op) (c : Cmd) => (outs b op c).flatMap (fun o => o.reads.map (·.2))
    let staged := fun (b : Blk) (op : Op) (c : Cmd) =>
      (outs b op c).zipIdx.foldl (fun x o => stageBlocks op (now c) o.2 o.1 x)
        (readLatches (keys b op c) (touchLines c.port (reads op c) false (ready b c)))
    let checked := fun (b : Blk) (op : Op) (c : Cmd) => checkItems op (now c) (outs b op c) (staged b op c)
    let due := fun (b : Blk) (op : Op) (c : Cmd) =>
      passesDueB b 0 c op && isCatalogue op && !isSetCmd op && decide (passStart (ofCtx 0 b) op c = none)
      && decide (probes (ofCtx 0 b) op c = []) && b.gal.remote.isEmpty && b.gal.remoteRegs.isEmpty && b.gal.remoteBad.isEmpty
    let here := fun (b : Blk) (op : Op) (c : Cmd) =>
      decide (pages b op c = none)
      && (reads op c ++ (items op c).flatMap (fun i => [i.dst, twinAddr 1 i.dst])).all (fun a => !isRemote (ofCtx 0 b) a)
      && b.gal.xreq.isEmpty && c.interrupt == 0 && !tableFails (staged b op c) op (now c)
      && decide (firstBad (staged b op c) (keys b op c) = none)
    let put := fun (b : Blk) (op : Op) (c : Cmd) =>
      let written := (outs b op c).zipIdx.foldl (fun x o =>
        countMoved c.port o.1.landed.length
          (writeItems op (now c) ((now c).farKey || keyClass (staged b op c) op (now c)) (items op c) o.2 o.1 x)) (staged b op c)
      touchLines c.port ((items op c).map (·.dst)) true
        (markWrites (itemTags written op (now c)) ((now c).farKey || keyClass (staged b op c) op (now c)) written)
    let c := fun d : Desc => cmd .ready d
    let x := fun st : RspStatus => ({ one .ready d3 with xlat := [(0x800000050000 / 512, st)] } : Blk)
    let g := { cmd .ready gridD with blocks := (List.range 16).map (fun _ => none) ++ [some (listAt + 0x10000, 0)] }
    let gb : Blk := { tb with cmds := [g], nextId := 1 }
    (due (one .ready d1) .move (c d1) = true ∧ here (one .ready d1) .move (c d1) = true ∧ (checked (one .ready d1) .move (c d1)).2 = none
      ∧ unitsOf d1 ≤ 1 ∧ canComplete (now (c d1)) (put (one .ready d1) .move (c d1)))
    ∧ (due differ .move (c d2) = true ∧ here differ .move (c d2) = true ∧ (checked differ .move (c d2)).2 = some .twinMismatch
      ∧ canComplete (now (c d2)) (checked differ .move (c d2)).1)
    ∧ (due (x .notPresent) .move (c d3) = true ∧ pages (x .notPresent) .move (c d3) = some (0x800000050000, .faultResumable)
      ∧ canHalt (c d3) (x .notPresent))
    ∧ (due (x .denied) .move (c d3) = true ∧ pages (x .denied) .move (c d3) = some (0x800000050000, .notOwner)
      ∧ canComplete (now (c d3)) (ready (x .denied) (c d3)))
    ∧ (due gb .move g = true ∧ here gb .move g = true ∧ (checked gb .move g).2 = none ∧ g.unit + 1 < unitsOf gridD) := by
  simp only [canComplete_iff, canHalt_iff]; decide +kernel

/-! ### Queue registers -/

/-- A ring of 16: a distance of 17 is refused, of 16 taken; a queue DISABLED, STOPPED and RUNNING. -/
theorem test_hyps_PointerWritesBeyondTheRingAreRefused :
    let far : BitVec 32 := 17
    let last : BitVec 32 := 16
    let b := fun st : QState => ({ tb with qs := [(0, { tq with state := st, cqTail := 17 })] } : Blk)
    let r := fun st => queueOf (b st) 0 0
    queueExists 0 0 = true
    ∧ (2 ^ (r .disabled).logEntries.toNat < (far - (r .disabled).sqHead).toNat ∧ (r .disabled).state = .disabled)
    ∧ (2 ^ (r .stopped).logEntries.toNat < (far - (r .stopped).sqHead).toNat ∧ (r .stopped).state ≠ .disabled)
    ∧ (last - (r .running).sqHead).toNat ≤ 2 ^ (r .running).logEntries.toNat
    ∧ 2 ^ (r .running).logEntries.toNat < ((r .running).cqTail - 0).toNat
    ∧ ((r .running).cqTail - 1).toNat ≤ 2 ^ (r .running).logEntries.toNat := by decide

/-- LOG_ENTRIES 4 and 15 enable a queue, 3 does not; a queue with nothing in flight, one with a command, and a halted one. -/
theorem test_hyps_QueuesAreEnabledUnderTheirConditions :
    let r : Queue := { tq with enable := false, state := .disabled, sqTail := 0 }
    let lies := fun v : BitVec 64 => v.toNat % 4096 = 0 ∧ regionOf v.toNat = some (if (0 : Nat) = 5 then Region.control else .external)
    let b : Blk := { tb with qs := [(0, r)] }
    let busy := one .ready moveD
    let h := haltedBlk 1 moveD
    let off := { queueOf h 0 0 with enable := false, pendingStop := none, restart := (queueOf h 0 0).restart, state := .stopped }
    let e : Blk := { h with qs := tabPut {} h.qs (qKey 0 0) off }
    (bitAt (0x104 : BitVec 32) 8 = true ∧ (queueOf tb 0 0).enable = true)
    ∧ ((queueOf b 0 0).enable = false ∧ portEnabled b 0 = true ∧ r.state = .disabled ∧ lies r.ringBase ∧ lies r.cplBase
      ∧ r.restartArea.toNat % 64 = 0 ∧ 4 ≤ (BitVec.ofNat 5 (0x104 % 32)).toNat ∧ (BitVec.ofNat 5 (0x10F % 32)).toNat ≤ 15
      ∧ ¬ 4 ≤ (BitVec.ofNat 5 (0x103 % 32)).toNat)
    ∧ (bitAt (4 : BitVec 32) 8 = false ∧ (queueOf b 0 0).enable = false)
    ∧ ((queueOf tb 0 0).enable = true ∧ (queueOf tb 0 0).restart = none ∧ (queueOf tb 0 0).state ≠ .halted
      ∧ (queueOf tb 0 0).state ≠ .disabled ∧ (queueOf tb 0 0).logEntries ≠ 0 ∧ inFlight tb 0 0 = [] ∧ (queueOf tb 0 0).cplWait = [])
    ∧ inFlight busy 0 0 ≠ []
    ∧ ((queueOf h 0 0).enable = true ∧ (queueOf h 0 0).state = .halted ∧ haltedOf h 0 0 = some (cmd .halted moveD)
      ∧ noneHeld h ∧ canComplete (cmd .halted moveD) h)
    ∧ canComplete (cmd .halted moveD) (clearPartial (cmd .halted moveD) e) := by
  simp only [canComplete_iff, noneHeld_iff]; decide +kernel

theorem test_hyps_StartAndStopMoveTheQueue :
    let k : Cpl := ⟨7, .ok, 0, 0, 0, none⟩
    let q := fun (st : QState) (w : List Cpl) => ({ one .ready moveD with qs := [(0, { tq with state := st, cplWait := w, cause := 4 })] } : Blk)
    let r := fun st w => queueOf (q st w) 0 0
    (bitAt (2 : BitVec 32) 1 = true ∧ bitAt (2 : BitVec 32) 0 = false ∧ bitAt (1 : BitVec 32) 0 = true ∧ bitAt (1 : BitVec 32) 1 = false)
    ∧ (r .running []).state = .running ∧ (r .blocked []).state = .blocked ∧ (r .halted []).state = .halted ∧ (r .disabled []).state = .disabled
    ∧ ((r .stopped []).state = .stopped ∧ (r .stopped []).restart = none ∧ (r .stopped []).enable = true ∧ (r .stopped []).cplWait = [])
    ∧ ((r .stopped [k]).cplWait = [k] ∧ xstat (q .stopped [k]) (cplAddr (r .stopped [k]) (r .stopped [k]).cqTail) = .ok
      ∧ inFlight (q .stopped [k]) 0 0 ≠ []) := by decide +kernel

theorem test_hyps_RegisterWritesTakeEffectWhileDisabled :
    (queueExists 4 3 = true ∧ (queueOf tb 4 3).state = .disabled ∧ 0xC0 / 0x40 = 3 ∧ 0xC0 % 0x40 = 0 ∧ 0xC8 % 0x40 = 8 ∧ 0xD0 % 0x40 = 16)
    ∧ (0xFF < 0x100 ∧ 0xFF % 0x40 ∉ [0x00, 0x08, 0x10]) ∧ (queueOf tb 0 0).state ≠ .disabled
    ∧ queueExists 6 0 = false := by decide

/-! ### The bus matrix -/

/-- A segment of 64 bytes of a master at an address, under P0's tag. -/
def seg (m : Master) (a : Nat) : BusReq :=
  { master := m, tag := 0, ctx := 0, write := false, addr := a, bytes := 64, off := 0, home := 0, home2 := 0, stream := none
    last := true, room := 8, cmdOp := none, data := 0, badSectors := 0, badBeats := 0 }

/-- No path; held back behind a request for the same bytes; waiting where the port is parked on another; granted at once at a
tile store, at the Pantry's first port and at a Cellar bank; a core's request through its address map, and a segment of two
lines. -/
theorem test_hyps_RequestsAreGrantedHeldOrRefused :
    let ok := fun (b : Blk) (r : BusReq) =>
      segmentOk r && !b.pwr.inReset && masterPresent b r.master && streamMay b r && decide (coreReq b r = some r) && decide (lineParts r = [r])
    let now := fun (b : Blk) (k : Nat) (r : BusReq) => parkedFor b k b.clk.mc r.master && (decide (32 ≤ k) || canPay b r)
    let r := seg (.fe 0) 0
    let full : Blk := { tb with bus := { tb.bus with held := [(r, 0)] } }
    let other := seg (.fe 1) 0
    let sys := { seg (.fe 0) 0x800000000000 with tag := 5 }
    let wide := { seg (.fe 0) 0x800000000180 with bytes := 256 }
    (ok tb (seg (.fe 0) 0x4000000000) = true ∧ targetOf tb (seg (.fe 0) 0x4000000000) = none)
    ∧ (ok full r = true ∧ targetOf full r = some 48 ∧ heldBack full 48 r = true)
    ∧ (ok tb other = true ∧ targetOf tb other = some 48 ∧ heldBack tb 48 other = false ∧ now tb 48 other = false)
    ∧ (ok tb r = true ∧ targetOf tb r = some 48 ∧ heldBack tb 48 r = false ∧ now tb 48 r = true ∧ r.badBeats = 0)
    ∧ (ok tb (seg (.fe 0) 0x1000000000) = true ∧ targetOf tb (seg (.fe 0) 0x1000000000) = some 65
      ∧ heldBack tb 65 (seg (.fe 0) 0x1000000000) = false ∧ now tb 65 (seg (.fe 0) 0x1000000000) = true)
    ∧ (ok tb sys = true ∧ targetOf tb sys = some 0 ∧ heldBack tb 0 sys = false ∧ now tb 0 sys = true)
    ∧ (segmentOk (seg (.cc 0) 0x1000) = true ∧ masterPresent tb (.cc 0) = true ∧ (coreReq tb (seg (.cc 0) 0x1000)).isSome = true)
    ∧ (segmentOk wide = true ∧ coreReq tb wide = some wide ∧ (lineParts wide).length = 2) := by decide +kernel

/-- Line 2^38, the first of external memory: asked for by nobody; by a request in flight, discarded, refused, asked for again,
or answered; written by another agent. -/
theorem test_hyps_MemoryAnswersForItsLines :
    let line := 0x4000000000
    let b := fun f : Flight => ({ tb with bus := { tb.bus with flight := [f] } } : Blk)
    let f := fun (k : Transfer) (d : Bool) (t : Nat) =>
      ({ req := seg (.fe 0) 0x800000000000, kind := k, entry := true, sent := true, discard := d, tries := t } : Flight)
    let found := fun b : Blk => b.bus.flight.find? (fun f => f.sent && f.req.home == 0 && reqCtx f.req == 0 && lineOf f.req.addr == line)
    let limit := tb.dict.replayLimit.toNat
    regionOf (line * 512) = some .external ∧ tb.pwr.inReset = false ∧ found tb = none
    ∧ (found (b (f .refill false 0)) = some (f .refill false 0) ∧ 0 < limit)
    ∧ (found (b (f .through true limit)) = some (f .through true limit) ∧ limit ≤ (f .through true limit).tries)
    ∧ found (b (f .through false 0)) = some (f .through false 0)
    ∧ answeredBy (b (f .refill false 0)) (f .refill false 0) = [f .refill false 0]
    ∧ (f .refill false 0).req.write = false
    ∧ (b (f .refill false 0)).bus.cellar.any (fun l => l.addr == line && l.tag == 0 && l.dirty) = false
    ∧ (List.replicate 512 (0 : Byte)).length = 512 := by decide +kernel

/-- A core and a fetch engine with nothing in progress; a fetch engine with one row command of its quad, which starves, and
one with a request held back, which does not; the eighteenth engine, which is none. -/
theorem test_hyps_AResetMasterLosesItsRequests :
    let b := one .rows load2
    let held : Blk := { tb with bus := { tb.bus with held := [(seg (.fe 3) 0, 0)] } }
    let ofFe := fun (b : Blk) (n : Nat) => b.cmds.filter (fun c => usesMatrix c && ofQuad b n c)
    let starved := fun (b : Blk) (n : Nat) =>
      decide (engineTraffic (pass 25000 b) n = engineTraffic b n) && engineWaits (pass 25000 b) n
    (tb.bus.ports = [] ∧ resetAlone (.cc 0) = true ∧ masterPresent tb (.cc 0) = true)
    ∧ (masterPresent tb (.fe 1) = true ∧ ofFe tb 1 = [])
    ∧ (ofFe b 0 = [cmd .rows load2] ∧ spansGallery (cmd .rows load2) = false ∧ writing (cmd .rows load2) = true
      ∧ canComplete (cmd .rows load2) (inCtx 0 (undefine (cutAddrs b (cmd .rows load2))) b))
    ∧ (b.vlt.alive = true ∧ b.pwr.inReset = false ∧ masterPresent b (.fe 0) = true ∧ engineWaits b 0 = true ∧ starved b 0 = true)
    ∧ (held.vlt.alive = true ∧ engineWaits held 3 = true ∧ starved held 3 = false)
    ∧ (masterPresent tb (.fe 17) = false ∧ engineWaits tb 1 = false) := by
  simp only [canComplete_iff]; decide +kernel

/-- A core's own window and another's; a frame of spare tile 64, with good and bad parity, and one of the tenant's tile 0. -/
theorem test_hyps_WindowsAndFragmentsAnswerTheirMasters :
    let a := frameKey 64 0 0
    let k := frameKey (fragLoc (a / 64 * 64)).1 (fragLoc (a / 64 * 64)).2.1 (fragLoc (a / 64 * 64)).2.2
    (3 < 4 ∧ Master.cc 3 = .cc 3) ∧ Master.cc 2 ≠ .cc 3
    ∧ fragOk tb (.fe 0) a = false ∧ fragOk tb .vault (frameKey 0 0 0) = false
    ∧ (fragOk tb .vault a = true ∧ badAt tb k = false ∧ badAt { tb with bad := [k] } k = true) := by decide +kernel

/-! ### The Gallery -/

/-- A TRANSPOSE of 128 granules over two dies. -/
def wideD : Desc := dsc 0x102 0 0x200 (plane 7 0) (reg64 0) (reg64 1) 3

/-- Two dies, and the command of `wideD` in a state, with reports and acknowledgements awaited. -/
def gb (st : CmdState) (home : Option (Nat × Nat)) (reports : List ReportBody) (acks : List Nat) : Blk :=
  galleryBlk { tb with cmds := [{ cmd st wideD with home := home, reports := reports, acks := acks }], nextId := 1 }

/-- What a die tells the home die 0 of its command 0. -/
def rep (die : Nat) (kind : ReportKind) (e : Option (Nat × Nat)) : ReportBody :=
  { home := 0, cmd := 0, die := die, kind := kind, error := e, ins := [(0, 0)], outs := [(0, 0)] }

/-- A PERM_GEN of two units over two dies. -/
def manyD : Desc := dsc 0x100 0 0x300 (plane 11 1) (reg64 0) (reg64 1) (listAt + 2 * 2 ^ 48 + 0x1000 * 2 ^ 64)

theorem test_hyps_ForwardedCommandsRunTheirShare :
    let b := galleryBlk { tb with fab := { tb.fab with lat := { tb.fab.lat with shape := 3 } } }
    let far := broadcast 4 1 9 b
    let c := fun (d : Desc) => ({
      id := far.nextId, port := 0, queue := 0, desc := localDesc far 1 d, count := 0, t0 := far.clk.tc, mc := far.clk.mc
      st := .ready, home := some (1, 9) } : Cmd)
    let e := fun d => landMail 4 1 9 { far with nextId := far.nextId + 1, cmds := far.cmds ++ [c d] }
    let errs := fun d => decodeErrs (ofCtx 0 (e d)) 0 0 .transpose { (c d).desc with flags := setBit (c d).desc.flags 4 false }
      ++ tableErrs (e d) 0 .transpose (c d).desc
    let bad := dsc 0x102 0 0x200 (plane 7 0) (reg64 0) (reg64 1) 8
    let taken := fun d => opOf d = some .transpose ∧ hasTset .transpose d = true ∧ (tsetOf d.tset).logD ≠ 0
      ∧ (isModular .transpose (c d).desc && loadAhead (e d) (c d)) = false
    let k := { cmd .gallery wideD with home := some (1, 9), reports := [rep 0 .result none] }
    let f := gb .gallery (some (1, 9)) [rep 0 .result none] []
    let g := { cmd .gallery manyD with home := some (1, 9), reports := [rep 0 .result none] }
    let n := gb .ready (some (1, 9)) [] []
    let w := { rep 1 .withdraw (some (3, 0x50)) with home := 1, cmd := 9 }
    (isPeer b 1 = true ∧ b.pwr.inReset = false ∧ b.gal.reforming = false
      ∧ ({ b with gal := { b.gal with reforming := true } } : Blk).gal.reforming = true)
    ∧ (taken wideD ∧ errs wideD = [] ∧ firstIn fetchOrder (fetchCheck (ofCtx 0 (e wideD)) 0 .transpose (c wideD).desc [] none).errs = none)
    ∧ (taken bad ∧ firstIn decodeOrder (errs bad) = some .shape)
    ∧ (forwardedOf f 1 9 = some k ∧ opOf k.desc = some .transpose ∧ reportedOk k = true ∧ unitsOf k.desc ≤ k.unit + 1)
    ∧ (forwardedOf { f with cmds := [g] } 1 9 = some g ∧ reportedOk g = true ∧ opOf g.desc = some .permGen ∧ g.unit + 1 < unitsOf g.desc)
    ∧ (forwardedOf n 1 9 = some { cmd .ready wideD with home := some (1, 9) } ∧ reportedOk { cmd .ready wideD with home := some (1, 9) } = false)
    ∧ (isPeer n w.home = true ∧ forwardedOf n w.home w.cmd = some { cmd .ready wideD with home := some (1, 9) })
    ∧ (isPeer n 1 = true ∧ 1 ≠ dieOf n ∧ ReportKind.result ∉ [ReportKind.withdraw, .replay, .vault]) := by decide +kernel

theorem test_hyps_TheHomeDieDecidesForTheGallery :
    let b := fun mine => gb .gallery none mine []
    let c := fun mine => { cmd .gallery wideD with reports := mine }
    let got := fun mine (r : ReportBody) => { c mine with reports := putReport r mine }
    let in_ := fun mine (r : ReportBody) => updCmd 0 (fun x => { x with reports := putReport r x.reports }) (landMail 5 1 0 (b mine))
    let ended := fun mine r e => dropBulk (setTiles wideD) (broadcast 5 (dieOf (in_ mine r)) 0 e)
    let ok := [rep 0 .result none]
    let good := rep 1 .result none
    let bad := rep 1 .stopped (some (3, 0x40))
    let again := rep 1 .retry (some (3, 0x40))
    let diff := { good with ins := [(1, 0)] }
    let all := fun r => allReported (in_ ok r) (got ok r)
    let hear := fun mine (r : ReportBody) => decide (cmdOf (b mine) 0 = some (c mine)) && (c mine).home.isNone
      && decide (opOf wideD = some .transpose) && spansGallery (c mine) && isPeer (b mine) 1 && r.home == dieOf (b mine)
      && !mine.any (fun x => x.die == 1 && (x.kind != .begun || r.kind == .begun))
    let dis := fun r => galleryDis (in_ ok r) .transpose (got ok r) (got ok r).reports
    let told := tallyRecord (got ok diff) [] (maskOf ((dis diff).filter (fun x => decide (x < 64)))) false none 0 (in_ ok diff)
    let d := fun (x : Cmd) => ({ galleryBlk tb with cmds := [x], nextId := 1 } : Blk)
    let k := fun acks => { cmd .drain wideD with acks := acks }
    let fs := { cmd .drain (dsc 2 0 0x200 0 0 0 9) with acks := [1] }
    let pg := { cmd .drain manyD with acks := [1] }
    (hear [] good = true ∧ allReported (in_ [] good) (got [] good) = false)
    ∧ (hear ok bad = true ∧ all bad = true ∧ chooseCode (got ok bad).reports = some .parity ∧ Code.parity ∉ [Code.faultResumable, .zeroised]
      ∧ canComplete (got ok bad) (ended ok bad (in_ ok bad)))
    ∧ (hear ok again = true ∧ all again = true ∧ chooseCode (got ok again).reports = some .parity
      ∧ (got ok again).reports.any (fun r => r.kind == .result && r.error.map (·.2) == some (codeVal .parity) || r.kind == .stopped) = false)
    ∧ (hear ok diff = true ∧ all diff = true ∧ chooseCode (got ok diff).reports = none ∧ dis diff ≠ [] ∧ canComplete (got ok diff) (ended ok diff told))
    ∧ (hear ok good = true ∧ all good = true ∧ chooseCode (got ok good).reports = none ∧ dis good = [] ∧ otherDies (b ok) ≠ [])
    ∧ (waitsAs .drain (d (k [1, 2])) 0 (k [1, 2]) ∧ [1, 2].contains 1 = true ∧ [1, 2].filter (· != 1) ≠ [])
    ∧ (waitsAs .drain (d (k [1])) 0 (k [1]) ∧ [1].filter (· != 1) = [] ∧ opOf wideD ≠ some .flagSet ∧ unitsOf wideD ≤ 1
      ∧ canComplete { k [1] with acks := [] } (d (k [1])))
    ∧ (waitsAs .drain (d fs) 0 fs ∧ opOf fs.desc = some .flagSet ∧ canComplete { fs with acks := [] } (d fs))
    ∧ (waitsAs .drain (d pg) 0 pg ∧ pg.unit + 1 < unitsOf pg.desc ∧ pg.interrupt = 0)
    ∧ isPeer (d pg) 1 = true ∧ 1 ≠ dieOf (d pg) := by
  simp only [canComplete_iff, waitsAs_iff]; decide +kernel

/-- A request on an ACTIVE port for register 0 of tile 0, one from a POISON flit, and one while the Gallery re-forms;
outstanding reads and writes of a command. -/
theorem test_hyps_CrossDieAccessesAreAnswered :
    let h := fun (op len : Nat) => (⟨op, true, false, 0, len, 5, 1, 0⟩ : MsgHeader)
    let b : Blk := { galleryBlk tb with link := [(0, { state := .active })] }
    let off : Blk := { b with gal := { b.gal with reforming := true } }
    let x := fun w => ({ cmd := some 0, port := 0, addr := 0x100000000, write := w } : XReq)
    let c := cmd .drain moveD
    let q := fun w => ({ b with cmds := [c], gal := { b.gal with xreq := [(5, x w)] } } : Blk)
    let two : Blk := { q true with gal := { (q true).gal with xreq := [(5, x true), (6, x true)] } }
    let taken := fun b : Blk => ({ b with gal := { b.gal with xreq := tabDel 5 b.gal.xreq } } : Blk)
    (headerTaken b 0 0 (h 0 64) = true ∧ turnsAway b 0 (h 0 64) = false ∧ headerTaken off 0 0 (h 0 64) = true ∧ turnsAway off 0 (h 0 64) = true)
    ∧ (headerTaken b 0 1 (h 1 64) = true ∧ turnsAway b 0 (h 1 64) = false ∧ headerTaken off 0 1 (h 1 64) = true ∧ turnsAway off 0 (h 1 64) = true)
    ∧ (tabFind (q false).gal.xreq 5 = some (x false) ∧ (x false).discard = false ∧ cmdOf (q false) 0 = some c ∧ c.st ≠ .halted
      ∧ headerTaken (q false) 0 2 (h 2 64) = true)
    ∧ (tabFind two.gal.xreq 5 = some (x true) ∧ headerTaken two 0 3 (h 3 0) = true ∧ writesOut (taken two) 0 = true)
    ∧ (tabFind (q true).gal.xreq 5 = some (x true) ∧ headerTaken (q true) 0 3 (h 3 0) = true ∧ writesOut (taken (q true)) 0 = false
      ∧ c.st = .drain ∧ unitsOf moveD ≤ 1 ∧ canComplete c (q true))
    ∧ tabFind b.gal.xreq 5 = none := by
  simp only [canComplete_iff]; decide +kernel

/-! ### Links -/

/-- The block with link port 0 as given. -/
def pb (x : LinkPort) : Blk := { tb with link := tabPut {} [] 0 x }

/-- An ACTIVE port with eight lanes. -/
def act : LinkPort := { state := .active, active := 0xFF }

/-- All eight lanes in one training state. -/
def lanesIn (l : LaneState) : Tab LaneState := (List.range 8).map (fun i => (i, l))

/-- A flit with a number, a class, its CRC and its POISON mark. -/
def flit (seq cls : Nat) (crc poison : Bool) : Flit :=
  { seq := BitVec.ofNat 12 seq, crcGood := crc, reservedZero := true, poison := poison, cls := cls, lane := 0, corrected := 0, uncorrectable := 0 }

/-- The flit next in turn, of BULK and of another class; one 5 ahead, one 100 ahead and one with a bad CRC. A CTRL flit after
which a flit sent 8 times is left, and after which none is. -/
theorem test_hyps_FlitsAreTakenInOrder :
    let b := fun (x : LinkPort) (f : Flit) => countCodewords 0 f (pb x)
    let due := fun f => f.crcGood = true ∧ f.reservedZero = true ∧ f.seq = (portOf (b act f) 0).rxSeq
    let early := fun f => 0 < (f.seq - (portOf (b act f) 0).rxSeq).toNat ∧ (f.seq - (portOf (b act f) 0).rxSeq).toNat < 64
    let rest := fun times : Nat => dropAcked 5 ({ act with replay := [⟨6, 1, times, 0, false⟩] } : LinkPort).replay
    (portOf (pb act) 0).state = .active ∧ (portOf (b act (flit 0 0 true true)) 0).rxHeld = []
    ∧ (due (flit 0 0 true true) ∧ (flit 0 0 true true).cls = 0) ∧ (due (flit 0 3 true false) ∧ (flit 0 3 true false).cls ≠ 0)
    ∧ early (flit 5 1 true false) ∧ (¬ due (flit 100 1 true false) ∧ ¬ early (flit 100 1 true false))
    ∧ (flit 0 0 false false).crcGood = false
    ∧ (rest 8).any (fun e => decide (8 ≤ e.times)) = true ∧ (rest 1).any (fun e => decide (8 ≤ e.times)) = false
    ∧ (portOf tb 0).state ≠ .active := by decide +kernel

theorem test_hyps_TrainingBringsPortsIntoService :
    let off : Blk := { tb with link := [] }
    let good : Blk := { off with pwr := { off.pwr with linkGood := setBit off.pwr.linkGood 5 true } }
    let t := fun (l : LaneState) => portOf (pb { state := .training, lanes := lanesIn l }) 0
    let seven := { t .lock with lanes := tabUpd .idle (t .lock).lanes 0 (fun _ => LaneState.failed) }
    let moved := fun (x : LinkPort) (skew n : Nat) => { x with lanes := tabUpd .idle x.lanes 7 (nextLane skew n) }
    let failed := fun (x : LinkPort) => { x with lanes := tabIns 7 .failed x.lanes }
    let id : IdentBody := ⟨0, 1, 0, 3, 0, [16, 16, 16, 16]⟩
    let ready : LinkPort := { state := .training, lanes := lanesIn .identify }
    let stand := { act with standbySent := true, standbyGot := true }
    let unsent : LinkPort := { act with replay := [⟨0, 1, 1, 0, false⟩] }
    let rest : Blk := { pb stand with pwr := { tb.pwr with portPower := [(0, 1)] } }
    ((portOf off 5).state = .off ∧ (portOf off 5).shut = false ∧ mayTrain good 5 = true)
    ∧ mayTrain { good with dict := { good.dict with portEnable := 0x1F } } 5 = false
    ∧ ((t .lock).state = .training ∧ 7 ≤ hopeful (moved (t .lock) 40 4) ∧ hopeful (moved seven 41 4) < 7 ∧ seven.fromRetain = false
      ∧ nextLane 41 3 .lock = .lock)
    ∧ (laneOf (t .lock) 7 ≠ .idle ∧ 7 ≤ hopeful (failed (t .lock)) ∧ hopeful (failed seven) < 7 ∧ laneOf seven 7 ≠ .idle)
    ∧ (ready.state = .training ∧ admitted ready 0x7F ≠ 0 ∧ identOk (pb ready) 0 id = true
      ∧ 7 ≤ (setBits (admitted ready 0x7F).toNat 8).length ∧ ready.retrained = false ∧ identOk (pb ready) 0 { id with die := 2 } = false)
    ∧ ((portOf (pb act) 0).state = .active ∧ bitAt tb.pwr.idlePolicy 2 = true
      ∧ (portOf (acceptFlit 0 (pb stand)) 0).replay = [] ∧ (portOf (acceptFlit 0 (pb unsent)) 0).replay ≠ [])
    ∧ (allPorts.filter (fun j => inStandby rest j && portDim rest j == portDim rest 0) = [0] ∧ inStandby rest 0 = true) := by decide +kernel

theorem test_hyps_PortsDegradeFailAndHandOver :
    let x := portOf (pb act) 0
    let dead := fun b : Blk =>
      let fell := resetMaster (.li 0) (raiseAlert 6 (sumpPut 0x31 none 6 0 0 0 0 b))
      ({ fell with
        link := tabUpd {} fell.link 0 (fun x => { x with
          state := .failed, lanes := [], active := 0, retraining := 0, rxHeld := [], standbySent := false, standbyGot := false })
        pwr := { fell.pwr with portPower := tabIns 0 0 fell.pwr.portPower } } : Blk)
    let pair : Blk := { tb with link := [(0, act), (1, act)] }
    let hand : Blk := { tb with link := [(0, act), (1, { state := .failed, replay := [⟨0, 1, 1, 0, false⟩] })] }
    let again : LinkPort := { act with retraining := 0x80 }
    (x.state = .active ∧ bitAt x.active 7 = true ∧ x.standbySent = false ∧ 7 < laneCount x ∧ bitAt x.retraining 7 = false
      ∧ bitAt again.retraining 7 = true)
    ∧ (survivor (dead pair) 0 = some 1 ∧ ¬ (x.standbySent = true ∧ x.standbyGot = true))
    ∧ survivor (dead (pb act)) 0 = none
    ∧ (portOf tb 0).state ≠ .active
    ∧ ((portOf hand 0).state = .active ∧ (portOf (acceptFlit 0 hand) 1).state = .failed ∧ portDim hand 0 = portDim hand 1)
    ∧ (BitVec.ofNat 8 0x80 &&& ~~~ tb.gal.lost ≠ 0 ∧ BitVec.ofNat 8 0 &&& ~~~ tb.gal.lost = 0) := by decide +kernel

/-- All eight dies working with six lanes between neighbours, this die's ports ACTIVE: the first discovery takes them all, the
next changes nothing; with no port of its own ACTIVE the die stands alone. -/
theorem test_hyps_DiscoveryChoosesTheGallery :
    let p : PeerStates := ⟨0xFF, (List.range 8).flatMap (fun d => (List.range 3).filterMap (fun e =>
      if d / 2 ^ e % 2 = 0 then some ((d, e), 16) else none)), 1, [true, true, true, true, true]⟩
    let b : Blk := { tb with link := allPorts.map (fun k => (k, act)) }
    let later : Blk := { b with gal := { b.gal with members := 255, formed := true } }
    (hasLinks b = true ∧ b.pwr.inReset = false ∧ b.vlt.alive = true ∧ shapeDims b ≠ 0)
    ∧ (chosenMembers b 255 (withOwn b p) = 255 ∧ chosenMembers b 255 (withOwn b p) ≠ b.gal.members.toNat ∧ 255 ≠ 2 ^ dieOf b)
    ∧ (later.gal.reforming = false
      ∧ chosenMembers later later.gal.members.toNat (withOwn later p) = later.gal.members.toNat)
    ∧ bitAt later.gal.members (dieOf later) = true
    ∧ chosenMembers tb 255 (withOwn tb p) = 2 ^ dieOf tb := by decide +kernel

/-! ### Repair and firmware -/

/-- A management request with `len` bytes of a value. -/
def mg (index sub len v : Nat) : DictReq := ⟨.mgmt, 0, index, sub, len, leBytes len v, 0⟩

/-- The block with the presence window open. -/
def wb : Blk := { tb with pres := { opened := some 0, length := 120 } }

/-- The request has arrived as a write and passes the checks. -/
def served (b : Blk) (r : DictReq) : Bool := arrived b .write r && decide (requestStatus b .write r = .ok)

/-- Tile 3 of tenant 0 is due: a free spare takes its place; AUTO_SPARE off, a logical tile of no tenant gives one up; every tile
is a tenant's; in each, a MOVE of tile 3 whose far writes are out keeps it waiting. -/
theorem test_hyps_TilesAreRetiredAndSparesScrubbed :
    let due : Blk := { tb with vlt := { tb.vlt with due := [3] } }
    let off : Blk := { due with dict := { due.dict with autoSpare := false } }
    let full : Blk := { off with vlt := { off.vlt with active := [(0, { tRec with tiles := 0xFFFFFFFFFFFFFFFF })] } }
    let asked := fun b : Blk => ({ b with vlt := { b.vlt with retiring := tabIns 3 [] b.vlt.retiring } } : Blk)
    let busy := fun b : Blk => ({ b with
      cmds := [cmd .drain (dsc 0x112 0 3 0x100 (gr 0xC00000 64 1 64 0 0) (gr 0xC40000 64 1 64 0 0) 0)], nextId := 1 } : Blk)
    let quiet := fun (b : Blk) (l : List Nat) => quietTiles (settleTiles l (asked b)) l
    due.vlt.alive = true ∧ due.pwr.inReset = false ∧ due.vlt.due.contains 3 = true ∧ logicalOf due 3 = some 3
    ∧ (replacement (asked due) 3 = some (64, none) ∧ quiet due [3] = true ∧ quiet (busy due) [3] = false)
    ∧ (logicalOf off 3 = some 3 ∧ replacement (asked off) 3 = some (63, some 63) ∧ quiet off [3, 63] = true ∧ quiet (busy off) [3, 63] = false)
    ∧ (logicalOf full 3 = some 3 ∧ replacement (asked full) 3 = none ∧ quiet full [3] = true ∧ quiet (busy full) [3] = false)
    ∧ tb.vlt.due.contains 3 = false := by decide +kernel

/-- An image of one 64-byte body word for slot 0, all keys zero, at `listAt`. -/
def image : List Byte :=
  leBytes 4 0x334D494B ++ List.replicate 8 0 ++ leBytes 4 64 ++ List.replicate 304 0

/-- The block with that image at FW_BASE and its key's hash in fuse row group 0. -/
def fb : Blk :=
  let b := inCtx 5 (writeBytes listAt image) wb
  { b with
    dict := { b.dict with fwBase := BitVec.ofNat 64 listAt }
    fab := { b.fab with lat := { b.fab.lat with programmed := 1, keyHash := [(0, Config.sha384 (List.replicate 97 0))] } } }

/-- The copy in control SRAM after a load. -/
def fbCopied (b : Blk) : Blk := fwCopy b.dict.fwBase.toNat ((List.range 4).foldl (fun f c => resetMaster (.cc c) f) b)

/-- What the signature check of `fb` is asked; its answer is a free value of the model. -/
def signed : Bool :=
  Config.ecdsaVerify (List.replicate 97 0) (Config.sha384 (image.take 128 ++ (image.drop 256).take 64)) (List.replicate 48 0) (List.replicate 48 0)

theorem fwReason_zero {b : Blk} (h1 : fwShapeOk b = true) (h2 : fwSlotOk b = true)
    (h3 : Config.sha384 (sramBytes b 24 97) = tabGet 0 b.fab.lat.keyHash (fwField b 20 1))
    (h4 : Config.ecdsaVerify (sramBytes b 24 97) (Config.sha384 (sramBytes b 0 128 ++ sramBytes b fwHeaderSize (fwField b 12 4)))
      (sramBytes b 128 48) (sramBytes b 176 48) = true)
    (h5 : ¬ fwField b 8 4 < b.fab.lat.rollback) : fwReason b true = 0 := by
  simp [fwReason, h1, h2, h3, h4, h5]

/-- With the signature of the image good, a free answer of the model, the load passes; unreadable, it fails with reason 6. -/
theorem test_hyps_FirmwareIsLoadedAndVerified :
    let r := mg 0x2050 2 1 1
    let e := respond .write r .ok [] fb
    (served fb r = true ∧ isEntry 0x2050 2 r.index r.sub = true ∧ reqValue r = 1)
    ∧ (signed = true → fwReason (fbCopied e) true = 0)
    ∧ fwReason (fbCopied e) false = 6
    ∧ (fb.pwr.inReset = false ∧ sramBase ≤ 0x4000000000 ∧ 0x4000000000 < sramBase + sramSize ∧ fb.vlt.alive = true
      ∧ fwReason (fbCopied fb) false = 6)
    ∧ (0x4000200000 ≤ 0x400020FFFF ∧ 0x400020FFFF < 0x4000210000) := by
  refine ⟨by decide +kernel, ?_, rfl, by decide +kernel, by decide⟩
  intro h
  have h1 : fwShapeOk (fbCopied (respond .write (mg 0x2050 2 1 1) .ok [] fb)) = true := by decide +kernel
  have h2 : fwSlotOk (fbCopied (respond .write (mg 0x2050 2 1 1) .ok [] fb)) = true := by decide +kernel
  have h3 : sramBytes (fbCopied (respond .write (mg 0x2050 2 1 1) .ok [] fb)) 24 97 = List.replicate 97 0 := by decide +kernel
  have h4 : fwField (fbCopied (respond .write (mg 0x2050 2 1 1) .ok [] fb)) 20 1 = 0 := by decide +kernel
  have h5 : sramBytes (fbCopied (respond .write (mg 0x2050 2 1 1) .ok [] fb)) 0 128
      ++ sramBytes (fbCopied (respond .write (mg 0x2050 2 1 1) .ok [] fb)) fwHeaderSize
        (fwField (fbCopied (respond .write (mg 0x2050 2 1 1) .ok [] fb)) 12 4) = image.take 128 ++ (image.drop 256).take 64 := by decide +kernel
  have h6 : sramBytes (fbCopied (respond .write (mg 0x2050 2 1 1) .ok [] fb)) 128 48 = List.replicate 48 0
      ∧ sramBytes (fbCopied (respond .write (mg 0x2050 2 1 1) .ok [] fb)) 176 48 = List.replicate 48 0 := by decide +kernel
  have h7 : ¬ fwField (fbCopied (respond .write (mg 0x2050 2 1 1) .ok [] fb)) 8 4
      < (fbCopied (respond .write (mg 0x2050 2 1 1) .ok [] fb)).fab.lat.rollback := by decide +kernel
  have h8 : tabGet 0 (fbCopied (respond .write (mg 0x2050 2 1 1) .ok [] fb)).fab.lat.keyHash 0 = Config.sha384 (List.replicate 97 0) := rfl
  refine fwReason_zero h1 h2 (by rw [h3, h4, h8]) ?_ h7
  rw [h3, h5, h6.1, h6.2]; exact h

/-! ### Power, resets and presence -/

theorem test_hyps_PowerCapStepsTheClockAndTheHold :
    let x := fun (cap now floor hold : Nat) => ({ cap := BitVec.ofNat 16 cap, clockNow := BitVec.ofNat 16 now, clockFloor := BitVec.ofNat 16 floor, hold := hold } : Pwr)
    let le := fun (n cap : Nat) => decide (100 * n ≤ 95 * cap)
    (x 0 1600 1600 0).standby = true ∧ (x 0 1600 1600 0).cap.toNat = 0
    ∧ ((x 200 425 400 0).cap.toNat < 201 ∧ (x 200 425 400 0).clockFloor.toNat < (x 200 425 400 0).clockNow.toNat)
    ∧ ((x 200 400 400 90).cap.toNat < 201 ∧ (x 200 400 400 90).clockNow.toNat ≤ (x 200 400 400 90).clockFloor.toNat)
    ∧ (le 190 200 = true ∧ (x 200 400 400 10).hold ≠ 0)
    ∧ (le 190 200 = true ∧ (x 200 1575 400 0).hold = 0 ∧ (x 200 1575 400 0).clockNow.toNat < 1600)
    ∧ 1600 ≤ (x 200 1600 400 0).clockNow.toNat
    ∧ (95 * 200 < 100 * 191 ∧ 191 ≤ 200 ∧ 95 * 200 < 100 * 200)
    ∧ (isEntry 0x4000 1 0x4000 1 = true ∧ served wb (mg 0x4000 1 2 0) = true ∧ reqValue (mg 0x4000 1 2 0) = 0)
    ∧ (served wb (mg 0x4000 1 2 200) = true ∧ served wb (mg 0x4000 1 2 1800) = true ∧ reqValue (mg 0x4000 1 2 1800) = 1800)
    ∧ (reqValue (mg 0x4000 1 2 199) < 200 ∧ reqValue (mg 0x4000 1 2 1801) = 1801) := by decide +kernel

/-- Quad 4 holds nothing of the tenant and may go OFF, quad 0 may only rest; with the policy 0 nothing does. -/
theorem test_hyps_UnitsRestAndWake :
    let off : Blk := { tb with pwr := { tb.pwr with idlePolicy := 7 } }
    let none_ : Blk := { tb with pwr := { tb.pwr with idlePolicy := 0 } }
    let slow : Blk := { tb with pwr := { tb.pwr with quads := [(0, 1), (1, 0)], quadrants := [(3, 1)] } }
    tb.pwr.inReset = false
    ∧ (tabGet 2 off.pwr.quads 4 = 2 ∧ quadIdle off 4 = true ∧ bitAt off.pwr.idlePolicy 1 = true ∧ quadFree off 4 = true)
    ∧ (quadIdle off 0 = true ∧ quadFree off 0 = false ∧ bitAt off.pwr.idlePolicy 0 = true)
    ∧ (quadIdle none_ 0 = true ∧ bitAt none_.pwr.idlePolicy 0 = false)
    ∧ quadIdle (one .rows load2) 0 = false
    ∧ (tabGet 2 tb.pwr.quadrants 3 = 2 ∧ quadrantIdle tb 3 = true)
    ∧ tabGet 2 slow.pwr.quadrants 3 ≠ 2
    ∧ (inService (pb act) 0 = true ∧ bitAt (pb act).pwr.idlePolicy 2 = true ∧ standsBy (portOf (pb act) 0) = false)
    ∧ (tabGet 2 slow.pwr.quads 0 = 1 ∧ tabGet 2 slow.pwr.quads 1 = 0 ∧ tabGet 2 slow.pwr.quads 16 = 2) := by decide +kernel

theorem test_hyps_ResetsKeepOnlyWhatTheSpecLists :
    let hold : Blk := { tb with pwr := { tb.pwr with inReset := true } }
    let cut : Blk := { tb with pwr := { tb.pwr with inReset := true, before := 4 } }
    tb.pwr.inReset = false ∧ hold.pwr.inReset = true ∧ ((0 : BitVec 21) = 0 ∧ (1 : BitVec 21) ≠ 0)
    ∧ (outsideStores 0x4080000000 = false ∧ outsideStores 0x800000000000 = true)
    ∧ tb.pwr.clkAbsent = 0
    ∧ (hold.pwr.standby = true ∧ hold.pwr.coreGood = true ∧ hold.pwr.clkAbsent = 0 ∧ hold.pwr.before = 0)
    ∧ cut.pwr.before ≠ 0 := by decide +kernel

theorem test_hyps_PresenceOpensAndEndsTheWindow :
    let dark : Blk := { tb with pwr := { tb.pwr with standby := false } }
    let stuck : Blk := { tb with pres := { tb.pres with stuck := true } }
    let sealed : Blk := { tb with fab := { tb.fab with lat := { tb.fab.lat with sealed := true } } }
    (tb.pwr.standby = true ∧ tb.pres.stuck = false ∧ tb.pwr.inReset = false ∧ tb.pres.opened = none)
    ∧ wb.pres.opened = some 0 ∧ dark.pwr.standby = false ∧ stuck.pres.stuck = true
    ∧ (isEntry 0x7003 3 0x7003 3 = true ∧ served wb (mg 0x7003 3 1 1) = true ∧ reqValue (mg 0x7003 3 1 1) = 1)
    ∧ sealed.fab.lat.sealed = true ∧ tb.fab.lat.sealed = false := by decide +kernel

/-! ### The dictionary -/

/-- A management request with no data. -/
def rq (index sub : Nat) : DictReq := ⟨.mgmt, 0, index, sub, 0, [], 0⟩

theorem test_hyps_RequestsAreReadDescribedAndListed :
    let hold : Blk := { tb with pwr := { tb.pwr with inReset := true } }
    let wait : Blk := { tb with dict := { tb.dict with slots := [(0, { status := 0xFF })] } }
    let body : List Byte := List.replicate 12 0
    (arrived tb .read (rq 0x1000 1) = true ∧ requestStatus tb .read (rq 0x1000 1) = .ok ∧ requestStatus tb .read (rq 0x1FFF 1) = .noEntry)
    ∧ (arrived hold .read (rq 0x2020 1) = true ∧ requestStatus hold .read (rq 0x2020 1) = .unavailable)
    ∧ (arrived tb .describe (rq 0x1000 1) = true ∧ requestStatus tb .describe (rq 0x1000 1) = .ok ∧ (entryOf tb 0x1000 1).isSome = true
      ∧ requestStatus tb .describe (rq 0x1FFF 1) = .noEntry)
    ∧ (arrived tb .next (rq 0 0) = true ∧ (entryAfter tb 0 0).isSome = true ∧ lengthOk .next 0 (rq 0 0) = true ∧ requestBusy tb .next (rq 0 0) = false
      ∧ entryAfter tb 0xFFFF 255 = none)
    ∧ (slotOwner 0 = some .vault ∧ slotOwner 5 = some .trapdoor ∧ Master.vault ≠ .trapdoor ∧ (slotOf tb 0).status ≠ 0xFF ∧ (slotOf wait 0).status = 0xFF
      ∧ slotOwner 4 ≠ some .vault)
    ∧ (tb.pwr.standby = true ∧ 12 ≤ body.length ∧ headerGood tb body = false ∧ (body.drop 1).length < 12) := by decide +kernel

theorem test_hyps_WritesStoreTheirValue :
    let hold : Blk := { tb with pwr := { tb.pwr with inReset := true } }
    let good := fun (i n len v : Nat) => served wb (mg i n len v)
    (good 0x2020 1 4 64 = true ∧ good 0x2020 1 4 65535 = true ∧ ownCommand 0x2020 1 = false
      ∧ storeOk wb (mg 0x2020 1 4 64) = true ∧ storeOk wb (mg 0x2020 1 4 63) = false)
    ∧ (good 0x3050 1 2 30 = true ∧ good 0x3050 1 2 600 = true)
    ∧ (good 0x7000 2 2 1023 = true ∧ good 0x7000 2 2 1024 = true)
    ∧ (good 0x2010 1 1 1 = true ∧ good 0x2010 1 1 2 = true)
    ∧ (good 0x2030 1 4 0xFFFFFFFF = true ∧ good 0x2030 5 4 0xFFFFFFFF = true ∧ 2 ^ holdBits 5 ≤ 0xFFFFFFFF)
    ∧ (good 0x7000 5 1 1 = true ∧ good 0x7000 5 1 2 = true)
    ∧ (arrived hold .write (mg 0x2010 1 1 1) = true ∧ requestStatus hold .write (mg 0x2010 1 1 1) = .unavailable
      ∧ requestStatus tb .write (mg 0x2010 1 2 1) = .badLength) := by decide +kernel

theorem test_hyps_AlertCausesAndInterruptsAreNotLost :
    let limit : Sump := { counts := [(4, 64)] }
    (isEntry 0x7002 1 0x7002 1 = true ∧ served wb (mg 0x7002 1 4 0x7FF) = true ∧ reqValue (mg 0x7002 1 4 0x7FF) < 2 ^ 11
      ∧ 2 ^ 11 ≤ reqValue (mg 0x7002 1 4 0x800) ∧ served wb (mg 0x7002 1 4 0x800) = true)
    ∧ (4 < 5 ∧ sumpAlert 0x01 = false ∧ 64 ≤ tabGet 0 limit.counts 4) ∧ ¬ 64 ≤ tabGet 0 ({ counts := [(4, 63)] } : Sump).counts 4 := by decide +kernel

theorem test_hyps_CapacityWritesChangeTheEpoch :
    let up : Blk := { wb with link := [(0, act)] }
    let last : Blk := { up with vlt := { up.vlt with epoch := 0xFFF00000 } }
    let busy : Blk := { gb .drain none [] [1] with pres := wb.pres, link := [(0, act)] }
    let bindReq := mg 0x3030 1 2 (16 + 64 * 256)
    let free : Blk := { wb with vlt := { wb.vlt with tileMap := wb.vlt.tileMap.filter (fun e => e.1 != 16), phys := tabPut 0 wb.vlt.phys 16 2 } }
    let asked := fun b : Blk => ({ b with gal := { b.gal with reforming := true } } : Blk)
    let quiet := fun (l : List Nat) (b : Blk) => quietTiles (settleTiles l b) l
    let moving : Blk := { wb with
      cmds := [cmd .drain (dsc 0x112 0 16 0x100 (gr 0x4000000 64 1 64 0 0) (gr 0x4040000 64 1 64 0 0) 0)], nextId := 1 }
    (served wb (mg 0x4000 3 2 400) = true ∧ served wb (mg 0x4000 3 2 1600) = true ∧ wb.vlt.epoch.toNat < 0xFFF00000
      ∧ 400 ≠ wb.pwr.clockFloor.toNat ∧ 1600 = wb.pwr.clockFloor.toNat
      ∧ served last (mg 0x4000 3 2 400) = true ∧ ¬ last.vlt.epoch.toNat < 0xFFF00000)
    ∧ (served up (mg 0x5004 1 1 1) = true ∧ quiet (galleryTiles (asked up)) (asked up) = true
      ∧ served busy (mg 0x5004 1 1 1) = true ∧ quiet (galleryTiles (asked busy)) (asked busy) = false)
    ∧ (served up (mg 0x5000 2 4 63) = true ∧ served up (mg 0x5000 2 4 64) = true ∧ reqValue (mg 0x5000 2 4 64) = 64)
    ∧ (served free bindReq = true ∧ leField (reqData bindReq) 0 1 = 16 ∧ leField (reqData bindReq) 1 1 = 64 ∧ tileAbsent free 16 = false
      ∧ physState free 64 = 1 ∧ physOf free 16 = none)
    ∧ (served wb bindReq = true ∧ physOf wb 16 = some 16 ∧ physState wb 64 = 1 ∧ quiet [16] wb = true ∧ served moving bindReq = true
      ∧ physOf moving 16 = some 16 ∧ quiet [16] moving = false ∧ physState wb 16 ≠ 1)
    ∧ (served free (mg 0x3030 2 1 16) = true ∧ physState free 16 = 2 ∧ served wb (mg 0x3030 2 1 16) = true ∧ physState wb 16 ≠ 2) := by
  decide +kernel

/-- A staged record; a COMMIT of two records that share tiles, of records already active, of one with another share with its tiles
quiet and not; two partners that share tiles, the first running. -/
theorem test_hyps_PartitionsAreStagedCommittedAndTurned :
    let put := fun b : Blk => ({ b with vlt := { b.vlt with staged := [(0, { tRec with tiles := 0xFFF0 })] } } : Blk)
    let same : Blk := { wb with vlt := { wb.vlt with staged := wb.vlt.active } }
    let bad : Blk := { wb with vlt := { wb.vlt with staged := [(0, tRec), (1, tRec)] } }
    let r := mg 0x3000 1 1 1
    let work := put { gb .drain none [] [1] with pres := wb.pres }
    let counted := fun b : Blk => ({ respond .write r .ok [] b with
      vlt := { b.vlt with generation := b.vlt.generation + 1, applying := changedRecs b } } : Blk)
    let ended := fun b : Blk =>
      (((changeOf (counted b) (changedRecs b)).full.filter (disables (counted b))).foldl (fun e x => endCommands x.1 true e) (counted b))
    let set := fun b : Blk => quietSet (ended b) (changeOf (counted b) (changedRecs b))
    let quiet := fun (l : List Nat) (b : Blk) => quietTiles (settleTiles l b) l
    let turn : Blk := { tb with vlt := { tb.vlt with
      active := [(0, { tRec with flags := 0xD, quantum := 100 }), (1, { tRec with flags := 5, quantum := 100 })], sliced := [1] } }
    let never : Blk := { turn with cmds := [{ cmd .drain wideD with acks := [1] }], nextId := 1 }
    (served wb (mg 0x3010 1 64 0) = true ∧ stagedOk (mg 0x3010 1 64 0) = true ∧ stagedOk (mg 0x3010 5 64 (2 ^ 200)) = false)
    ∧ (served bad r = true ∧ commitOk bad = false)
    ∧ (served same r = true ∧ commitOk same = true ∧ changedRecs same = [])
    ∧ (served (put wb) r = true ∧ commitOk (put wb) = true ∧ changedRecs (put wb) ≠ [] ∧ quiet (set (put wb)) (ended (put wb)) = true)
    ∧ (served work r = true ∧ commitOk work = true ∧ changedRecs work ≠ [] ∧ quiet (set work) (ended work) = false)
    ∧ (turn.vlt.alive = true ∧ turn.pwr.inReset = false ∧ recEnabled (activeOf turn 0) = true ∧ recSliced (activeOf turn 0) = true
      ∧ turn.vlt.sliced.contains 0 = false ∧ recPartner (activeOf turn 0) = 1 ∧ turn.vlt.sliced.contains 1 = true
      ∧ turn.vlt.turning = [] ∧ quiet (recTiles (activeOf turn 0)) turn = true)
    ∧ hasTurn tb 0 = false ∧ quiet (recTiles (activeOf never 0)) never = false := by decide +kernel

/-- Slot 0 of the key hashes free, then programmed; a rollback level that asks to clear a blown bit; a supply that lasts and one that
fails at once; TRAPDOOR_EN set, set again, and cleared. -/
theorem test_hyps_FusesAreBlownAndTheTrapdoorOpens :
    let k := fun (field v : Nat) => mg 0x3070 1 49 (field + v * 256)
    let b := wb
    let ok := fun r => respond .write r .ok [] b
    let todo := fun (r : DictReq) => (fieldPulses (ok r) (leField (reqData r) 0 1) (reqData r)).filter (fun x => !isBlown (ok r) x)
    let taken : Blk := { b with fab := { b.fab with rows := tabPut {} b.fab.rows 3 ⟨2 ^ 64, 2 ^ 64, 2 ^ 64⟩ } }
    let part : Blk := { b with fab := { b.fab with rows := tabPut {} b.fab.rows 3 ⟨2, 2, 2⟩ } }
    let open_ : Blk := { wb with vlt := { wb.vlt with trapEn := true } }
    (served b (k 10 0) = true ∧ leField (reqData (k 10 0)) 0 1 = 10) ∧ (served b (k 9 1) = true ∧ leField (reqData (k 9 1)) 1 48 ≠ 0)
    ∧ (served b (k 0 5) = true ∧ leField (reqData (k 0 5)) 0 1 = 0 ∧ fuseTaken b 0 = false ∧ fuseClash b 0 (reqData (k 0 5)) = false
      ∧ 0 < (todo (k 0 5)).length)
    ∧ (served taken (k 0 5) = true ∧ fuseTaken taken 0 = true)
    ∧ (served part (k 0 5) = true ∧ fuseTaken part 0 = false ∧ fuseClash part 0 (reqData (k 0 5)) = true)
    ∧ (served wb (mg 0x8000 1 1 1) = true ∧ served wb (mg 0x8000 1 1 0) = true ∧ served wb (mg 0x8000 1 1 2) = true ∧ wb.vlt.trapEn = false)
    ∧ (served open_ (mg 0x8000 1 1 1) = true ∧ open_.vlt.trapEn = true)
    ∧ outsideStores 0x4080000000 = false := by decide +kernel

/-- The bounds: LOGN 31 with K odd, an exchange of 2 by 3, a reversal of the whole width. -/
theorem test_hyps_PermutationMapsAreInverses :
    (31 ≤ 31 ∧ (2 ^ 32 - 1) % 2 = 1) ∧ (1 ≤ 1 ∧ 3 % 2 = 1 ∧ 1 < 2 ^ 1) ∧ (0 < 2 ∧ 0 < 3 ∧ 5 < 2 * 3) ∧ (23 ≤ 23 ∧ 2 ^ 23 - 1 < 2 ^ 23) := by decide

/-! ### Well-formedness: a term that each check refuses -/

theorem test_wellFormed_refuses_queues :
    wellFormed (.nop 5 1 moveD) = false ∧ wellFormed (.nop 0 4 moveD) = false ∧ wellFormed (.nop 6 0 moveD) = false
    ∧ wellFormed (.nop 5 0 moveD) = true ∧ wellFormed (.nop 4 3 moveD) = true
    ∧ wellFormed (.flagDeadlock 5) = false ∧ wellFormed (.streamGrant 5) = false ∧ wellFormed (.timeSlice 5) = false := by decide

theorem test_wellFormed_refuses_streams_and_handles :
    wellFormed (.runEnd 512) = false ∧ wellFormed (.runEnd 511) = true ∧ wellFormed (.handleReturn 512) = false
    ∧ wellFormed (.rowCommit 0 64 []) = false ∧ wellFormed (.rowCommit 0 63 []) = true
    ∧ wellFormed (.flagSetMessage 0 ⟨256, ⟨0, 0⟩⟩) = false ∧ wellFormed (.commitAcknowledgement ⟨8, 0⟩ 0) = false := by decide

theorem test_wellFormed_refuses_register_writes :
    wellFormed (.enable 0 0 0) = false ∧ wellFormed (.disable 0 0 0x100) = false ∧ wellFormed (.start 0 0 2) = false
    ∧ wellFormed (.stop 0 0 1) = false ∧ wellFormed (.tenantRegisterWrite 0 4096 0) = false ∧ wellFormed (.tenantRegisterWrite 6 0 0) = false
    ∧ wellFormed (.haltResume .vault 0 0 2) = false ∧ wellFormed (.haltDiscard .vault 0 0 1) = false
    ∧ wellFormed (.wbase .vault 4 0) = false ∧ wellFormed (.fragmentViewAccess .vault true (2 ^ 48) 0) = false := by decide

theorem test_wellFormed_refuses_bus_requests :
    let r := seg (.fe 16) 0
    wellFormed (.busRequest r) = true ∧ wellFormed (.busRequest { r with bytes := 0 }) = false ∧ wellFormed (.busRequest { r with bytes := 96 }) = false
    ∧ wellFormed (.busRequest { r with bytes := 320 }) = false ∧ wellFormed (.busRequest { r with master := .fe 17 }) = false
    ∧ wellFormed (.busRequest { r with master := .li 6 }) = false ∧ wellFormed (.busRequest { r with master := .cq 4 }) = false
    ∧ wellFormed (.busRequest { r with tag := 6 }) = false ∧ wellFormed (.busRequest { r with home := 16 }) = false
    ∧ wellFormed (.busRequest { r with ctx := 6 }) = false ∧ wellFormed (.busRequest { r with master := .cq 0, bytes := 512 }) = true
    ∧ wellFormed (.masterReset (.cc 4)) = false ∧ wellFormed (.feWatchdog 17) = false ∧ wellFormed (.memoryResponse 0 6 0 .ok []) = false
    ∧ wellFormed (.lineInvalidate 0 0 []) = false := by decide

theorem test_wellFormed_refuses_gallery_messages :
    let h : MsgHeader := ⟨0, true, false, 0, 64, 0, 0, 0⟩
    wellFormed (.forwardedDescriptor 8 0 0 moveD) = false ∧ wellFormed (.report (rep 8 .result none)) = false
    ∧ wellFormed (.report (rep 1 .result (some (4, 0)))) = false ∧ wellFormed (.report { rep 1 .result none with home := 8 }) = false
    ∧ wellFormed (.galleryCommit 8 ⟨0, false⟩) = false ∧ wellFormed (.linkRead 6 h) = false ∧ wellFormed (.linkRead 0 h) = true
    ∧ wellFormed (.linkRead 0 { h with tenant := 8 }) = false ∧ wellFormed (.linkRead 0 { h with len := 257 }) = false
    ∧ wellFormed (.linkRead 0 { h with addr := 2 ^ 48 }) = false := by decide

theorem test_wellFormed_refuses_link_events :
    let f := flit 0 0 true false
    let id : IdentBody := ⟨0, 0, 0, 0, 0, [0, 0, 0, 0]⟩
    wellFormed (.dataFlit 0 { f with cls := 4 } []) = false ∧ wellFormed (.dataFlit 0 { f with lane := 8 } []) = false
    ∧ wellFormed (.dataFlit 0 f [⟨0, 64, 0, []⟩]) = false ∧ wellFormed (.dataFlit 0 f [⟨0, 0, 64, []⟩]) = false
    ∧ wellFormed (.dataFlit 0 f [⟨8, 0, 0, []⟩]) = false ∧ wellFormed (.ctrlFlit 0 f ⟨0, [], 0⟩) = false
    ∧ wellFormed (.nak 6 f ⟨0, [0, 0, 0, 0], 0⟩) = false ∧ wellFormed (.ident 0 0 { id with die := 8 }) = false
    ∧ wellFormed (.ident 0 0 { id with credits := [] }) = false ∧ wellFormed (.laneTraining 0 8 ⟨0, 0⟩) = false
    ∧ wellFormed (.loss 0 256 0) = false ∧ wellFormed (.discovery ⟨0, [], 0, []⟩) = false
    ∧ wellFormed (.discovery ⟨0, [((0, 3), 1)], 0, [true, true, true, true, true]⟩) = false ∧ wellFormed (.idleFlit 6 f) = false := by decide

theorem test_wellFormed_refuses_vault_events :
    wellFormed (.tileRetire 68 []) = false ∧ wellFormed (.spareScrub [68]) = false ∧ wellFormed (.coldReset [68]) = false
    ∧ wellFormed (.controlSramParity (2 ^ 48) true) = false ∧ wellFormed (.idleDelay (.quad 17)) = false ∧ wellFormed (.unitWake (.quadrant 4)) = false
    ∧ wellFormed (.unitWake (.port 6)) = false ∧ wellFormed (.tenantReset 5) = false := by decide

theorem test_wellFormed_refuses_requests :
    wellFormed (.read { rq 0x1000 1 with path := .core 4 }) = false ∧ wellFormed (.read (rq (2 ^ 16) 1)) = false ∧ wellFormed (.read (rq 0 256)) = false
    ∧ wellFormed (.read { rq 0 0 with len := 2 ^ 16 }) = false ∧ wellFormed (.localDictionaryRequest .vault 8 1 (rq 0 0)) = false
    ∧ wellFormed (.localDictionaryRequest .vault 0 256 (rq 0 0)) = false ∧ wellFormed (.badRequest (List.replicate 273 0)) = false
    ∧ wellFormed (.read (rq 0x1000 1)) = true := by decide +kernel

/-! ### The spec's own figures -/

/-- Table PRM-4: the sources of out[j] at N = 16, with a minus sign for a negated granule. -/
theorem test_table_PRM_4 :
    (List.range 16).map (coefSource 4 5) = [(0, false), (13, false), (10, true), (7, false), (4, true), (1, false), (14, false), (11, true),
      (8, false), (5, true), (2, false), (15, false), (12, true), (9, false), (6, true), (3, false)]
    ∧ (List.range 16).map (evalSource 4 5) = [4, 5, 6, 7, 3, 2, 0, 1, 14, 15, 13, 12, 8, 9, 10, 11]
    ∧ (List.range 16).map (coefSource 4 31) = (0, false) :: (List.range 15).map (fun j => (15 - j, true))
    ∧ (List.range 16).map (evalSource 4 31) = (List.range 16).map (15 - ·)
    ∧ (List.range 16).map (brv 4) = [0, 8, 4, 12, 2, 10, 6, 14, 1, 9, 5, 13, 3, 11, 7, 15] := by decide

/-- Table PRM-5, and Example PHA-2's source of position 1,024 at N = 2^17. -/
theorem test_table_PRM_5 :
    coefSource 16 5 1 = (52429, false) ∧ coefSource 16 5 2 = (39322, true) ∧ coefSource 16 5 3 = (26215, false)
    ∧ evalSource 16 5 0 = 16384 ∧ evalSource 16 5 1 = 16385 ∧ coefSource 16 131071 1 = (65535, true) ∧ evalSource 16 131071 1 = 65534
    ∧ evalSource 17 5 1024 = 34048 := by decide

/-- Example PRM-1 with q = 97 and in[i] = 3i + 1, and Example PRM-3's sum. -/
theorem test_examples_PRM_1_and_3 :
    negMod 97 31 = 66 ∧ negMod 97 13 = 84 ∧ addMod 97 (addMod 97 (addMod 97 90 10) 20) 30 = 53 := by decide

/-- Examples GRN-1 and GRN-2: register T3 of tile 5 on die 2, block number 53, and block 40 of T9 of tile 17 on die 3. -/
theorem test_examples_GRN_1_and_2 :
    tileAddr 2 5 3 0 = 0x0002014C0000 ∧ (gridOf (8 * 2 ^ 64 + 4 * 2 ^ 96 + 2 * 2 ^ 128)).block 5 2 1 = 53
    ∧ 0x304668 * 4096 = tileAddr 3 17 9 (40 * 4096)
    ∧ coordOk (gridOf (8 * 2 ^ 64 + 4 * 2 ^ 96 + 2 * 2 ^ 128)) 8 = false
    ∧ coordOk (gridOf (8 * 2 ^ 64 + 4 * 2 ^ 96 + 2 * 2 ^ 128)) (2 ^ 32 - 1) = false := by decide +kernel

/-- Example TRG-1: granule (5, 7) under the shape (32, 32, 32), and its row and column under (16, 64, 64). -/
theorem test_example_TRG_1 :
    transposeSource 32 32 229 = 167 ∧ 167 / 64 = 2 ∧ 167 % 64 = 39 := by decide

/-- Table CMD-12: the bytes of Example CMD-2's descriptor give its fields. -/
theorem test_example_CMD_2 :
    let l : List Byte :=
      [0x00, 0x01, 0x17, 0x2A, 0x10, 0x00, 0x10, 0x01, 0x10, 0x42, 0x08, 0x00, 0x00, 0x00, 0x08, 0x04,
       0x00, 0x00, 0x40, 0x20, 0x40, 0x00, 0x00, 0x00, 0x00, 0x10, 0x00, 0x00, 0x00, 0x00, 0x04, 0x00,
       0x00, 0x00, 0x14, 0x04, 0x00, 0x00, 0x40, 0x20, 0x40, 0x00, 0x00, 0x00, 0x00, 0x10, 0x00, 0x00,
       0x00, 0x00, 0x04, 0x00, 0x05, 0x00, 0x00, 0x00, 0x00, 0x00, 0x01, 0x00, 0x00, 0x00, 0x00, 0x00]
    let f := fun (o n : Nat) => ofLe ((l.drop o).take n)
    let d : Desc := ⟨BitVec.ofNat 16 (f 0 2), BitVec.ofNat 16 (f 2 2), BitVec.ofNat 16 (f 4 2), BitVec.ofNat 16 (f 6 2),
      BitVec.ofNat 32 (f 8 4), BitVec.ofNat 160 (f 12 20), BitVec.ofNat 160 (f 32 20), BitVec.ofNat 96 (f 52 12)⟩
    opOf d = some .permGen ∧ d.tag = 0x2A17 ∧ flagEpoch d = true ∧ tsetOf d.tset = ⟨16, 4, 0⟩ ∧ planeOf d.w8 = ⟨16, 0, 2, 4, 8, 0⟩
    ∧ srcGran .permGen d = ⟨0x04080000, 64, 64, 64, 4096, 0x40000, 2⟩ ∧ dstGran .permGen d = ⟨0x04140000, 64, 64, 64, 4096, 0x40000, 2⟩
    ∧ ox d 0 18 = 5 ∧ oxS d = 1 ∧ shareOf d = 4096 := by decide +kernel

/-- Example TLY-1: S0 agrees and S1 does not when two routes are exchanged; the sums of a negated granule. -/
theorem test_example_TLY_1 :
    let i : List Term := [⟨0, 0, 12, false, 1000⟩, ⟨0, 0, 40, false, 3000⟩]
    let o : List Term := [⟨0, 0, 12, false, 3000⟩, ⟨0, 0, 40, false, 1000⟩]
    residue tallyM false i = 4000 ∧ residue tallyM false o = 4000 ∧ residue tallyM true i = 132000 ∧ residue tallyM true o = 76000
    ∧ disagreements (fun _ => tallyM) i o = [(0, 0)]
    ∧ residue tallyM false [⟨0, 0, 5, true, 31⟩] = 2147483616 ∧ landedNu true true 97 66 = 31 ∧ landedNu true true 97 31 = 66 := by decide

/-- Example STM-1: a stream of tile 3 prefers handles 0 to 31, one of tile 4 handles 32 to 63. -/
theorem test_example_STM_1 : (grantOrder 24 (List.range 64)).take 4 = [0, 1, 2, 3] ∧ (grantOrder 32 (List.range 64)).take 1 = [32] := by decide

/-- Example GAL-1: with die 5 lost, die 0 chooses dies 0 to 3, and die 7 runs alone. -/
theorem test_example_GAL_1 :
    let p : PeerStates := ⟨0xDF, (List.range 8).flatMap (fun d => (List.range 3).filterMap (fun e =>
      if d / 2 ^ e % 2 = 0 ∧ d ≠ 5 ∧ d + 2 ^ e ≠ 5 then some ((d, e), 16) else none)), 1, [true, true, true, true, true]⟩
    chosenMembers tb 255 p = 0x0F ∧ chosenMembers { tb with fab := { tb.fab with dieId := 7 } } 255 p = 0x80
    ∧ rankOf 0x0F 3 = 3 := by decide +kernel

/-- Table SMP-8: the bytes of Example SMP-2's record. -/
theorem test_example_SMP_2 :
    sumpBytes ⟨0x412, 0x2C4B8E20, 0x15, 0x30, 3, 0x51, 0, 0x0000000300000907, false⟩ =
      [0x12, 0x04, 0, 0, 0x20, 0x8E, 0x4B, 0x2C, 0, 0, 0x15, 0x30, 3, 0, 0x51, 0, 0, 0, 0, 0, 0, 0, 0, 0, 7, 9, 0, 0, 3, 0, 0, 0]
    ∧ deadlockDetail [(0, cmd .flagWait (dsc 3 0 0 0 0 0 7)), (1, cmd .flagWait (dsc 3 0 0 0 0 0 9))] = 0x0000000300000907 := by decide +kernel

/-- Example CMD-1: the condition holds from tc 1,201 and the deadlock is declared at tc 5,297. -/
theorem test_example_CMD_1 :
    let w := dsc 3 0 0 0 0 0 7
    let b : Blk := { one .flagWait w with clk := { tc := 1201 }, qs := [(0, { tq with state := .blocked, blockedBy := some 0 })] }
    (flagDeadlock 0 b).clk.tc = 5297 ∧ (queueOf (flagDeadlock 0 b) 0 0).state = .stopped ∧ (queueOf (flagDeadlock 0 b) 0 0).cause = 2 := by decide +kernel

/-- Example STM-2: tile 6, stalled since tc 217, is detached in the tick of tc 2,265 (log entry 4), the other receivers 64 granules
ahead. -/
theorem test_example_STM_2 :
    let sd := sdw (2 ^ 21 + (4 + 2 * 64) * 2 ^ 496 + 4032 * 2 ^ 256 + 4 * 0x400000 * 2 ^ 320)
    let x := { running with sd := sd, segStarted := true, fetched := 1, position := 800 }
    let b : Blk := { tb with streams := [(40, x)], clk := { tc := 217 } }
    let late := passTc (b.dict.patience.toNat + 1) b
    let pos := [(4, 864), (5, 864), (6, 800), (7, 864)]
    stalledAt 40 x pos = true ∧ stalledAt 40 (streamOf late 40) pos = true ∧ slowOnes 40 x pos = (800, [6])
    ∧ 2265 ≤ late.clk.tc ∧ late.clk.tc ≤ 2265 + 64 := by decide +kernel

/-- Example DIC-1: the cap's response, and the refusals of 2,000 and of four bytes. -/
theorem test_example_DIC_1 :
    let b : Blk := { tb with fab := { tb.fab with iana := 0xA1B2 } }
    let r := fun (i : BitVec 5) (len v : Nat) => { mg 0x4000 1 len v with inst := i }
    (writePowerCap (r 3 2 1500) b).out.mgmtTx = some [0x7F, 0, 0, 0xA1, 0xB2, 3, 2, 1, 0, 0x40, 0, 0, 0, 0]
    ∧ (writePowerCap (r 3 2 1500) b).pwr.cap = 1500
    ∧ ((writePowerCap (r 4 2 2000) b).out.mgmtTx.getD []).getD 10 0 = 5 ∧ (writePowerCap (r 4 2 2000) b).pwr.cap = 0
    ∧ ((writePowerCap (r 4 4 2000) b).out.mgmtTx.getD []).getD 10 0 = 4
    ∧ requestStatus b .write { r 4 2 1500 with path := .core 1 } = .noAccess := by decide +kernel

/-- Example SCO-1: ROTACC on an S32 block completes ABSENT_UNIT (0x20). -/
theorem test_example_SCO_1 :
    let b : Blk := { lb with fab := { lb.fab with lat := { lb.fab.lat with grade := 2 } } }
    let d := dsc 0x105 0 0x100 (plane 10 1) (reg64 0) (gr 0 64 1 64 0 0) (listAt + 0x1000 + 2 ^ 48)
    gradeOf b = .s32 ∧ firstIn decodeOrder (decodeErrs b 0 0 .rotacc d) = some .absentUnit ∧ codeVal .absentUnit = 0x20 := by decide +kernel

/-- Example SMP-1: SCHEDULE_STALE stands before ZEROISED, ALIAS_WRITE before both. -/
theorem test_example_SMP_1 :
    firstIn decodeOrder [.zeroised, .scheduleStale] = some .scheduleStale
    ∧ firstIn decodeOrder [.zeroised, .scheduleStale, .aliasWrite] = some .aliasWrite := by decide

/-- Example TRG-2: row 32's page is not present after rows 0 to 33 were issued; the halt leaves CAUSE 1, the row mask, NEXT 34,
the address and the register PARTIAL with its tag. -/
theorem test_example_TRG_2 :
    let d := dsc 0x120 0 0 0 (gr 0x800002000000 64 64 64 0x1000 0) (gr 0x031C0000 64 64 64 0x1000 0) 0
    let c := { cmd .rows d with rowMask := 0xFFFFFFFF, back := 0x300000000, issued := 34, unit := 34, faultAddr := some 0x800002020000 }
    let b := rowHalt 0 { tb with cmds := [c], nextId := 1, regs := [(12 * 16 + 7, { inUse := true })] }
    (queueOf b 0 0).restart = some ⟨0, 0x120, 7, 0, 0, 1, 0, 0, 0xFFFFFFFF, 34, (rowPlace d), 0x800002020000, 0, 0, false⟩
    ∧ (queueOf b 0 0).state = .halted ∧ tabGet {} b.regs (12 * 16 + 7) = ⟨64, 64, 64, true, false, true⟩ := by decide +kernel

/-- Example TRG-3: six registers in use and ACC make an image of 1,839,104 bytes. -/
theorem test_example_TRG_3 :
    imageSize { tb with regs := (List.range 6).map (fun r => (r, { inUse := true })) } 0 = 1839104 := by decide +kernel

/-- The opcode table gives no row any bits. -/
theorem test_no_word_spells_a_command : decodeTableWord 32 0 = none ∧ (State.reset.withFetchWord 32 0) = State.reset := ⟨rfl, rfl⟩

/-- A command on plane words of a dense share of 64 × `rows` granules, from T0 to T4. -/
def dense (opcode tset w8 rows opx : Nat) : Cmd :=
  cmd .ready (dsc opcode 0 tset w8 (gr 0 64 rows 64 0x1000 0x20000) (gr 0x100000 64 rows 64 0x1000 0x20000) opx)

/-- Table PRF-3: 4,148 and 12,380 tc for 16,384 granules a tile, renaming. -/
theorem test_table_PRF_3 :
    setBound tb .permGen (dense 0x100 0 (plane 14 1) 256 (5 + 2 ^ 48)) = 4148
    ∧ setBound tb .permGen (dense 0x100 0xC0 (plane 17 0) 256 (5 + 2 ^ 48)) = 12380 := by decide +kernel

/-- Example PHA-2's bound: 10,981 tc at 1,200 GB/s, two planes of 2,048 granules a tile on 16 tiles of four dies. -/
theorem test_bound_of_example_PHA_2 :
    galleryBound { tb with gal := { tb.gal with linkMin := 2400 } } .permGen
      (dense 0x100 0x500 (plane 17 1 + 0x100) 32 (5 + 2 ^ 48)) 4194304 = 10981 := by decide +kernel

/-! ### Single steps -/

/-- The effect of a command on a block. -/
def after (c : Instr) (b : Blk) : Blk :=
  match step { pending := [c], blk := b } with
  | .next t => t.blk
  | _ => b

/-- Table CMD-9: the record of a NOP with TAG 7, the first of its ring, PHASE 1, CYCLES the 16 tc of a decode. -/
theorem test_nop_writes_its_record :
    let e := after (.nop 0 0 (dsc 0 0 0 0 0 0 0)) tb
    readBytes e 0x800000020000 16 = [7, 0, 0, 1, 0, 0, 0, 0, 0, 0, 0, 0, 16, 0, 0, 0] ∧ (queueOf e 0 0).sqHead = 1 ∧ (queueOf e 0 0).cqTail = 1 := by
  decide +kernel

/-- Table TRG-3: the copy of a restart record, of queue 0 of the block's port 0, CAUSE 1. -/
theorem test_restart_record_bytes :
    restartBytes ⟨0, 0x120, 0x0051, 2, 1, 1, 0, 5, 0xFFFFFFFF, 34, 0x0E0C, 0x800002020000, 0, 0, false⟩ =
      [0x20, 1, 0x51, 0, 0x0A, 0, 1, 0, 5, 0, 0, 0, 0, 0, 0, 0, 0xFF, 0xFF, 0xFF, 0xFF, 0, 0, 0, 0, 34, 0, 0, 0, 0x0C, 0x0E, 0, 0,
       0, 0, 2, 2, 0, 0x80, 0, 0] ++ List.replicate 24 0 := by decide +kernel

/-- ACC_DRAIN of one granule copies ACC's first granule to the register and leaves ACC as it was. -/
theorem test_accDrain_copies_a_granule :
    let d := dsc 0x106 0 0 0 0 (gr 0x40000 1 1 64 0 0) 1
    let b := writeBytes (frameKey 0 24 0) [0xAB] tb
    let e := after (.commitUnit 0 cleanRun) (after (.accDrain 0 0 d) b)
    memGet e.mem (frameKey 0 1 0) = 0xAB ∧ memGet e.mem (frameKey 0 24 0) = 0xAB ∧ e.cmds = [] := by decide +kernel

/-- R136: an SQ_TAIL beyond the ring stops the queue with stop cause 6, one at its end is taken. -/
theorem test_sqTail_beyond_the_ring_stops :
    (queueOf (after (.sqTail 0 0 17) tb) 0 0).state = .stopped ∧ (queueOf (after (.sqTail 0 0 17) tb) 0 0).cause = 6
    ∧ (queueOf (after (.sqTail 0 0 16) tb) 0 0).sqTail = 16 := by decide +kernel

/-- A step takes the front of the queue and keeps the rest in order. -/
theorem test_step_takes_the_front :
    ∃ b, step { pending := [.blockReset, .blockStart, .powerLoss], blk := tb } = .next { pending := [.blockStart, .powerLoss], blk := b } := ⟨_, rfl⟩

end Sys2Proof.Tests
end

/-! SUPPORT. Every command of the dispatch, and so every step, keeps what `Keeps` names; that memory stays in its canonical
form is one of the things it names. -/
namespace Sys2Proof.Machine

/-- The meaning of every command answers a next state that keeps what `Keeps` names: one meaning for each arm of `exec`. -/
theorem exec_ran (i : Instr) (s : State) : Ran s (exec i s) :=
  match i with
  | .nop p q d => execNop_ran p q d s
  | .release p q d => execRelease_ran p q d s
  | .releaseApply id => execReleaseApply_ran id s
  | .setEpoch p q d => execSetEpoch_ran p q d s
  | .fence p q d => execFence_ran p q d s
  | .fenceEnd id => execFenceEnd_ran id s
  | .flagSet p q d => execFlagSet_ran p q d s
  | .flagSetApply id => execFlagSetApply_ran id s
  | .flagWait p q d => execFlagWait_ran p q d s
  | .flagWaitTimeout id => execFlagWaitTimeout_ran id s
  | .flagDeadlock p => execFlagDeadlock_ran p s
  | .resume p q d => execResume_ran p q d s
  | .discard p q d => execDiscard_ran p q d s
  | .debugBreak p q d => execDebugBreak_ran p q d s
  | .modtabLoad p q d => execModtabLoad_ran p q d s
  | .modtabTakeEffect id => execModtabTakeEffect_ran id s
  | .permGen p q d => execPermGen_ran p q d s
  | .permIdx p q d => execPermIdx_ran p q d s
  | .transpose p q d => execTranspose_ran p q d s
  | .bitrev p q d => execBitrev_ran p q d s
  | .layout p q d => execLayout_ran p q d s
  | .rotacc p q d => execRotacc_ran p q d s
  | .accDrain p q d => execAccDrain_ran p q d s
  | .accClear p q d => execAccClear_ran p q d s
  | .gatherBlk p q d => execGatherBlk_ran p q d s
  | .scatterBlk p q d => execScatterBlk_ran p q d s
  | .move p q d => execMove_ran p q d s
  | .grid p q d => execGrid_ran p q d s
  | .loadRows p q d => execLoadRows_ran p q d s
  | .storeRows p q d => execStoreRows_ran p q d s
  | .rowCommit id row parity => execRowCommit_ran id row parity s
  | .rowHalt id => execRowHalt_ran id s
  | .rowDenied id => execRowDenied_ran id s
  | .commitUnit id ev => execCommitUnit_ran id ev s
  | .streamArm p q d => execStreamArm_ran p q d s
  | .streamGrant p => execStreamGrant_ran p s
  | .streamRearm p q d => execStreamRearm_ran p q d s
  | .rearmBoundary n => execRearmBoundary_ran n s
  | .segmentStart n => execSegmentStart_ran n s
  | .segmentDone n => execSegmentDone_ran n s
  | .runEnd n => execRunEnd_ran n s
  | .streamHalt n pos => execStreamHalt_ran n pos s
  | .streamDisarm n => execStreamDisarm_ran n s
  | .handleReturn h => execHandleReturn_ran h s
  | .multicastDetach n positions => execMulticastDetach_ran n positions s
  | .handlePush p q d => execHandlePush_ran p q d s
  | .handlePushRoom id => execHandlePushRoom_ran id s
  | .handlePop p q d => execHandlePop_ran p q d s
  | .handlePopArrival id => execHandlePopArrival_ran id s
  | .sqTail p q v => execSqTail_ran p q v s
  | .cqHead p q v => execCqHead_ran p q v s
  | .enable p q config => execEnable_ran p q config s
  | .disable p q config => execDisable_ran p q config s
  | .start p q control => execStart_ran p q control s
  | .stop p q control => execStop_ran p q control s
  | .tenantRegisterWrite p off v => execTenantRegisterWrite_ran p off v s
  | .haltResume m p q v => execHaltResume_ran m p q v s
  | .haltDiscard m p q v => execHaltDiscard_ran m p q v s
  | .wbase m core v => execWbase_ran m core v s
  | .fragmentViewAccess m write addr data => execFragmentViewAccess_ran m write addr data s
  | .busRequest r => execBusRequest_ran r s
  | .memoryResponse m tag line status data => execMemoryResponse_ran m tag line status data s
  | .lineInvalidate m line data => execLineInvalidate_ran m line data s
  | .masterReset m => execMasterReset_ran m s
  | .feWatchdog n => execFeWatchdog_ran n s
  | .forwardedDescriptor die p homeCmd d => execForwardedDescriptor_ran die p homeCmd d s
  | .report r => execReport_ran r s
  | .galleryCommit die c => execGalleryCommit_ran die c s
  | .commitAcknowledgement c die => execCommitAcknowledgement_ran c die s
  | .flagSetMessage p m => execFlagSetMessage_ran p m s
  | .linkRead k h => execLinkRead_ran k h s
  | .linkWrite k h data mark => execLinkWrite_ran k h data mark s
  | .readData k h ok data mark => execReadData_ran k h ok data mark s
  | .writeResponse k h ok => execWriteResponse_ran k h ok s
  | .dataFlit k f runs => execDataFlit_ran k f runs s
  | .ctrlFlit k f b => execCtrlFlit_ran k f b s
  | .nak k f b => execNak_ran k f b s
  | .replayTimer k => execReplayTimer_ran k s
  | .ident k lanes ib => execIdent_ran k lanes ib s
  | .handover k failed lastSeq => execHandover_ran k failed lastSeq s
  | .loss k lostMask die => execLoss_ran k lostMask die s
  | .standby k => execStandby_ran k s
  | .linkWake k => execLinkWake_ran k s
  | .laneTraining k lane rx => execLaneTraining_ran k lane rx s
  | .trainingTimeout k lane => execTrainingTimeout_ran k lane s
  | .laneRetrain k lane failures => execLaneRetrain_ran k lane failures s
  | .portSilence k => execPortSilence_ran k s
  | .discovery ps => execDiscovery_ran ps s
  | .linkPwrGood k => execLinkPwrGood_ran k s
  | .tileRetire t unreadable => execTileRetire_ran t unreadable s
  | .spareScrub bad => execSpareScrub_ran bad s
  | .timeSlice p => execTimeSlice_ran p s
  | .controlSramParity addr readOk => execControlSramParity_ran addr readOk s
  | .vaultSramParity addr => execVaultSramParity_ran addr s
  | .powerCapCheck powerNow => execPowerCapCheck_ran powerNow s
  | .idleDelay u => execIdleDelay_ran u s
  | .unitWake u => execUnitWake_ran u s
  | .coldReset bad => execColdReset_ran bad s
  | .blockReset => execBlockReset_ran s
  | .blockStart => execBlockStart_ran s
  | .tenantReset p => execTenantReset_ran p s
  | .powerLoss => execPowerLoss_ran s
  | .presenceWindowOpen => execPresenceWindowOpen_ran s
  | .windowExpiry => execWindowExpiry_ran s
  | .stuck => execStuck_ran s
  | .sumpInterval => execSumpInterval_ran s
  | .tapInstruction ib => execTapInstruction_ran ib s
  | .read r => execRead_ran r s
  | .write r => execWrite_ran r s
  | .describe r => execDescribe_ran r s
  | .next r => execNext_ran r s
  | .commit r => execCommit_ran r s
  | .stagedRecord r => execStagedRecord_ran r s
  | .fwLoad r readOk => execFwLoad_ran r readOk s
  | .fuseProgram r supplyOkPulses => execFuseProgram_ran r supplyOkPulses s
  | .reform r ps => execReform_ran r ps s
  | .portRetrain r => execPortRetrain_ran r s
  | .tileBind r unreadable => execTileBind_ran r unreadable s
  | .tileReturn r good => execTileReturn_ran r good s
  | .trapdoorEn r => execTrapdoorEn_ran r s
  | .clear r => execClear_ran r s
  | .close r => execClose_ran r s
  | .alertCause r raised => execAlertCause_ran r raised s
  | .select r => execSelect_ran r s
  | .powerCap r => execPowerCap_ran r s
  | .clockFloor r => execClockFloor_ran r s
  | .bootswap r => execBootswap_ran r s
  | .holdMode r => execHoldMode_ran r s
  | .localDictionaryRequest m slot op r => execLocalDictionaryRequest_ran m slot op r s
  | .schedulerInterrupt id => execSchedulerInterrupt_ran id s
  | .clockAbsent mask => execClockAbsent_ran mask s
  | .idleFlit k f => execIdleFlit_ran k f s
  | .badRequest body => execBadRequest_ran body s
  | .stuckClear => execStuckClear_ran s

/-- A step keeps what `Keeps` names, be it a tick on an empty queue or the command at the front. -/
theorem step_keeps {s t : State} (h : step s = .next t) : Keeps s.blk t.blk := by
  obtain ⟨pending, b⟩ := s
  cases pending with
  | nil => exact (onBlk_ran fun _ _ => idleTick_keeps).keeps h
  | cons c rest => exact (exec_ran c ⟨rest, b⟩).keeps h

/-- Settles O4: canonical memory is one of the invariants that every command and every tick keeps (`step_keeps`). -/
theorem memoryKeepsItsCanonicalForm : Obligations.MemoryKeepsItsCanonicalForm := by
  intro s t hwf hstep
  exact (step_keeps hstep).mem hwf

end Sys2Proof.Machine

/-! SUPPORT. What WBASE and FRAGMENT_VIEW_ACCESS do for the masters they allow and for the others (R123 to R125, R208, R220). -/
namespace Sys2Proof.Machine

/-- A master that the grade has gets an error response and a BUS_ERROR record; one that it lacks changes nothing (R3). -/
theorem busError_eq (m : Master) (write : Bool) (a : Nat) (b : Blk) :
    busError m write a b =
      (let t := sumpPut 0x05 none 6 0 0 a (masterNo m % 64 + (if write then 64 else 0)) b
       if masterPresent b m then { t with out := { t.out with rerror := true, rdata := 0 } } else b) := by
  unfold busError
  cases masterPresent b m <;> rfl

/-- The masters that a core's window base answers (Table BMX-6). -/
theorem ctrlAllows_wbase {b : Blk} {m : Master} {write : Bool} {core : Nat} :
    ctrlAllows b m write (.wbase core) = true ↔ m = .cc core ∨ m = .vault ∨ (m = .trapdoor ∧ trapOpen b = true) := by
  simp [ctrlAllows, or_assoc]

section Wbase
variable {b : Blk} {m : Master} {core : Nat} {v : BitVec 64}

/-- A master that the window base answers moves it to bits 47 to 31 of the value. -/
theorem writeWbase_of_allowed (h : core < 4 ∧ ctrlAllows b m true (.wbase core) = true) :
    writeWbase m core v b = { b with bus := { b.bus with
      wbase := tabPut 0 b.bus.wbase core (BitVec.ofNat 48 (v.toNat / 2 ^ 31 % 2 ^ 17 * 2 ^ 31)) } } :=
  if_pos h

/-- Any other master, or a core that does not exist, gets an error response. -/
theorem writeWbase_of_not_allowed (h : ¬ (core < 4 ∧ ctrlAllows b m true (.wbase core) = true)) :
    writeWbase m core v b = busError m true (0x4003000000 + 8 * core) b :=
  if_neg h

end Wbase

/-- The key at which a fragment-view access finds its granule (R123). -/
def fragKey (a : Nat) : Nat :=
  let l := fragLoc (a / 64 * 64)
  frameKey l.1 l.2.1 l.2.2

/- The accesses below take their key `k` by an equation `hk`: Lean need not unfold `storedPlace` of a key to see that the
key a statement writes out is `fragKey a`. -/
section Frag
variable {b : Blk} {m : Master} {write : Bool} {a k : Nat} {g : Granule}

/-- Where the fragment view does not answer, the access is an error response. -/
theorem fragAccess_of_not_ok (h : fragOk b m a = false) : fragAccess m write a g b = busError m write a b := by
  simp only [fragAccess, h, Bool.not_false, if_true]

/-- A write stores the granule with good parity. -/
theorem fragAccess_write (h : fragOk b m a = true) (hk : fragKey a = k) :
    fragAccess m true a g b = { putGranuleKey k g b with out := { b.out with rerror := false } } := by
  subst hk
  simp only [fragAccess, h, Bool.not_true, Bool.false_eq_true, if_false, if_true, fragKey]

/-- A read of good parity is answered with the granule. -/
theorem fragAccess_read_of_good (h : fragOk b m a = true) (hk : fragKey a = k) (hp : badAt b k = false) :
    fragAccess m false a g b = busAnswer (granuleAt b.mem k).toNat b := by
  subst hk
  unfold fragKey at hp ⊢
  simp only [fragAccess, h, hp, Bool.not_true, Bool.false_eq_true, if_false]

/-- A read of bad parity is an error with a PARITY record (R248). -/
theorem fragAccess_read_of_bad (h : fragOk b m a = true) (hk : fragKey a = k) (hp : badAt b k = true) :
    fragAccess m false a g b =
      (let t := parityRecord none (storedPlace k).1 a (storedPlace k).2.2 0 b
       { t with out := { t.out with rerror := true, rdata := 0 } }) := by
  subst hk
  unfold fragKey at hp ⊢
  simp only [fragAccess, h, hp, Bool.not_true, Bool.false_eq_true, if_false, if_true]

end Frag

/-- WBASE leaves the block as `writeWbase` does, and the waiting commands alone. -/
theorem exec_wbase_of {m : Master} {core : Nat} {v : BitVec 64} {s : State} {b : Blk} (h : writeWbase m core v s.blk = b) :
    exec (.wbase m core v) s = .next { s with blk := b } := by
  subst h; rfl

/-- FRAGMENT_VIEW_ACCESS leaves the block as `fragAccess` does, and the waiting commands alone. -/
theorem exec_fragmentViewAccess_of {m : Master} {write : Bool} {a : Nat} {g : Granule} {s : State} {b : Blk}
    (h : fragAccess m write a g s.blk = b) : exec (.fragmentViewAccess m write a g) s = .next { s with blk := b } := by
  subst h; rfl

/-- Settles O40, by the cases of the two commands: the master is one that the window or the view answers, or it is not. -/
theorem windowsAndFragmentsAnswerTheirMasters : Obligations.WindowsAndFragmentsAnswerTheirMasters := by
  intro s m core v write a g b l k own refused stored lost
  have own_iff : own ↔ core < 4 ∧ ctrlAllows b m true (.wbase core) = true := and_congr_right' ctrlAllows_wbase.symm
  have hk : fragKey a = k := rfl
  refine ⟨fun mine => ?_, fun stranger => ?_, fun closed => ?_, fun ok => ⟨?_, fun good => ?_, fun bad => ?_⟩⟩
  · exact exec_wbase_of (writeWbase_of_allowed (own_iff.mp mine))
  · exact exec_wbase_of ((writeWbase_of_not_allowed (mt own_iff.mpr stranger)).trans (busError_eq ..))
  · exact exec_fragmentViewAccess_of ((fragAccess_of_not_ok closed).trans (busError_eq ..))
  · exact exec_fragmentViewAccess_of (fragAccess_write ok hk)
  · exact exec_fragmentViewAccess_of (fragAccess_read_of_good ok hk good)
  · exact exec_fragmentViewAccess_of (fragAccess_read_of_bad ok hk bad)

end Sys2Proof.Machine

/-! SUPPORT. What the commands that wait do when their descriptor is accepted: they enter flight in the state they wait in
(R21, R106, R109, R153, R155, R162). -/
namespace Sys2Proof.Machine

/-- Changing a command in flight does not depend on the context of the access under way. -/
theorem inCtx_updCmd (p id : Nat) (f : Cmd → Cmd) (b : Blk) : inCtx p (updCmd id f) b = updCmd id f b := rfl

/-- Nor does what FENCE does to its command and its queue. -/
theorem inCtx_fenceGo (p : Nat) (c : Cmd) (b : Blk) :
    inCtx p (fenceGo c) b = blockOn c (updCmd c.id (fun x => { x with st := .fence }) b) := rfl

/-- Nor what RELEASE does; the epoch it loads is its queue's, so it can be loaded after the command has its state. -/
theorem inCtx_releaseGo (p : Nat) (c : Cmd) (b : Blk) :
    inCtx p (releaseGo c) b = loadEpoch c (updCmd c.id (fun x => { x with st := .release }) b) := by
  unfold releaseGo loadEpoch
  cases flagOpf0 c.desc <;> rfl

section Accepted
variable {s : State} {p q : Nat} {d : Desc} {op : Op} {mine : Op → Bool} {go : Cmd → Blk → Blk}

/-- An accepted descriptor's row leaves the block as `go` does after the command has entered flight. -/
theorem onBlk_decodeAs_accepted (ha : accepts s.blk p q d op) (hm : mine op = true) :
    onBlk (decodeAs mine go p q d) s
      = .next { s with blk := inCtx p (go (acceptedCmd s.blk p q d op)) (entered s.blk p q d op) } := by
  unfold onBlk
  rw [decodeAs_accepted ha hm]

/-- A row whose `go` gives its command a state leaves it in flight in that state. -/
theorem onBlk_decodeAs_entersAs {st : CmdState} (ha : accepts s.blk p q d op) (hm : mine op = true)
    (hgo : ∀ c b, go c b = updCmd c.id (fun x => { x with st := st }) b) :
    onBlk (decodeAs mine go p q d) s = .next { s with blk := entersAs st s.blk p q d op } := by
  rw [onBlk_decodeAs_accepted ha hm, funext (hgo _), inCtx_updCmd]
  rfl

/-- FENCE enters flight waiting, and its queue waits for it (R153). -/
theorem execFence_accepted (ha : accepts s.blk p q d .fence) :
    execFence p q d s = .next { s with
      blk := blockOn (acceptedCmd s.blk p q d .fence) (entersAs .fence s.blk p q d .fence) } := by
  unfold execFence
  rw [onBlk_decodeAs_accepted ha rfl, inCtx_fenceGo]
  rfl

/-- RELEASE loads the schedule epoch when SET_EPOCH is set, and waits (R106, R162). -/
theorem execRelease_accepted (ha : accepts s.blk p q d .nop) (hr : oxRelease d ≠ 0) :
    execRelease p q d s = .next { s with
      blk := loadEpoch (acceptedCmd s.blk p q d .nop) (entersAs .release s.blk p q d .nop) } := by
  unfold execRelease
  rw [onBlk_decodeAs_accepted ha (by simp [hr]), inCtx_releaseGo]
  rfl

end Accepted

/-- Settles O11, row by row: an accepted descriptor's command enters flight (`decodeAs_accepted`) and its row gives it the
state it waits in. -/
theorem waitingCommandsEnterFlight : Obligations.WaitingCommandsEnterFlight := by
  intro s p q d
  refine ⟨fun loads => ?_, fun stores => ?_, fun table => ?_, fun sets => ?_, execFence_accepted, execRelease_accepted⟩
  · exact onBlk_decodeAs_entersAs loads rfl fun _ _ => rfl
  · exact onBlk_decodeAs_entersAs stores rfl fun _ _ => rfl
  · exact onBlk_decodeAs_entersAs table rfl fun _ _ => rfl
  · exact onBlk_decodeAs_entersAs sets rfl fun _ _ => rfl

end Sys2Proof.Machine

/-! SUPPORT. MODTAB_TAKE_EFFECT by what the pages of its image answer, and what a halt leaves of the commands in flight
(R17, R21, R26, R114, R115, R137). -/
namespace Sys2Proof.Machine

/-! ### The commands in flight after a halt -/

@[simp] theorem stopQueue_cmds (p q cause : Nat) (b : Blk) : (stopQueue p q cause b).cmds = b.cmds := by
  unfold stopQueue
  split <;> simp

@[simp] theorem ringFault_cmds (p q a : Nat) (b : Blk) : (ringFault p q a b).cmds = b.cmds := by
  unfold ringFault
  dsimp only
  split <;> simp

/-- Posting a record that ends no command takes none out of flight, written or held for START (R115, R137). -/
theorem postCpl_cmds_of_interim {r : Cpl} (hr : r.cmd = none) (p q : Nat) (b : Blk) : (postCpl p q r b).cmds = b.cmds := by
  have written : ∀ x, recordWritten r x = x := fun x => by unfold recordWritten; rw [hr]; rfl
  unfold postCpl
  dsimp only
  split
  case isTrue held => rfl
  case isFalse =>
    split
    case isTrue refused => simp
    case isFalse => rw [written]; split <;> simp

/-- A halt changes its own command alone. -/
theorem haltCmd_cmds (c : Cmd) (cause kind : Nat) (place : BitVec 16) (b : Blk) :
    (haltCmd c cause kind place b).cmds = (updCmd c.id (fun x => { x with st := .halted, interrupt := 0 }) b).cmds := by
  unfold haltCmd
  dsimp only
  have posts : ∀ (r : Cpl) (x : Blk), r.cmd = none →
      (if cause = 1 then postCpl c.port c.queue r x else x).cmds = x.cmds := fun r x hr => by
    split
    · exact postCpl_cmds_of_interim hr ..
    · rfl
  rw [posts _ _ rfl]
  repeat' split
  all_goals simp

/-- Whether a command is held at its table check depends on the commands in flight alone. -/
theorem noneHeld_congr {a b : Blk} (hc : a.cmds = b.cmds) (h : noneHeld b) : noneHeld a := by
  unfold noneHeld
  rw [hc]
  exact h

/-- A halt holds no command at its table check. -/
theorem noneHeld_haltCmd {b : Blk} (h : noneHeld b) (c : Cmd) (cause kind : Nat) (place : BitVec 16) :
    noneHeld (haltCmd c cause kind place b) := by
  intro x hx
  rw [haltCmd_cmds] at hx
  obtain ⟨y, hy, rfl⟩ := List.mem_map.mp hx
  split
  · simp
  · exact h y hy

/-! ### Table checks after a MODTAB.LOAD -/

section NoneHeld
variable {b : Blk} {c : Cmd} (hn : noneHeld b)
include hn

/-- With no table check held, a command that completes in its port's context does no more than that. -/
theorem releaseTable_finishCmd_ofCtx (hc : canComplete c b) (p : Nat) (code : Code) :
    { releaseTable (finishCmd c code 0 0 (ofCtx p b)) with ctx := b.ctx } = completed c code 0 0 b := by
  have held : noneHeld (finishCmd c code 0 0 (ofCtx p b)) := by
    rw [finishCmd_eq (b := ofCtx p b) (canComplete_congr rfl rfl rfl hc)]
    exact noneHeld_completed (b := ofCtx p b) hn
  rw [releaseTable_none held]
  exact finishIn_eq hc code 0 0

/-- Neither does one that halts, on a queue that is enabled. -/
theorem releaseTable_haltOrEnd_ofCtx (he : (queueOf b c.port c.queue).enable = true) (p cause kind : Nat) (place : BitVec 16) :
    { releaseTable (haltOrEnd c cause kind place (ofCtx p b)) with ctx := b.ctx } = inCtx p (haltCmd c cause kind place) b := by
  have halts : haltOrEnd c cause kind place (ofCtx p b) = haltCmd c cause kind place (ofCtx p b) := if_pos he
  rw [halts, releaseTable_none (noneHeld_haltCmd (b := ofCtx p b) hn _ _ _ _)]
  rfl

end NoneHeld

/-! ### MODTAB_TAKE_EFFECT -/

/-- The 64 entries of an image are all well formed (R17). -/
def imageOk (b : Blk) (image : Nat) : Bool :=
  (List.range 64).all (fun i => entryOk (imageEntry b image i).1 (imageEntry b image i).2)

/-- The moduli table with the entries that an image in memory spells for a port (R17, Table GRN-2). -/
def imageTable (p image : Nat) (b : Blk) : Tab Modulus :=
  (List.range 64).foldl (fun t i => tabPut {} t (p * 64 + i)
    { q := BitVec.ofNat 64 (readLe b (image + 16 * i) 8 % 2 ^ 63), valid := natBit (readLe b (image + 16 * i) 8) 63
      mu := BitVec.ofNat 64 (readLe b (image + 16 * i + 8) 8) }) b.moduli

/-- Installing an image changes the moduli table alone. -/
theorem installTable_ofCtx (p image q : Nat) (b : Blk) :
    installTable p image (ofCtx q b) = ofCtx q { b with moduli := imageTable p image (ofCtx q b) } := by
  unfold installTable imageTable
  generalize List.range 64 = l
  rfl

section Due
variable {b : Blk} {id a : Nat} {c : Cmd} (hw : waitsAs .modtab b id c) (he : earlierOfTenant b c = false)
include hw he

/-- An image read and well formed becomes the table, and the command completes OK. -/
theorem modtabTake_of_good (hp : imagePage b (oxBase c.desc) = none) (hg : imageOk b (oxBase c.desc) = true) :
    modtabTake id b = releaseTable (finishCmd c .ok 0 0 (installTable c.port (oxBase c.desc) b)) := by
  unfold imageOk at hg
  simp only [modtabTake, hw.1, hw.2, he, hp, hg, Bool.not_false, and_self, if_true]

/-- An image with an entry that is not well formed completes INDEX_RANGE. -/
theorem modtabTake_of_ill_formed (hp : imagePage b (oxBase c.desc) = none) (hg : imageOk b (oxBase c.desc) = false) :
    modtabTake id b = releaseTable (finishCmd c .indexRange 0 0 b) := by
  unfold imageOk at hg
  simp only [modtabTake, hw.1, hw.2, he, hp, hg, Bool.not_false, and_self, if_true, Bool.false_eq_true, if_false]
  rfl

/-- A denied page completes NOT_OWNER. -/
theorem modtabTake_of_denied (hp : imagePage b (oxBase c.desc) = some (a, .denied)) :
    modtabTake id b = releaseTable (finishCmd c .notOwner 0 0 b) := by
  simp only [modtabTake, hw.1, hw.2, he, hp, Bool.not_false, and_self, if_true]
  rfl

/-- A page not present halts the command at its address. -/
theorem modtabTake_of_not_present (hp : imagePage b (oxBase c.desc) = some (a, .notPresent)) :
    modtabTake id b = releaseTable (haltOrEnd { c with faultAddr := some a } 1 1 0 b) := by
  simp only [modtabTake, hw.1, hw.2, he, hp, Bool.not_false, and_self, if_true]

end Due

/-- MODTAB_TAKE_EFFECT of a command in flight runs in its tenant's context (R297). -/
theorem exec_modtabTakeEffect_of {s : State} {id : Nat} {c : Cmd} {x b : Blk} (h : cmdOf s.blk id = some c)
    (hx : modtabTake id (ofCtx c.port s.blk) = x) (hb : { x with ctx := s.blk.ctx } = b) :
    exec (.modtabTakeEffect id) s = .next { s with blk := b } := by
  subst hx hb
  show onBlk (onCmd id (modtabTake id)) s = _
  unfold onBlk onCmd
  rw [h]
  rfl

/-- Settles O27, by what the pages of the image answer and whether its entries are well formed. -/
theorem modtabLoadTakesEffect : Obligations.ModtabLoadTakesEffect := by
  intro s id c a b here image good table waits noEarlier free
  have waitsHere : waitsAs .modtab here id c := waits
  refine ⟨fun answers ends => ⟨fun isGood => ?_, fun isBad => ?_⟩, fun denied ends => ?_, fun absent enabled => ?_⟩
  · have isTable : imageTable c.port image here = table := rfl
    have takes := modtabTake_of_good waitsHere noEarlier answers isGood
    rw [installTable_ofCtx, isTable] at takes
    exact exec_modtabTakeEffect_of waits.1 takes
      (releaseTable_finishCmd_ofCtx (b := { b with moduli := table }) (noneHeld_congr (b := b) rfl free)
        (canComplete_congr (b := b) rfl rfl rfl ends) ..)
  · exact exec_modtabTakeEffect_of waits.1 (modtabTake_of_ill_formed waitsHere noEarlier answers isBad)
      (releaseTable_finishCmd_ofCtx free ends ..)
  · exact exec_modtabTakeEffect_of waits.1 (modtabTake_of_denied waitsHere noEarlier denied)
      (releaseTable_finishCmd_ofCtx free ends ..)
  · exact exec_modtabTakeEffect_of waits.1 (modtabTake_of_not_present waitsHere noEarlier absent)
      (releaseTable_haltOrEnd_ofCtx (c := { c with faultAddr := some a }) free enabled ..)

end Sys2Proof.Machine

/-! SUPPORT. What a memory port's answer and another agent's write do to the block, by the request in flight that the answer
finds (R26, R206, R207, R223, R248, R297, R349). -/
namespace Sys2Proof.Machine

/-- The request in flight that an answer of a memory port ends: the first one taken by that port, of that context and line. -/
def askedBy (b : Blk) (m ctx line : Nat) : Option Flight :=
  b.bus.flight.find? (fun f => f.sent && f.req.home == m && reqCtx f.req == ctx && lineOf f.req.addr == line)

/-- The block once an answer for a line is known, before any request hears of it (R26, R297). -/
def lineKnown (ctx line : Nat) (status : RspStatus) (data : List Byte) (b : Blk) : Blk :=
  let known := { b with xlat := tabPut .ok b.xlat (extKey ctx (line * 512) / 512) status }
  if status = .ok then loadLine ctx line data known else known

/-- The block without a request in flight. -/
def dropFlight (f : Flight) (b : Blk) : Blk := { b with bus := { b.bus with flight := b.bus.flight.erase f } }

/-! ### MEMORY_RESPONSE -/

section Response
variable {s : State} {m ctx line : Nat} {status : RspStatus} {data : List Byte} {f : Flight}
  (hr : regionOf (line * 512) = some .external) (hb : s.blk.pwr.inReset = false)
include hr hb

/-- An answer that no request waits for is kept (log entry 87). -/
theorem exec_memoryResponse_of_none (hf : askedBy s.blk m ctx line = none) :
    exec (.memoryResponse m ctx line status data) s = .next { s with blk := lineKnown ctx line status data s.blk } := by
  show onBlk (memoryResponse m ctx line status data) s = _
  unfold askedBy at hf
  simp only [onBlk, memoryResponse, hr, hb, hf, ne_eq, not_true_eq_false, Bool.false_eq_true, or_self, if_false]
  rfl

/-- A line that fails parity is asked for again while replays are left (R248). -/
theorem exec_memoryResponse_of_replay (hf : askedBy s.blk m ctx line = some f) (ht : f.tries < s.blk.dict.replayLimit.toNat) :
    exec (.memoryResponse m ctx line .error data) s = .next { s with blk := askAgain f s.blk } := by
  show onBlk (memoryResponse m ctx line .error data) s = _
  unfold askedBy at hf
  simp only [onBlk, memoryResponse, hr, hb, hf, ht, ne_eq, not_true_eq_false, Bool.false_eq_true, or_self, if_false, if_true]

/-- Any other answer is kept and lands at the request it finds. -/
theorem exec_memoryResponse_of_landing (hf : askedBy s.blk m ctx line = some f)
    (ht : status = .error → s.blk.dict.replayLimit.toNat ≤ f.tries) :
    exec (.memoryResponse m ctx line status data) s
      = .next { s with blk := landResponse f status (lineKnown ctx line status data s.blk) } := by
  show onBlk (memoryResponse m ctx line status data) s = _
  unfold askedBy at hf
  simp only [onBlk, memoryResponse, hr, hb, hf, ne_eq, not_true_eq_false, Bool.false_eq_true, or_self, if_false]
  cases status
  case error => simp only [if_neg (Nat.not_lt.mpr (ht rfl))]; rfl
  all_goals rfl

end Response

/-! ### Landing -/

section Landing
variable {b : Blk} {f : Flight} {status : RspStatus}

/-- A request that is no refill is answered alone. -/
theorem answeredBy_of_not_refill (h : f.kind ≠ .refill) : answeredBy b f = [f] := by
  unfold answeredBy
  rw [if_neg h]

/-- One that keeps no line leaves flight and is answered. -/
theorem landResponse_of_not_refill (h : f.kind ≠ .refill) : landResponse f status b = answerFlight f status (dropFlight f b) := by
  unfold landResponse
  simp only [answeredBy_of_not_refill h, h, false_and, if_false]
  rfl

/-- A refill alone on its line leaves flight, keeps the line and is answered (R195, R206). -/
theorem landResponse_of_refill (h : f.kind = .refill) (ha : answeredBy b f = [f]) :
    landResponse f .ok b
      = answerFlight f .ok (keepLine f.req.tag f.req.home (lineOf f.req.addr) f.req.write (dropFlight f b)) := by
  unfold landResponse
  simp only [ha, h, and_self, if_true, List.any_cons, List.any_nil, Bool.or_false]
  rfl

/-- A request whose master was reset is discarded (R223). -/
theorem answerFlight_of_discard (h : f.discard = true) : answerFlight f status b = b := if_pos (Or.inl h)

/-- A refused request gets an error response (R26). -/
theorem answerFlight_of_refused (hk : f.kind ≠ .back) (hd : f.discard = false) (hs : status ≠ .ok) :
    answerFlight f status b = { b with out := { b.out with rerror := true, rdata := 0 } } := by
  simp [answerFlight, hk, hd, hs]

/-- A granted read gets its bytes. -/
theorem answerFlight_of_read (hk : f.kind ≠ .back) (hd : f.discard = false) (hw : f.req.write = false) :
    answerFlight f .ok b = answerRead f.req b := by
  simp [answerFlight, hk, hd, hw]

end Landing

/-! ### The line's bytes -/

/-- With no dirty copy and no write in flight, a line's bytes are those returned (R214, R216, R250). -/
theorem loadLine_of_clean {ctx line : Nat} {data : List Byte} {b : Blk} (hl : data.length = 512)
    (hc : b.bus.cellar.any (fun l => l.addr == line && l.tag == ctx && l.dirty) = false)
    (hw : ∀ g ∈ b.bus.flight, g.req.write = false) :
    loadLine ctx line data b = { b with mem := memPutBytes b.mem (extKey ctx (line * 512)) data } := by
  have noWrites : b.bus.flight.filter
      (fun f => f.req.write && f.kind != .back && reqCtx f.req == ctx && lineOf f.req.addr == line) = [] :=
    List.filter_eq_nil_iff.mpr fun g hg => by simp [hw g hg]
  unfold loadLine
  simp only [hl, hc, noWrites, ne_eq, not_true_eq_false, Bool.false_eq_true, or_self, if_false, List.foldl_nil]

/-- Another agent's write drops every copy of the line and gives it its bytes in every context (R207, log entry 84). -/
theorem exec_lineInvalidate {s : State} {m line : Nat} {data : List Byte} (hr : regionOf (line * 512) = some .external)
    (hb : s.blk.pwr.inReset = false) (hm : m < 16) (hl : data.length = 512) :
    exec (.lineInvalidate m line data) s = .next { s with
      blk := (List.range 6).foldl (fun e p => inCtx p (writeBytes (line * 512) data) e)
        (updBus (fun u => { u with cellar := u.cellar.filter (fun l => !(l.addr == line)) }) s.blk) } := by
  show onBlk (fun b => if m < 16 then lineInvalidate line data b else b) s = _
  simp only [onBlk, lineInvalidate, hr, hb, hm, hl, ne_eq, not_true_eq_false, Bool.false_eq_true, or_self, if_false, if_true]

/-- Settles O38, by the request that the answer finds, and by its kind. -/
theorem memoryAnswersForItsLines : Obligations.MemoryAnswersForItsLines := by
  intro s m ctx line status data f b key known e found done cut external running
  refine ⟨exec_memoryResponse_of_none external running, fun asked failed left => ?_, fun asked spent => ?_, loadLine_of_clean,
    exec_lineInvalidate external running, fun a outside whole => memGet_memPutBytes_outside (by rw [whole]; exact outside)⟩
  · subst failed
    exact exec_memoryResponse_of_replay external running asked left
  · rw [exec_memoryResponse_of_landing external running asked spent]
    refine ⟨fun kind gone => ?_, fun kind stays denied => ?_, fun kind stays granted reads => ?_,
      fun kind alone stays granted reads => ?_⟩
    · rw [landResponse_of_not_refill kind, answerFlight_of_discard gone]; rfl
    · rw [landResponse_of_not_refill (by simp [kind]), answerFlight_of_refused (by simp [kind]) stays denied]; rfl
    · subst granted
      rw [landResponse_of_not_refill (by simp [kind]), answerFlight_of_read (by simp [kind]) stays reads]; rfl
    · subst granted
      have alone : answeredBy (lineKnown ctx line .ok data b) f = [f] := alone
      rw [landResponse_of_refill kind alone, answerFlight_of_read (by simp [kind]) stays reads, reads]; rfl

end Sys2Proof.Machine

/-! SUPPORT. The closed forms of the permutation catalogue: the Newton steps of K⁻¹, the map of COEF, the exchange of rows
and columns, and the reversal of bits (R47, R48, R53, R54). -/
namespace Sys2Proof.Machine

/-! ### K⁻¹ by Newton steps (R47) -/

/-- One Newton step towards the inverse of `k` modulo 2^32 (R47). -/
def newtonStep (k x : BitVec 32) : BitVec 32 := x * (2 - k * x)

theorem kInverse_eq_newton (k logn : Nat) :
    kInverse k logn = ((newtonStep (BitVec.ofNat 32 k))^[5] 1).toNat % 2 ^ (logn + 1) := rfl

/-- A step squares how far `x` is from an inverse. -/
theorem newtonStep_error (k x : BitVec 32) : 1 - k * newtonStep k x = (1 - k * x) ^ 2 := by
  unfold newtonStep
  ring

/-- So `n` steps raise it to the power 2^n. -/
theorem newtonStep_iterate_error (k x : BitVec 32) (n : Nat) : 1 - k * (newtonStep k)^[n] x = (1 - k * x) ^ 2 ^ n := by
  induction n with
  | zero => simp
  | succ n ih => rw [Function.iterate_succ_apply', newtonStep_error, ih, ← pow_mul, pow_succ]

/-- From 1, five steps reach the inverse of an odd number: the error starts even, and 2^32 is 0 in 32 bits. -/
theorem newton_five_inverts (a : BitVec 32) : (2 * a + 1) * (newtonStep (2 * a + 1))^[5] 1 = 1 := by
  have even_error : 1 - (2 * a + 1) * 1 = 2 * -a := by ring
  have vanishes : (2 : BitVec 32) ^ 2 ^ 5 = 0 := by decide
  have error := newtonStep_iterate_error (2 * a + 1) 1 5
  rw [even_error, mul_pow, vanishes, zero_mul] at error
  exact (sub_eq_zero.mp error).symm

theorem mul_kInverse_mod {k logn : Nat} (hl : logn ≤ 31) (hk : k % 2 = 1) : k * kInverse k logn % 2 ^ (logn + 1) = 1 := by
  have odd : BitVec.ofNat 32 k = 2 * BitVec.ofNat 32 (k / 2) + 1 := by
    rw [show k = 2 * (k / 2) + 1 by omega, BitVec.ofNat_add, BitVec.ofNat_mul]
    simp [show (2 * (k / 2) + 1) / 2 = k / 2 by omega]
  have inverts := congrArg BitVec.toNat (newton_five_inverts (BitVec.ofNat 32 (k / 2)))
  rw [← odd] at inverts
  rw [kInverse_eq_newton]
  generalize (newtonStep (BitVec.ofNat 32 k))^[5] 1 = x at inverts ⊢
  have full : k * x.toNat ≡ 1 [MOD 2 ^ 32] := by simpa [Nat.ModEq] using inverts
  have low : k * x.toNat ≡ 1 [MOD 2 ^ (logn + 1)] := full.of_dvd (pow_dvd_pow 2 (by omega))
  rw [Nat.mul_mod_mod]
  exact Eq.trans low (Nat.mod_eq_of_lt (Nat.one_lt_two_pow (by omega)))

/-! ### The map of COEF (R48) -/

theorem coefSource_eq (logn k j : Nat) :
    coefSource logn k j =
      if j * kInverse k logn % (2 * 2 ^ logn) < 2 ^ logn then (j * kInverse k logn % (2 * 2 ^ logn), false)
      else (j * kInverse k logn % (2 * 2 ^ logn) - 2 ^ logn, true) := rfl

/-- A position below 2N is one below N and whether N is to be added. -/
theorem signed_position {n i : Nat} (hi : i < 2 * n) {r : Nat × Bool} (hr : r = if i < n then (i, false) else (i - n, true)) :
    r.1 < n ∧ r.1 + (if r.2 then n else 0) = i := by
  subst hr
  by_cases plain : i < n
  · simp [plain]
  · simp only [if_neg plain, if_true]
    omega

/-- The source of COEF and its sign spell `j · K⁻¹` modulo 2N. -/
theorem coefSource_spells (logn k j : Nat) :
    (coefSource logn k j).1 < 2 ^ logn
    ∧ (coefSource logn k j).1 + (if (coefSource logn k j).2 then 2 ^ logn else 0) = j * kInverse k logn % (2 * 2 ^ logn) :=
  signed_position (Nat.mod_lt _ (by positivity)) (coefSource_eq logn k j)

theorem coefSource_mul_mod {logn k j : Nat} (hl : logn ≤ 31) (hk : k % 2 = 1) (hj : j < 2 ^ logn) :
    ((coefSource logn k j).1 + (if (coefSource logn k j).2 then 2 ^ logn else 0)) * k % 2 ^ (logn + 1) = j := by
  have below : j < 2 ^ (logn + 1) := hj.trans (Nat.pow_lt_pow_succ (by omega))
  rw [(coefSource_spells logn k j).2, ← pow_succ']
  calc j * kInverse k logn % 2 ^ (logn + 1) * k % 2 ^ (logn + 1)
      = j * (k * kInverse k logn % 2 ^ (logn + 1)) % 2 ^ (logn + 1) := by
        rw [Nat.mod_mul_mod, Nat.mul_mod_mod, Nat.mul_assoc, Nat.mul_comm (kInverse k logn)]
    _ = j := by rw [mul_kInverse_mod hl hk, Nat.mul_one, Nat.mod_eq_of_lt below]

/-! ### TRANSPOSE (R53) -/

section Transpose
variable {h w j : Nat}

theorem transposeSource_lt (hh : 0 < h) (hj : j < h * w) : transposeSource h w j < h * w := by
  have row : j % h < h := Nat.mod_lt _ hh
  have column : j / h < w := Nat.div_lt_of_lt_mul hj
  calc j % h * w + j / h < (j % h + 1) * w := by rw [Nat.succ_mul]; omega
    _ ≤ h * w := Nat.mul_le_mul_right w row

theorem transposeSource_transposeSource (hj : j < h * w) : transposeSource h w (transposeSource w h j) = j := by
  have column : j / w < h := Nat.div_lt_of_lt_mul (by rwa [Nat.mul_comm])
  have row : (j % w * h + j / w) / h = j % w := by
    rw [Nat.add_comm, Nat.add_mul_div_right _ _ (Nat.zero_lt_of_lt column), Nat.div_eq_of_lt column, Nat.zero_add]
  unfold transposeSource
  rw [row, Nat.mul_add_mod_of_lt column, Nat.div_add_mod']

theorem transposeSource_one_left : transposeSource 1 w j = j := by simp [transposeSource, Nat.mod_one]

theorem transposeSource_one_right (hj : j < h) : transposeSource h 1 j = j := by
  simp [transposeSource, Nat.mod_eq_of_lt hj, Nat.div_eq_of_lt hj]

end Transpose

/-! ### BITREV (R54) -/

theorem brv_lt (n x : Nat) : brv n x < 2 ^ n := by
  induction n generalizing x with
  | zero => simp [brv]
  | succ n ih =>
    have top : x % 2 * 2 ^ n ≤ 1 * 2 ^ n := Nat.mul_le_mul_right _ (by omega)
    have rest := ih (x / 2)
    have twice : 2 ^ (n + 1) = 2 * 2 ^ n := by ring
    rw [brv]
    omega

/-- Bit `i` of a reversal is the bit as far from the other end. -/
theorem testBit_brv (n x i : Nat) : (brv n x).testBit i = (decide (i < n) && x.testBit (n - 1 - i)) := by
  induction n generalizing x i with
  | zero => simp [brv]
  | succ n ih =>
    rw [brv, Nat.mul_comm, Nat.testBit_two_pow_mul_add _ (brv_lt n _)]
    rcases Nat.lt_trichotomy i n with low | rfl | above
    · rw [if_pos low, ih, Nat.testBit_div_two, show n - 1 - i + 1 = n + 1 - 1 - i by omega]
      simp [low, Nat.lt_succ_of_lt low]
    · simp
    · have bit : x % 2 < 2 ^ (i - n) := (Nat.mod_lt x two_pos).trans_le (Nat.le_self_pow (by omega) 2)
      simp [Nat.testBit_lt_two_pow bit, show ¬ i < n by omega, show ¬ i < n + 1 by omega]

theorem brv_brv {n x : Nat} (hx : x < 2 ^ n) : brv n (brv n x) = x := by
  refine Nat.eq_of_testBit_eq fun i => ?_
  rw [testBit_brv, testBit_brv]
  by_cases inside : i < n
  · rw [show n - 1 - (n - 1 - i) = i by omega]
    simp [inside, show n - 1 - i < n by omega]
  · simp [inside, Nat.testBit_lt_two_pow (hx.trans_le (Nat.pow_le_pow_right (by omega) (Nat.le_of_not_lt inside)))]

section Bitrev
variable {width d t : Nat}

/-- The bits above the width stay, so a reversal keeps to its power of two. -/
theorem bitrevSource_lt (hw : width ≤ d) (ht : t < 2 ^ d) : bitrevSource width t < 2 ^ d := by
  obtain ⟨e, rfl⟩ := Nat.exists_eq_add_of_le hw
  have upper : t / 2 ^ width < 2 ^ e := Nat.div_lt_of_lt_mul (by rwa [← pow_add])
  calc bitrevSource width t < (t / 2 ^ width + 1) * 2 ^ width := by
        have := brv_lt width (t % 2 ^ width)
        unfold bitrevSource
        rw [Nat.succ_mul]
        omega
    _ ≤ 2 ^ e * 2 ^ width := Nat.mul_le_mul_right _ upper
    _ = 2 ^ (width + e) := by ring

theorem bitrevSource_div : bitrevSource width t / 2 ^ width = t / 2 ^ width := by
  unfold bitrevSource
  rw [Nat.add_comm, Nat.add_mul_div_right _ _ (by positivity), Nat.div_eq_of_lt (brv_lt _ _), Nat.zero_add]

theorem bitrevSource_mod : bitrevSource width t % 2 ^ width = brv width (t % 2 ^ width) :=
  Nat.mul_add_mod_of_lt (brv_lt _ _)

theorem bitrevSource_bitrevSource : bitrevSource width (bitrevSource width t) = t := by
  rw [bitrevSource.eq_1 width (bitrevSource width t), bitrevSource_div, bitrevSource_mod, brv_brv (Nat.mod_lt _ (by positivity)),
    Nat.div_add_mod']

end Bitrev

/-- Settles O60, map by map. -/
theorem permutationMapsAreInverses : Obligations.PermutationMapsAreInverses := by
  intro logn k j h w t d width
  refine ⟨mul_kInverse_mod, fun _ hl hk hj => ⟨(coefSource_spells logn k j).1, coefSource_mul_mod hl hk hj⟩,
    fun hh _ hj => ⟨transposeSource_lt hh hj, transposeSource_transposeSource hj⟩, transposeSource_one_left,
    transposeSource_one_right, fun hw ht => ⟨bitrevSource_lt hw ht, bitrevSource_bitrevSource⟩⟩

end Sys2Proof.Machine

/-! SUPPORT. COMMIT_UNIT, once: the passes of which kind of unit it runs, and how a unit that has committed or failed ends
(R44, R71, R78, R111, R255). -/
namespace Sys2Proof.Machine

/-! ### Which passes run -/

/-- COMMIT_UNIT of a command in flight runs in its tenant's context (R297). -/
theorem exec_commitUnit_of {s : State} {id : Nat} {ev : UnitEvent} {c : Cmd} {x b : Blk} (h : cmdOf s.blk id = some c)
    (hx : commitUnit id ev (ofCtx c.port s.blk) = x) (hb : { x with ctx := s.blk.ctx } = b) :
    exec (.commitUnit id ev) s = .next { s with blk := b } := by
  subst hx hb
  show onBlk (onCmd id (commitUnit id ev)) s = _
  unfold onBlk onCmd
  rw [h]
  rfl

/-- Whether a unit is due does not depend on the context of the access under way. -/
theorem passesDue_ofCtx {b : Blk} {id : Nat} {c : Cmd} {op : Op} (h : passesDue b id c op) (p : Nat) :
    passesDue (ofCtx p b) id c op := h

theorem isCatalogue_of_isSetCmd {op : Op} (h : isSetCmd op = true) : isCatalogue op = true := by
  revert h
  cases op <;> decide

section Due
variable {b : Blk} {id : Nat} {c : Cmd} {op : Op} (hd : passesDue b id c op) (ev : UnitEvent)
include hd

/-- A unit that is due runs the passes of its kind. -/
theorem commitUnit_of_due (hc : isCatalogue op = true) :
    commitUnit id ev b =
      if op = .accClear then runClear c b else if isSetCmd op then runSet op c ev b else runItems op c ev b := by
  obtain ⟨⟨hid, hst⟩, hop, hfetched, hwait⟩ := hd
  simp only [commitUnit, hid, hop, hst, hc, hfetched, hwait, ne_eq, not_true_eq_false, Bool.not_true, Bool.false_eq_true,
    or_self, if_false]

theorem commitUnit_of_set (hs : isSetCmd op = true) (hne : op ≠ .accClear) : commitUnit id ev b = runSet op c ev b := by
  rw [commitUnit_of_due hd ev (isCatalogue_of_isSetCmd hs), if_neg hne, if_pos hs]

theorem commitUnit_of_items (hc : isCatalogue op = true) (hs : isSetCmd op = false) :
    commitUnit id ev b = runItems op c ev b := by
  have hne : op ≠ .accClear := fun e => by rw [e] at hs; cases hs
  rw [commitUnit_of_due hd ev hc, if_neg hne, if_neg (by simp [hs])]

end Due

/-! ### The end of a unit -/

section Ends
variable {b : Blk} {c : Cmd} {r0 r1 : Nat}

theorem unitDone_of_last (h : unitsOf c.desc ≤ c.unit + 1) :
    unitDone c r0 r1 b = finishCmd c .ok ((c.res0 + r0) % tallyM) ((c.res1 + r1) % tallyM) b :=
  if_neg (Nat.not_lt.mpr h)

theorem unitDone_of_more (h : c.unit + 1 < unitsOf c.desc) (hi : c.interrupt = 0) :
    unitDone c r0 r1 b = updCmd c.id (fun _ => { (freshUnit c) with
      unit := c.unit + 1, res0 := (c.res0 + r0) % tallyM, res1 := (c.res1 + r1) % tallyM }) b :=
  (if_pos h).trans (if_neg (not_not.mpr hi))

theorem unitFails_eq (h : canComplete c b) (code : Code) :
    unitFails c code r0 r1 b =
      if multiUnit c.desc then completed c code c.res0 c.res1 b else completed c code r0 r1 b := by
  unfold unitFails
  rw [finishCmd_eq h, finishCmd_eq h]

end Ends

/-! ### ACC.CLEAR (R70, R107, R122) -/

/-- Clearing changes memory with its parity, the KEY flags of ACCs and the reuse latches only. -/
theorem clearAccs_eq (c : Cmd) (b : Blk) :
    clearAccs c b = { b with
      mem := (clearAccs c b).mem, bad := (clearAccs c b).bad, accKey := (clearAccs c b).accKey
      latches := (clearAccs c b).latches } := by
  unfold clearAccs
  exact foldl_keeps
    (P := fun x : Blk => x = { b with mem := x.mem, bad := x.bad, accKey := x.accKey, latches := x.latches }) _ rfl
    fun x p h => by rw [h]; rfl

/-- What it clears does not depend on the context of the access under way. -/
theorem clearAccs_ofCtx (c : Cmd) (p : Nat) (b : Blk) : clearAccs c (ofCtx p b) = ofCtx p (clearAccs c b) := by
  unfold clearAccs
  exact List.foldl_hom (ofCtx p) (g₁ := fun x t => setAccKey t false (zeroKeys (frameKey t 24 0) 0x40000 x))
    (init := emptyLatches (setPhys b c.desc) b) fun _ _ => rfl

/-- A byte that reads zero goes on reading zero when a range is cleared. -/
theorem memGet_memClear_zero {m : List Host.Cell} {j : Nat} (h : memGet m j = 0) (k n : Nat) : memGet (memClear m k n) j = 0 := by
  by_cases inside : k ≤ j ∧ j < k + n
  · exact memGet_memClear_inside inside.1 inside.2
  · rw [memGet_memClear_outside (by omega), h]

/-- Every byte of a cleared ACC reads zero: its tile's step clears it, and no later step writes. -/
theorem memGet_clearAccs {c : Cmd} {b : Blk} {p k : Nat} (hp : p ∈ setPhys b c.desc) (lo : frameKey p 24 0 ≤ k)
    (hi : k < frameKey p 24 0 + 0x40000) : memGet (clearAccs c b).mem k = 0 := by
  unfold clearAccs
  generalize emptyLatches (setPhys b c.desc) b = x
  generalize setPhys b c.desc = tiles at hp ⊢
  induction tiles generalizing x with
  | nil => cases hp
  | cons a l ih =>
    rw [List.foldl_cons]
    rcases List.mem_cons.mp hp with rfl | later
    · exact foldl_keeps (P := fun y : Blk => memGet y.mem k = 0) l (memGet_memClear_inside lo hi)
        fun y q h => memGet_memClear_zero h ..
    · exact ih _ later

theorem unitsOf_accClear {d : Desc} (h : opOf d = some .accClear) : unitsOf d = 1 := by
  unfold unitsOf
  rw [h]

/-- On one die, the unit of ACC.CLEAR clears and completes. -/
theorem commitUnit_of_clear {b : Blk} {id : Nat} {c : Cmd} (hd : passesDue b id c .accClear)
    (one : (tsetOf c.desc.tset).logD = 0) (ev : UnitEvent) :
    commitUnit id ev b = finishCmd c .ok (c.res0 % tallyM) (c.res1 % tallyM) (clearAccs c b) := by
  rw [commitUnit_of_due hd ev rfl, if_pos rfl]
  unfold runClear
  rw [if_pos one, unitDone_of_last (by rw [unitsOf_accClear hd.2.1]; omega)]
  rfl

/-- Settles O30: COMMIT_UNIT is `clearAccs` and a completion, and a cleared ACC reads zero. -/
theorem clearedAccumulatorsReadZero : Obligations.ClearedAccumulatorsReadZero := by
  intro s id ev c b begun zeroed due one ends
  have found : cmdOf b id = some c := due.1.1
  have cleared : clearAccs c b = zeroed := rfl
  have only := clearAccs_eq c b
  rw [cleared] at only
  have left : canComplete c zeroed := by
    rw [only]
    exact canComplete_congr (b := b) rfl rfl rfl ends
  refine ⟨exec_commitUnit_of found (commitUnit_of_clear (passesDue_ofCtx due c.port) one ev) ?_,
    fun p mem k => memGet_clearAccs mem⟩
  rw [clearAccs_ofCtx, ← finishIn_eq (p := c.port) left]
  unfold inCtx
  rw [congrArg Blk.ctx only]
  rfl

end Sys2Proof.Machine

/-! SUPPORT. What the steps of a commit unit leave alone: memory, the marks of registers, the Gallery's state and the fabric
(R44, R82, R107). -/
namespace Sys2Proof.Machine

/-! ### What stays between two blocks -/

/-- The requests to other dies and what they have sent stay, and the die's own number. -/
structure SameGallery (x y : Blk) : Prop where
  gal : y.gal = x.gal
  fab : y.fab = x.fab

/-- So do the tags and flags of registers. -/
structure SameMarks (x y : Blk) : Prop extends SameGallery x y where
  regs : y.regs = x.regs

/-- So does memory: no byte of any store is written. -/
structure SameStores (x y : Blk) : Prop extends SameMarks x y where
  mem : y.mem = x.mem

theorem SameStores.refl (x : Blk) : SameStores x x := ⟨⟨⟨rfl, rfl⟩, rfl⟩, rfl⟩

section Changes
variable {x y z : Blk}

/-- A further change that leaves all four alone. -/
theorem SameStores.of_eq (h : SameStores x y) (hg : z.gal = y.gal) (hf : z.fab = y.fab) (hr : z.regs = y.regs)
    (hm : z.mem = y.mem) : SameStores x z :=
  ⟨⟨⟨hg.trans h.gal, hf.trans h.fab⟩, hr.trans h.regs⟩, hm.trans h.mem⟩

theorem SameStores.trans (h : SameStores x y) (g : SameStores y z) : SameStores x z := h.of_eq g.gal g.fab g.regs g.mem

theorem SameStores.ite {p : Prop} [Decidable p] (h : SameStores x y) (g : SameStores x z) :
    SameStores x (if p then y else z) := by
  split <;> assumption

end Changes

section Stores
variable {x b : Blk} (h : SameStores x b)
include h

/-! ### Latches, lines and counters -/

theorem updCmd_stores (id : Nat) (f : Cmd → Cmd) : SameStores x (updCmd id f b) := h.of_eq rfl rfl rfl rfl

theorem emptyLatches_stores (l : List Nat) : SameStores x (emptyLatches l b) := h.of_eq rfl rfl rfl rfl

theorem readLatches_stores (keys : List Nat) : SameStores x (readLatches keys b) :=
  foldl_keeps keys h fun _ _ g => .ite (g.of_eq rfl rfl rfl rfl) g

theorem touchLine_stores (p a used : Nat) (write : Bool) : SameStores x (touchLine p a used write b) :=
  .ite (h.of_eq rfl rfl rfl rfl) h

theorem touchLines_stores (p : Nat) (l : List Nat) (write : Bool) : SameStores x (touchLines p l write b) :=
  foldl_keeps _ h fun _ a g => touchLine_stores g p (a * 512) 512 write

theorem countMoved_stores (p n : Nat) : SameStores x (countMoved p n b) := .ite (h.of_eq rfl rfl rfl rfl) h

/-! ### Records and the faults they count -/

theorem sumpPut_stores (event : Nat) (code : Option Code) (p q tag at_ detail : Nat) :
    SameStores x (sumpPut event code p q tag at_ detail b) := h.of_eq (by simp) (by simp) (by simp) (by simp)

theorem tallyRecord_stores (c : Cmd) (places : List Nat) (limbs : Nat) (z : Bool) (coll : Option (Nat × Nat)) (unit : Nat) :
    SameStores x (tallyRecord c places limbs z coll unit b) := sumpPut_stores h ..

theorem twinRecord_stores (c : Cmd) (code : Code) (dis : List (Nat × Nat)) (prim twin diff : Bool) (place unit : Nat) :
    SameStores x (twinRecord c code dis prim twin diff place unit b) := sumpPut_stores h ..

theorem markDue_stores (p : Nat) : SameStores x (markDue p b) := .ite h (h.of_eq rfl rfl rfl rfl)

theorem attributeFault_stores (p : Nat) : SameStores x (attributeFault p b) := by
  have counted : ∀ l, SameStores x { b with vlt := { b.vlt with faults := l } } := fun l => h.of_eq rfl rfl rfl rfl
  exact .ite (markDue_stores (counted _) p) (counted _)

theorem countRepeat_stores (p : Nat) : SameStores x (countRepeat p b) := by
  have counted : ∀ l, SameStores x { b with vlt := { b.vlt with repeats := l } } := fun l => h.of_eq rfl rfl rfl rfl
  exact .ite ((sumpPut_stores (counted _) ..).of_eq rfl rfl rfl rfl) (counted _)

/-- What is done to the tile that a place is bound to, where it is bound. -/
theorem atTile_stores {f : Nat → Blk → Blk} (hf : ∀ p, SameStores x (f p b)) (t : Option Nat) :
    SameStores x (match t with | some p => f p b | none => b) := by
  cases t with
  | none => exact h
  | some p => exact hf p

theorem countPlaces_stores (op : Op) (c : Cmd) (copy : Nat) (t : Tallied) : SameStores x (countPlaces op c copy t b) :=
  .ite h (foldl_keeps _ h fun _ _ g => atTile_stores g (countRepeat_stores g) _)

/-- Both copies of a twin command are counted where a tally failed. -/
theorem countCopies_stores (op : Op) (c : Cmd) (t0 t1 : Tallied) (bad : Bool) :
    SameStores x (if bad then countPlaces op c 1 t1 (countPlaces op c 0 t0 b) else b) :=
  .ite (countPlaces_stores (countPlaces_stores h ..) ..) h

theorem attributeTwin_stores (c : Cmd) (t0 t1 : Tallied) (diff : Bool) : SameStores x (attributeTwin c t0 t1 diff b) :=
  .ite (foldl_keeps _ h fun _ _ g => atTile_stores g (attributeFault_stores g) _) h

end Stores

/-! ### The checks of a unit -/

/-- What the checks of a unit answer: no code and the block as it was, or a mismatch, its record written beside stores that
stay. -/
inductive Judged (b : Blk) : Blk × Option Code → Prop
  | agrees : Judged b (b, none)
  | mismatch {e : Blk} {code : Code} (named : code = .tallyMismatch ∨ code = .twinMismatch) (same : SameStores b e) :
      Judged b (e, some code)

theorem Judged.eq_of_none {b e : Blk} (h : Judged b (e, none)) : e = b := by
  cases h
  rfl

theorem Judged.of_code {b e : Blk} {code : Code} (h : Judged b (e, some code)) :
    (code = .tallyMismatch ∨ code = .twinMismatch) ∧ SameStores b e := by
  cases h with
  | mismatch named same => exact ⟨named, same⟩

/-- The code of a twin command that fails. -/
theorem mismatch_named (tally : Bool) :
    (if tally then Code.tallyMismatch else .twinMismatch) = .tallyMismatch
    ∨ (if tally then Code.tallyMismatch else .twinMismatch) = .twinMismatch := by
  cases tally
  · exact .inr rfl
  · exact .inl rfl

theorem checkSet_judged (op : Op) (c : Cmd) (outs : List CopyOut) (b : Blk) : Judged b (checkSet op c outs b) := by
  have same := SameStores.refl b
  unfold checkSet
  match outs with
  | [] => exact .agrees
  | [o] =>
    dsimp only
    split
    · exact .mismatch (.inl rfl) (countPlaces_stores (tallyRecord_stores same ..) ..)
    · exact .agrees
  | [o0, o1] =>
    dsimp only
    split
    · exact .mismatch (mismatch_named _)
        (attributeTwin_stores (countCopies_stores (twinRecord_stores (.ite (tallyRecord_stores same ..) same) ..) ..) ..)
    · exact .agrees
  | _ :: _ :: _ :: _ => exact .agrees

theorem checkItems_judged (op : Op) (c : Cmd) (outs : List CopyOut) (b : Blk) : Judged b (checkItems op c outs b) := by
  have same := SameStores.refl b
  unfold checkItems
  match outs with
  | [] => exact .agrees
  | [o] =>
    dsimp only
    split
    · exact .mismatch (.inl rfl) (tallyRecord_stores same ..)
    · exact .agrees
  | [o0, o1] =>
    dsimp only
    split
    · exact .mismatch (mismatch_named _) (twinRecord_stores same ..)
    · exact .agrees
  | _ :: _ :: _ :: _ => exact .agrees

theorem cleanRun_parity : cleanRun.parity = [] := rfl

/-- A unit that consults no bad moduli entry, reads no bad byte and meets no event loses nothing (R248). -/
theorem meetParity_of_clean {b : Blk} {keys : List Nat} (h : firstBad b keys = none) (c : Cmd) (unit : Nat) :
    meetParity c unit false keys [] b = (b, false) := by
  simp only [meetParity, h, Bool.false_eq_true, if_false]
  rfl

end Sys2Proof.Machine

/-! SUPPORT. COMMIT_UNIT of a tile-set command on one die: the passes of its unit, its checks, and its commit or its failure
(R44, R82, R92, R107, R253, R255, R260). -/
namespace Sys2Proof.Machine

/-- The command with its passes begun (R103). -/
def setStarted (c : Cmd) : Cmd := { c with started := true }

/-- The block as the passes of a unit find it: the command begun, the latches of its tiles empty at its first unit (R107). -/
def setReady (c : Cmd) (b : Blk) : Blk :=
  updCmd c.id (fun _ => setStarted c) (if c.started then b else emptyLatches (setPhys b c.desc) b)

/-- The keys of the granules that the copies of a unit read. -/
def keysRead (outs : List CopyOut) : List Nat := outs.flatMap (fun o => o.reads.map (·.2))

/-- A copy's residues, as a completion record gives them (R255). -/
def unitResidue (b : Blk) (op : Op) (c : Cmd) (weighted : Bool) (outs : List CopyOut) : Nat :=
  resSum (residueMod b op c) weighted (outs.headD {}).outs

/-- The block with what every copy has brought in the phase banks (R81). -/
def setLanded (c : Cmd) (outs : List CopyOut) (b : Blk) : Blk :=
  outs.zipIdx.foldl (fun x o => countMoved c.port o.1.landed.length (fillBanks c.desc o.2 o.1.landed x)) b

/-- The block with a tile-set unit committed. -/
def setCommitted (op : Op) (c : Cmd) (outs : List CopyOut) (b : Blk) : Blk :=
  commitSet op c (keyClass (setLanded c outs b) op c) (setLanded c outs b)

theorem setReady_stores (c : Cmd) (b : Blk) : SameStores b (setReady c b) :=
  updCmd_stores (.ite (.refl b) (emptyLatches_stores (.refl b) _)) ..

/-- What the sections of a phase-control stream answer does not depend on the latches. -/
theorem sectionOutcome_emptyLatches (l : List Nat) (b : Blk) (op : Op) (c : Cmd) :
    sectionOutcome (emptyLatches l b) op c = sectionOutcome b op c := rfl

section Unit
variable {b e : Blk} {op : Op} {c : Cmd} {outs : List CopyOut}

/-- Past its pass start and its sections, a unit on one die runs its passes to their end. -/
theorem runSet_of_pass (hs : c.started = true ∨ passStart b op c = none) (hp : sectionOutcome b op (setStarted c) = none)
    (one : (tsetOf c.desc.tset).logD = 0) (ev : UnitEvent) :
    runSet op c ev b =
      (let outs := (copiesOf c.desc).map (setCopy (setReady c b) op (setStarted c) ev)
       endSet op (setStarted c) ev outs (readLatches (keysRead outs) (setReady c b))) := by
  have begins : (if c.started then none else passStart b op c) = none := by
    rcases hs with started | passes
    · rw [if_pos started]
    · rw [passes, ite_self]
  have answers : sectionOutcome (if c.started then b else emptyLatches (setPhys b c.desc) b) op (setStarted c) = none := by
    split
    · exact hp
    · rw [sectionOutcome_emptyLatches, hp]
  unfold setStarted at answers
  unfold runSet
  simp only [begins, answers, one]
  rfl

section Clean
variable (ht : tableFails b op c = false) (hb : firstBad b (keysRead outs) = none)
include ht hb

/-- A unit whose checks agree commits, and ends. -/
theorem endSet_of_agree (hc : checkSet op c outs b = (e, none)) :
    endSet op c cleanRun outs b
      = unitDone c (unitResidue b op c false outs) (unitResidue b op c true outs) (setCommitted op c outs b) := by
  have same : e = b := (hc ▸ checkSet_judged op c outs b).eq_of_none
  subst same
  unfold keysRead at hb
  simp only [endSet, ht, cleanRun_parity, meetParity_of_clean hb, hc, Bool.false_eq_true, if_false]
  rfl

/-- One whose checks find a mismatch fails with it. -/
theorem endSet_of_mismatch {code : Code} (hc : checkSet op c outs b = (e, some code)) :
    endSet op c cleanRun outs b
      = unitFails c code (unitResidue b op c false outs) (unitResidue b op c true outs) e := by
  unfold keysRead at hb
  simp only [endSet, ht, cleanRun_parity, meetParity_of_clean hb, hc, Bool.false_eq_true, if_false]
  rfl

end Clean
end Unit

/-- Settles O31: a unit runs to the end of its passes (`runSet_of_pass`), where its checks decide. -/
theorem tileSetUnitsCommitOrFailWhole : Obligations.TileSetUnitsCommitOrFailWhole := by
  intro s id c op e b back begun now ready outs keys read landed put r0 r1 t0 t1 after failed due isSet notClear one quiet
    begins sections table good
  have found : cmdOf s.blk id = some c := due.1.1
  have runs : commitUnit id cleanRun b = endSet op now cleanRun outs read :=
    (commitUnit_of_set (passesDue_ofCtx due c.port) cleanRun isSet notClear).trans (runSet_of_pass begins sections one cleanRun)
  refine ⟨fun agrees => ?_, fun code differs ends => ?_⟩
  · have done : commitUnit id cleanRun b = unitDone now r0 r1 put := runs.trans (endSet_of_agree table good agrees)
    refine ⟨fun isLast ends => ?_, fun isMore => ?_⟩
    · exact exec_commitUnit_of found ((done.trans (unitDone_of_last isLast)).trans (finishCmd_eq ends ..)) rfl
    · exact exec_commitUnit_of found (done.trans (unitDone_of_more isMore quiet)) rfl
  · have judged : Judged read (e, some code) := differs ▸ checkSet_judged op now outs read
    obtain ⟨named, recorded⟩ := judged.of_code
    have stays : SameStores b e := (readLatches_stores (setReady_stores c b) keys).trans recorded
    have fails : commitUnit id cleanRun b = unitFails now code r0 r1 e :=
      runs.trans (endSet_of_mismatch table good differs)
    exact ⟨named, stays.mem, stays.regs, exec_commitUnit_of found (fails.trans (unitFails_eq ends code)) rfl⟩

end Sys2Proof.Machine

/-! SUPPORT. COMMIT_UNIT of a block command or plain MOVE with nothing on another die: its pages, its passes, its checks, and its
commit or its failure (R44, R63 to R66, R72, R73, R253, R255, R260, R363). -/
namespace Sys2Proof.Machine

/-! ### Other dies -/

/-- Nothing of another die has come. -/
def nothingFar (b : Blk) : Prop := b.gal.remote = [] ∧ b.gal.remoteRegs = [] ∧ b.gal.remoteBad = []

/-- Then there is nothing to drop. -/
theorem dropRemote_of_nothingFar {b : Blk} (h : nothingFar b) (l : List Nat) : dropRemote l b = b := by
  obtain ⟨hr, hm, hb⟩ := h
  unfold dropRemote
  rw [hr, hm, hb]
  simp only [tabKeep, List.filter_nil]
  rw [← hr, ← hm, ← hb]

theorem isRemote_congr {x y : Blk} (h : y.fab = x.fab) (a : Nat) : isRemote y a = isRemote x a := by
  unfold isRemote dieOf
  rw [h]

section Gallery
variable {x y z : Blk}

theorem SameGallery.trans (h : SameGallery x y) (g : SameGallery y z) : SameGallery x z :=
  ⟨g.gal.trans h.gal, g.fab.trans h.fab⟩

theorem nothingFar_of_same (h : nothingFar x) (g : SameGallery x y) : nothingFar y := by
  unfold nothingFar
  rw [g.gal]
  exact h

end Gallery

/-! ### What staging and writing leave alone -/

section Staging
variable {x b : Blk} (h : SameMarks x b)
include h

theorem putGranuleKey_marks (k : Nat) (g : Granule) : SameMarks x (putGranuleKey k g b) := ⟨⟨h.gal, h.fab⟩, h.regs⟩

theorem stageBlock_marks (c : Cmd) (copy slot : Nat) (vs : List Granule) : SameMarks x (stageBlock c copy slot vs b) :=
  foldl_keeps _ h fun _ _ g => putGranuleKey_marks g ..

theorem stageBlocks_marks (op : Op) (c : Cmd) (copy : Nat) (o : CopyOut) : SameMarks x (stageBlocks op c copy o b) := by
  unfold stageBlocks
  dsimp only
  split
  · exact h
  · split
    · refine foldl_keeps _ h fun y a g => ?_
      split
      · exact stageBlock_marks g ..
      · exact g
    · exact foldl_keeps _ h fun _ _ g => stageBlock_marks g ..

end Staging

theorem markWrites_gallery {x b : Blk} (h : SameGallery x b) (l : List (Nat × Tag)) (key : Bool) :
    SameGallery x (markWrites l key b) :=
  foldl_keeps l h fun _ _ g => ⟨g.gal, g.fab⟩

/-- Writes to this die's own stores send nothing. -/
theorem writeItems_gallery {x b : Blk} (h : SameGallery x b) {items : List Item} {copy : Nat}
    (here : ∀ i ∈ items, isRemote x (twinAddr copy i.dst) = false) (op : Op) (c : Cmd) (key : Bool) (o : CopyOut) :
    SameGallery x (writeItems op c key items copy o b) := by
  refine List.foldlRecOn _ _ h fun y g e he => ?_
  have local_ : isRemote y (twinAddr copy e.1.dst) = false := by
    rw [isRemote_congr g.fab, here e.1 (List.of_mem_zip he).1]
  simp only [local_, Bool.false_eq_true, if_false]
  repeat' split
  all_goals exact ⟨g.gal, g.fab⟩

/-- A twin's place is on this die when the block's own and its second tile are. -/
theorem isRemote_twinAddr {b : Blk} {a : Nat} (h0 : isRemote b a = false) (h1 : isRemote b (twinAddr 1 a) = false) (copy : Nat) :
    isRemote b (twinAddr copy a) = false := by
  by_cases twin : copy = 1
  · rw [twin, h1]
  · rw [twinAddr, if_neg (fun h => twin h.1), h0]

/-! ### The start of a unit -/

/-- The command with its passes begun, none of its registers on another die (R103, R104). -/
def itemsBegun (c : Cmd) : Cmd := { c with started := true, farKey := c.started && c.farKey }

theorem itemsBegun_eq (c : Cmd) : (if c.started then c else { c with started := true, farKey := false }) = itemsBegun c := by
  unfold itemsBegun
  cases hs : c.started
  · rfl
  · simp only [if_true, Bool.true_and]
    rw [← hs]

/-- The block as the passes of a unit find it. -/
def itemsReady (c : Cmd) (b : Blk) : Blk :=
  if c.started then b
  else emptyLatches ((usedTiles b c).filterMap (physOf b)) (updCmd c.id (fun _ => itemsBegun c) b)

theorem itemsReady_stores (c : Cmd) (b : Blk) : SameStores b (itemsReady c b) :=
  .ite (.refl b) (emptyLatches_stores (updCmd_stores (.refl b) ..) _)

theorem itemsReady_qs (c : Cmd) (b : Blk) : (itemsReady c b).qs = b.qs := by unfold itemsReady; split <;> rfl

theorem itemsReady_xlat (c : Cmd) (b : Blk) : (itemsReady c b).xlat = b.xlat := by unfold itemsReady; split <;> rfl

/-- Every address that a unit's copies read. -/
def unitReads (op : Op) (c : Cmd) : List Nat := (copiesOf c.desc).flatMap (fun k => (unitItems op c).flatMap (itemReads k))

/-- What the pages of a unit answer (R26, R363). -/
def unitPages (op : Op) (c : Cmd) (b : Blk) : Option (Nat × Code) :=
  pageOutcome (refused b (unitReads op c ++ (unitItems op c).map (·.dst)))

/-- What they answer does not depend on a unit having begun. -/
theorem unitPages_itemsReady (op : Op) (k c : Cmd) (b : Blk) : unitPages op k (itemsReady c b) = unitPages op k b := by
  unfold itemsReady
  split <;> rfl

/-- A unit past its pass start: its pages, the granules of other dies, then its passes (R44, R103). -/
def itemsPastStart (op : Op) (c : Cmd) (ev : UnitEvent) (b : Blk) : Blk :=
  match unitPages op c b with
  | some x => pageFails c x b
  | none =>
    if !readsHere b (unitReads op c) then requestReads c.id (unitReads op c) b
    else match remoteFails b (unitReads op c) with
      | a :: _ => farFails c a (unitReads op c) b
      | [] => passItems op c ev (unitReads op c) b

section Start
variable {b : Blk} {op : Op} {c : Cmd}
  (hs : c.started = true ∨ (passStart b op c = none ∧ probes b op c = [])) (far : nothingFar b)
include hs

theorem startItems_of_pass : startItems op c b = some (.ok (itemsBegun c)) := by
  rw [← itemsBegun_eq]
  unfold startItems
  cases started : c.started with
  | true => rfl
  | false =>
    obtain ⟨passes, none_far⟩ : passStart b op c = none ∧ probes b op c = [] := by simpa [started] using hs
    have nothing_told : farStart op c (remoteMarks b []) = none := by simp [farStart, remoteMarks]
    simp only [passes, none_far, nothing_told, Bool.false_eq_true, if_false]
    rfl

include far

/-- A unit that may begin does, with nothing of another die to drop. -/
theorem runItems_of_pass (ev : UnitEvent) : runItems op c ev b = itemsPastStart op (itemsBegun c) ev (itemsReady c b) := by
  have ready : (if c.started then b else dropRemote (probes b op c)
      (emptyLatches ((usedTiles b c).filterMap (physOf b)) (updCmd c.id (fun _ => itemsBegun c) b))) = itemsReady c b := by
    rw [dropRemote_of_nothingFar (b := emptyLatches _ (updCmd c.id (fun _ => itemsBegun c) b)) far]
    rfl
  simp only [runItems, startItems_of_pass hs, ready]
  rfl

/-- A unit whose pages do not all answer ends there. -/
theorem runItems_of_pages {x : Nat × Code} (hp : unitPages op (itemsBegun c) b = some x) (ev : UnitEvent) :
    runItems op c ev b = pageFails (itemsBegun c) x (itemsReady c b) := by
  rw [runItems_of_pass hs far, itemsPastStart, unitPages_itemsReady, hp]

/-- One whose pages answer, with nothing on another die, runs its passes. -/
theorem runItems_of_here (hp : unitPages op (itemsBegun c) b = none)
    (here : ∀ a ∈ unitReads op (itemsBegun c), isRemote b a = false) (ev : UnitEvent) :
    runItems op c ev b = passItems op (itemsBegun c) ev (unitReads op (itemsBegun c)) (itemsReady c b) := by
  have here' : ∀ a ∈ unitReads op (itemsBegun c), isRemote (itemsReady c b) a = false := fun a ha =>
    (isRemote_congr (itemsReady_stores c b).fab a).trans (here a ha)
  have come : readsHere (itemsReady c b) (unitReads op (itemsBegun c)) = true := by
    unfold readsHere
    exact List.all_eq_true.mpr fun a ha => by simp [here' a ha]
  have sound : remoteFails (itemsReady c b) (unitReads op (itemsBegun c)) = [] := by
    unfold remoteFails
    exact List.filter_eq_nil_iff.mpr fun a ha => by simp [here' a ha]
  rw [runItems_of_pass hs far, itemsPastStart, unitPages_itemsReady, hp, come, sound]
  rfl

end Start

/-! ### The passes of a unit and their end -/

/-- What the copies of a unit bring. -/
def itemOuts (op : Op) (c : Cmd) (b : Blk) : List CopyOut := (copiesOf c.desc).map (itemCopy b op c cleanRun)

/-- The block once the granules of a unit are read: their lines brought, the latches as the reads leave them. -/
def itemsRead (c : Cmd) (reads : List Nat) (outs : List CopyOut) (b : Blk) : Blk :=
  readLatches (keysRead outs) (touchLines c.port reads false b)

/-- The block once the blocks of a unit are staged (R64). -/
def itemsStaged (op : Op) (c : Cmd) (reads : List Nat) (outs : List CopyOut) (b : Blk) : Blk :=
  outs.zipIdx.foldl (fun x o => stageBlocks op c o.2 o.1 x) (itemsRead c reads outs b)

/-- A unit's writes are key-class (R104, R122). -/
def itemsKey (op : Op) (c : Cmd) (b : Blk) : Bool := c.farKey || keyClass b op c

/-- The block once every copy's granules are written at their destinations. -/
def itemsWritten (op : Op) (c : Cmd) (outs : List CopyOut) (b : Blk) : Blk :=
  outs.zipIdx.foldl (fun x o =>
    countMoved c.port o.1.landed.length (writeItems op c (itemsKey op c b) (unitItems op c) o.2 o.1 x)) b

/-- The block with a unit committed: written, its registers marked, its lines touched. -/
def itemsCommitted (op : Op) (c : Cmd) (outs : List CopyOut) (b : Blk) : Blk :=
  touchLines c.port ((unitItems op c).map (·.dst)) true
    (markWrites (itemTags (itemsWritten op c outs b) op c) (itemsKey op c b) (itemsWritten op c outs b))

/-- The command with its unit committed: the residues added, and for a gather the blocks it has staged (R64, R255). -/
def itemsDone (op : Op) (c : Cmd) (r0 r1 : Nat) : Cmd :=
  { c with
    res0 := (c.res0 + r0) % tallyM, res1 := (c.res1 + r1) % tallyM
    staged := if op = .gather then latchBlocks c.staged (unitSources op c) else c.staged }

theorem itemsStaged_marks (op : Op) (c : Cmd) (reads : List Nat) (outs : List CopyOut) (b : Blk) :
    SameMarks b (itemsStaged op c reads outs b) :=
  foldl_keeps _ (readLatches_stores (touchLines_stores (.refl b) ..) _).toSameMarks fun _ _ g => stageBlocks_marks g ..

/-- A unit whose destinations lie on this die sends nothing. -/
theorem itemsCommitted_gallery {op : Op} {c : Cmd} {b : Blk}
    (here : ∀ i ∈ unitItems op c, ∀ copy, isRemote b (twinAddr copy i.dst) = false) (outs : List CopyOut) :
    SameGallery b (itemsCommitted op c outs b) := by
  have written : SameGallery b (itemsWritten op c outs b) :=
    foldl_keeps _ (SameStores.refl b).toSameGallery fun y o g =>
      (writeItems_gallery g (fun i hi => here i hi o.2) ..).trans (countMoved_stores (.refl _) ..).toSameGallery
  exact (markWrites_gallery written ..).trans (touchLines_stores (.refl _) ..).toSameGallery

section Passes
variable {b e : Blk} {op : Op} {c : Cmd} {reads : List Nat} {outs : List CopyOut} {r0 r1 : Nat}

/-- With no write outstanding, a unit that commits has ended. -/
theorem commitItems_of_none_out (h : (itemsCommitted op c outs b).gal.xreq = []) :
    commitItems op c outs r0 r1 b = unitDone (itemsDone op c r0 r1) 0 0 (itemsCommitted op c outs b) := by
  have none_out : writesOut (itemsCommitted op c outs b) c.id = false := by
    unfold writesOut
    rw [h]
    rfl
  exact if_neg (ne_true_of_eq_false none_out)

section Clean
variable {staged : Blk} (ho : itemOuts op c b = outs) (hx : itemsStaged op c reads outs b = staged)
  (ht : tableFails (itemsRead c reads outs b) op c = false)
  (hb : firstBad (itemsRead c reads outs b) (keysRead outs) = none)
include ho hx ht hb

/-- A unit whose checks agree commits. -/
theorem passItems_of_agree (far : nothingFar b) (hc : checkItems op c outs staged = (e, none)) :
    passItems op c cleanRun reads b =
      commitItems op c outs (unitResidue staged op c false outs) (unitResidue staged op c true outs) staged := by
  have same : e = staged := (hc ▸ checkItems_judged op c outs staged).eq_of_none
  have kept : dropRemote reads staged = staged :=
    dropRemote_of_nothingFar (nothingFar_of_same far (hx ▸ itemsStaged_marks op c reads outs b).toSameGallery) reads
  subst same ho hx
  unfold itemsStaged itemsRead keysRead itemOuts at *
  simp only [passItems, ht, cleanRun_parity, meetParity_of_clean hb, hc, kept, Bool.false_eq_true, if_false]
  rfl

/-- One whose checks find a mismatch fails with it. -/
theorem passItems_of_mismatch (far : nothingFar b) {code : Code} (hc : checkItems op c outs staged = (e, some code)) :
    passItems op c cleanRun reads b =
      unitFails c code (unitResidue staged op c false outs) (unitResidue staged op c true outs) e := by
  have judged : Judged staged (e, some code) := hc ▸ checkItems_judged op c outs staged
  have stays : SameGallery b e :=
    (hx ▸ itemsStaged_marks op c reads outs b).toSameGallery.trans judged.of_code.2.toSameGallery
  have kept : dropRemote reads e = e := dropRemote_of_nothingFar (nothingFar_of_same far stays) reads
  subst ho hx
  unfold itemsStaged itemsRead keysRead itemOuts at *
  simp only [passItems, ht, cleanRun_parity, meetParity_of_clean hb, hc, kept, Bool.false_eq_true, if_false]
  rfl

end Clean
end Passes

/-! ### Pages that do not answer -/

/-- Whether a command can halt depends on its queue and what translation last answered. -/
theorem canHalt_congr {a b : Blk} {c : Cmd} (hq : a.qs = b.qs) (hx : a.xlat = b.xlat) (h : canHalt c b) : canHalt c a := by
  unfold canHalt at *
  simp only [queueOf_congr hq, xstat_ofCtx_congr hx]
  exact h

/-- The command with the address it could not reach. -/
def faultedAt (c : Cmd) (a : Nat) : Cmd := { c with faultAddr := some a }

/-- A page not present halts a command that can halt (R112, R363). -/
theorem pageFails_of_not_present {b : Blk} {c : Cmd} (h : canHalt c b) (a : Nat) :
    pageFails c (a, .faultResumable) b = haltsAs (faultedAt c a) 1 1 0 (updCmd c.id (fun _ => faultedAt c a) b) :=
  haltOrEnd_eq (c := faultedAt c a) (b := updCmd c.id (fun _ => faultedAt c a) b)
    (canHalt_congr (c := c) (b := b) rfl rfl h) 1 1 0

/-- Settles O32: a unit that begins ends at its pages (`runItems_of_pages`) or runs its passes (`runItems_of_here`), where its
checks decide. -/
theorem blockUnitsCommitOrFailWhole : Obligations.BlockUnitsCommitOrFailWhole := by
  intro s id c op e b back now
  have begun : now = itemsBegun c := itemsBegun_eq c
  clear_value now
  subst begun
  intro ready items reads pages outs keys read staged r0 r1 key written put held t0 t1 after failed at_ due isCat notSet begins
    noGranules noMarks noneBad
  have found : cmdOf s.blk id = some c := due.1.1
  have far : nothingFar b := ⟨noGranules, noMarks, noneBad⟩
  have enters : ∀ ev, commitUnit id ev b = runItems op c ev b := fun ev =>
    commitUnit_of_items (passesDue_ofCtx due c.port) ev isCat notSet
  refine ⟨fun answers here noRequests quiet table good => ?_, fun a ev absent halts => ?_, fun a ev denied ends => ?_⟩
  · have hereReads : ∀ a ∈ reads, isRemote b a = false := fun a ha => here a (List.mem_append_left _ ha)
    have hereWrites : ∀ i ∈ items, ∀ copy, isRemote b (twinAddr copy i.dst) = false := fun i hi =>
      isRemote_twinAddr (here _ (List.mem_append_right _ (List.mem_flatMap.mpr ⟨i, hi, by simp⟩)))
        (here _ (List.mem_append_right _ (List.mem_flatMap.mpr ⟨i, hi, by simp⟩)))
    have passes : commitUnit id cleanRun b = passItems op (itemsBegun c) cleanRun reads ready :=
      (enters _).trans (runItems_of_here begins far answers hereReads cleanRun)
    have stays : SameStores b ready := itemsReady_stores c b
    have stages : SameMarks ready staged := itemsStaged_marks op (itemsBegun c) reads outs ready
    have farReady : nothingFar ready := nothingFar_of_same far stays.toSameGallery
    refine ⟨fun agrees => ?_, fun code differs ends => ?_⟩
    · have sends : SameGallery staged put := itemsCommitted_gallery (op := op) (c := itemsBegun c) (b := staged)
        (fun i hi copy => (isRemote_congr (x := b) (stages.fab.trans stays.fab) _).trans (hereWrites i hi copy)) outs
      have noneOut : put.gal.xreq = [] := by
        rw [sends.gal, stages.gal, stays.gal]
        exact noRequests
      have done : commitUnit id cleanRun b = unitDone (itemsDone op (itemsBegun c) r0 r1) 0 0 put :=
        (passes.trans (passItems_of_agree rfl rfl table good farReady agrees)).trans (commitItems_of_none_out noneOut)
      refine ⟨fun isLast ends => ?_, fun isMore => ?_⟩
      · exact exec_commitUnit_of found ((done.trans (unitDone_of_last isLast)).trans (finishCmd_eq ends ..)) rfl
      · exact exec_commitUnit_of found (done.trans (unitDone_of_more isMore quiet)) rfl
    · have judged : Judged staged (e, some code) := differs ▸ checkItems_judged op (itemsBegun c) outs staged
      have recorded : SameStores staged e := judged.of_code.2
      have fails : commitUnit id cleanRun b = unitFails (itemsBegun c) code r0 r1 e :=
        passes.trans (passItems_of_mismatch rfl rfl table good farReady differs)
      exact ⟨recorded.mem, (recorded.regs.trans stages.regs).trans stays.regs,
        exec_commitUnit_of found (fails.trans (unitFails_eq ends code)) rfl⟩
  · have halting : canHalt (itemsBegun c) ready :=
      canHalt_congr (c := c) (b := s.blk) (itemsReady_qs c b) (itemsReady_xlat c b) halts
    exact exec_commitUnit_of found
      (((enters ev).trans (runItems_of_pages begins far absent ev)).trans (pageFails_of_not_present halting a)) rfl
  · exact exec_commitUnit_of found
      (((enters ev).trans (runItems_of_pages begins far denied ev)).trans (unitFails_eq ends .notOwner)) rfl

end Sys2Proof.Machine

/-! SUPPORT. What a message to another die leaves alone: all but the outputs and the link ports (R92, R227, Table GAL-3). -/
namespace Sys2Proof.Machine

theorem transmitCmd_eq (die : Nat) (b : Blk) : transmitCmd die b = { b with link := (transmitCmd die b).link } := by
  unfold transmitCmd
  split <;> rfl

theorem sendMsg_eq (op die x : Nat) (b : Blk) :
    sendMsg op die x b = { b with out := (sendMsg op die x b).out, link := (sendMsg op die x b).link } := by
  unfold sendMsg
  dsimp only
  split
  · rw [transmitCmd_eq]
  · rfl

theorem broadcast_eq (op root x : Nat) (b : Blk) :
    broadcast op root x b = { b with out := (broadcast op root x b).out, link := (broadcast op root x b).link } := by
  unfold broadcast
  exact foldl_keeps (P := fun y : Blk => y = { b with out := y.out, link := y.link }) _ rfl fun y d h => by
    rw [sendMsg_eq, h]

section Broadcast
variable (op root x : Nat) (b : Blk)

@[simp] theorem broadcast_cmds : (broadcast op root x b).cmds = b.cmds := by rw [broadcast_eq]

@[simp] theorem broadcast_gal : (broadcast op root x b).gal = b.gal := by rw [broadcast_eq]

@[simp] theorem broadcast_fab : (broadcast op root x b).fab = b.fab := by rw [broadcast_eq]

end Broadcast

/-- A die's number comes from its straps. -/
theorem dieOf_congr {x y : Blk} (h : x.fab = y.fab) : dieOf x = dieOf y := by
  unfold dieOf
  rw [h]

end Sys2Proof.Machine

/-! SUPPORT. A flag set that comes from another die, by the waits that it finds on the flag (R92, R155, R157, R209). -/
namespace Sys2Proof.Machine

section Waits
variable {b : Blk} {p f : Nat} {c : Cmd}

/-- A set flag reads set. -/
theorem flagOf_putFlag_true (p f : Nat) (b : Blk) : flagOf (putFlag p f true b) p f = true :=
  tabGet_tabPut_of_ne (by decide : true ≠ false) b.flags (p * 256 + f)

/-- Flags have no part in a completion. -/
theorem canComplete_putFlag (h : canComplete c b) (p f : Nat) (v : Bool) : canComplete c (putFlag p f v b) :=
  canComplete_congr (b := b) rfl rfl rfl h

/-- The block once a flag is set and the plain waits on it have completed (R157). -/
def plainWaitsDone (p f : Nat) (b : Blk) : Blk :=
  ((waitsOn b p f).filter (fun c => !isConsume c.desc)).foldl (fun b c => finishCmd c .ok 0 0 b) (putFlag p f true b)

/-- With no CONSUME wait on it, a flag that is set stays set. -/
theorem setFlag_of_no_consumer (h : consumerWait (waitsOn b p f) = none) : setFlag p f b = plainWaitsDone p f b := by
  have here : consumerWait (waitsOn (putFlag p f true b) p f) = none := h
  unfold setFlag evalWaits
  simp only [flagOf_putFlag_true, here, Bool.not_true, Bool.false_eq_true, if_false]
  rfl

/-- A CONSUME wait clears it and completes (R157). -/
theorem setFlag_of_consumer (h : consumerWait (waitsOn b p f) = some c) :
    setFlag p f b = finishCmd c .ok 0 0 (putFlag p f false (plainWaitsDone p f b)) := by
  have here : consumerWait (waitsOn (putFlag p f true b) p f) = some c := h
  unfold setFlag evalWaits
  simp only [flagOf_putFlag_true, here, Bool.not_true, Bool.false_eq_true, if_false]
  rfl

/-- A plain wait consumes nothing. -/
theorem consumerWait_plain (h : isConsume c.desc = false) : consumerWait [c] = none := by
  unfold consumerWait
  simp [h]

/-- A CONSUME wait alone is the one that a set satisfies. -/
theorem consumerWait_alone (h : isConsume c.desc = true) (hq : c.queue < 4) : consumerWait [c] = some c := by
  cases hw : consumerWait [c] with
  | none =>
    have unmet := List.findSome?_eq_none_iff.mp hw c.queue (List.mem_range.mpr hq)
    simp [h] at unmet
  | some x =>
    obtain ⟨q, -, hx⟩ := List.exists_of_findSome?_eq_some hw
    rw [List.mem_singleton.mp (List.mem_of_find?_eq_some hx)]

theorem plainWaitsDone_nil (h : waitsOn b p f = []) : plainWaitsDone p f b = putFlag p f true b := by
  unfold plainWaitsDone
  rw [h]
  rfl

theorem plainWaitsDone_plain (h : waitsOn b p f = [c]) (hc : isConsume c.desc = false) :
    plainWaitsDone p f b = finishCmd c .ok 0 0 (putFlag p f true b) := by
  unfold plainWaitsDone
  rw [h]
  simp [hc]

theorem plainWaitsDone_consume (h : waitsOn b p f = [c]) (hc : isConsume c.desc = true) :
    plainWaitsDone p f b = putFlag p f true b := by
  unfold plainWaitsDone
  rw [h]
  simp [hc]

end Waits

section Message
variable {s : State} {p f die cmd : Nat}

/-- A flag set of a member for a flag of a tenant is passed on, sets the flag, and is acknowledged. -/
theorem exec_flagSetMessage_of_peer (hp : p < 5) (hf : f < 256) (hd : isPeer s.blk die = true) {x : Blk}
    (hx : setFlag p f (broadcast 8 die f (landMail 8 die cmd s.blk)) = x) :
    exec (.flagSetMessage p ⟨f, ⟨die, cmd⟩⟩) s = .next { s with blk := sendMsg 7 (towardsDie s.blk die) cmd x } := by
  subst hx
  show onBlk (flagMessage p f die cmd) s = _
  unfold onBlk flagMessage
  rw [if_pos ⟨hp, hf, hd⟩]

/-- Any other changes nothing. -/
theorem exec_flagSetMessage_of_stranger (h : 5 ≤ p ∨ 256 ≤ f ∨ isPeer s.blk die = false) :
    exec (.flagSetMessage p ⟨f, ⟨die, cmd⟩⟩) s = .next s := by
  have dropped : ¬ (p < 5 ∧ f < 256 ∧ isPeer s.blk die = true) := by
    rintro ⟨hp, hf, hd⟩
    simp only [hd, Bool.true_eq_false, or_false] at h
    omega
  show onBlk (flagMessage p f die cmd) s = _
  unfold onBlk flagMessage
  rw [if_neg dropped]

end Message

/-- Settles O25, by the waits on the flag: none, a plain one, or a CONSUME one. -/
theorem aSetFlagEndsItsWaits : Obligations.ASetFlagEndsItsWaits := by
  intro s p f die cmd c near b answered
  refine ⟨fun isPort isFlag member => ⟨fun noWait => ?_, fun oneWait plain free => ?_, fun oneWait consumes low free => ?_⟩,
    exec_flagSetMessage_of_stranger⟩
  · have stays : consumerWait (waitsOn near p f) = none := noWait ▸ rfl
    exact exec_flagSetMessage_of_peer isPort isFlag member
      ((setFlag_of_no_consumer stays).trans (plainWaitsDone_nil noWait))
  · have stays : consumerWait (waitsOn near p f) = none := oneWait ▸ consumerWait_plain plain
    have set := (setFlag_of_no_consumer stays).trans (plainWaitsDone_plain oneWait plain)
    rw [finishCmd_eq (canComplete_putFlag free p f true)] at set
    exact exec_flagSetMessage_of_peer isPort isFlag member set
  · have cleared : consumerWait (waitsOn near p f) = some c := oneWait ▸ consumerWait_alone consumes low
    have set := setFlag_of_consumer cleared
    rw [plainWaitsDone_consume oneWait consumes,
      finishCmd_eq (canComplete_putFlag (canComplete_putFlag free p f true) p f false)] at set
    exact exec_flagSetMessage_of_peer isPort isFlag member set

end Sys2Proof.Machine

/-! SUPPORT. A catalogue command that passes its decode on its home die in a Gallery: it is forwarded, then its lists are
checked (R75, R92, R167, R227). -/
namespace Sys2Proof.Machine

/-- A catalogue row decodes its own opcode, and its command then waits for its passes. -/
theorem exec_catalogueRow {s : State} {p q : Nat} {d : Desc} {op : Op} {x : Blk} (ho : op ∈ catalogueOps)
    (h : ∀ mine : Op → Bool, mine op = true → decodeAs mine getReady p q d s.blk = x) :
    exec (rowOf op p q d) s = .next { s with blk := x } := by
  have runs : ∀ mine : Op → Bool, mine op = true →
      onBlk (decodeAs mine getReady p q d) s = .next { s with blk := x } := fun mine hm => by
    unfold onBlk
    rw [h mine hm]
  simp only [catalogueOps, List.mem_cons, List.not_mem_nil, or_false] at ho
  rcases ho with rfl | rfl | rfl | rfl | rfl | rfl | rfl | rfl | rfl | rfl | rfl
  rotate_right
  · cases grid : flagOpf0 d with
    | false =>
      rw [show rowOf .move p q d = .move p q d by simp [rowOf, grid]]
      exact runs (fun op => op == .move && !flagOpf0 d) (by simp [grid])
    | true =>
      rw [show rowOf .move p q d = .grid p q d by simp [rowOf, grid]]
      exact runs (fun op => op == .move && flagOpf0 d) (by simp [grid])
  all_goals exact runs _ rfl

section Decode
variable {b : Blk} {p q : Nat} {d : Desc} {op : Op} {mine : Op → Bool}

/-- A descriptor that passes its decode goes on to its fetch check. -/
theorem decodeAs_passed (ht : takesNext b p q d op) (hd : passesDecode b p q d op) (hm : mine op = true)
    (go : Cmd → Blk → Blk) : decodeAs mine go p q d b = passDecode (freshCmd b p q d) op go (decoded b p q d (freshCmd b p q d)) := by
  obtain ⟨named, serves⟩ := ht
  obtain ⟨sound, table, free⟩ := hd
  have judged : judge op go (freshCmd b p q d) (decoded b p q d (freshCmd b p q d))
      = passDecode (freshCmd b p q d) op go (decoded b p q d (freshCmd b p q d)) := by
    have noError : firstIn decodeOrder [] = none := rfl
    unfold judge
    simp only [show (freshCmd b p q d).port = p from rfl, show (freshCmd b p q d).queue = q from rfl,
      show (freshCmd b p q d).desc = d from rfl, sound, table, free, List.append_nil, noError, Bool.false_eq_true, if_false]
  unfold decodeAs
  rw [named]
  simp only [hm, if_true]
  rw [decodeStep_eq serves, judged]

end Decode

section Fetch
variable {b : Blk} {c : Cmd} {op : Op} {go : Cmd → Blk → Blk} {f : FetchOut}

/-- A Gallery command of this die is forwarded before its fetch check (R92). -/
theorem passDecode_of_gallery (hs : spansGallery c = true) (hh : c.home = none) :
    passDecode c op go b = fetchStage c op go (broadcast 4 (dieOf b) c.id b) := by
  unfold passDecode forwardOut
  rw [hs, hh]
  rfl

/-- A command forwarded by another die is not forwarded again. -/
theorem passDecode_of_forwarded (hh : c.home.isSome = true) : passDecode c op go b = fetchStage c op go b := by
  have away : c.home.isNone = false := by rw [← Option.not_isSome, hh]; rfl
  unfold passDecode forwardOut
  rw [away, Bool.and_false]
  rfl

/-- A command past its fetch check, with what the fetch engine read. -/
def fetchedCmd (c : Cmd) (f : FetchOut) : Cmd :=
  { c with entries := f.entries, blocks := f.blocks, header := f.header, fetched := true, st := .ready, faultAddr := none }

/-- A fetch check that finds no error leaves the command ready, its lines on their way (R167). -/
theorem fetchStage_of_passed (hf : fetchCheck (ofCtx c.port b) c.port op c.desc c.entries c.header = f)
    (he : firstIn fetchOrder f.errs = none) :
    fetchStage c op go b
      = inCtx c.port (go (fetchedCmd c f)) (fetchAhead (fetchedCmd c f) (updCmd c.id (fun _ => fetchedCmd c f) b)) := by
  subst hf
  unfold fetchStage
  simp only [he]
  rfl

end Fetch

/-- Waiting for its passes changes nothing more. -/
theorem inCtx_getReady (p : Nat) (c : Cmd) (b : Blk) : inCtx p (getReady c) b = b := rfl

/-- Settles O16: the decode passes (`decodeAs_passed`), the home die forwards (`passDecode_of_gallery`), and the fetch check
passes (`fetchStage_of_passed`). -/
theorem galleryCommandIsForwarded : Obligations.GalleryCommandIsForwarded := by
  intro s p q d op c home b f k isCatalogue takes passes spans fetches
  refine exec_catalogueRow isCatalogue fun mine isMine => ?_
  calc decodeAs mine getReady p q d s.blk
      = passDecode c op getReady home := decodeAs_passed takes passes isMine getReady
    _ = fetchStage c op getReady b := passDecode_of_gallery spans rfl
    _ = inCtx p (getReady k) (fetchAhead k (updCmd c.id (fun _ => k) b)) := fetchStage_of_passed rfl fetches
    _ = fetchAhead k (updCmd c.id (fun _ => k) b) := inCtx_getReady ..

end Sys2Proof.Machine

/-! SUPPORT. A Gallery command on a die that another one has forwarded it to: its arrival, its checks, its commit, and the home
die's word on it (R77, R78, R92, R95, R245, R248, R272, R273). -/
namespace Sys2Proof.Machine

/-! ### Arrival -/

/-- A forwarded command as it enters flight here (R77, R78). -/
def arrivedCmd (far : Blk) (die p homeCmd : Nat) (d : Desc) (st : CmdState) : Cmd :=
  { id := far.nextId, port := p, queue := 0, desc := localDesc far die d, count := 0, t0 := far.clk.tc, mc := far.clk.mc
    st := st, home := some (die, homeCmd) }

/-- The block with a forwarded command in flight, its message in the mailbox (R78, R209). -/
def shareArrived (die homeCmd : Nat) (c : Cmd) (far : Blk) : Blk :=
  landMail 4 die homeCmd { far with nextId := far.nextId + 1, cmds := far.cmds ++ [c] }

/-- The state in which a forwarded command enters flight (R245). -/
def arrivalState (b : Blk) : CmdState := if b.gal.reforming then .held else .ready

section Arrival
variable {b : Blk} {die p homeCmd : Nat} {d : Desc} {op : Op} (ho : opOf d = some op) (hd : isPeer b die = true) (hp : p < 6)
  (ht : hasTset op d = true) (hl : (tsetOf d.tset).logD ≠ 0) (hr : b.pwr.inReset = false)
include ho hd hp ht hl hr

/-- A Gallery command of a member goes on and enters flight, where it is held or judged (R92, R245). -/
theorem forwarded_eq :
    forwarded die p homeCmd d b =
      (let far := broadcast 4 die homeCmd b
       let c := arrivedCmd far die p homeCmd d (arrivalState far)
       if far.gal.reforming then shareArrived die homeCmd c far else judgeShare c op (shareArrived die homeCmd c far)) := by
  have taken : ¬ (!isPeer b die || !(decide (p < 6)) || !hasTset op d || (tsetOf d.tset).logD == 0 || b.pwr.inReset) = true := by
    simp [hd, hp, ht, hl, hr]
  unfold forwarded
  rw [ho]
  exact if_neg taken

/-- While the Gallery re-forms, it is held (R245). -/
theorem forwarded_of_reforming (hg : b.gal.reforming = true) :
    forwarded die p homeCmd d b =
      (let far := broadcast 4 die homeCmd b
       shareArrived die homeCmd (arrivedCmd far die p homeCmd d .held) far) := by
  rw [← broadcast_gal 4 die homeCmd b] at hg
  simp only [forwarded_eq ho hd hp ht hl hr, arrivalState, hg, if_true]

/-- Else its share is judged (R92). -/
theorem forwarded_of_formed (hg : b.gal.reforming = false) :
    forwarded die p homeCmd d b =
      (let far := broadcast 4 die homeCmd b
       let c := arrivedCmd far die p homeCmd d .ready
       judgeShare c op (shareArrived die homeCmd c far)) := by
  rw [← broadcast_gal 4 die homeCmd b] at hg
  simp only [forwarded_eq ho hd hp ht hl hr, arrivalState, hg, Bool.false_eq_true, if_false]

end Arrival

/-- FORWARDED_DESCRIPTOR leaves the block as `forwarded` does, and the waiting commands alone. -/
theorem exec_forwardedDescriptor_of {die p homeCmd : Nat} {d : Desc} {s : State} {b : Blk}
    (h : forwarded die p homeCmd d s.blk = b) :
    exec (.forwardedDescriptor die p homeCmd d) s = .next { s with blk := b } := by
  subst h; rfl

/-! ### The checks of a share -/

/-- What the decode checks of a share find (R92, R162). -/
def shareErrs (b : Blk) (op : Op) (c : Cmd) : List Code :=
  decodeErrs (ofCtx c.port b) c.port c.queue op { c.desc with flags := setBit c.desc.flags 4 false }
    ++ tableErrs b c.port op c.desc

/-- A share that a check has stopped, with its report for the home die (R92). -/
def shareStopped (die homeCmd here stage : Nat) (code : Code) (c : Cmd) : Cmd :=
  { c with
    st := .gallery
    reports := [{ home := die, cmd := homeCmd, die := here, kind := .stopped, error := some (stage, codeVal code) }] }

section Judge
variable {b : Blk} {c : Cmd} {op : Op} (hl : (isModular op c.desc && loadAhead b c) = false)

include hl in
theorem judgeShare_of_code {code : Code} (he : firstIn decodeOrder (shareErrs b op c) = some code) :
    judgeShare c op b = failDecode c code [] b := by
  unfold shareErrs at he
  unfold judgeShare
  simp only [hl, he, Bool.false_eq_true, if_false]

include hl in
theorem judgeShare_of_sound (he : shareErrs b op c = []) : judgeShare c op b = passDecode c op forwardedGo b := by
  have noError : firstIn decodeOrder (shareErrs b op c) = none := by rw [he]; rfl
  unfold shareErrs at noError
  unfold judgeShare
  simp only [hl, noError, Bool.false_eq_true, if_false]

/-- The code of a decode check goes to the home die (R92). -/
theorem failDecode_of_forwarded {die homeCmd : Nat} (hh : c.home = some (die, homeCmd)) (code : Code) (tiles : List Nat) :
    failDecode c code tiles b
      = sendMsg 5 (towardsDie b die) homeCmd (updCmd c.id (fun _ => shareStopped die homeCmd (dieOf b) 0 code c) b) := by
  obtain ⟨⟩ := c
  subst hh
  rfl

/-- A share that is no release waits for its passes. -/
theorem inCtx_forwardedGo (ho : opOf c.desc ≠ some .nop) (p : Nat) : inCtx p (forwardedGo c) b = b := by
  unfold forwardedGo
  simp only [if_neg ho]
  rfl

end Judge

/-! ### The commit of a share -/

/-- Which command in flight another die forwarded depends on the commands in flight alone. -/
theorem forwardedOf_congr {x y : Blk} (h : x.cmds = y.cmds) (die homeCmd : Nat) :
    forwardedOf x die homeCmd = forwardedOf y die homeCmd := by
  unfold forwardedOf
  rw [h]

/-- The block with a share committed, acknowledged and its commit passed on, its command still in flight (R92, R95). -/
def shareCommitted (op : Op) (key : Bool) (die homeCmd : Nat) (c : Cmd) (b : Blk) : Blk :=
  let near := broadcast 6 die homeCmd (landMail 6 die homeCmd b)
  sendMsg 7 (towardsDie near die) homeCmd (commitShare op c key near)

section Commit
variable {b : Blk} {die homeCmd : Nat} {key : Bool} {c : Cmd} {op : Op}
  (hf : forwardedOf b die homeCmd = some c) (ho : opOf c.desc = some op)
include hf ho

/-- A share reported without error commits, and its command goes on to its next unit or leaves flight (R95). -/
theorem galleryCommit_of_reported (hr : reportedOk c = true) :
    galleryCommit die homeCmd key b =
      if c.unit + 1 < unitsOf c.desc then
        updCmd c.id (fun x => { freshUnit x with unit := x.unit + 1 }) (shareCommitted op key die homeCmd c b)
      else
        { shareCommitted op key die homeCmd c b with
          cmds := (shareCommitted op key die homeCmd c b).cmds.filter (fun x => x.id ≠ c.id) } := by
  simp only [galleryCommit, hf, ho, hr, Bool.not_true, Bool.false_eq_true, if_false]
  rfl

theorem galleryCommit_of_unreported (hr : reportedOk c = false) : galleryCommit die homeCmd key b = b := by
  simp only [galleryCommit, hf, ho, hr, Bool.not_false, if_true]

end Commit

/-- GALLERY_COMMIT leaves the block as `galleryCommit` does, and the waiting commands alone. -/
theorem exec_galleryCommit_of {die homeCmd : Nat} {key : Bool} {s : State} {b : Blk}
    (h : galleryCommit die homeCmd key s.blk = b) :
    exec (.galleryCommit die ⟨homeCmd, key⟩) s = .next { s with blk := b } := by
  subst h; rfl

/-! ### The home die's word -/

section Report
variable {s : State} {r : ReportBody}

/-- A report on a command is no Vault's news. -/
theorem exec_report_of_not_vault (h : r.kind ≠ .vault) : exec (.report r) s = .next { s with blk := takeReport r s.blk } := by
  show onBlk (takeMessage r) s = _
  unfold onBlk takeMessage
  split
  case h_1 isVault _ => exact absurd isVault h
  case h_2 isVault _ => exact absurd isVault h
  case h_3 => rfl

/-- The block with the home die's word in the mailbox and passed on (R92, R209). -/
def wordPassedOn (r : ReportBody) (b : Blk) : Blk := broadcast 5 r.home r.cmd (landMail 5 r.die r.cmd b)

/-- The home die's word on a command of it reaches its share here (R92, R272). -/
theorem exec_report_of_homeWord (hk : r.kind = .withdraw ∨ r.kind = .replay) (hp : isPeer s.blk r.home = true) {c : Cmd}
    (hf : forwardedOf s.blk r.home r.cmd = some c) :
    exec (.report r) s = .next { s with
      blk := if r.kind = .withdraw then withdraw c r (wordPassedOn r s.blk) else replayShare c (wordPassedOn r s.blk) } := by
  have found : forwardedOf (wordPassedOn r s.blk) r.home r.cmd = some c :=
    (forwardedOf_congr (broadcast_cmds ..) ..).trans hf
  have noNews : r.kind ≠ .vault := by rcases hk with h | h <;> simp [h]
  unfold wordPassedOn at found ⊢
  rw [exec_report_of_not_vault noNews]
  unfold takeReport homeWord
  simp only [if_pos hk, if_pos hp, found]

/-- A report bound for another die is passed on towards it (R92). -/
theorem exec_report_of_passing (hk : r.kind ∉ [ReportKind.withdraw, .replay, .vault]) (hh : r.home ≠ dieOf s.blk)
    (hp : isPeer s.blk r.home = true) :
    exec (.report r) s
      = .next { s with blk := sendMsg 5 (towardsDie s.blk r.home) r.cmd (landMail 5 r.die r.cmd s.blk) } := by
  simp only [List.mem_cons, List.not_mem_nil, or_false, not_or] at hk
  obtain ⟨notEnd, notRepeat, noNews⟩ := hk
  rw [exec_report_of_not_vault noNews]
  unfold takeReport
  rw [if_neg (not_or.mpr ⟨notEnd, notRepeat⟩), if_neg hh, if_pos hp]

end Report

/-- Settles O41: the arrival of a share (`forwarded_of_reforming`, `forwarded_of_formed`), its commit, and the home die's word. -/
theorem forwardedCommandsRunTheirShare : Obligations.ForwardedCommandsRunTheirShare := by
  intro s die p homeCmd d op key r b far c entered e errs f taken refused
  refine ⟨fun named member isPort spans wide running => ⟨fun reforms => ?_,
      fun formed free => ⟨fun sound fetches noRelease => ?_, fun code fails => ?_⟩⟩,
    fun k found named => ⟨fun reported isLast => ?_, fun reported isMore => ?_, fun unreported => ?_⟩,
    fun k member found => ⟨fun ends => ?_, fun repeats => ?_⟩,
    fun member away kind => exec_report_of_passing kind away member⟩
  · exact exec_forwardedDescriptor_of (forwarded_of_reforming named member isPort spans wide running reforms)
  · refine exec_forwardedDescriptor_of ?_
    calc forwarded die p homeCmd d b
        = judgeShare c op e := forwarded_of_formed named member isPort spans wide running formed
      _ = passDecode c op forwardedGo e := judgeShare_of_sound free sound
      _ = fetchStage c op forwardedGo e := passDecode_of_forwarded rfl
      _ = inCtx p (forwardedGo taken) (fetchAhead taken (updCmd c.id (fun _ => taken) e)) := fetchStage_of_passed rfl fetches
      _ = fetchAhead taken (updCmd c.id (fun _ => taken) e) :=
        inCtx_forwardedGo (fun h => noRelease (Option.some.inj (named.symm.trans h))) p
  · refine exec_forwardedDescriptor_of ?_
    have sameDie : dieOf e = dieOf b := dieOf_congr (broadcast_fab ..)
    calc forwarded die p homeCmd d b
        = judgeShare c op e := forwarded_of_formed named member isPort spans wide running formed
      _ = failDecode c code [] e := judgeShare_of_code free fails
      _ = sendMsg 5 (towardsDie e die) homeCmd (updCmd c.id (fun _ => shareStopped die homeCmd (dieOf e) 0 code c) e) :=
        failDecode_of_forwarded rfl code []
      _ = sendMsg 5 (towardsDie e die) homeCmd (updCmd c.id (fun _ => refused code) e) := by rw [sameDie]; rfl
  · exact exec_galleryCommit_of ((galleryCommit_of_reported found named reported).trans (if_neg (Nat.not_lt.mpr isLast)))
  · exact exec_galleryCommit_of ((galleryCommit_of_reported found named reported).trans (if_pos isMore))
  · exact exec_galleryCommit_of (galleryCommit_of_unreported found named unreported)
  · rw [exec_report_of_homeWord (.inl ends) member found, if_pos ends]
    rfl
  · rw [exec_report_of_homeWord (.inr repeats) member found, if_neg (by simp [repeats])]
    rfl

end Sys2Proof.Machine

/-! SUPPORT. A Gallery command on its home die: how it ends once the reports are in, and how the acknowledgements of its commit
end it (R92, R95, R155, R248, R253, R255, R272). -/
namespace Sys2Proof.Machine

/-! ### The end of a command in the Gallery -/

section Ends
variable {b : Blk} {c : Cmd} {code : Code}

/-- The residues of a failed unit: those of the committed units, or those given for a command of one unit (R44, R255). -/
def failedResidues (c : Cmd) (sum : Nat × Nat) : Nat × Nat := if multiUnit c.desc then (c.res0, c.res1) else sum

theorem unitFails_completed (h : canComplete c b) (sum : Nat × Nat) :
    unitFails c code sum.1 sum.2 b = completed c code (failedResidues c sum).1 (failedResidues c sum).2 b := by
  rw [unitFails_eq h]
  unfold failedResidues
  split <;> rfl

/-- The home die tells the other dies that a Gallery command has ended (R92, R272). -/
theorem withdrawAll_of_gallery (hs : spansGallery c = true) (hh : c.home = none) :
    withdrawAll c b = broadcast 5 (dieOf b) c.id b := by
  unfold withdrawAll
  rw [hs, hh]
  rfl

/-- A code that neither halts nor consumes notices ends the command on every die (R92, R255, R272). -/
theorem galleryFails_completed (hs : spansGallery c = true) (hh : c.home = none)
    (hc : code ∉ [Code.faultResumable, .zeroised])
    (he : canComplete c (dropBulk (setTiles c.desc) (broadcast 5 (dieOf b) c.id b))) :
    galleryFails c code b =
      completed c code (failedResidues c (galleryRes c.reports)).1 (failedResidues c (galleryRes c.reports)).2
        (dropBulk (setTiles c.desc) (broadcast 5 (dieOf b) c.id b)) := by
  rw [← unitFails_completed he, ← withdrawAll_of_gallery hs hh]
  unfold galleryFails
  split
  case h_1 => exact absurd (by decide) hc
  case h_2 => exact absurd (by decide) hc
  case h_3 => rfl

end Ends

/-! ### The home die's decision -/

/-- No die has met a parity error for the last time, and none has stopped: the unit may be repeated (R248). -/
def parityMayBeMet (l : List ReportBody) : Bool :=
  !l.any (fun r => r.kind == .result && r.error.map (·.2) == some (codeVal .parity) || r.kind == .stopped)

/-- The command with its share committed, waiting for the other dies' acknowledgements (R95, R255). -/
def awaitsAcks (c : Cmd) (dies : List Nat) : Cmd :=
  let sum := galleryRes c.reports
  { c with
    st := .drain, acks := dies, commitSent := true, reports := []
    res0 := (c.res0 + sum.1) % tallyM, res1 := (c.res1 + sum.2) % tallyM }

/-- The home die's block with the commit of every die told and its own share committed (R92, R95). -/
def homeCommitted (op : Op) (c : Cmd) (b : Blk) : Blk :=
  commitShare op c (c.reports.any (·.key)) (broadcast 6 (dieOf b) c.id b)

/-- The block with the record of the limbs whose sums over all dies disagree (R253, R254). -/
def disagreementTold (op : Op) (c : Cmd) (b : Blk) : Blk :=
  tallyRecord c [] (maskOf ((galleryDis b op c c.reports).filter (fun x => decide (x < 64)))) false none c.unit b

section Decide
variable {b : Blk} {id : Nat} {c : Cmd} {op : Op} (hc : cmdOf b id = some c) (ho : opOf c.desc = some op)
include hc ho

/-- Before every die has reported nothing is decided. -/
theorem decideGallery_of_waiting (hw : c.st ∉ [CmdState.gallery, .ready] ∨ allReported b c = false) :
    decideGallery id b = b := by
  have waits : c.home.isSome = true ∨ (!(c.st == .gallery || c.st == .ready)) = true ∨ (!allReported b c) = true := by
    rcases hw with elsewhere | missing
    · exact .inr (.inl (by simpa using elsewhere))
    · exact .inr (.inr (by simp [missing]))
  unfold decideGallery
  rw [hc]
  dsimp only
  rw [ho]
  exact if_pos waits

/-- Then they decide: an error ends the command, but for a parity error that may be met again; sums that disagree end it; else
every die commits (R92, R95, R248, R253, R272). -/
theorem decideGallery_of_reported (hh : c.home = none) (hs : c.st ∈ [CmdState.gallery, .ready]) (hr : allReported b c = true) :
    (∀ code, chooseCode c.reports = some code → ¬ (code = .parity ∧ parityMayBeMet c.reports = true) →
      decideGallery id b = galleryFails c code b)
    ∧ (chooseCode c.reports = some .parity → parityMayBeMet c.reports = true →
      decideGallery id b = replayShare c (broadcast 5 (dieOf b) c.id b))
    ∧ (chooseCode c.reports = none → galleryDis b op c c.reports ≠ [] →
      decideGallery id b = galleryFails c .tallyMismatch (disagreementTold op c b))
    ∧ (chooseCode c.reports = none → galleryDis b op c c.reports = [] → otherDies (homeCommitted op c b) ≠ [] →
      decideGallery id b
        = updCmd id (fun _ => awaitsAcks c (otherDies (homeCommitted op c b))) (homeCommitted op c b)) := by
  have here : (c.st == .gallery || c.st == .ready) = true := by simpa using hs
  have reported : ¬ (c.home.isSome = true ∨ (!(c.st == .gallery || c.st == .ready)) = true ∨ (!allReported b c) = true) := by
    simp [hh, here, hr]
  unfold decideGallery
  rw [hc]
  dsimp only
  rw [ho]
  dsimp only
  rw [if_neg reported]
  refine ⟨fun code error once => ?_, fun error again => ?_, fun noError differs => ?_, fun noError agrees others => ?_⟩
  · rw [error]
    exact if_neg once
  · rw [error]
    exact if_pos ⟨rfl, again⟩
  · rw [noError]
    dsimp only
    split
    case h_1 limb limbs named => rw [← named]; rfl
    case h_2 agrees => exact absurd agrees differs
  · rw [noError]
    dsimp only
    rw [agrees]
    exact if_neg others

end Decide

/-! ### Reports and acknowledgements -/

/-- The command that a number stands for, replaced by one of that number. -/
theorem cmdOf_updCmd_const {id : Nat} {b : Blk} {y k : Cmd} (h : cmdOf b id = some y) (hk : k.id = id) :
    cmdOf (updCmd id (fun _ => k) b) id = some k := by
  have same : (fun c : Cmd => c.id == id) ∘ (fun c => if c.id = id then k else c) = fun c => c.id == id := by
    funext c
    by_cases hc : c.id = id <;> simp [hc, hk]
  have found : b.cmds.find? (fun c => c.id == id) = some y := h
  unfold cmdOf updCmd
  rw [List.find?_map, same, found, Option.map_some, if_pos (cmdOf_id h)]

/-- The block with a report taken in: it stands in the mailbox, and beside the others on its command (R92, R209). -/
def reportTaken (r : ReportBody) (id : Nat) (b : Blk) : Blk :=
  updCmd id (fun x => { x with reports := putReport r x.reports }) (landMail 5 r.die r.cmd b)

section Report
variable {s : State} {r : ReportBody} {c : Cmd}

theorem cmdOf_reportTaken {b : Blk} (hc : cmdOf b r.cmd = some c) :
    cmdOf (reportTaken r c.id b) c.id = some { c with reports := putReport r c.reports } := by
  rw [← cmdOf_id hc] at hc
  exact cmdOf_updCmd (f := fun x => { x with reports := putReport r x.reports }) (b := landMail 5 r.die r.cmd b)
    (fun _ => rfl) hc

/-- A member's first whole report on a Gallery command of this die is taken in, and the home die decides if it can (R92). -/
theorem exec_report_of_member (hc : cmdOf s.blk r.cmd = some c) (hh : c.home = none) (hs : spansGallery c = true)
    (hp : isPeer s.blk r.die = true) (hd : r.home = dieOf s.blk) (hk : r.kind ∉ [ReportKind.withdraw, .replay, .vault])
    (hn : c.reports.any (fun x => x.die == r.die && (x.kind != .begun || r.kind == .begun)) = false) :
    exec (.report r) s = .next { s with blk := decideGallery c.id (reportTaken r c.id s.blk) } := by
  simp only [List.mem_cons, List.not_mem_nil, or_false, not_or] at hk
  obtain ⟨notEnd, notRepeat, noNews⟩ := hk
  rw [exec_report_of_not_vault noNews]
  unfold takeReport homeReport
  rw [if_neg (not_or.mpr ⟨notEnd, notRepeat⟩), if_pos hd, if_pos hp, hc]
  simp only [hh, hs, hn, Option.isSome_none, Bool.not_true, Bool.or_self, Bool.false_eq_true, if_false]
  rfl

end Report

/-- A command with one die's acknowledgement heard. -/
def heardFrom (die : Nat) (c : Cmd) : Cmd := { c with acks := c.acks.filter (· != die) }

/-- The block with an acknowledgement taken in (R95, R209). -/
def ackTaken (die id : Nat) (c : Cmd) (b : Blk) : Blk := updCmd id (fun _ => heardFrom die c) (landMail 7 die id b)

section Acknowledgement
variable {b : Blk} {id die : Nat} {c : Cmd} (hw : waitsAs .drain b id c) (ha : c.acks.contains die = true)
include hw

/-- A command that can complete still can once the acknowledgement is taken in. -/
theorem canComplete_ackTaken (h : canComplete (heardFrom die c) b) : canComplete (heardFrom die c) (ackTaken die id c b) := by
  obtain ⟨⟨atHome, unrecorded, -⟩, ring⟩ := h
  have heard : cmdOf (ackTaken die id c b) c.id = some (heardFrom die c) := by
    have number : c.id = id := cmdOf_id hw.1
    rw [number]
    exact cmdOf_updCmd_const (b := landMail 7 die id b) hw.1 number
  exact ⟨⟨atHome, unrecorded, heardFrom die c, heard, rfl, rfl, rfl⟩, ring⟩

include ha

/-- An acknowledgement of a commit here is heard; after the last one the FLAG.SET or the unit is done (R95, R155). -/
theorem commitAck_here :
    commitAck (dieOf b) id die b =
      if (heardFrom die c).acks ≠ [] then ackTaken die id c b
      else if opOf c.desc = some .flagSet then finishCmd (heardFrom die c) .ok 0 0 (ackTaken die id c b)
      else unitDone (heardFrom die c) 0 0 (ackTaken die id c b) := by
  have awaited : ¬ (c.st ≠ .drain ∨ (!c.acks.contains die) = true) := by rw [hw.2, ha]; simp
  unfold commitAck
  rw [if_neg (not_not.mpr rfl), hw.1]
  exact if_neg awaited

variable (hl : (heardFrom die c).acks = [])
include hl

theorem commitAck_of_flagSet (ho : opOf c.desc = some .flagSet) :
    commitAck (dieOf b) id die b = finishCmd (heardFrom die c) .ok 0 0 (ackTaken die id c b) := by
  rw [commitAck_here hw ha, if_neg (not_not.mpr hl), if_pos ho]

theorem commitAck_of_unit (ho : opOf c.desc ≠ some .flagSet) :
    commitAck (dieOf b) id die b = unitDone (heardFrom die c) 0 0 (ackTaken die id c b) := by
  rw [commitAck_here hw ha, if_neg (not_not.mpr hl), if_neg ho]

end Acknowledgement

theorem exec_commitAcknowledgement_of {home id die : Nat} {s : State} {b : Blk} (h : commitAck home id die s.blk = b) :
    exec (.commitAcknowledgement ⟨home, id⟩ die) s = .next { s with blk := b } := by
  subst h; rfl

/-- Settles O42: a report is taken in (`exec_report_of_member`) and the reports decide (`decideGallery_of_reported`); an
acknowledgement is heard (`commitAck_here`). -/
theorem theHomeDieDecidesForTheGallery : Obligations.TheHomeDieDecidesForTheGallery := by
  intro s id die home r c op b got in_ ended put sum dis told res again waits left acked next
  refine ⟨fun found mine named spans member bound kind first => ?_, fun awaits awaited => ?_, fun away member => ?_⟩
  · have taken : cmdOf in_ c.id = some got := cmdOf_reportTaken found
    have hears : ∀ x, decideGallery c.id in_ = x → exec (.report r) s = .next { s with blk := x } := fun x hx =>
      hx ▸ exec_report_of_member found mine spans member bound kind first
    refine ⟨fun early => hears _ (decideGallery_of_waiting taken named early), fun state complete => ?_⟩
    obtain ⟨byCode, byRepeat, byDisagreement, byCommit⟩ := decideGallery_of_reported taken named mine state complete
    have mayRepeat : again ↔ parityMayBeMet got.reports = true := by simp [again, parityMayBeMet]
    refine ⟨fun code error ends once free => hears _ ?_, fun error repeats => hears _ ?_,
      fun sound differs free => hears _ ?_, fun sound agrees others => hears _ ?_⟩
    · exact (byCode code error fun h => once ⟨h.1, mayRepeat.mpr h.2⟩).trans (galleryFails_completed spans mine ends free)
    · exact byRepeat error (mayRepeat.mp repeats)
    · have sameDie : dieOf told = dieOf in_ := dieOf_congr (sumpPut_fab ..)
      have fails := galleryFails_completed (b := told) (code := .tallyMismatch) (c := got) spans mine (by decide)
        (by rw [sameDie]; exact free)
      rw [sameDie] at fails
      exact (byDisagreement sound differs).trans fails
    · exact byCommit sound agrees others
  · refine ⟨fun more => exec_commitAcknowledgement_of ((commitAck_here awaits awaited).trans (if_pos more)),
      fun last sets free => exec_commitAcknowledgement_of ?_, fun last noSet isLast free => exec_commitAcknowledgement_of ?_,
      fun last noSet isMore calm => exec_commitAcknowledgement_of ?_⟩
    · exact (commitAck_of_flagSet awaits awaited last sets).trans (finishCmd_eq (canComplete_ackTaken awaits free) ..)
    · exact (commitAck_of_unit awaits awaited last noSet).trans
        ((unitDone_of_last (c := left) isLast).trans (finishCmd_eq (canComplete_ackTaken awaits free) ..))
    · exact (commitAck_of_unit awaits awaited last noSet).trans (unitDone_of_more (c := left) isMore calm)
  · exact exec_commitAcknowledgement_of ((if_pos away).trans (if_pos member))

end Sys2Proof.Machine

/-! SUPPORT. Requests of other dies and the responses to this die's own: what each message does by its header, its place and the
request it answers (R95, R100, R104, R108, R208, R227, R232, R245). -/
namespace Sys2Proof.Machine

/-! ### Requests of other dies -/

section Requests
variable {s : State} {k : Nat} {h : MsgHeader} {data : BitVec 2048} {m : RegMark}

/-- The block with a remote read answered here (R227). -/
def remoteRead (h : MsgHeader) (b : Blk) : Blk :=
  { b with out := { b.out with
      rerror := false, rdata := BitVec.ofNat 2048 (ofLe (readBytes b h.addr h.len)), rmark := markOf b h.addr } }

/-- The block with a remote write in its place: its bytes, the marks of its register, and from a POISON flit its wrong parity
(R100, R104, R108, R232). -/
def remoteWritten (h : MsgHeader) (data : BitVec 2048) (m : RegMark) (b : Blk) : Blk :=
  let marked := markRemote h.addr m (writeBytes h.addr (leBytes h.len data.toNat) b)
  let stored := if h.poison then spoil h.addr h.len marked else marked
  { stored with out := { stored.out with rerror := false } }

section Read
variable (hh : headerTaken s.blk k 0 h = true)
include hh

/-- A read that this die serves is answered with its bytes and marks. -/
theorem exec_linkRead_of_served (ht : turnsAway s.blk k h = false) :
    exec (.linkRead k h) s = .next { s with
      blk := answerPeer k 2 h.srcDie h.txn (16 + h.len) (poisonsAt s.blk h.addr h.len) (remoteRead h s.blk) } := by
  show onBlk (linkRead k h) s = _
  simp only [onBlk, linkRead, hh, ht, Bool.not_true, Bool.false_eq_true, if_false]
  rfl

/-- One it turns away gets an error response (R208, R245). -/
theorem exec_linkRead_of_turned_away (ht : turnsAway s.blk k h = true) :
    exec (.linkRead k h) s
      = .next { s with blk := answerPeer k 2 h.srcDie h.txn 16 false (busError (.li k) false h.addr s.blk) } := by
  show onBlk (linkRead k h) s = _
  simp only [onBlk, linkRead, hh, ht, Bool.not_true, Bool.false_eq_true, if_false, if_true]

end Read

section Write
variable (hh : headerTaken s.blk k 1 h = true)
include hh

/-- A write that this die serves is stored. -/
theorem exec_linkWrite_of_served (ht : turnsAway s.blk k h = false) :
    exec (.linkWrite k h data m) s
      = .next { s with blk := answerPeer k 3 h.srcDie h.txn 16 false (remoteWritten h data m s.blk) } := by
  show onBlk (linkWrite k h data m) s = _
  simp only [onBlk, linkWrite, hh, ht, Bool.not_true, Bool.false_eq_true, if_false]
  rfl

/-- One it turns away gets an error response (R208, R245). -/
theorem exec_linkWrite_of_turned_away (ht : turnsAway s.blk k h = true) :
    exec (.linkWrite k h data m) s
      = .next { s with blk := answerPeer k 3 h.srcDie h.txn 16 false (busError (.li k) true h.addr s.blk) } := by
  show onBlk (linkWrite k h data m) s = _
  simp only [onBlk, linkWrite, hh, ht, Bool.not_true, Bool.false_eq_true, if_false, if_true]

end Write
end Requests

/-! ### Responses of other dies -/

/-- The block without the outstanding request of a transaction. -/
def reqTaken (txn : Nat) (b : Blk) : Blk := { b with gal := { b.gal with xreq := tabDel txn b.gal.xreq } }

theorem takeReq_of_outstanding {b : Blk} {k txn : Nat} {x : XReq} (hx : tabFind b.gal.xreq txn = some x) (hk : x.port = k) :
    takeReq k txn b = (reqTaken txn b, some x) := by
  unfold takeReq
  rw [hx]
  exact if_pos hk

/-- A response on another port, or to no request, takes none out. -/
theorem takeReq_of_other {b : Blk} {k txn : Nat} (hx : ∀ y, tabFind b.gal.xreq txn = some y → y.port ≠ k) :
    takeReq k txn b = (b, none) := by
  unfold takeReq
  cases found : tabFind b.gal.xreq txn with
  | none => rfl
  | some y => exact if_neg (hx y found)

/-- The block with a granule of another die kept for the command that asked (R227, R232). -/
def granuleKept (h : MsgHeader) (x : XReq) (data : BitVec 2048) (m : RegMark) (b : Blk) : Blk :=
  { b with gal := { b.gal with
      remote := tabIns x.addr (BitVec.ofNat 512 data.toNat) b.gal.remote
      remoteRegs := tabPut noMark b.gal.remoteRegs (x.addr / 0x40000) m
      remoteBad := if h.poison then b.gal.remoteBad ++ [x.addr] else b.gal.remoteBad } }

section Responses
variable {s : State} {k : Nat} {h : MsgHeader} {data : BitVec 2048} {m : RegMark}

/-- WRITE_RESPONSE leaves the block as `writeResponse` does, and the waiting commands alone. -/
theorem exec_writeResponse_of {ok : Bool} {b : Blk} (hb : writeResponse k h ok s.blk = b) :
    exec (.writeResponse k h ok) s = .next { s with blk := b } := by
  subst hb; rfl

/-- A response to no request of this die's on its port changes nothing. -/
theorem exec_readData_of_other (hx : ∀ y, tabFind s.blk.gal.xreq h.txn = some y → y.port ≠ k) (ok : Bool) :
    exec (.readData k h ok data m) s = .next s := by
  show onBlk (readData k h ok data m) s = _
  simp only [onBlk, readData, takeReq_of_other hx, ite_self]

theorem exec_writeResponse_of_other (hx : ∀ y, tabFind s.blk.gal.xreq h.txn = some y → y.port ≠ k) (ok : Bool) :
    exec (.writeResponse k h ok) s = .next s := by
  show onBlk (writeResponse k h ok) s = _
  simp only [onBlk, writeResponse, takeReq_of_other hx, ite_self]

/-- An error response ends a command that has not halted (R245). -/
theorem crossFails_of_running {b : Blk} {c : Cmd} (hc : cmdOf b c.id = some c) (hs : c.st ≠ .halted) :
    crossFails (some c.id) b = loseLink c b := by
  unfold crossFails
  rw [Option.bind_some, hc]
  exact if_neg hs

variable {x : XReq} {c : Cmd} (hx : tabFind s.blk.gal.xreq h.txn = some x) (hk : x.port = k) (hd : x.discard = false)
  (hi : x.cmd = some c.id) (hc : cmdOf s.blk c.id = some c)
include hx hk hd hi hc

section ReadData
variable (hh : headerTaken s.blk k 2 h = true) (hw : x.write = false)
include hh hw

/-- A granule that has come is kept for the command that asked. -/
theorem exec_readData_of_granule :
    exec (.readData k h true data m) s = .next { s with blk := granuleKept h x data m (reqTaken h.txn s.blk) } := by
  have asks : (cmdOf (reqTaken h.txn s.blk) c.id).isNone = false := Option.isNone_eq_false_iff.mpr (hc ▸ rfl)
  show onBlk (readData k h true data m) s = _
  simp only [onBlk, readData, hh, takeReq_of_outstanding hx hk, hw, hd, hi, asks, Bool.not_true, Bool.or_self,
    Bool.false_eq_true, if_false]
  rfl

theorem exec_readData_of_error (hs : c.st ≠ .halted) :
    exec (.readData k h false data m) s = .next { s with blk := loseLink c (reqTaken h.txn s.blk) } := by
  show onBlk (readData k h false data m) s = _
  simp only [onBlk, readData, hh, takeReq_of_outstanding hx hk, hw, hd, hi, Bool.not_true, Bool.not_false, Bool.or_self,
    Bool.false_eq_true, if_false, if_true]
  rw [crossFails_of_running (b := reqTaken h.txn s.blk) hc hs]

end ReadData

section WriteResponse
variable (hh : headerTaken s.blk k 3 h = true) (hw : x.write = true)
include hh hw

/-- A good response ends the unit when it was the last one awaited (R95). -/
theorem writeResponse_of_good :
    writeResponse k h true s.blk =
      if c.st = .drain ∧ (!writesOut (reqTaken h.txn s.blk) c.id) = true then unitDone c 0 0 (reqTaken h.txn s.blk)
      else reqTaken h.txn s.blk := by
  have asks : x.cmd.bind (cmdOf (reqTaken h.txn s.blk)) = some c := by rw [hi]; exact hc
  simp only [writeResponse, hh, takeReq_of_outstanding hx hk, hw, hd, asks, Bool.not_true, Bool.or_self, Bool.false_eq_true,
    if_false]

theorem writeResponse_of_more (hm : writesOut (reqTaken h.txn s.blk) c.id = true ∨ c.st ≠ .drain) :
    writeResponse k h true s.blk = reqTaken h.txn s.blk := by
  have stays : ¬ (c.st = .drain ∧ (!writesOut (reqTaken h.txn s.blk) c.id) = true) := by
    rintro ⟨drains, noneOut⟩
    rcases hm with out | elsewhere
    · simp [out] at noneOut
    · exact elsewhere drains
  rw [writeResponse_of_good hx hk hd hi hc hh hw, if_neg stays]

theorem writeResponse_of_last (hl : writesOut (reqTaken h.txn s.blk) c.id = false) (hs : c.st = .drain) :
    writeResponse k h true s.blk = unitDone c 0 0 (reqTaken h.txn s.blk) := by
  rw [writeResponse_of_good hx hk hd hi hc hh hw, if_pos ⟨hs, by rw [hl]; rfl⟩]

theorem exec_writeResponse_of_error (hs : c.st ≠ .halted) :
    exec (.writeResponse k h false) s = .next { s with blk := loseLink c (reqTaken h.txn s.blk) } := by
  show onBlk (writeResponse k h false) s = _
  simp only [onBlk, writeResponse, hh, takeReq_of_outstanding hx hk, hw, hd, hi, Bool.not_true, Bool.not_false, Bool.or_self,
    Bool.false_eq_true, if_false, if_true]
  rw [crossFails_of_running (b := reqTaken h.txn s.blk) hc hs]

end WriteResponse
end Responses

/-- Settles O43, message by message: requests by whether this die serves them, responses by the request they answer. -/
theorem crossDieAccessesAreAnswered : Obligations.CrossDieAccessesAreAnswered := by
  intro s k h data m x c b value answer wrote marked stored done taken
  refine ⟨fun header => ⟨exec_linkRead_of_served header, exec_linkRead_of_turned_away header⟩,
    fun header => ⟨exec_linkWrite_of_served header, exec_linkWrite_of_turned_away header⟩,
    fun outstanding port kept mine found => ⟨exec_readData_of_granule outstanding port kept mine found,
      fun header writes more =>
        exec_writeResponse_of (writeResponse_of_more outstanding port kept mine found header writes more),
      fun header writes last drains isLast ends => exec_writeResponse_of ?_, fun running =>
      ⟨fun header reads => exec_readData_of_error outstanding port kept mine found header reads running,
        fun header writes => exec_writeResponse_of_error outstanding port kept mine found header writes running⟩⟩,
    fun ok other => ⟨exec_readData_of_other other ok, exec_writeResponse_of_other other ok⟩⟩
  have free : canComplete c taken := canComplete_congr (b := b) rfl rfl rfl ends
  exact (writeResponse_of_last outstanding port kept mine found header writes last drains).trans
    ((unitDone_of_last isLast).trans (finishCmd_eq free ..))

end Sys2Proof.Machine

/-! SUPPORT. RESUME and DISCARD of a halted command, from its queue or from a halt-control word (R116 to R118, R148). -/
namespace Sys2Proof.Machine

/-- Two functions that do the same in a port's context, on blocks of the same context. -/
theorem inCtx_congr {p : Nat} {f g : Blk → Blk} {a b : Blk} (h : f (ofCtx p a) = g (ofCtx p b)) (hc : a.ctx = b.ctx) :
    inCtx p f a = inCtx p g b := by
  have same : inCtx p f a = { f (ofCtx p a) with ctx := a.ctx } := rfl
  rw [same, h, hc]
  rfl

/-! ### The halted command of a queue that decodes -/

theorem takenQueue_restart (d : Desc) (id : Nat) (r : Queue) : (takenQueue d id r).restart = r.restart := by
  unfold takenQueue
  split <;> rfl

theorem takenQueue_enable (d : Desc) (id : Nat) (r : Queue) : (takenQueue d id r).enable = r.enable := by
  unfold takenQueue
  split <;> rfl

/-- A decode leaves the restart record of every queue. -/
theorem decoded_restart {b : Blk} {p q : Nat} {d : Desc} (h : servesNext b p q d) (c : Cmd) (x y : Nat) :
    (queueOf (decoded b p q d c) x y).restart = (queueOf b x y).restart := by
  unfold queueOf decoded
  by_cases same : qKey x y = qKey p q
  · have stays : takenQueue d b.nextId (queueOf b p q) ≠ {} :=
      queue_ne_default_of_enable ((takenQueue_enable ..).trans (canDecode_enable h.1))
    rw [same]
    exact (congrArg Queue.restart (tabGet_tabPut_of_ne stays b.qs (qKey p q))).trans (takenQueue_restart ..)
  · rw [tabGet_tabUpd_other same]

/-- Whether a restart record has wrong parity is a matter of the record alone. -/
theorem restartBad_congr {a b : Blk} {h : Cmd} (e : (queueOf a h.port h.queue).restart = (queueOf b h.port h.queue).restart) :
    restartBad a h = restartBad b h := by
  unfold restartBad
  rw [e]

/-- The block once a RESUME has taken its slot and has left flight, with no completion record (R116). -/
def slotTaken (b : Blk) (p q : Nat) (d : Desc) : Blk := { decoded b p q d (freshCmd b p q d) with cmds := b.cmds }

section Decoded
variable {b : Blk} {p q : Nat} {d : Desc} (ha : accepts b p q d .resume)
include ha

theorem dropResume_entered : dropResume (acceptedCmd b p q d .resume) (entered b p q d .resume) = slotTaken b p q d := by
  have newest := filter_new ha.1.2.2.2.1 (acceptedCmd b p q d .resume) rfl
  rw [entered_plain ha.1.1 (by decide)]
  unfold dropResume slotTaken
  rw [← newest]
  rfl

/-- The slot taken, the queue's halted command is the same. -/
theorem haltedOf_entered {h : Cmd} (e : haltedOf b p q = some h) : haltedOf (entered b p q d .resume) p q = some h := by
  rw [entered_plain ha.1.1 (by decide)]
  exact haltedOf_decoded ha.1.2 e

end Decoded

/-! ### Resuming (R116) -/

theorem resumeHalted_of_good {b : Blk} {h : Cmd} (g : restartBad b h = false) : resumeHalted h b = resumeCmd h b := by
  unfold resumeHalted
  simp only [g, Bool.false_eq_true, if_false]

section Resume
variable {b e : Blk} {h : Cmd} {op : Op}

/-- A row command issues every row whose mask bit is clear. -/
theorem resumeCmd_of_rows (ho : opOf h.desc = some op) (hr : op = .loadRows ∨ op = .storeRows) :
    resumeCmd h e = updCmd h.id (fun _ => { resumed e h .rows with reports := if h.fetched then h.reports else [] }) e := by
  unfold resumeCmd
  rcases hr with rfl | rfl <;> rw [ho] <;> rfl

/-- A MODTAB.LOAD waits again. -/
theorem resumeCmd_of_modtab (ho : opOf h.desc = some .modtabLoad) :
    resumeCmd h e = updCmd h.id (fun _ => { resumed e h .modtab with reports := if h.fetched then h.reports else [] }) e := by
  unfold resumeCmd
  rw [ho]
  rfl

/-- Any other command past its fetch check goes on from its next unit. -/
theorem resumeCmd_of_units (ho : opOf h.desc = some op) (hs : op ≠ .streamArm) (hl : op ≠ .loadRows) (ht : op ≠ .storeRows)
    (hm : op ≠ .modtabLoad) (hf : h.fetched = true) : resumeCmd h e = updCmd h.id (fun _ => resumed e h .ready) e := by
  unfold resumeCmd
  rw [ho]
  cases op
  case streamArm => exact absurd rfl hs
  case loadRows => exact absurd rfl hl
  case storeRows => exact absurd rfl ht
  case modtabLoad => exact absurd rfl hm
  all_goals
    simp only [if_pos hf]
    rfl

end Resume

/-! ### Discarding (R117) -/

/-- What PARTIAL is cleared of does not depend on the context of the access under way. -/
theorem clearPartial_ofCtx (c : Cmd) (p : Nat) (b : Blk) : clearPartial c (ofCtx p b) = ofCtx p (clearPartial c b) := by
  unfold clearPartial
  have same : rowReg (ofCtx p b) c.desc = rowReg b c.desc := rfl
  simp only [ofCtx_vlt, same]
  repeat' split
  all_goals rfl

theorem clearPartial_ctx (c : Cmd) (b : Blk) : (clearPartial c b).ctx = b.ctx := by
  unfold clearPartial
  repeat' split
  all_goals rfl

/-- A command of one die is discarded in a port's context as in any other. -/
theorem inCtx_discardCmd {h : Cmd} {b : Blk} (hs : spansGallery h = false) (hn : noneHeld b)
    (hc : canComplete h (clearPartial h b)) (p : Nat) :
    inCtx p (discardCmd h) b = completed h .aborted 0 0 (clearPartial h b) := by
  have held : noneHeld (clearPartial h b) := noneHeld_congr (clearPartial_cmds h b) hn
  rw [← releaseTable_finishCmd_ofCtx held hc p .aborted, ← clearPartial_ofCtx, clearPartial_ctx]
  unfold inCtx discardCmd endHalted
  rw [withdrawAll_alone hs]
  rfl

section Queue
variable {s : State} {p q : Nat} {d : Desc} {h : Cmd} (ha : accepts s.blk p q d .resume)
include ha

/-- An accepted RESUME or DISCARD acts on the block in which its slot is taken and it has left flight. -/
theorem onBlk_decodeAs_resume {mine : Op → Bool} {go : Cmd → Blk → Blk} {f : Blk → Blk} (hm : mine .resume = true)
    (hg : go (acceptedCmd s.blk p q d .resume) (ofCtx p (entered s.blk p q d .resume)) = f (ofCtx p (slotTaken s.blk p q d))) :
    onBlk (decodeAs mine go p q d) s = .next { s with blk := inCtx p f (slotTaken s.blk p q d) } := by
  have ctx : (entered s.blk p q d .resume).ctx = (slotTaken s.blk p q d).ctx := by
    rw [entered_plain ha.1.1 (by decide)]
    rfl
  rw [onBlk_decodeAs_accepted ha hm, inCtx_congr hg ctx]

variable (hh : haltedOf s.blk p q = some h)
include hh

/-- RESUME puts its queue's halted command back to work. -/
theorem exec_resume_of_halted (hs : h.st = .halted) (hf : flagOpf0 d = false) (hb : restartBad s.blk h = false) :
    exec (.resume p q d) s = .next { s with blk := inCtx p (resumeCmd h) (slotTaken s.blk p q d) } := by
  have found : haltedOf (ofCtx p (entered s.blk p q d .resume)) p q = some h := haltedOf_entered ha hh
  have sound : restartBad (ofCtx p (slotTaken s.blk p q d)) h = false :=
    (restartBad_congr (decoded_restart ha.1.2 (freshCmd s.blk p q d) h.port h.queue)).trans hb
  refine onBlk_decodeAs_resume (mine := fun op => op == .resume && !flagOpf0 d) ha (by simp [hf]) ?_
  rw [← resumeHalted_of_good sound, ← dropResume_entered ha]
  unfold resumeGo
  simp only [show (acceptedCmd s.blk p q d .resume).port = p from rfl,
    show (acceptedCmd s.blk p q d .resume).queue = q from rfl, found, hs, if_true]
  rfl

/-- DISCARD completes it ABORTED. -/
theorem exec_discard_of_halted (hf : flagOpf0 d = true) :
    exec (.discard p q d) s = .next { s with blk := inCtx p (discardCmd h) (slotTaken s.blk p q d) } := by
  have found : haltedOf (ofCtx p (entered s.blk p q d .resume)) p q = some h := haltedOf_entered ha hh
  refine onBlk_decodeAs_resume (mine := fun op => op == .resume && flagOpf0 d) ha (by simp [hf]) ?_
  rw [← dropResume_entered ha]
  unfold discardGo
  simp only [show (acceptedCmd s.blk p q d .resume).port = p from rfl,
    show (acceptedCmd s.blk p q d .resume).queue = q from rfl, found]
  rfl

end Queue

/-! ### Halt-control words (R118) -/

section Words
variable {b : Blk} {m : Master} {p q : Nat} {v : BitVec 64} {h : Cmd}

/-- A word from a master whose halt it is not, or with both bits, is refused. -/
theorem haltWrite_of_refused (hr : haltMatches m b p q = false ∨ (bitAt v 0 = true ∧ bitAt v 1 = true)) :
    haltWrite m p q v b = busError m true (haltWordAddr p q) b := by
  have refuses : ((bitAt v 0 && bitAt v 1) || !haltMatches m b p q) = true := by
    rcases hr with other | ⟨both0, both1⟩
    · simp [other]
    · simp [both0, both1]
  exact if_pos refuses

section Matched
variable (hm : haltMatches m b p q = true)
include hm

/-- A word with RESUME puts the halted command back to work. -/
theorem haltWrite_of_resume (hh : haltedOf b p q = some h) (hs : h.st = .halted) (h0 : bitAt v 0 = true) (h1 : bitAt v 1 = false)
    (hb : restartBad b h = false) : haltWrite m p q v b = inCtx p (resumeCmd h) b := by
  have resumes : inCtx p (resumeHalted h) b = inCtx p (resumeCmd h) b :=
    inCtx_congr (resumeHalted_of_good (b := ofCtx p b) hb) rfl
  simp only [haltWrite, hm, hh, hs, h0, h1, resumes, Bool.and_false, Bool.not_true, Bool.or_self, Bool.false_eq_true, if_false,
    if_true]

/-- A word with DISCARD discards it. -/
theorem haltWrite_of_discard (hh : haltedOf b p q = some h) (h1 : bitAt v 1 = true) (h0 : bitAt v 0 = false) :
    haltWrite m p q v b = discardCmd h b := by
  simp only [haltWrite, hm, hh, h0, h1, Bool.false_and, Bool.not_true, Bool.or_self, Bool.false_eq_true, if_false, if_true]

/-- A word with neither has no effect. -/
theorem haltWrite_of_neither (h0 : bitAt v 0 = false) (h1 : bitAt v 1 = false) : haltWrite m p q v b = b := by
  unfold haltWrite
  simp only [hm, h0, h1, Bool.and_false, Bool.not_true, Bool.or_self, Bool.false_eq_true, if_false]
  split <;> rfl

end Matched
end Words

/-- Both halt-control commands write the word. -/
theorem exec_haltWord_of {m : Master} {p q : Nat} {v : BitVec 64} {s : State} {b : Blk} (h : haltWrite m p q v s.blk = b) :
    exec (.haltResume m p q v) s = .next { s with blk := b } ∧ exec (.haltDiscard m p q v) s = .next { s with blk := b } := by
  subst h
  exact ⟨rfl, rfl⟩

/-- Settles O15: the queue's own RESUME and DISCARD (`exec_resume_of_halted`, `exec_discard_of_halted`), the halt-control
words, and what a resumption does by opcode. -/
theorem haltedCommandsGoOnOrAreDiscarded : Obligations.HaltedCommandsGoOnOrAreDiscarded := by
  intro s p q h d m v b
  refine ⟨fun held halted => ⟨fun accepted resumes sound => ?_, fun accepted discards none_held alone ends => ?_,
      fun matched set0 clear1 sound => ?_, fun matched set1 clear0 none_held alone ends => ?_⟩,
    fun matched clear0 clear1 => exec_haltWord_of (haltWrite_of_neither matched clear0 clear1),
    fun refused => exec_haltWord_of (haltWrite_of_refused refused),
    fun e op named notArm => ⟨resumeCmd_of_rows named, fun table => resumeCmd_of_modtab (table ▸ named),
      resumeCmd_of_units named notArm⟩⟩
  · exact exec_resume_of_halted accepted held halted resumes sound
  · rw [exec_discard_of_halted accepted held discards]
    exact congrArg (fun x => Host.Outcome.next { s with blk := x })
      (inCtx_discardCmd (b := slotTaken s.blk p q d) alone none_held ends p)
  · exact (exec_haltWord_of (haltWrite_of_resume matched held halted set0 clear1 sound)).1
  · exact (exec_haltWord_of ((haltWrite_of_discard matched held set1 clear0).trans (discard_eq alone none_held ends))).2

end Sys2Proof.Machine

/-! SUPPORT. The commands that wait and the work that ends their wait: FENCE, RELEASE, FLAG.SET, and a timed FLAG.WAIT
(R106, R153, R155, R156). -/
namespace Sys2Proof.Machine

/-- A follow-up that changes the block alone leaves it as it says. -/
theorem onBlk_of {f : Blk → Blk} {s : State} {b : Blk} (h : f s.blk = b) : onBlk f s = .next { s with blk := b } := by
  subst h
  rfl

section Waits
variable {b : Blk} {id : Nat} {c : Cmd}

/-! ### FENCE (R153) -/

section Fence
variable (hw : waitsAs .fence b id c)
include hw

theorem fenceEnd_of_done (he : earlierOn b c (fenceQueues c) = false) : fenceEnd id b = finishCmd c .ok 0 0 b := by
  simp only [fenceEnd, hw.1, hw.2, he, Bool.not_false, and_self, if_true]

theorem fenceEnd_of_earlier (he : earlierOn b c (fenceQueues c) = true) : fenceEnd id b = b := by
  simp only [fenceEnd, hw.1, he, Bool.not_true, Bool.false_eq_true, and_false, if_false]

end Fence

/-! ### RELEASE (R106) -/

/-- On one die, a code that stops a command fails its unit. -/
theorem stopHere_of_one (one : (tsetOf c.desc.tset).logD = 0) (code : Code) (addr : Nat) :
    stopHere c code addr b = unitFails c code 0 0 b :=
  if_neg (not_not.mpr one)

/-- A release has no commit units. -/
theorem multiUnit_nop {d : Desc} (h : opOf d = some .nop) : multiUnit d = false := by
  unfold multiUnit
  rw [h]

section Release
variable (hw : waitsAs .release b id c) (he : earlierNaming b c (maskedRegs b c.desc) = false) (hs : slicedOut b c = false)
include hw he hs

/-- A PARTIAL register stops the release (log entry 39). -/
theorem releaseApply_of_partial (hp : anyPartial b (maskedRegs b c.desc) = true) :
    releaseApply id b = stopHere c .partialRead 0 b := by
  simp only [releaseApply, hw.1, hw.2, he, hs, hp, Bool.not_false, and_self, if_true]

/-- Otherwise, on one die, every masked register is released. -/
theorem releaseApply_of_whole (hp : anyPartial b (maskedRegs b c.desc) = false) (one : spansGallery c = false) :
    releaseApply id b = finishCmd c .ok 0 0 (releaseAll c b) := by
  simp only [releaseApply, hw.1, hw.2, he, hs, hp, one, Bool.not_false, and_self, if_true, Bool.false_eq_true, if_false]

end Release

/-! ### FLAG.SET (R155) -/

section FlagSet
variable (hw : waitsAs .flagSet b id c) (he : earlierOn b c [c.queue] = false)
include hw he

/-- For one die, or with no other die in the Gallery, the flag is set and the command completes. -/
theorem flagSetApply_of_here (one : (tsetOf c.desc.tset).logD = 0 ∨ otherDies b = []) :
    flagSetApply id b = finishCmd c .ok 0 0 (setFlag c.port (oxFlag c.desc) b) := by
  simp only [flagSetApply, hw.1, hw.2, he, one, Bool.not_false, and_self, if_true]

/-- Over a Gallery it is sent first, and the command waits for every other die. -/
theorem flagSetApply_of_gallery (hl : (tsetOf c.desc.tset).logD ≠ 0) (hd : otherDies b ≠ []) :
    flagSetApply id b =
      (let e := broadcast 8 (dieOf b) (oxFlag c.desc) b
       setFlag c.port (oxFlag c.desc) (updCmd c.id (fun x => { x with st := .drain, acks := otherDies e }) e)) := by
  simp only [flagSetApply, hw.1, hw.2, he, hl, hd, Bool.not_false, and_self, if_true, or_self, if_false]

end FlagSet

/-- A set on which no wait stands leaves the flag set. -/
theorem setFlag_of_no_wait {p f : Nat} (h : waitsOn b p f = []) : setFlag p f b = putFlag p f true b :=
  (setFlag_of_no_consumer (h ▸ rfl)).trans (plainWaitsDone_nil h)

/-! ### A timed FLAG.WAIT (R156) -/

/-- The limit of a wait that has one. -/
theorem deadlineOf_timed (h : oxTimeout c.desc ≠ 0) : deadlineOf c = some (c.t0 + oxTimeout c.desc) := if_neg h

section Timeout
variable (hw : waitsAs .flagWait b id c) (ht : oxTimeout c.desc ≠ 0) {late : Blk}
  (hl : passTc (c.t0 + oxTimeout c.desc - b.clk.tc) b = late)
include hw ht hl

/-- Time passes to the wait's limit, and a wait that still stands expires. -/
theorem flagWaitTimeout_of_waiting {k : Cmd} (hk : waitsAs .flagWait late id k) :
    flagWaitTimeout id b = expireWait k late := by
  simp only [flagWaitTimeout, hw.1, hw.2, deadlineOf_timed ht, hl, hk.1, hk.2, if_true]

/-- One that has ended before its limit is left alone. -/
theorem flagWaitTimeout_of_gone (hk : cmdOf late id = none) : flagWaitTimeout id b = late := by
  simp only [flagWaitTimeout, hw.1, hw.2, deadlineOf_timed ht, hl, hk]

end Timeout

/-- A tick ends the one wait whose limit lies before it. -/
theorem expireWaits_of_one (h : waitsDue b (fun t => decide (t < b.clk.tc)) = [c]) : expireWaits b = expireWait c b := by
  unfold expireWaits
  rw [h]
  rfl

/-- A wait that expires completes ABORTED, its CYCLES counted to its limit. -/
theorem expireWait_completed (h : canComplete { c with t0 := b.clk.tc - oxTimeout c.desc } b) :
    expireWait c b = completed { c with t0 := b.clk.tc - oxTimeout c.desc } .aborted 0 0 b :=
  finishCmd_eq h ..

end Waits

/-- Settles O24, wait by wait: FENCE, RELEASE, FLAG.SET, the limit of a FLAG.WAIT, and a tick past it. -/
theorem waitsEndWhenTheirWorkIsDone : Obligations.WaitsEndWhenTheirWorkIsDone := by
  intro s id c b f late
  refine ⟨fun waits done ends => onBlk_of ((fenceEnd_of_done waits done).trans (finishCmd_eq ends ..)),
    fun waits earlier => onBlk_of (fenceEnd_of_earlier waits earlier),
    fun waits noneNames turn one nop alone => ⟨fun isPartial ends => ?_, fun whole ends => ?_⟩,
    fun waits done => ⟨fun here noWait ends => ?_, fun spans others => onBlk_of (flagSetApply_of_gallery waits done spans others)⟩,
    fun waits timed => ⟨fun k still ends => ?_, fun gone => onBlk_of (flagWaitTimeout_of_gone waits timed rfl gone)⟩,
    fun due ends => (expireWaits_of_one due).trans (expireWait_completed ends)⟩
  · have stops := (releaseApply_of_partial waits noneNames turn isPartial).trans (stopHere_of_one one ..)
    rw [unitFails_eq ends, multiUnit_nop nop] at stops
    exact onBlk_of stops
  · exact onBlk_of ((releaseApply_of_whole waits noneNames turn whole alone).trans (finishCmd_eq ends ..))
  · have sets := flagSetApply_of_here waits done here
    rw [setFlag_of_no_wait noWait, finishCmd_eq (canComplete_putFlag ends ..)] at sets
    exact onBlk_of sets
  · exact onBlk_of ((flagWaitTimeout_of_waiting waits timed rfl still).trans (expireWait_completed ends))

end Sys2Proof.Machine

/-! SUPPORT. The end of a row command's drain, and the scheduler's interrupt (R104, R112, R114, R115, R166, R363). -/
namespace Sys2Proof.Machine

/-! ### What clearing PARTIAL and marking a stop leave alone -/

@[simp] theorem clearPartial_qs (c : Cmd) (b : Blk) : (clearPartial c b).qs = b.qs := by
  unfold clearPartial
  repeat' split
  all_goals rfl

@[simp] theorem clearPartial_xlat (c : Cmd) (b : Blk) : (clearPartial c b).xlat = b.xlat := by
  unfold clearPartial
  repeat' split
  all_goals rfl

/-- The block in which a row command ends: PARTIAL is clear when the command had been halted (R116, Table TRG-2). -/
def rowsEnded (c : Cmd) (b : Blk) : Blk := if wasHalted b c then clearPartial c b else b

theorem canComplete_rowsEnded {c : Cmd} {b : Blk} (h : canComplete c b) : canComplete c (rowsEnded c b) := by
  unfold rowsEnded
  split
  · exact canComplete_congr (by simp) (by simp) (by simp) h
  · exact h

/-- A row command ends like any other, in that block. -/
theorem finishRows_completed {c : Cmd} {b : Blk} (h : canComplete c (rowsEnded c b)) (code : Code) :
    finishRows c code b = completed c code 0 0 (rowsEnded c b) :=
  finishCmd_eq h ..

/-- Marking a stop changes registers' tags and flags only. -/
theorem stopMarks_eq (c : Cmd) (part : Bool) (b : Blk) :
    stopMarks c part b = { b with regs := (stopMarks c part b).regs } := by
  unfold stopMarks
  repeat' split
  all_goals rfl

theorem stopMarks_queues (c : Cmd) (part : Bool) (b : Blk) : (stopMarks c part b).qs = b.qs := by rw [stopMarks_eq]

theorem stopMarks_answers (c : Cmd) (part : Bool) (b : Blk) : (stopMarks c part b).xlat = b.xlat := by rw [stopMarks_eq]

theorem stopMarks_flying (c : Cmd) (part : Bool) (b : Blk) : (stopMarks c part b).cmds = b.cmds := by rw [stopMarks_eq]

/-- Whether a command had been halted is in its queue's restart record. -/
theorem wasHalted_congr {a b : Blk} (h : a.qs = b.qs) (c : Cmd) : wasHalted a c = wasHalted b c := by
  unfold wasHalted
  rw [queueOf_congr h]

section Drained
variable {b : Blk} {id : Nat} {c : Cmd}

/-! ### ROW_HALT and ROW_DENIED (R112, R363) -/

theorem haltRows_of_canHalt (h : canHalt c b) (cause : Nat) :
    haltRows c cause b = haltsAs c cause 0 (rowPlace c.desc) (stopMarks c true b) :=
  haltOrEnd_eq (canHalt_congr (stopMarks_queues ..) (stopMarks_answers ..) h) ..

section Quiet
variable (hw : waitsAs .rows b id c) (hq : rowsQuiet c = true)
include hw hq

/-- A page not present halts the command with CAUSE 1. -/
theorem rowHalt_of_fault (hd : c.denied = false) (hf : c.faultAddr ≠ none) : rowHalt id b = haltRows c 1 b := by
  have met : c.faultAddr.isSome = true := Option.isSome_iff_ne_none.mpr hf
  simp [rowHalt, hw.1, hw.2, hq, hd, met]

/-- With none met, an interruption halts it with the cause asked for. -/
theorem rowHalt_of_interrupt (hd : c.denied = false) (hf : c.faultAddr = none) (hi : c.interrupt ≠ 0) :
    rowHalt id b = haltRows c c.interrupt b := by
  simp [rowHalt, hw.1, hw.2, hq, hd, hf, hi]

/-- A denied row ends it NOT_OWNER. -/
theorem rowDenied_of_denied (hd : c.denied = true) : rowDenied id b = finishRows c .notOwner (stopMarks c false b) := by
  simp [rowDenied, hw.1, hw.2, hq, hd]

end Quiet

section Out
variable (hc : cmdOf b id = some c) (hq : rowsQuiet c = false)
include hc hq

/-- While a row is out, neither does anything. -/
theorem rowHalt_of_out : rowHalt id b = b := by simp [rowHalt, hc, hq]

theorem rowDenied_of_out : rowDenied id b = b := by simp [rowDenied, hc, hq]

end Out

/-! ### SCHEDULER_INTERRUPT (R112) -/

/-- A row command is asked to stop. -/
theorem interruptCmd_of_rows (hr : isRowCmd c.desc = true) (hs : c.st = .rows) (cause : Nat) :
    interruptCmd cause c b = updCmd c.id (fun x => { x with interrupt := cause }) b :=
  if_pos ⟨hr, hs⟩

/-- A command with commit units whose unit is not under way halts. -/
theorem interruptCmd_of_between (hs : c.st = .ready) (hm : multiUnit c.desc = true) (hh : c.home = none)
    (hf : c.fetched = true) (idle : c.stepSent = false ∧ c.step = 0 ∧ c.reports = [])
    (hx : ∀ e ∈ b.gal.xreq, e.2.cmd ≠ some c.id) (cause : Nat) : interruptCmd cause c b = haltOrEnd c cause 1 0 b := by
  obtain ⟨unsent, first, unreported⟩ := idle
  have noRequest : b.gal.xreq.any (fun e => e.2.cmd == some c.id) = false := by simpa using hx
  unfold interruptCmd
  simp only [hs, hm, hh, hf, unsent, first, unreported, noRequest]
  simp

/-- A command whose unit is the whole command runs on. -/
theorem interruptCmd_of_whole (hr : isRowCmd c.desc = false) (hm : multiUnit c.desc = false) (cause : Nat) :
    interruptCmd cause c b = b := by
  simp [interruptCmd, hr, hm]

end Drained

section Interrupt
variable {s : State} {id : Nat} {c : Cmd} (hc : cmdOf s.blk id = some c)
include hc

/-- The scheduler interrupts a tenant's command. -/
theorem exec_schedulerInterrupt_of_tenant (hp : c.port ≠ 5) {b : Blk} (hb : interruptCmd 2 c s.blk = b) :
    exec (.schedulerInterrupt id) s = .next { s with blk := b } := by
  show execSchedulerInterrupt id s = _
  unfold execSchedulerInterrupt
  refine onBlk_of ?_
  simp only [hc]
  exact (if_neg hp).trans hb

/-- It has no hand in the Vault queue (R166). -/
theorem exec_schedulerInterrupt_of_vault (hp : c.port = 5) : exec (.schedulerInterrupt id) s = .next s := by
  show execSchedulerInterrupt id s = _
  unfold execSchedulerInterrupt
  refine onBlk_of ?_
  simp only [hc]
  exact if_pos hp

end Interrupt

/-- Settles O29: what ends the drain of a row command, and what the scheduler's interrupt does to each kind of command. -/
theorem stoppedRowsHaltOrAreDenied : Obligations.StoppedRowsHaltOrAreDenied := by
  intro s id c b t mark kept
  have marks : ∀ part, stopMarks c part b = mark part := fun part => by
    unfold stopMarks
    dsimp only [mark]
    cases isLoad c.desc <;> cases rowReg b c.desc <;> rfl
  have keeps : rowsEnded c (stopMarks c false b) = kept := by
    unfold rowsEnded
    rw [wasHalted_congr (stopMarks_queues ..), marks]
  have halts : ∀ cause, canHalt c b → haltRows c cause b = haltsAs c cause 0 (rowPlace c.desc) (mark true) :=
    fun cause halting => marks true ▸ haltRows_of_canHalt halting cause
  refine ⟨fun waits quiet admitted fault halting => ?_, fun waits quiet admitted noFault asked halting => ?_,
    fun waits quiet denied ends => ?_, fun found out => ⟨onBlk_of (rowHalt_of_out found out), onBlk_of (rowDenied_of_out found out)⟩,
    fun waits isRow tenant => exec_schedulerInterrupt_of_tenant waits.1 tenant (interruptCmd_of_rows isRow waits.2 2),
    fun waits units mine fetched tenant unsent first unreported noRequest halting => ?_, fun found spared => ?_⟩
  · exact onBlk_of ((rowHalt_of_fault waits quiet admitted fault).trans (halts 1 halting))
  · exact onBlk_of ((rowHalt_of_interrupt waits quiet admitted noFault (by omega)).trans (halts _ halting))
  · have free : canComplete c (stopMarks c false b) :=
      canComplete_congr (stopMarks_flying ..) (stopMarks_queues ..) (stopMarks_answers ..) ends
    have done := (rowDenied_of_denied waits quiet denied).trans (finishRows_completed (canComplete_rowsEnded free) _)
    rw [keeps] at done
    exact onBlk_of done
  · exact exec_schedulerInterrupt_of_tenant waits.1 tenant
      ((interruptCmd_of_between waits.2 units mine fetched ⟨unsent, first, unreported⟩ noRequest 2).trans (haltOrEnd_eq halting ..))
  · by_cases vault : c.port = 5
    · exact exec_schedulerInterrupt_of_vault found vault
    · obtain ⟨notRow, whole⟩ := spared.resolve_right vault
      exact exec_schedulerInterrupt_of_tenant found vault (interruptCmd_of_whole notRow whole 2)

end Sys2Proof.Machine

/-! SUPPORT. ROW_COMMIT by what the pass start finds and what the row's pages answer (R101, R103, R104, R107, R110, R111, R113,
R363). -/
namespace Sys2Proof.Machine

/-- What a follow-up does with its command in flight, it does in its tenant's context (R297). -/
theorem onBlk_onCmd_of {s : State} {id : Nat} {f : Blk → Blk} {c : Cmd} {x b : Blk} (h : cmdOf s.blk id = some c)
    (hx : f (ofCtx c.port s.blk) = x) (hb : { x with ctx := s.blk.ctx } = b) :
    onBlk (onCmd id f) s = .next { s with blk := b } := by
  subst hx hb
  unfold onBlk onCmd
  rw [h]
  rfl

/-! ### A row and its command -/

/-- The block as a row finds it: the first one empties the latches of its command's tile (R107). -/
def rowsBegun (c : Cmd) (b : Blk) : Blk := if c.started then b else emptyLatches ((usedTiles b c).filterMap (physOf b)) b

/-- The command once a row has come back from its pages: that row and those below it have been issued (R110). -/
def rowSeen (c : Cmd) (row : Nat) : Cmd :=
  { c with started := true, unit := max c.unit (row + 1), issued := max c.issued (row + 1) }

/-- The command with a row that reported a page not present at `a`: it keeps the first such address (R112). -/
def rowFaulted (c : Cmd) (row a : Nat) : Cmd :=
  { rowSeen c row with faultAddr := some (c.faultAddr.getD a), back := setBit c.back row true }

/-- The command with a row that was denied (R363). -/
def rowRefused (c : Cmd) (row : Nat) : Cmd := { rowSeen c row with denied := true, back := setBit c.back row true }

/-- The command with a row committed. -/
def rowDone (c : Cmd) (row : Nat) : Cmd := { rowSeen c row with rowMask := setBit c.rowMask row true }

/-- What the pages of a row answer (R26, R363). -/
def rowPages (c : Cmd) (row : Nat) (b : Blk) : Option (Nat × Code) :=
  pageOutcome (refused b (rowAddrs (rowSrc c.desc) row ++ rowAddrs (rowDst c.desc) row))

/-- Where the stored granules that a row reads are kept. -/
def rowKeys (c : Cmd) (row : Nat) (b : Blk) : List Nat := readKeys b (rowAddrs (rowSrc c.desc) row)

/-- Neither the pages nor the parity of what a row reads depend on the latches. -/
theorem rowPages_rowsBegun (c : Cmd) (row : Nat) (b : Blk) : rowPages c row (rowsBegun c b) = rowPages c row b := by
  unfold rowsBegun
  split <;> rfl

theorem firstBad_rowsBegun (c : Cmd) (row : Nat) (b : Blk) :
    firstBad (rowsBegun c b) (rowKeys c row (rowsBegun c b)) = firstBad b (rowKeys c row b) := by
  unfold rowsBegun
  split <;> rfl

/-- The block with a row committed: its granules moved, its command told, and the register of a LOAD marked (R104). -/
def rowCommitted (c : Cmd) (row : Nat) (b : Blk) : Blk :=
  let kept := updCmd c.id (fun _ => rowDone c row) (moveRow c row b)
  if isLoad c.desc then markWrites (absRegTags kept (rowDst c.desc)) (flagKey c.desc) kept else kept

/-- Moving a row: the copies, the lines, the latches of a register side, and the count of its granules. -/
theorem moveRow_eq (c : Cmd) (row : Nat) (b : Blk) :
    moveRow c row b =
      (let src := rowAddrs (rowSrc c.desc) row
       let dst := rowAddrs (rowDst c.desc) row
       let copied := (dst.zip (src.map (readGranule b))).foldl (fun x y => writeBytes y.1 (leBytes 64 y.2.toNat) x) b
       let lines := touchLines c.port dst true (touchLines c.port src false copied)
       countMoved c.port src.length (readLatches (readKeys lines src) lines)) := by
  simp only [moveRow, List.length_map]

section Row
variable {b : Blk} {id row : Nat} {c : Cmd}

/-! ### A row that has landed (R110) -/

/-- Every row of the command has committed. -/
def allRowsDone (c : Cmd) : Bool := (List.range (rowCount c.desc)).all (bitAt c.rowMask)

/-- A row that leaves others, or a command that has met a stop, commits and no more. -/
theorem landRow_of_more (h : allRowsDone (rowDone c row) = false ∨ c.faultAddr ≠ none ∨ c.denied = true) :
    landRow (rowSeen c row) row b = rowCommitted c row b := by
  have goesOn : ¬ (allRowsDone (rowDone c row) = true ∧ c.faultAddr.isNone = true ∧ ¬ c.denied = true) := by
    rintro ⟨all, noFault, admitted⟩
    rcases h with more | fault | denied
    · exact absurd all (by simp [more])
    · exact fault (Option.isNone_iff_eq_none.mp noFault)
    · exact admitted denied
  exact if_neg goesOn

/-- With the last row the command ends OK. -/
theorem landRow_of_last (ha : allRowsDone (rowDone c row) = true) (hf : c.faultAddr = none) (hd : c.denied = false) :
    landRow (rowSeen c row) row b = finishRows (rowDone c row) .ok (rowCommitted c row b) :=
  if_pos ⟨ha, Option.isNone_iff_eq_none.mpr hf, ne_true_of_eq_false hd⟩

/-! ### What the pages answer (R112, R363) -/

/-- With every page answering, good parity and no event, the row lands. -/
theorem rowLands_of_here (hp : rowPages c row b = none) (hb : firstBad b (rowKeys c row b) = none) :
    rowLands c row [] b = landRow (rowSeen c row) row b := by
  unfold rowPages at hp
  unfold rowKeys at hb
  simp only [rowLands, hp, meetParity_of_clean hb, Bool.false_eq_true, if_false]
  rfl

section Pages
variable {a : Nat} (ev : List ParityEvent)

theorem rowLands_of_absent (hp : rowPages c row b = some (a, .faultResumable)) :
    rowLands c row ev b = updCmd c.id (fun _ => rowFaulted c row a) b := by
  unfold rowPages at hp
  simp only [rowLands, hp]
  rfl

theorem rowLands_of_denied (hp : rowPages c row b = some (a, .notOwner)) :
    rowLands c row ev b = updCmd c.id (fun _ => rowRefused c row) b := by
  unfold rowPages at hp
  simp only [rowLands, hp]
  rfl

theorem rowLands_of_parity (hp : rowPages c row b = some (a, .parity)) :
    rowLands c row ev b = finishRows (rowSeen c row) .parity (parityRecord (some c) 7 a 0 row (allReplays b)) := by
  unfold rowPages at hp
  simp only [rowLands, hp]
  rfl

end Pages

/-! ### ROW_COMMIT -/

section Due
variable (hd : rowDue b id row c) (ev : List ParityEvent)
include hd

/-- A row at its turn ends its command at a failed pass start. -/
theorem rowCommit_of_failed {code : Code} (hs : rowStart b c = some code) : rowCommit id row ev b = finishRows c code b := by
  obtain ⟨⟨found, issuing⟩, below, uncommitted, out, turn⟩ := hd
  simp [rowCommit, found, issuing, below, uncommitted, out, turn, hs]

/-- Past it, the row lands by what its pages answer. -/
theorem rowCommit_of_started (hs : rowStart b c = none) : rowCommit id row ev b = rowLands c row ev (rowsBegun c b) := by
  obtain ⟨⟨found, issuing⟩, below, uncommitted, out, turn⟩ := hd
  simp [rowCommit, found, issuing, below, uncommitted, out, turn, hs, rowsBegun]

end Due
end Row

/-- Settles O28: a row at its turn ends at a failed pass start, or lands by what its pages answer (`rowCommit_of_started`). -/
theorem rowsCommitAsTheirPagesCome : Obligations.RowsCommitAsTheirPagesCome := by
  intro s id row c b back src dst begun pages seen done copied lines kept e fin due
  have found : cmdOf s.blk id = some c := due.1.1
  have dueHere : rowDue b id row c := due
  refine ⟨fun passes => ?_, fun code ev fails ends => onBlk_onCmd_of found
    ((rowCommit_of_failed dueHere ev fails).trans (finishRows_completed ends code)) rfl⟩
  have lands : ∀ ev, rowCommit id row ev b = rowLands c row ev begun := fun ev => rowCommit_of_started dueHere ev passes
  have answers : rowPages c row begun = pages := rowPages_rowsBegun c row b
  refine ⟨fun present good => ?_, fun a ev absent => ?_, fun a ev denied => ?_, fun a ev lost => ?_⟩
  · have sound : firstBad begun (rowKeys c row begun) = none := (firstBad_rowsBegun c row b).trans good
    have committed : rowCommitted c row begun = e := by
      unfold rowCommitted
      rw [moveRow_eq]
      rfl
    have here : rowCommit id row [] b = landRow seen row begun :=
      (lands []).trans (rowLands_of_here (answers.trans present) sound)
    refine ⟨fun more => ?_, fun all noFault admitted ends => ?_⟩
    · exact onBlk_onCmd_of found ((here.trans (landRow_of_more more)).trans committed) rfl
    · have ended : rowCommit id row [] b = finishRows done .ok e :=
        (here.trans (landRow_of_last all noFault admitted)).trans (congrArg _ committed)
      exact onBlk_onCmd_of found (ended.trans (finishRows_completed ends .ok)) rfl
  · exact onBlk_onCmd_of found ((lands ev).trans (rowLands_of_absent ev (answers.trans absent))) rfl
  · exact onBlk_onCmd_of found ((lands ev).trans (rowLands_of_denied ev (answers.trans denied))) rfl
  · intro k ends
    exact onBlk_onCmd_of found
      (((lands ev).trans (rowLands_of_parity ev (answers.trans lost))).trans (finishRows_completed ends .parity)) rfl

end Sys2Proof.Machine

/-! SUPPORT. Partition records: staging one, committing those that change, and passing a turn on (R126, R127, R288 to R290,
R293). -/
namespace Sys2Proof.Machine

/-! ### Acting on quiet tiles (R126) -/

/-- The block with tiles no longer quieted. -/
def quietEnded (tiles : List Nat) (b : Blk) : Blk :=
  { b with vlt := { b.vlt with quieting := b.vlt.quieting.filter (fun t => !tiles.contains t) } }

section Quiet
variable {b : Blk} {tiles : List Nat} {act : Blk → Blk}

theorem whenQuiet_of_quiet (h : quietTiles (settleTiles tiles b) tiles = true) :
    whenQuiet tiles act b = act (quietEnded tiles (settleTiles tiles b)) :=
  if_pos h

theorem whenQuiet_of_busy (h : quietTiles (settleTiles tiles b) tiles = false) : whenQuiet tiles act b = settleTiles tiles b :=
  if_neg (ne_true_of_eq_false h)

end Quiet

/-! ### Staging and committing (R288 to R290) -/

/-- The block with a commit accepted: it is counted, and the records that change wait to be applied. -/
def commitCounted (b : Blk) : Blk :=
  { b with vlt := { b.vlt with generation := b.vlt.generation + 1, applying := changedRecs b } }

/-- Which records change is a matter of the Vault's registers alone. -/
theorem changedRecs_congr {x y : Blk} (h : x.vlt = y.vlt) : changedRecs x = changedRecs y := by
  unfold changedRecs activeOf stagedOf
  rw [h]

/-- The change that the commit under way makes. -/
def changeDue (b : Blk) : Change := changeOf b b.vlt.applying

/-- The block with the commands of every tenant ended that the commit under way disables. -/
def disabledEnded (b : Blk) : Blk :=
  ((changeDue b).full.filter (disables b)).foldl (fun e x => endCommands x.1 true e) b

theorem applyCommit_of_none {b : Blk} (h : b.vlt.applying = []) : applyCommit b = b := if_pos h

/-- A commit that changes records waits for the tiles they concern. -/
theorem applyCommit_of_changes {b : Blk} (h : b.vlt.applying ≠ []) :
    applyCommit b = whenQuiet (quietSet (disabledEnded b) (changeDue b)) (applyQuiet (changeDue b)) (disabledEnded b) :=
  if_neg h

section Served
variable {s : State} {r : DictReq} (ha : arrived s.blk .write r = true) (hs : requestStatus s.blk .write r = .ok)
include ha hs

section Staged
variable (hi : r.index = 0x3010) (hl : 1 ≤ r.sub) (hu : r.sub ≤ 5)
include hi hl hu

theorem exec_stagedRecord_of_good (hv : stagedOk r = true) :
    exec (.stagedRecord r) s = .next { s with
      blk := (fun b : Blk => { b with vlt := { b.vlt with
        staged := tabPut {} b.vlt.staged (r.sub - 1) (recOf (reqData r)) } }) (respond .write r .ok [] s.blk) } :=
  onBlk_of (serveWrite_ok (by simp [hi, hl, hu]) ha hs hv)

theorem exec_stagedRecord_of_bad (hv : stagedOk r = false) :
    exec (.stagedRecord r) s = .next { s with blk := respond .write r .badValue [] s.blk } :=
  onBlk_of (serveWrite_bad (by simp [hi, hl, hu]) ha hs hv)

end Staged

section Commit
variable (he : isEntry 0x3000 1 r.index r.sub = true)
include he

omit ha hs in
/-- COMMIT takes the value 1 (Table DIC-9). -/
theorem inRange_commit (hv : reqValue r = 1) (b : Blk) : inRange b r = true := by
  have present : entryPresent b 0x3000 1 = true := by simp [entryPresent]
  rw [inRange_at (entry_named he) rfl present (by decide) rfl, hv]
  rfl

/-- A commit that a condition of R289 refuses changes nothing. -/
theorem exec_commit_of_bad (hc : commitOk s.blk = false) :
    exec (.commit r) s = .next { s with blk := respond .write r .badValue [] s.blk } :=
  onBlk_of (serveWrite_bad he ha hs (by simp [hc]))

/-- Any other is answered, counted and applied. -/
theorem exec_commit_of_good (hv : reqValue r = 1) (hc : commitOk s.blk = true) {b : Blk}
    (hb : applyCommit (commitCounted (respond .write r .ok [] s.blk)) = b) :
    exec (.commit r) s = .next { s with blk := b } :=
  onBlk_of ((serveWrite_ok he ha hs (by simp [hc, inRange_commit he hv])).trans hb)

end Commit
end Served

/-! ### Time slices (R293) -/

/-- The block with the turn of a port at its end. -/
def turnAsked (p : Nat) (b : Blk) : Blk := { b with vlt := { b.vlt with turning := (b.vlt.turning ++ [p]).eraseDups } }

section Turn
variable {b : Blk} {p : Nat}

/-- What gives a port a turn to end: it runs, sliced, while its partner waits. -/
theorem hasTurn_of (alive : b.vlt.alive = true) (runs : b.pwr.inReset = false) (tenant : p < 5)
    (enabled : recEnabled (activeOf b p) = true) (sliced : recSliced (activeOf b p) = true)
    (mine : b.vlt.sliced.contains p = false) (other : b.vlt.sliced.contains (recPartner (activeOf b p)) = true) :
    hasTurn b p = true := by
  simp only [hasTurn, alive, runs, decide_eq_true tenant, enabled, sliced, mine, other, Bool.not_false, Bool.and_self]

theorem timeSlice_of_turn (h : hasTurn b p = true) : timeSlice p b = applyTurns (turnAsked p b) :=
  if_neg (by simp [h])

theorem timeSlice_of_no_turn (h : hasTurn b p = false) : timeSlice p b = b :=
  if_pos (by simp [h])

/-- Where no other turn waits, one waits. -/
theorem turnAsked_turning (h : b.vlt.turning = [] ∨ b.vlt.turning = [p]) : (turnAsked p b).vlt.turning = [p] := by
  unfold turnAsked
  rcases h with h | h <;> simp [h, List.eraseDups_cons]

/-- One turn alone passes on once its tiles are quiet. -/
theorem applyTurns_of_one (h : b.vlt.turning = [p]) (ht : hasTurn b p = true) :
    applyTurns b =
      whenQuiet (recTiles (activeOf b p)) (switchTo p (recPartner (activeOf b p)) (recTiles (activeOf b p))) b := by
  unfold applyTurns
  rw [h]
  exact if_pos ht

end Turn

/-- Settles O58: the writes of a staged record and of COMMIT by their checks, a commit by the tiles that its changes concern, and
a time slice by whether the port has the turn and its tiles are quiet. -/
theorem partitionsAreStagedCommittedAndTurned : Obligations.PartitionsAreStagedCommittedAndTurned := by
  intro s r p b ok bad counted ended set settled rest a o tiles asked stilled q halted saved given turned
  have freed : ∀ l e, rest l e = quietEnded l e := fun _ _ => rfl
  refine ⟨fun came passes => ⟨fun index low high => ⟨exec_stagedRecord_of_good came passes index low high,
      exec_stagedRecord_of_bad came passes index low high⟩, fun named one => ?_⟩,
    fun alive runs tenant enabled sliced mine other => ?_, fun none_ => onBlk_of (timeSlice_of_no_turn none_)⟩
  · have isCounted : commitCounted ok = counted := by
      unfold commitCounted
      rw [changedRecs_congr (x := ok) (y := b) rfl]
    have takes : ∀ {x}, commitOk b = true → applyCommit counted = x → exec (.commit r) s = .next { s with blk := x } :=
      fun good applied => exec_commit_of_good came passes named one good ((congrArg applyCommit isCounted).trans applied)
    have applies : changedRecs b ≠ [] →
        applyCommit counted = whenQuiet set (applyQuiet (changeOf counted (changedRecs b))) ended :=
      fun changes => applyCommit_of_changes changes
    refine ⟨exec_commit_of_bad came passes named, fun good same => ?_, fun good changes quiet => ?_, fun good changes busy => ?_⟩
    · exact takes good (applyCommit_of_none same)
    · rw [freed]
      exact takes good ((applies changes).trans (whenQuiet_of_quiet quiet))
    · exact takes good ((applies changes).trans (whenQuiet_of_busy busy))
  · have turn : hasTurn b p = true := hasTurn_of alive runs tenant enabled sliced mine other
    have begins : timeSlice p b = applyTurns asked := timeSlice_of_turn turn
    have passesOn : b.vlt.turning = [] ∨ b.vlt.turning = [p] → timeSlice p b = whenQuiet tiles (switchTo p o tiles) asked :=
      fun alone => begins.trans (applyTurns_of_one (turnAsked_turning alone) turn)
    have switches : switchTo p o tiles (quietEnded tiles stilled) = vaultResume 5 tiles (vaultResume o tiles turned) := by
      rw [← freed]
      rfl
    exact ⟨fun alone quiet => onBlk_of (((passesOn alone).trans (whenQuiet_of_quiet quiet)).trans switches),
      fun alone busy => onBlk_of ((passesOn alone).trans (whenQuiet_of_busy busy)), onBlk_of begins⟩

end Sys2Proof.Machine


/-! SUPPORT. Decodes that end at once: a catalogue command that goes to its passes, and the commands that complete at their
decode (R139, R140, R147 to R149, R159, R162, R167, R269). -/
namespace Sys2Proof.Machine

/-- Settles O7: the numbering is one of the invariants that every command and every tick keeps (`step_keeps`). -/
theorem commandsStayNumbered : Obligations.CommandsStayNumbered := by
  intro s t low stepped
  exact (step_keeps stepped).cmds low

/-- Settles O10: an accepted descriptor's command enters flight (`decodeAs_accepted`), and a catalogue row does nothing more
than wait for its passes. -/
theorem catalogueCommandsEnterFlight : Obligations.CatalogueCommandsEnterFlight := by
  intro s p q d op isCatalogue accepted
  refine exec_catalogueRow isCatalogue fun mine isMine => ?_
  rw [decodeAs_accepted accepted isMine, inCtx_getReady]

section Complete
variable {s : State} {p q : Nat} {d : Desc} {op : Op} {mine : Op → Bool} {go : Cmd → Blk → Blk} {c : Cmd} {b : Blk}

/-- A row that fetches nothing ahead and whose accepted command completes OK, after a change of the block that has no part in
translation contexts. -/
theorem onBlk_decodeAs_completed (ha : accepts s.blk p q d op) (hm : mine op = true)
    (plain : entered s.blk p q d op = decoded s.blk p q d (acceptedCmd s.blk p q d op))
    (hgo : go (acceptedCmd s.blk p q d op) (ofCtx p (decoded s.blk p q d (acceptedCmd s.blk p q d op)))
      = finishCmd c .ok 0 0 (ofCtx p b))
    (hb : s.blk.ctx = b.ctx) (hc : canComplete c b) :
    onBlk (decodeAs mine go p q d) s = .next { s with blk := completed c .ok 0 0 b } := by
  rw [onBlk_decodeAs_accepted ha hm, plain, inCtx_congr (g := finishCmd c .ok 0 0) hgo hb, finishIn_eq hc]

/-- NOP with neither a mask nor SET_EPOCH completes. -/
theorem execNop_completed (ha : accepts s.blk p q d .nop) (hr : oxRelease d = 0) (hf : flagOpf0 d = false)
    (hc : canComplete (acceptedCmd s.blk p q d .nop) (decoded s.blk p q d (acceptedCmd s.blk p q d .nop))) :
    execNop p q d s = .next { s with
      blk := completed (acceptedCmd s.blk p q d .nop) .ok 0 0 (decoded s.blk p q d (acceptedCmd s.blk p q d .nop)) } :=
  onBlk_decodeAs_completed ha (by simp [hr, hf]) (entered_plain ha.1.1 (by decide)) rfl rfl hc

/-- SET_EPOCH loads its queue's schedule epoch and completes (R162). -/
theorem execSetEpoch_completed (ha : accepts s.blk p q d .nop) (hr : oxRelease d = 0) (hf : flagOpf0 d = true)
    (hb : updQueue p q (fun r => { r with schedEpoch := d.w8 }) (decoded s.blk p q d (acceptedCmd s.blk p q d .nop)) = b)
    (hc : canComplete (acceptedCmd s.blk p q d .nop) b) :
    execSetEpoch p q d s = .next { s with blk := completed (acceptedCmd s.blk p q d .nop) .ok 0 0 b } := by
  subst hb
  have loads : ∀ x, loadEpoch (acceptedCmd s.blk p q d .nop) x = updQueue p q (fun r => { r with schedEpoch := d.w8 }) x :=
    fun x => if_pos hf
  exact onBlk_decodeAs_completed ha (by simp [hr, hf]) (entered_plain ha.1.1 (by decide)) (by rw [loads]; rfl) rfl hc

/-- DEBUG.BREAK sets the break of the queue it names and completes (R159). -/
theorem execDebugBreak_completed (ha : accepts s.blk p q d .debugBreak)
    (hb : updQueue p (ox d 0 2) (fun r => { r with
      brkMode := ox d 8 8, brkTag := BitVec.ofNat 16 (ox d 16 16)
      brkMask := BitVec.ofNat 16 (ox d 32 16), brkCount := BitVec.ofNat 48 (ox d 48 48) })
        (decoded s.blk p q d (acceptedCmd s.blk p q d .debugBreak)) = b)
    (hc : canComplete (acceptedCmd s.blk p q d .debugBreak) b) :
    execDebugBreak p q d s = .next { s with blk := completed (acceptedCmd s.blk p q d .debugBreak) .ok 0 0 b } := by
  subst hb
  exact onBlk_decodeAs_completed ha rfl (entered_plain ha.1.1 (by decide)) rfl rfl hc

end Complete

/-- Settles O12, row by row. -/
theorem nopSetEpochAndBreakComplete : Obligations.NopSetEpochAndBreakComplete := by
  intro s p q d c k onNop onEpoch onBreak
  exact ⟨execNop_completed, fun accepted noMask sets => execSetEpoch_completed accepted noMask sets rfl,
    fun accepted => execDebugBreak_completed accepted rfl⟩

/-- Settles O13: `decodeAs_rejected` and `decodeAs_unknown` reject the command, and a rejected command whose record can be
written completes. -/
theorem rejectedDescriptorCompletesWithItsFirstCode : Obligations.RejectedDescriptorCompletesWithItsFirstCode := by
  intro s p q d c b
  refine ⟨?_, ?_⟩
  · intro op code takes free first e ends
    exact exec_rowOf s p q d op _ fun mine go isMine =>
      (decodeAs_rejected takes isMine go free first).trans (finishCmd_eq ends code 0 0)
  · intro op unnamed serves ends
    exact exec_rowOf s p q d op _ fun mine go _ => (decodeAs_unknown serves unnamed mine go).trans (rejectCmd_eq ends .shape)

end Sys2Proof.Machine

/-! SUPPORT. FLAG.WAIT at its decode, by the flag it finds (R154, R156, R157). -/
namespace Sys2Proof.Machine

section Evaluate
variable {b : Blk} {p f : Nat} {c : Cmd}

/-- A clear flag satisfies no wait. -/
theorem evalWaits_of_clear (h : flagOf b p f = false) : evalWaits p f b = b := by
  simp only [evalWaits, h, Bool.not_false, if_true]

/-- What a satisfied wait leaves of its flag: CONSUME clears it. -/
def flagConsumed (p f : Nat) (d : Desc) (b : Blk) : Blk := if isConsume d then putFlag p f false b else b

theorem flagConsumed_ofCtx (p f q : Nat) (d : Desc) (b : Blk) :
    flagConsumed p f d (ofCtx q b) = ofCtx q (flagConsumed p f d b) := by
  unfold flagConsumed
  split <;> rfl

theorem flagConsumed_ctx (p f : Nat) (d : Desc) (b : Blk) : (flagConsumed p f d b).ctx = b.ctx := by
  unfold flagConsumed
  split <;> rfl

/-- A set flag satisfies the one wait on it. -/
theorem evalWaits_of_one (h : flagOf b p f = true) (hw : waitsOn b p f = [c]) (hq : c.queue < 4) :
    evalWaits p f b = finishCmd c .ok 0 0 (flagConsumed p f c.desc b) := by
  unfold evalWaits flagConsumed
  simp only [h, hw, Bool.not_true, Bool.false_eq_true, if_false]
  cases consumes : isConsume c.desc with
  | false => simp [consumerWait_plain consumes, consumes]
  | true => simp [consumerWait_alone consumes hq, consumes]

end Evaluate

/-- The command of an accepted FLAG.WAIT, waiting. -/
def waitingCmd (b : Blk) (p q : Nat) (d : Desc) : Cmd := { acceptedCmd b p q d .flagWait with st := .flagWait }

/-- The block once an accepted FLAG.WAIT is in flight and its queue is BLOCKED on it, before its flag is looked at. -/
def waitBegun (b : Blk) (p q : Nat) (d : Desc) : Blk := blockOn (waitingCmd b p q d) (entersAs .flagWait b p q d .flagWait)

section Begun
variable {b : Blk} {p q : Nat} {d : Desc} (ha : accepts b p q d .flagWait)
include ha

theorem waitBegun_eq : waitBegun b p q d = blockOn (waitingCmd b p q d) (decoded b p q d (waitingCmd b p q d)) := by
  unfold waitBegun entersAs
  rw [entered_plain ha.1.1 (by decide)]
  exact congrArg _ (upd_entered ha _)

theorem flagOf_waitBegun (f : Nat) : flagOf (waitBegun b p q d) p f = flagOf b p f := by
  rw [waitBegun_eq ha]
  rfl

/-- On a flag with no other wait, it is the one wait. -/
theorem waitsOn_waitBegun (h : waitsOn b p (oxFlag d) = []) : waitsOn (waitBegun b p q d) p (oxFlag d) = [waitingCmd b p q d] := by
  have mine : [waitingCmd b p q d].filter (fun c => c.st == .flagWait && c.port == p && oxFlag c.desc == oxFlag d)
      = [waitingCmd b p q d] := by
    simp [waitingCmd, acceptedCmd, freshCmd]
  rw [waitBegun_eq ha]
  exact (List.filter_append ..).trans (congrArg₂ _ h mine)

end Begun

/-- An accepted FLAG.WAIT enters flight waiting, and its flag is looked at. -/
theorem exec_flagWait_of {s : State} {p q : Nat} {d : Desc} {x : Blk} (ha : accepts s.blk p q d .flagWait)
    (hx : inCtx p (evalWaits p (oxFlag d)) (waitBegun s.blk p q d) = x) :
    exec (.flagWait p q d) s = .next { s with blk := x } := by
  subst hx
  exact onBlk_decodeAs_accepted ha rfl

/-- Settles O14, by the flag: a clear one leaves the wait standing, a set one ends it. -/
theorem flagWaitWaitsOrCompletes : Obligations.FlagWaitWaitsOrCompletes := by
  intro s p q d c b e accepted
  have flagHere : flagOf (ofCtx p b) p (oxFlag d) = flagOf s.blk p (oxFlag d) := flagOf_waitBegun accepted _
  refine ⟨fun clear => ?_, fun set low noOther ends => ?_⟩
  · exact exec_flagWait_of accepted (inCtx_congr (g := id) (evalWaits_of_clear (flagHere.trans clear)) rfl)
  · have one : waitsOn (ofCtx p b) p (oxFlag d) = [c] := waitsOn_waitBegun accepted noOther
    have finishes : evalWaits p (oxFlag d) (ofCtx p b) = finishCmd c .ok 0 0 (ofCtx p e) :=
      (evalWaits_of_one (flagHere.trans set) one low).trans (congrArg _ (flagConsumed_ofCtx ..))
    have sameCtx : b.ctx = e.ctx := (flagConsumed_ctx p (oxFlag d) d b).symm
    exact exec_flagWait_of accepted ((inCtx_congr finishes sameCtx).trans (finishIn_eq ends ..))

end Sys2Proof.Machine

/-! SUPPORT. A deadlocked tenant: the tile cycles counted, and the declaration (R158, R275). -/
namespace Sys2Proof.Machine

section Deadlock
variable {b : Blk} {p n : Nat}

/-- A deadlocked tenant's remaining cycles pass. -/
theorem flagDeadlock_of_deadlocked (hp : p < 5) (hd : deadlocked b p = true) :
    flagDeadlock p b = passTc (4096 - tabGet 0 b.deadTc p) b :=
  if_pos ⟨hp, hd⟩

/-- A tenant that is not deadlocked, or no tenant, is left alone. -/
theorem flagDeadlock_of_none (h : deadlocked b p = false ∨ 5 ≤ p) : flagDeadlock p b = b := by
  refine if_neg ?_
  rintro ⟨tenant, dead⟩
  rcases h with alive | beyond
  · simp [alive] at dead
  · omega

/-- Cycles that fill the count declare, so many cycles ago as they exceed it. -/
theorem countDead_of_full (hd : deadlocked b p = true) (hn : 4096 ≤ tabGet 0 b.deadTc p + n) :
    countDead n b p = declareDeadlock p (tabGet 0 b.deadTc p + n - 4096) { b with deadTc := tabDel p b.deadTc } := by
  unfold countDead
  simp only [hd, if_true]
  exact if_pos hn

/-- Fewer are counted. -/
theorem countDead_of_more (hd : deadlocked b p = true) (hn : tabGet 0 b.deadTc p + n < 4096) :
    countDead n b p = { b with deadTc := tabPut 0 b.deadTc p (tabGet 0 b.deadTc p + n) } := by
  unfold countDead
  simp only [hd, if_true]
  exact if_neg (Nat.not_le.mpr hn)

/-- A break of the condition takes the count back to zero. -/
theorem countDead_of_break (hd : deadlocked b p = false) : countDead n b p = { b with deadTc := tabPut 0 b.deadTc p 0 } := by
  unfold countDead
  simp only [hd, Bool.false_eq_true, if_false]
  exact if_neg (by decide)

/-- The waits of a tenant's queues, each with its queue, in the order of the queues. -/
def queueWaits (b : Blk) (p : Nat) : List (Nat × Cmd) :=
  (List.range 4).filterMap (fun q => (waitOfQueue b p q).map (fun c => (q, c)))

/-- The declaration writes one record, ends every wait and stops its queue. -/
theorem declareDeadlock_of_waits {q : Nat} {c : Cmd} (late : Nat) (hw : (queueWaits b p).head? = some (q, c)) :
    declareDeadlock p late b
      = (queueWaits b p).foldl (fun b w => stopQueue p w.1 2 (finishCmd { w.2 with t0 := w.2.t0 + late } .flagDeadlock 0 0 b))
          (sumpPut 0x15 (some .flagDeadlock) p q c.desc.tag.toNat 0 (deadlockDetail (queueWaits b p)) b) := by
  obtain ⟨others, first⟩ := List.head?_eq_some_iff.mp hw
  unfold declareDeadlock
  unfold queueWaits at first ⊢
  rw [first]

end Deadlock

/-- Settles O26: the command by whether the tenant is deadlocked, a tick by what it leaves of the count, and the declaration. -/
theorem deadlockStopsTheWaitingQueues : Obligations.DeadlockStopsTheWaitingQueues := by
  intro s p b
  exact ⟨fun tenant dead => onBlk_of (flagDeadlock_of_deadlocked tenant dead), fun alive => onBlk_of (flagDeadlock_of_none alive),
    fun e n => ⟨countDead_of_full, countDead_of_more, countDead_of_break⟩,
    fun e late q c => declareDeadlock_of_waits late⟩

end Sys2Proof.Machine

/-! SUPPORT. A queue put in place of another, what drains and what stops it, and the doorbells SQ_TAIL and CQ_HEAD (R136, R138). -/
namespace Sys2Proof.Machine

/-! ### Putting a queue -/

/-- The block with a queue's registers replaced. -/
def putQueue (p q : Nat) (y : Queue) (b : Blk) : Blk := { b with qs := tabPut {} b.qs (qKey p q) y }

section Put
variable {b : Blk} {p q : Nat} {y z : Queue} {f : Queue → Queue}

/-- A change of a queue puts the changed queue. -/
theorem updQueue_of (h : f (queueOf b p q) = y) : updQueue p q f b = putQueue p q y b := by
  subst h
  rfl

theorem queueOf_putQueue (h : y ≠ {}) : queueOf (putQueue p q y b) p q = y := tabGet_tabPut_of_ne h ..

/-- Of two queues put in turn the second stands. -/
theorem putQueue_putQueue (hy : y ≠ {}) (hz : z ≠ {}) : putQueue p q z (putQueue p q y b) = putQueue p q z b := by
  unfold putQueue
  rw [tabPut_tabPut hy _ _ _ hz]

/-- A change of the queue just put. -/
theorem updQueue_putQueue (hy : y ≠ {}) (hf : f y = z) (hz : z ≠ {}) : updQueue p q f (putQueue p q y b) = putQueue p q z b := by
  rw [updQueue_of (y := z) (by rw [queueOf_putQueue hy, hf]), putQueue_putQueue hy hz]

/-- Draining leaves a queue with these registers as it is, whatever is in flight: it is enabled, it is DISABLED already, or it
holds a record back. -/
def settled (y : Queue) : Prop := y.enable = true ∨ y.state = .disabled ∨ y.cplWait ≠ []

theorem drained_of_busy (h : inFlight b p q ≠ []) : drained p q b = b := by
  unfold drained
  simp [h]

theorem drained_putQueue_of_settled (hy : y ≠ {}) (hs : settled y) : drained p q (putQueue p q y b) = putQueue p q y b := by
  unfold drained
  split
  · refine updQueue_putQueue hy (if_neg ?_) hy
    rcases hs with enabled | off | held
    · simp [enabled]
    · simp [off]
    · simp [held]
  · rfl

/-- The same of any block in which the queue was put last. -/
theorem drained_of_settled {t : Tab Queue} (hq : b.qs = tabPut {} t (qKey p q) y) (hy : y ≠ {}) (hs : settled y) :
    drained p q b = b := by
  have : b = putQueue p q y { b with qs := t } := by
    unfold putQueue
    rw [← hq]
  rw [this]
  exact drained_putQueue_of_settled hy hs

end Put

/-! ### Stopping a queue -/

section Stop
variable {b : Blk} {p q : Nat} (cause : Nat)

theorem stopQueue_of_disabled (h : (queueOf b p q).state = .disabled) : stopQueue p q cause b = b := by
  unfold stopQueue
  rw [h]

/-- A queue that is not DISABLED is STOPPED with the cause; its tenant is interrupted when it was not STOPPED already. -/
theorem stopQueue_of_enabled (h : (queueOf b p q).state ≠ .disabled) :
    stopQueue p q cause b =
      (let x := putQueue p q { queueOf b p q with state := .stopped, cause := cause } b
       if (queueOf b p q).state = .stopped then x else tenantInt p x) := by
  unfold stopQueue
  cases state : (queueOf b p q).state with
  | disabled => exact absurd state h
  | _ => rfl

end Stop

/-! ### SQ_TAIL and CQ_HEAD (R136) -/

section Pointers
variable {b : Blk} {p q : Nat} {v : BitVec 32} (he : queueExists p q = true)
include he

theorem writeSqTail_of_beyond (h : 2 ^ (queueOf b p q).logEntries.toNat < (v - (queueOf b p q).sqHead).toNat) :
    writeSqTail p q v b = queueStopRecord p q 6 v (stopQueue p q 6 b) := by
  unfold writeSqTail ringSize
  simp only [he, h, Bool.not_true, Bool.false_eq_true, if_false, if_true]

theorem writeSqTail_of_within (h : (v - (queueOf b p q).sqHead).toNat ≤ 2 ^ (queueOf b p q).logEntries.toNat) :
    writeSqTail p q v b = putQueue p q { queueOf b p q with sqTail := v } b := by
  unfold writeSqTail ringSize
  simp only [he, Nat.not_lt.mpr h, Bool.not_true, Bool.false_eq_true, if_false]
  rfl

theorem writeCqHead_of_beyond (h : 2 ^ (queueOf b p q).logEntries.toNat < ((queueOf b p q).cqTail - v).toNat) :
    writeCqHead p q v b = queueStopRecord p q 0 v b := by
  unfold writeCqHead ringSize
  simp only [he, h, Bool.not_true, Bool.false_eq_true, if_false, if_true]

theorem writeCqHead_of_within (h : ((queueOf b p q).cqTail - v).toNat ≤ 2 ^ (queueOf b p q).logEntries.toNat) :
    writeCqHead p q v b = putQueue p q { queueOf b p q with cqHead := v } b := by
  unfold writeCqHead ringSize
  simp only [he, Nat.not_lt.mpr h, Bool.not_true, Bool.false_eq_true, if_false]
  rfl

end Pointers

/-- Settles O33, by the value's distance, and for the doorbell by the queue's state. -/
theorem pointerWritesBeyondTheRingAreRefused : Obligations.PointerWritesBeyondTheRingAreRefused := by
  intro s p q v b r put stopped record isQueue
  refine ⟨fun beyond => ⟨fun off => ?_, fun on => ?_⟩, fun within => onBlk_of (writeSqTail_of_within isQueue within),
    fun beyond => onBlk_of (writeCqHead_of_beyond isQueue beyond), fun within => onBlk_of (writeCqHead_of_within isQueue within)⟩
  · exact onBlk_of ((writeSqTail_of_beyond isQueue beyond).trans
      (congrArg (queueStopRecord p q 6 v) (stopQueue_of_disabled 6 off)))
  · exact onBlk_of ((writeSqTail_of_beyond isQueue beyond).trans
      (congrArg (queueStopRecord p q 6 v) (stopQueue_of_enabled 6 on)))

end Sys2Proof.Machine

/-! SUPPORT. CONFIG: ENABLE under its conditions, and what DISABLE does with the commands of its queue (R117, R134, R138, R166). -/
namespace Sys2Proof.Machine

/-! ### ENABLE (R134) -/

section Enable
variable {b : Blk} {p q : Nat} {config : BitVec 32} {r x : Queue}

/-- LOG_ENTRIES is taken from the value's low five bits, while DISABLED. -/
theorem takeLogEntries_eq (config : BitVec 32) (r : Queue) :
    takeLogEntries config r = if r.state = .disabled then { r with logEntries := BitVec.ofNat 5 (config.toNat % 32) } else r := by
  have low : field config 0 5 = config.toNat % 32 := by simp [field]
  unfold takeLogEntries
  rw [low]

/-- A ring base that lies where its queue's rings lie, on a page of 4,096. -/
def ringLies (p : Nat) (v : BitVec 64) : Prop :=
  v.toNat % 4096 = 0
  ∧ (if p = 5 then 0x4000200000 ≤ v.toNat ∧ v.toNat < 0x4000210000 else regionOf v.toNat = some .external)

theorem ringBaseOk_iff (p : Nat) (v : BitVec 64) : ringBaseOk p v = true ↔ ringLies p v := by
  unfold ringBaseOk ringLies inVaultSram
  by_cases vault : p = 5 <;> simp [vault]

/-- The four conditions, on a port that is enabled and a queue that is DISABLED. -/
theorem enableOk_iff : enableOk b p x = true ↔ portEnabled b p = true ∧ x.state = .disabled ∧ ringLies p x.ringBase
    ∧ ringLies p x.cplBase ∧ x.restartArea.toNat % 64 = 0 ∧ 4 ≤ x.logEntries.toNat ∧ x.logEntries.toNat ≤ 15 := by
  unfold enableOk
  simp only [Bool.and_eq_true, ringBaseOk_iff, beq_iff_eq, decide_eq_true_eq, and_assoc]

theorem enableQueue_of_enabled (h : r.enable = true) : enableQueue b config p r = r := if_pos h

theorem enableQueue_of_good (h : r.enable = false) (hx : takeLogEntries config r = x) (hg : enableOk b p x = true) :
    enableQueue b config p r = enabledQueue x := by
  unfold enableQueue
  simp only [h, hx, hg, Bool.false_eq_true, if_false, if_true]

theorem enableQueue_of_bad (h : r.enable = false) (hx : takeLogEntries config r = x) (hg : ¬ enableOk b p x = true) :
    enableQueue b config p r = { x with cause := 7 } := by
  unfold enableQueue
  simp only [h, hx, hg, Bool.false_eq_true, if_false]

/-- A CONFIG write with ENABLE puts what it makes of the queue. -/
theorem exec_enable_of {s : State} {y : Queue} (he : queueExists p q = true) (hc : bitAt config 8 = true)
    (h : enableQueue s.blk config p (queueOf s.blk p q) = y) :
    exec (.enable p q config) s = .next { s with blk := putQueue p q y s.blk } := by
  refine onBlk_of ?_
  simp only [he, hc, Bool.and_self, if_true]
  exact updQueue_of h

end Enable

/-! ### DISABLE (R138) -/

section Disable
variable {b : Blk} {p q : Nat} {config : BitVec 32}

theorem exec_disable_of {s : State} {x : Blk} (he : queueExists p q = true) (hc : bitAt config 8 = false)
    (h : disableQueue p q config s.blk = x) : exec (.disable p q config) s = .next { s with blk := x } := by
  refine onBlk_of ?_
  simp only [he, hc, Bool.not_false, Bool.and_self, if_true]
  exact h

/-- A queue whose ENABLE has been cleared. -/
def clearedQueue (r : Queue) : Queue := { r with enable := false, pendingStop := none }

/-- The same while its halted command is on its way out (log entry 69). -/
def discardingQueue (r : Queue) : Queue := { clearedQueue r with state := .stopped }

theorem disableQueue_of_not_enabled (h : (queueOf b p q).enable = false) :
    disableQueue p q config b = putQueue p q (takeLogEntries config (queueOf b p q)) b := by
  unfold disableQueue
  simp only [h, Bool.not_false, if_true]
  rfl

/-- With no restart record and no command halted the queue drains. -/
theorem disableQueue_of_no_restart (h : (queueOf b p q).enable = true) (hr : (queueOf b p q).restart = none)
    (hs : (queueOf b p q).state ≠ .halted) :
    disableQueue p q config b = drained p q (putQueue p q (clearedQueue (queueOf b p q)) b) := by
  have clears : ∀ f : Queue → Queue, f (queueOf b p q) = clearedQueue (queueOf b p q) →
      updQueue p q f b = putQueue p q (clearedQueue (queueOf b p q)) b := fun _ => updQueue_of
  unfold disableQueue
  simp only [h, hr, Bool.not_true, Bool.false_eq_true, if_false, Option.isSome_none]
  rw [clears _ (by rw [if_neg hs]; rfl)]

/-- A halted command is discarded first. -/
theorem disableQueue_of_halted {c : Cmd} (h : (queueOf b p q).enable = true) (hs : (queueOf b p q).state = .halted)
    (hh : haltedOf b p q = some c) :
    disableQueue p q config b = drained p q (discardCmd c (putQueue p q (discardingQueue (queueOf b p q)) b)) := by
  have held : (queueOf b p q).restart.isSome = true := by
    unfold haltedOf at hh
    cases restart : (queueOf b p q).restart with
    | none => simp [restart] at hh
    | some r => rfl
  have clears : ∀ f : Queue → Queue, f (queueOf b p q) = discardingQueue (queueOf b p q) →
      updQueue p q f b = putQueue p q (discardingQueue (queueOf b p q)) b := fun _ => updQueue_of
  unfold disableQueue
  simp only [h, hh, held, Bool.not_true, Bool.false_eq_true, if_false, if_true]
  rw [clears _ (by rw [if_pos hs]; rfl)]

/-- Nothing in flight and no record held back: the queue reads DISABLED. -/
theorem drained_putQueue_of_idle {y : Queue} (hl : y.logEntries ≠ 0) (he : y.enable = false) (hw : y.cplWait = [])
    (hs : y.state ≠ .disabled) (hf : inFlight b p q = []) :
    drained p q (putQueue p q y b) = putQueue p q { y with state := .disabled, cause := 0 } b := by
  have idle : inFlight (putQueue p q y b) p q = [] := hf
  unfold drained
  rw [idle]
  refine updQueue_putQueue (queue_ne_default hl) ?_ (queue_ne_default hl)
  simp [he, hw, hs]

section Discard
variable {c : Cmd}

/-- A completion with its queue's ENABLE clear leaves a queue with nothing more to drain. -/
theorem drained_completed {code : Code} {r0 r1 : Nat} (hl : (queueOf b c.port c.queue).logEntries ≠ 0)
    (he : (queueOf b c.port c.queue).enable = false) (hw : (queueOf b c.port c.queue).cplWait = []) :
    drained c.port c.queue (completed c code r0 r1 b) = completed c code r0 r1 b := by
  have left : (!(inFlight (completed c code r0 r1 b) c.port c.queue).isEmpty) = othersLeft c b := othersLeft_eq (by simp)
  cases others : othersLeft c b with
  | true =>
    refine drained_of_busy fun idle => ?_
    rw [others, idle] at left
    simp at left
  | false =>
    have puts : (completed c code r0 r1 b).qs
        = tabPut {} b.qs (qKey c.port c.queue) (completedQueue c code b (queueOf b c.port c.queue)) := by
      unfold completed
      simp only [ite_tenantInt]
      rfl
    refine drained_of_settled puts (queue_ne_default ?_) (Or.inr (Or.inl ?_))
    · unfold completedQueue
      rw [settleQueue_ring]
      exact hl
    · unfold completedQueue settleQueue
      simp [others, he, hw]

variable (hc : canComplete c b)
include hc

/-- The queue of a command that is being discarded keeps its ring. -/
theorem queueOf_discarding :
    queueOf (clearPartial c (putQueue c.port c.queue (discardingQueue (queueOf b c.port c.queue)) b)) c.port c.queue
      = discardingQueue (queueOf b c.port c.queue) := by
  have ring : (queueOf b c.port c.queue).logEntries ≠ 0 := hc.2.1
  rw [queueOf_congr (clearPartial_qs ..)]
  exact queueOf_putQueue (queue_ne_default ring)

/-- So the command can complete. -/
theorem canComplete_discarding :
    canComplete c (clearPartial c (putQueue c.port c.queue (discardingQueue (queueOf b c.port c.queue)) b)) := by
  have stands := queueOf_discarding hc
  obtain ⟨flying, ring, noneHeldBack, writes⟩ := hc
  refine ⟨?_, by rw [stands]; exact ring, by rw [stands]; exact noneHeldBack, ?_⟩
  · unfold isFlying at flying ⊢
    rw [cmdOf_congr (clearPartial_cmds ..)]
    exact flying
  · rw [stands, xstat_ofCtx_congr (clearPartial_xlat ..)]
    exact writes

/-- The halted command of a queue whose ENABLE is cleared completes ABORTED (R117, R138). -/
theorem disableQueue_of_discard (h : (queueOf b p q).enable = true) (hs : (queueOf b p q).state = .halted)
    (hh : haltedOf b p q = some c) (hp : c.port = p) (hq : c.queue = q) (hn : noneHeld b) (one : spansGallery c = false) :
    disableQueue p q config b
      = completed c .aborted 0 0 (clearPartial c (putQueue p q (discardingQueue (queueOf b p q)) b)) := by
  subst hp hq
  have stands := queueOf_discarding hc
  have free : noneHeld (putQueue c.port c.queue (discardingQueue (queueOf b c.port c.queue)) b) := hn
  rw [disableQueue_of_halted h hs hh, discard_eq one free (canComplete_discarding hc)]
  exact drained_completed (by rw [stands]; exact hc.2.1) (by rw [stands]; rfl) (by rw [stands]; exact hc.2.2.1)

end Discard
end Disable

/-- Settles O34: CONFIG with ENABLE by its conditions, and without by what its queue has in flight. -/
theorem queuesAreEnabledUnderTheirConditions : Obligations.QueuesAreEnabledUnderTheirConditions := by
  intro s p q config b r put x lies good fresh off isQueue
  have takes : takeLogEntries config r = x := takeLogEntries_eq config r
  refine ⟨fun enables => ⟨fun on => ?_, fun clear isGood => ?_, fun clear isBad => ?_⟩,
    fun disables => ⟨fun clear => ?_, fun on noRestart notHalted notOff ring => ⟨fun idle noneHeldBack => ?_, fun busy => ?_⟩,
      fun h on halted held hport hqueue free alone ends => ?_⟩⟩
  · exact exec_enable_of isQueue enables (enableQueue_of_enabled on)
  · exact exec_enable_of isQueue enables (enableQueue_of_good clear takes (enableOk_iff.mpr isGood))
  · exact exec_enable_of isQueue enables (enableQueue_of_bad clear takes (mt enableOk_iff.mp isBad))
  · exact exec_disable_of isQueue disables ((disableQueue_of_not_enabled clear).trans (congrArg put takes))
  · exact exec_disable_of isQueue disables ((disableQueue_of_no_restart on noRestart notHalted).trans
      (drained_putQueue_of_idle (y := off) ring rfl noneHeldBack notOff idle))
  · exact exec_disable_of isQueue disables ((disableQueue_of_no_restart on noRestart notHalted).trans (drained_of_busy busy))
  · exact exec_disable_of isQueue disables (disableQueue_of_discard ends on halted held hport hqueue free alone)

end Sys2Proof.Machine

/-! SUPPORT. CONTROL: STOP by the queue's state, START with the records held back for it (R137, R138, R283). -/
namespace Sys2Proof.Machine

section Control
variable {s : State} {b : Blk} {p q : Nat} {control : BitVec 32}

theorem exec_stop_of {x : Blk} (he : queueExists p q = true) (h1 : bitAt control 1 = true) (h0 : bitAt control 0 = false)
    (h : controlStop p q s.blk = x) : exec (.stop p q control) s = .next { s with blk := x } := by
  refine onBlk_of ?_
  simp only [he, h1, h0, Bool.not_false, Bool.and_self, if_true]
  exact h

theorem exec_start_of {x : Blk} (he : queueExists p q = true) (h0 : bitAt control 0 = true) (h1 : bitAt control 1 = false)
    (h : startQueue p q s.blk = x) : exec (.start p q control) s = .next { s with blk := x } := by
  refine onBlk_of ?_
  simp only [he, h1, h0, Bool.not_false, Bool.and_self, if_true]
  exact h

theorem controlStop_of_decoding (h : (queueOf b p q).state = .running ∨ (queueOf b p q).state = .blocked) :
    controlStop p q b = tenantInt p (putQueue p q { queueOf b p q with state := .stopped, cause := 4 } b) := by
  have on : (queueOf b p q).state ≠ .disabled := by rcases h with h | h <;> simp [h]
  have decodes : (queueOf b p q).state ≠ .stopped := by rcases h with h | h <;> simp [h]
  have stops : controlStop p q b = stopQueue p q 4 b := by
    unfold controlStop
    rcases h with h | h <;> rw [h]
  rw [stops, stopQueue_of_enabled 4 on]
  exact if_neg decodes

theorem controlStop_of_halted (h : (queueOf b p q).state = .halted) :
    controlStop p q b = putQueue p q { queueOf b p q with pendingStop := some 4 } b := by
  unfold controlStop
  rw [h]
  rfl

theorem controlStop_of_stopped (h : (queueOf b p q).state = .disabled ∨ (queueOf b p q).state = .stopped) :
    controlStop p q b = b := by
  unfold controlStop
  rcases h with h | h <;> rw [h]

theorem startQueue_of_other (h : (queueOf b p q).state ≠ .stopped) : startQueue p q b = b := if_neg h

/-- A queue that START has taken back. -/
def takenBack (r : Queue) : Queue := { r with state := if r.blockedBy.isSome then .blocked else .running, cause := 0 }

/-- The same with the records held for it about to be written. -/
def restarted (r : Queue) : Queue := { takenBack r with cplWait := [] }

theorem startedQueue_of_no_restart {r : Queue} (h : r.restart = none) : startedQueue r = takenBack r := by
  unfold startedQueue
  split
  · next held => simp [h] at held
  · rfl

/-- A change of an enabled queue that leaves it enabled leaves nothing to drain. -/
theorem drained_of_upd {a : Blk} {f : Queue → Queue} (hq : b.qs = tabUpd {} a.qs (qKey p q) f)
    (he : (f (queueOf a p q)).enable = true) : drained p q b = b :=
  drained_of_settled hq (queue_ne_default_of_enable he) (Or.inl he)

section Stopped
variable (he : (queueOf b p q).enable = true) (hs : (queueOf b p q).state = .stopped) (hr : (queueOf b p q).restart = none)
include he

theorem queueOf_restarted : queueOf (putQueue p q (restarted (queueOf b p q)) b) p q = restarted (queueOf b p q) :=
  queueOf_putQueue (queue_ne_default_of_enable he)

include hs hr

/-- START with no restart record takes the queue back, then writes the records held for it. -/
theorem startQueue_of_stopped :
    startQueue p q b = drained p q ((queueOf b p q).cplWait.foldl (fun b r => postCpl p q r b)
      (putQueue p q (restarted (queueOf b p q)) b)) := by
  have hy : takenBack (queueOf b p q) ≠ {} := queue_ne_default_of_enable he
  have takes : updQueue p q startedQueue b = putQueue p q (takenBack (queueOf b p q)) b :=
    updQueue_of (startedQueue_of_no_restart hr)
  have empties : updQueue p q (fun x => { x with cplWait := [] }) (putQueue p q (takenBack (queueOf b p q)) b)
      = putQueue p q (restarted (queueOf b p q)) b := updQueue_putQueue hy rfl (queue_ne_default_of_enable he)
  unfold startQueue repostCpl
  rw [if_pos hs, takes, queueOf_putQueue hy, empties]
  rfl

theorem startQueue_of_no_record (hw : (queueOf b p q).cplWait = []) :
    startQueue p q b = putQueue p q (restarted (queueOf b p q)) b := by
  rw [startQueue_of_stopped he hs hr, hw]
  exact drained_putQueue_of_settled (queue_ne_default_of_enable he) (Or.inl he)

/-- A record held for START is written where its ring slot can be. -/
theorem startQueue_of_record {k : Cpl} (hw : (queueOf b p q).cplWait = [k])
    (hx : xstat (ofCtx p b) (cplAddr (queueOf b p q) (queueOf b p q).cqTail) = .ok) :
    startQueue p q b = drained p q (recordWritten k (posted p q k (putQueue p q (restarted (queueOf b p q)) b))) := by
  have stands := queueOf_restarted he
  have writes : postCpl p q k (putQueue p q (restarted (queueOf b p q)) b) = _ :=
    postCpl_eq k (by rw [stands]; rfl) (by rw [stands]; exact hx)
  rw [startQueue_of_stopped he hs hr, hw, ← writes]
  rfl

end Stopped

/-- A record that ends no command in flight changes nothing more. -/
theorem recordWritten_of_gone {k : Cpl} (h : ∀ id ∈ k.cmd, cmdOf b id = none) : recordWritten k b = b := by
  have gone : k.cmd.bind (cmdOf b) = none := Option.bind_eq_none_iff.mpr h
  unfold recordWritten
  rw [gone]

/-- One that ends a command counts its code and takes it out of flight. -/
theorem recordWritten_of_flying {k : Cpl} {c : Cmd} (hk : k.cmd = some c.id) (hc : cmdOf b c.id = some c) :
    recordWritten k b = leaveFlight c k.code (countCode c.port k.code b) := by
  have found : k.cmd.bind (cmdOf b) = some c := by rw [hk]; exact hc
  unfold recordWritten
  rw [found]

/-- A record written counts in its queue's registers. -/
theorem posted_qs (p q : Nat) (r : Cpl) (b : Blk) :
    (posted p q r b).qs = tabUpd {} b.qs (qKey p q) (fun x => { x with cqTail := x.cqTail + 1 }) := by
  unfold posted
  dsimp only
  split
  · rw [tenantInt_qs]
  · rfl

theorem settleQueue_enable (c : Cmd) (code : Code) (left : Bool) (r : Queue) : (settleQueue c code left r).enable = r.enable := by
  unfold settleQueue
  dsimp only
  repeat' split
  all_goals rfl

/-- A command that leaves flight settles its queue. -/
theorem leaveFlight_qs (c : Cmd) (code : Code) (b : Blk) :
    ∃ left, (leaveFlight c code b).qs = tabUpd {} b.qs (qKey c.port c.queue) (settleQueue c code left) := by
  unfold leaveFlight
  dsimp only
  split
  · exact ⟨_, tenantInt_qs ..⟩
  · exact ⟨_, rfl⟩

/-- A command that has left flight stands for no number. -/
theorem cmdOf_leaveFlight (c : Cmd) (code : Code) (b : Blk) : cmdOf (leaveFlight c code b) c.id = none := by
  have leaves : (leaveFlight c code b).cmds = b.cmds.filter (fun x => x.id ≠ c.id) := by
    unfold leaveFlight
    dsimp only
    split <;> simp
  unfold cmdOf
  rw [leaves, List.find?_eq_none]
  intro x hx
  simpa using (List.mem_filter.mp hx).2

/-- Where a queue has been changed and stays enabled, it reads so. -/
theorem enable_of_upd {a : Blk} {f : Queue → Queue} (hq : b.qs = tabUpd {} a.qs (qKey p q) f)
    (he : (f (queueOf a p q)).enable = true) : (queueOf b p q).enable = true := by
  have reads : queueOf b p q = f (queueOf a p q) := by
    unfold queueOf
    rw [hq]
    exact tabGet_tabPut_of_ne (queue_ne_default_of_enable he) ..
  rw [reads]
  exact he

section Record
variable (he : (queueOf b p q).enable = true) (hs : (queueOf b p q).state = .stopped) (hr : (queueOf b p q).restart = none)
  {k : Cpl} (hw : (queueOf b p q).cplWait = [k])
  (hx : xstat (ofCtx p b) (cplAddr (queueOf b p q) (queueOf b p q).cqTail) = .ok)
include he hs hr hw hx

/-- A record held for START that ends no command in flight. -/
theorem startQueue_of_record_alone (hk : ∀ id ∈ k.cmd, cmdOf b id = none) :
    startQueue p q b = posted p q k (putQueue p q (restarted (queueOf b p q)) b) := by
  have gone : ∀ id ∈ k.cmd, cmdOf (posted p q k (putQueue p q (restarted (queueOf b p q)) b)) id = none := fun id isCmd =>
    (cmdOf_congr (posted_cmds ..) id).trans (hk id isCmd)
  rw [startQueue_of_record he hs hr hw hx, recordWritten_of_gone gone]
  exact drained_of_upd (posted_qs ..) (by rw [queueOf_restarted he]; exact he)

/-- One that ends a command takes it out of flight. -/
theorem startQueue_of_record_ending {c : Cmd} (hk : k.cmd = some c.id) (hc : cmdOf b c.id = some c) (hp : c.port = p)
    (hq : c.queue = q) :
    startQueue p q b
      = leaveFlight c k.code (countCode p k.code (posted p q k (putQueue p q (restarted (queueOf b p q)) b))) := by
  subst hp hq
  have flying : cmdOf (posted c.port c.queue k (putQueue c.port c.queue (restarted (queueOf b c.port c.queue)) b)) c.id = some c :=
    (cmdOf_congr (posted_cmds ..) c.id).trans hc
  have counted : (countCode c.port k.code
      (posted c.port c.queue k (putQueue c.port c.queue (restarted (queueOf b c.port c.queue)) b))).qs = _ :=
    (congrArg Blk.qs (countCode_eq ..)).trans (posted_qs ..)
  have stays := enable_of_upd counted (by rw [queueOf_restarted he]; exact he)
  obtain ⟨left, settles⟩ := leaveFlight_qs c k.code (countCode c.port k.code
    (posted c.port c.queue k (putQueue c.port c.queue (restarted (queueOf b c.port c.queue)) b)))
  rw [startQueue_of_record he hs hr hw hx, recordWritten_of_flying hk flying]
  exact drained_of_upd settles ((settleQueue_enable ..).trans stays)

end Record
end Control

/-- Settles O35: STOP by the queue's state, START by the record held back for it. -/
theorem startAndStopMoveTheQueue : Obligations.StartAndStopMoveTheQueue := by
  intro s p q control b r put started isQueue
  refine ⟨fun stop1 start0 => ⟨fun decodes => exec_stop_of isQueue stop1 start0 (controlStop_of_decoding decodes),
      fun halted => exec_stop_of isQueue stop1 start0 (controlStop_of_halted halted),
      fun stopped => exec_stop_of isQueue stop1 start0 (controlStop_of_stopped stopped)⟩,
    fun start1 stop0 => ⟨fun stopped noRestart enabled => ⟨fun noRecord => ?_, fun k oneRecord writes ends => ?_,
        fun k c oneRecord writes named found hport hqueue => ⟨?_, cmdOf_leaveFlight ..⟩⟩,
      fun other => exec_start_of isQueue start1 stop0 (startQueue_of_other other)⟩⟩
  · exact exec_start_of isQueue start1 stop0 (startQueue_of_no_record enabled stopped noRestart noRecord)
  · exact exec_start_of isQueue start1 stop0 (startQueue_of_record_alone enabled stopped noRestart oneRecord writes ends)
  · exact exec_start_of isQueue start1 stop0
      (startQueue_of_record_ending enabled stopped noRestart oneRecord writes named found hport hqueue)

end Sys2Proof.Machine

/-! SUPPORT. The registers that only a DISABLED queue takes (R133, R134). -/
namespace Sys2Proof.Machine

section Registers
variable {s : State} {p off : Nat} {v : BitVec 64} {r : Queue}

theorem exec_tenantRegisterWrite_of {y : Queue} (ho : off < 0x100) (he : queueExists p (off / 0x40) = true)
    (h : regWrite off v (queueOf s.blk p (off / 0x40)) = y) :
    exec (.tenantRegisterWrite p off v) s = .next { s with blk := putQueue p (off / 0x40) y s.blk } := by
  refine onBlk_of ?_
  simp only [ho, he, decide_true, Bool.and_self, if_true]
  exact updQueue_of h

theorem exec_tenantRegisterWrite_of_no_queue (h : 0x100 ≤ off ∨ queueExists p (off / 0x40) = false) :
    exec (.tenantRegisterWrite p off v) s = .next s := by
  have ignored : (decide (off < 0x100) && queueExists p (off / 0x40)) = false := by
    rcases h with beyond | noQueue
    · simp [Nat.not_lt.mpr beyond]
    · simp [noQueue]
  refine onBlk_of (s := s) ?_
  simp only [ignored, Bool.false_eq_true, if_false]

theorem regWrite_of_ringBase (hs : r.state = .disabled) (ho : off % 0x40 = 0x00) : regWrite off v r = { r with ringBase := v } := by
  simp only [regWrite, hs, ho, ne_eq, not_true_eq_false, if_false]

theorem regWrite_of_cplBase (hs : r.state = .disabled) (ho : off % 0x40 = 0x08) : regWrite off v r = { r with cplBase := v } := by
  simp only [regWrite, hs, ho, ne_eq, not_true_eq_false, if_false]

theorem regWrite_of_restartArea (hs : r.state = .disabled) (ho : off % 0x40 = 0x10) :
    regWrite off v r = { r with restartArea := v } := by
  simp only [regWrite, hs, ho, ne_eq, not_true_eq_false, if_false]

/-- In any other state, and at any other offset, the queue keeps its registers. -/
theorem regWrite_of_ignored (h : r.state ≠ .disabled ∨ off % 0x40 ∉ [0x00, 0x08, 0x10]) : regWrite off v r = r := by
  unfold regWrite
  split
  · rfl
  · next disabled =>
    have others : off % 0x40 ∉ [0x00, 0x08, 0x10] := h.resolve_left disabled
    simp only [List.mem_cons, List.not_mem_nil, or_false, not_or] at others
    obtain ⟨ring, cpl, restart⟩ := others
    split
    · contradiction
    · contradiction
    · contradiction
    · rfl

end Registers

/-- Settles O36, by the queue's state and the register that the offset names. -/
theorem registerWritesTakeEffectWhileDisabled : Obligations.RegisterWritesTakeEffectWhileDisabled := by
  intro s p off v b q r put
  refine ⟨fun within isQueue => ⟨fun disabled ring => ?_, fun disabled cpl => ?_, fun disabled restart => ?_, fun ignored => ?_⟩,
    exec_tenantRegisterWrite_of_no_queue⟩
  · exact exec_tenantRegisterWrite_of within isQueue (regWrite_of_ringBase disabled ring)
  · exact exec_tenantRegisterWrite_of within isQueue (regWrite_of_cplBase disabled cpl)
  · exact exec_tenantRegisterWrite_of within isQueue (regWrite_of_restartArea disabled restart)
  · exact exec_tenantRegisterWrite_of within isQueue (regWrite_of_ignored ignored)

end Sys2Proof.Machine

/-! SUPPORT. What the operations that chapter 06 shares do, once: rows that act in a stream's context, the status record, stops of
delivery, and the decode of a stream or Shelf command (R176, R191, R297). -/
namespace Sys2Proof.Machine

/-- A stream's row leaves the block as its work in the tenant's context does (R297). -/
theorem onBlk_onStream_of {n : Nat} {f : Blk → Blk} {s : State} {e : Blk}
    (h : f (ofCtx (streamOf s.blk n).port s.blk) = e) :
    onBlk (onStream n f) s = .next { s with blk := { e with ctx := s.blk.ctx } } := by
  subst h
  rfl

/-! ### Streams after an update -/

theorem streamOf_congr {a b : Blk} (h : a.streams = b.streams) (n : Nat) : streamOf a n = streamOf b n := by
  unfold streamOf
  rw [h]

section Stream
variable {b : Blk} {n : Nat} {x y : Stream}

/-- A change of a stream is known by what it makes of the stream as it stands. -/
theorem updStream_of {f : Stream → Stream} (h : f (streamOf b n) = y) : updStream n f b = updStream n (fun _ => y) b := by
  subst h
  rfl

/-- Two changes of a stream that stays one are one. -/
theorem updStream_updStream {f g : Stream → Stream} (hf : f (streamOf b n) ≠ {}) (hg : g (f (streamOf b n)) ≠ {}) :
    updStream n g (updStream n f b) = updStream n (fun x => g (f x)) b := by
  unfold updStream
  simp only
  rw [tabUpd_tabUpd hf hg]

theorem streamOf_writeIn (p a : Nat) (l : List Byte) (b : Blk) (n : Nat) :
    streamOf (inCtx p (writeBytes a l) b) n = streamOf b n :=
  streamOf_congr (by rw [inCtx_streams, writeBytes_streams]; rfl) n

theorem emptyHandles_eq (l : List Nat) (b : Blk) :
    emptyHandles l b = { b with handles := l.foldl (fun t h => tabUpd {} t h (fun y => { y with fill := 0 })) b.handles } :=
  foldl_updHandle ..

/-! ### The status record (R176) -/

/-- Where translation takes it, the record is written and nothing else changes. -/
theorem writeStatus_of_ok (hx : streamOf b n = x) (h : xstat (ofCtx x.port b) (sdescOf x.sd).status = .ok) :
    writeStatus n b = inCtx x.port (writeBytes (sdescOf x.sd).status (statusBytes n x)) b := by
  subst hx
  exact if_pos h

/-- A Sump record about a stream names its port, and in DETAIL its number and its segment (Table SMP-4). -/
theorem streamRecord_of (hx : streamOf b n = x) (event : Nat) (code : Option Code) (where_ : Nat) :
    streamRecord event code n where_ b = sumpPut event code x.port 0 0 where_ (n + x.segment % 2 ^ 32 * 2 ^ 16) b := by
  subst hx
  rfl

/-- A stream that ends, for as long as a handle of it is out (R185). -/
def endingOf (x : Stream) : Stream := { x with state := .ending, rearm := none, turn := none, buffer := [] }

theorem endingOf_ne_default (x : Stream) : endingOf x ≠ {} :=
  stream_ne_default (x := endingOf x) (by simp [endingOf])

/-- A stream that ends with its present code gives up what it had fetched, and its record is written. -/
theorem endStream_of_ok (hx : streamOf b n = x) (h : xstat (ofCtx x.port b) (sdescOf x.sd).status = .ok) :
    endStream n x.code b = inCtx x.port (writeBytes (sdescOf x.sd).status (statusBytes n (endingOf x)))
      (updStream n (fun _ => endingOf x) (emptyHandles x.buffer b)) := by
  have still : streamOf (emptyHandles x.buffer b) n = x := by rw [emptyHandles_eq]; exact hx
  have ends : streamOf (updStream n (fun _ => endingOf x) (emptyHandles x.buffer b)) n = endingOf x :=
    streamOf_upd (f := fun _ => endingOf x) (endingOf_ne_default x)
  have takes : xstat (ofCtx (endingOf x).port (updStream n (fun _ => endingOf x) (emptyHandles x.buffer b)))
      (sdescOf (endingOf x).sd).status = .ok := by rw [emptyHandles_eq]; exact h
  unfold endStream
  simp only [hx]
  rw [updStream_of (y := endingOf x) (by rw [still]; rfl), writeStatus_of_ok ends takes]
  rfl

end Stream

/-! ### Stops of delivery -/

section Stall
variable {n : Nat} {r : Blk × Stall} {fin : Blk → Blk} {e : Blk}

theorem settleStall_of_done (h : r.2 = .done) : settleStall n r fin = fin r.1 := by
  unfold settleStall
  rw [h]

theorem settleStall_done : settleStall n (e, .done) fin = fin e := settleStall_of_done rfl

/-- An error other than wrong parity puts the stream in ERROR with its code. -/
theorem settleStall_of_bad {code : Code} {a : Nat} (h : r.2 = .bad code a) (hp : code ≠ .parity) :
    settleStall n r fin = streamError n code a r.1 := by
  unfold settleStall
  rw [h]
  cases code
  case parity => exact absurd rfl hp
  all_goals rfl

end Stall

/-! ### The decode of a stream or Shelf command -/

/-- An accepted descriptor of a stream or Shelf command, whose command is `c`, in flight in the block `b`: such commands fetch no
list and no source ahead. -/
def streamDecode (s : State) (p q : Nat) (d : Desc) (op : Op) (c : Cmd) (b : Blk) : Prop :=
  accepts s.blk p q d op ∧ op ∈ [Op.streamArm, .streamRearm, .handlePush, .handlePop]
    ∧ c = acceptedCmd s.blk p q d op ∧ b = decoded s.blk p q d c

section Decoded
variable {s : State} {p q : Nat} {d : Desc} {op : Op} {c : Cmd} {b e : Blk} (h : streamDecode s p q d op c b)
include h

theorem streamDecode.entered : entered s.blk p q d op = b := by
  obtain ⟨accepted, ofStreams, rfl, rfl⟩ := h
  refine entered_plain accepted.1.1 ?_
  revert ofStreams
  cases op <;> decide

theorem streamDecode.enable : (queueOf b p q).enable = true := by
  obtain ⟨accepted, -, -, rfl⟩ := h
  have takes : takenQueue d s.blk.nextId (queueOf s.blk p q) ≠ {} :=
    queue_ne_default_of_enable ((takenQueue_enable ..).trans (canDecode_enable accepted.1.2.1))
  exact (congrArg Queue.enable (tabGet_tabPut_of_ne takes s.blk.qs (qKey p q))).trans
    ((takenQueue_enable ..).trans (canDecode_enable accepted.1.2.1))

section Row
variable {mine : Op → Bool} {go : Cmd → Blk → Blk} (hm : mine op = true)
include hm

/-- The row leaves the block as `go` does with the command in flight. -/
theorem streamDecode.row (hgo : inCtx p (go c) b = e) : onBlk (decodeAs mine go p q d) s = .next { s with blk := e } := by
  obtain ⟨accepted, -, rfl, -⟩ := id h
  rw [onBlk_decodeAs_accepted accepted hm, h.entered, hgo]

/-- A row that ends its command after a change of the block leaves it completed. -/
theorem streamDecode.row_ends {code : Code} {r0 r1 : Nat} (hgo : go c (ofCtx p b) = finishCmd c code r0 r1 (ofCtx p e))
    (hctx : b.ctx = e.ctx) (hc : canComplete c e) :
    onBlk (decodeAs mine go p q d) s = .next { s with blk := completed c code r0 r1 e } :=
  h.row hm ((inCtx_congr (g := finishCmd c code r0 r1) hgo hctx).trans (finishIn_eq hc ..))

/-- A row that leaves its command waiting. -/
theorem streamDecode.row_waits {st : CmdState}
    (hgo : go c (ofCtx p b) = updCmd c.id (fun x => { x with st := st }) (ofCtx p b)) :
    onBlk (decodeAs mine go p q d) s = .next { s with blk := entersAs st s.blk p q d op } := by
  have enters : entersAs st s.blk p q d op = updCmd c.id (fun x => { x with st := st }) b := by
    obtain ⟨-, -, rfl, -⟩ := id h
    unfold entersAs
    rw [h.entered]
    rfl
  rw [enters]
  exact h.row hm (inCtx_congr hgo rfl)

end Row
end Decoded

end Sys2Proof.Machine

/-! SUPPORT. STREAM.ARM at its descriptor's page, and the grant of its reservation (R169, R172, R176, R178, R202). -/
namespace Sys2Proof.Machine

/-- A command whose queue is enabled halts, where one of a disabled queue would end. -/
theorem haltOrEnd_of_enabled {c : Cmd} {b : Blk} {cause kind : Nat} {place : BitVec 16}
    (h : (queueOf b c.port c.queue).enable = true) : haltOrEnd c cause kind place b = haltCmd c cause kind place b := if_pos h

/-! ### STREAM.ARM (R169, R172) -/

section Arm
variable {b near : Blk} {c : Cmd} {a n : Nat} {v : BitVec 512}

theorem touchLine_streams (p a used : Nat) (write : Bool) (b : Blk) : (touchLine p a used write b).streams = b.streams := by
  unfold touchLine
  split <;> rfl

/-- The stream that STREAM.ARM leaves, until its grant. -/
def armedOf (c : Cmd) (v : BitVec 512) : Stream :=
  { state := .waiting, port := c.port, sd := v, dbase := (sdescOf v).dbase, ibase := (sdescOf v).ibase
    want := oxHandles c.desc, armCmd := c.id }

variable (ha : oxBase c.desc = a)
include ha

theorem armStream_of_absent (h : listStat b a = .notPresent) :
    armStream c b = haltOrEnd { c with faultAddr := some a } 1 1 0 b := by
  subst ha
  unfold armStream
  simp only [h]

theorem armStream_of_denied (h : listStat b a = .denied) : armStream c b = finishCmd c .notOwner 0 0 b := by
  subst ha
  unfold armStream
  simp only [h]
  rfl

/-- A DISARMED stream whose descriptor passes its checks is armed, and the command waits for the grant. -/
theorem armStream_of_sound (h : listStat b a = .ok) (hn : oxStream c.desc = n) (hv : readSdesc b a = v)
    (hb : touchLine c.port a 64 false b = near) (hs : (streamOf b n).state = .disarmed)
    (he : firstIn decodeOrder (armErrs near c.port n (oxHandles c.desc) v) = none) :
    armStream c b = updCmd c.id (fun x => { x with st := .grant })
      { near with streams := tabPut {} near.streams n (armedOf c v) } := by
  subst ha hn hv hb
  have idle : (streamOf (touchLine c.port (oxBase c.desc) 64 false b) (oxStream c.desc)).state = .disarmed := by
    rw [streamOf_congr (touchLine_streams ..)]
    exact hs
  have free : need ((streamOf (touchLine c.port (oxBase c.desc) 64 false b) (oxStream c.desc)).state == .disarmed) .shape = [] := by
    rw [idle]
    rfl
  unfold armStream
  simp only [h, free, List.nil_append, he]
  rfl

end Arm

/-! ### STREAM_GRANT (R178) -/

section Grant
variable {b e : Blk} {p n want : Nat} {k : Cmd}

/-- The block once the handles `take` are granted to a stream, its whole reservation. -/
def grantedTo (n : Nat) (take : List Nat) (want : Nat) (b : Blk) : Blk :=
  { b with
    handles := take.foldl (fun t h => tabUpd {} t h (fun _ => { cond := .granted, owner := some n })) b.handles
    streams := tabUpd {} b.streams n (fun x => { x with state := .running, home := take, reserved := want }) }

section Oldest
variable (hk : oldestArm b p = some k) (hn : oxStream k.desc = n) (hw : (streamOf b n).want = want)
include hk hn hw

theorem grantStream_of_few (h : (grantable b p).length < want) : grantStream p b = b := by
  simp only [grantStream, hk, hn, hw, h, if_true]

/-- With enough handles the stream runs, its record is written, its fetch side begins, and the arm completes. -/
theorem grantStream_of_enough (h : want ≤ (grantable b p).length)
    (he : grantedTo n ((grantOrder n (grantable b p)).take want) want b = e) :
    grantStream p b = finishCmd k .ok 0 0 (fillHandles n (writeStatus n e)) := by
  subst he
  simp only [grantStream, hk, hn, hw, Nat.not_lt.mpr h, if_false, foldl_updHandle]
  rfl

end Oldest
end Grant

/-- Settles O17: the arm by what its descriptor's page answers, and the grant by how many handles are FREE. -/
theorem streamArmWaitsForItsGrant : Obligations.StreamArmWaitsForItsGrant := by
  intro s p q d c b n a v near waiting
  have hc : c = acceptedCmd s.blk p q d .streamArm := rfl
  have hb : b = decoded s.blk p q d c := rfl
  have hport : c.port = p := rfl
  have hqueue : c.queue = q := rfl
  have ha : oxBase c.desc = a := rfl
  have hn : oxStream c.desc = n := rfl
  have hh : oxHandles c.desc = oxHandles d := rfl
  have hs : streamOf (ofCtx p b) n = streamOf s.blk n := rfl
  -- The command and the block it is decoded in stay closed from here: the clauses need these facts of them alone.
  clear_value b c a n
  subst hport hqueue
  have decode : accepts s.blk c.port c.queue d .streamArm → streamDecode s c.port c.queue d .streamArm c b := fun accepted =>
    ⟨accepted, by decide, hc, hb⟩
  refine ⟨fun accepted answers disarmed sound => ?_, fun accepted absent => ?_, fun accepted denied ends => ?_, ?_⟩
  · rw [← hh] at sound
    have armed := armStream_of_sound ha answers hn rfl rfl (hs ▸ disarmed) sound
    refine (decode accepted).row rfl ((congrArg (fun y : Blk => { y with ctx := b.ctx }) armed).trans ?_)
    unfold armedOf
    rw [hh]
    rfl
  · have halts := (armStream_of_absent ha absent).trans (haltOrEnd_of_enabled (decode accepted).enable)
    exact (decode accepted).row rfl (inCtx_congr halts rfl)
  · exact (decode accepted).row_ends rfl (armStream_of_denied ha denied) rfl ends
  · intro k oldest m want take e x told
    refine ⟨fun enough page ends => ?_, fun few => onBlk_of (grantStream_of_few oldest rfl rfl few)⟩
    have grants := grantStream_of_enough (e := e) oldest rfl rfl enough rfl
    rw [writeStatus_of_ok (x := x) rfl ((xstat_ofCtx_congr rfl ..).trans page)] at grants
    exact onBlk_of (grants.trans (finishCmd_eq ends ..))

end Sys2Proof.Machine

/-! SUPPORT. STREAM.REARM by the stream's state, and the boundary at which the new run begins (R171, R185, R194, Table STM-6). -/
namespace Sys2Proof.Machine

section Context
variable {n p : Nat} {f : Stream → Stream} {b : Blk} {c : Cmd}

/-- Work in a context of its own does not depend on the context it is called in. -/
theorem inCtx_ofCtx {q : Nat} {g : Blk → Blk} : inCtx q g (ofCtx p b) = ofCtx p (inCtx q g b) := rfl

/-- Which handles the fetch side fills is no matter of the context of an access: it works in its tenant's (R297). -/
theorem fillHandles_ofCtx : fillHandles n (ofCtx p b) = ofCtx p (fillHandles n b) := rfl

theorem updStream_ofCtx : updStream n f (ofCtx p b) = ofCtx p (updStream n f b) := rfl

theorem emptyHandles_ofCtx {l : List Nat} : emptyHandles l (ofCtx p b) = ofCtx p (emptyHandles l b) := by
  rw [emptyHandles_eq, emptyHandles_eq]
  rfl

theorem canComplete_updStream (h : canComplete c b) : canComplete c (updStream n f b) := canComplete_congr rfl rfl rfl h

/-- The end of a stream leaves the context of the access alone. -/
theorem ended_ctx {x y : Stream} {a : Nat} {l : List Byte} :
    (inCtx p (writeBytes a l) (updStream n (fun _ => y) (emptyHandles x.buffer b))).ctx = b.ctx := by
  rw [inCtx_ctx, updStream_ctx, emptyHandles_eq]

/-- And what a completion needs. -/
theorem canComplete_ended {x y : Stream} {a : Nat} {l : List Byte} (h : canComplete c b) :
    canComplete c (inCtx p (writeBytes a l) (updStream n (fun _ => y) (emptyHandles x.buffer b))) := by
  rw [emptyHandles_eq]
  refine canComplete_congr ?_ ?_ ?_ h
  · rw [inCtx_cmds, writeBytes_cmds]; rfl
  · rw [inCtx_qs, writeBytes_qs]; rfl
  · rw [inCtx_xlat, writeBytes_xlat]; rfl

end Context

/-! ### STREAM.REARM (Table STM-6) -/

section Rearm
variable {b : Blk} {c : Cmd} {n db ib : Nat} {x : Stream} (hn : ox c.desc 0 16 = n) (hx : streamOf b n = x)
  (hb : field c.desc.opa 0 48 = db) (hi : field c.desc.opb 0 48 = ib)
include hn hx hb

theorem rearmStream_of_waiting_last (hs : x.state = .waiting) (hd : db = 0) :
    rearmStream c b = finishCmd c .ok 0 0 (updStream n (fun y => { y with endAfter := (sdescOf y.sd).persist }) b) := by
  rw [updStream_of (y := { x with endAfter := (sdescOf x.sd).persist }) (by rw [hx]),
    ← updStream_of (f := fun y => { y with endAfter := (sdescOf x.sd).persist }) (by rw [hx])]
  simp only [rearmStream, hn, hx, hb, hs, hd, if_true]

theorem rearmStream_of_running_last (hs : x.state = .running) (hd : db = 0) :
    rearmStream c b
      = finishCmd c .ok 0 0 (updStream n (fun y => { y with endAfter := (sdescOf y.sd).persist, rearm := none }) b) := by
  rw [updStream_of (y := { x with endAfter := (sdescOf x.sd).persist, rearm := none }) (by rw [hx]),
    ← updStream_of (f := fun y => { y with endAfter := (sdescOf x.sd).persist, rearm := none }) (by rw [hx])]
  simp only [rearmStream, hn, hx, hb, hs, hd, if_true]

theorem rearmStream_of_halted_last (hs : x.state = .halted) (hd : db = 0) :
    rearmStream c b = finishCmd c .ok 0 0
      (updStream n (fun y => { y with state := .running, code := .ok, faultAddr := 0, rearm := none }) b) := by
  simp only [rearmStream, hn, hx, hb, hs, hd, if_true]

/-- A stream in ERROR ends, and a PARKED one that gets no new base. -/
theorem rearmStream_of_ending (h : x.state = .error ∨ (x.state = .parked ∧ db = 0)) :
    rearmStream c b = finishCmd c .ok 0 0 (endStream n x.code b) := by
  rcases h with hs | ⟨hs, hd⟩
  · simp only [rearmStream, hn, hx, hs]
  · simp only [rearmStream, hn, hx, hb, hs, hd, if_true]

variable (hd : db ≠ 0)
include hi hd

theorem rearmStream_of_waiting (hs : x.state = .waiting) :
    rearmStream c b = finishCmd c .ok 0 0 (updStream n (fun y => { takeBases y db ib with endAfter := false }) b) := by
  simp only [rearmStream, hn, hx, hb, hi, hs, hd, if_false]

theorem rearmStream_of_running (hs : x.state = .running) :
    rearmStream c b = finishCmd c .ok 0 0 (updStream n (fun y => { y with
      rearm := some (db, ib), endAfter := false
      boundary := min (max y.fetched (if y.turn = none then y.segment else 0)) (sdescOf y.sd).segments }) b) := by
  simp only [← Option.isNone_iff_eq_none]
  simp only [rearmStream, hn, hx, hb, hi, hs, hd, if_false]
  rfl

theorem rearmStream_of_parked (hs : x.state = .parked) :
    rearmStream c b = finishCmd c .ok 0 0 (fillHandles n (updStream n (fun y => newRun y db ib) b)) := by
  simp only [rearmStream, hn, hx, hb, hi, hs, hd, if_false]

/-- A HALTED stream runs again, and has the new run pending. -/
theorem rearmStream_of_halted (hs : x.state = .halted) :
    rearmStream c b = finishCmd c .ok 0 0
      (updStream n (fun y => pendRearm { y with state := .running, code := .ok, faultAddr := 0 } db ib) b) := by
  have twice : updStream n (fun y => pendRearm y db ib)
        (updStream n (fun y => { y with state := .running, code := .ok, faultAddr := 0, rearm := none }) b)
      = updStream n (fun y => pendRearm { y with state := .running, code := .ok, faultAddr := 0 } db ib) b :=
    updStream_updStream (stream_ne_default (by simp)) (stream_ne_default (by simp [pendRearm]))
  rw [← twice]
  simp only [rearmStream, hn, hx, hb, hi, hs, hd, if_false]

end Rearm

/-! ### REARM_BOUNDARY (R194) -/

/-- The fetch side that has come to the boundary of the pending REARM, a whole run not yet ahead of the sink, goes on to the new
run. -/
theorem reachBoundary_of_reached {b : Blk} {n u v : Nat} {x : Stream} (hx : streamOf b n = x) (hr : x.rearm = some (u, v))
    (hs : x.state = .running) (ht : x.turn = none) (hp : x.fpos = 0) (hl : x.boundary ≤ x.fseg) :
    reachBoundary n b = fillHandles n (updStream n (fun y => turnSink { y with
      rearm := none, turn := some (y.boundary, (takeBases x u v).dbase, (takeBases x u v).ibase)
      ahead := true, fseg := 0, fetched := 0 }) b) := by
  simp only [reachBoundary, hx, hr, hs, ht, hp, hl, Option.isNone_none, and_self, if_true]

/-- Settles O18, state by state of Table STM-6, and REARM_BOUNDARY. -/
theorem rearmActsByStreamState : Obligations.RearmActsByStreamState := by
  intro s p q d n c b m db ib x done
  have hc : c = acceptedCmd s.blk p q d .streamRearm := rfl
  have hb : b = decoded s.blk p q d c := rfl
  have hd : c.desc = d := rfl
  have hx : streamOf (ofCtx p b) m = x := rfl
  have hk : xstat (ofCtx x.port (ofCtx p b)) (sdescOf x.sd).status = xstat (ofCtx x.port s.blk) (sdescOf x.sd).status := rfl
  have hm : ox c.desc 0 16 = m := congrArg (fun d => ox d 0 16) hd
  have hdb : field c.desc.opa 0 48 = db := congrArg (fun d : Desc => field d.opa 0 48) hd
  have hib : field c.desc.opb 0 48 = ib := congrArg (fun d : Desc => field d.opb 0 48) hd
  -- The command and the block it is decoded in stay closed from here: the clauses need these facts of them alone.
  clear_value b c m db ib x
  have decode : accepts s.blk p q d .streamRearm → streamDecode s p q d .streamRearm c b := fun accepted =>
    ⟨accepted, by decide, hc, hb⟩
  refine ⟨fun accepted ends => ⟨fun waits last => ?_, fun waits more => ?_, fun runs last => ?_, fun runs more => ?_,
      fun halts last => ?_, fun halts more => ?_⟩, ?_, ?_, ?_⟩
  · exact (decode accepted).row_ends rfl (rearmStream_of_waiting_last hm hx hdb waits last) rfl (canComplete_updStream ends)
  · exact (decode accepted).row_ends rfl (rearmStream_of_waiting hm hx hdb hib more waits) rfl (canComplete_updStream ends)
  · exact (decode accepted).row_ends rfl (rearmStream_of_running_last hm hx hdb runs last) rfl (canComplete_updStream ends)
  · exact (decode accepted).row_ends rfl (rearmStream_of_running hm hx hdb hib more runs) rfl (canComplete_updStream ends)
  · exact (decode accepted).row_ends rfl (rearmStream_of_halted_last hm hx hdb halts last) rfl (canComplete_updStream ends)
  · exact (decode accepted).row_ends rfl (rearmStream_of_halted hm hx hdb hib more halts) rfl (canComplete_updStream ends)
  · intro accepted parked more e ends
    have begins := rearmStream_of_parked hm hx hdb hib more parked
    rw [updStream_ofCtx, fillHandles_ofCtx] at begins
    exact (decode accepted).row_ends rfl begins rfl ends
  · intro accepted ends last takes y
    have hy : endingOf x = y := rfl
    clear_value y
    have ending := rearmStream_of_ending hm hx hdb last
    rw [endStream_of_ok hx (hk.trans takes), hy, emptyHandles_ofCtx, updStream_ofCtx, inCtx_ofCtx] at ending
    exact (decode accepted).row_ends rfl ending ended_ctx.symm (canComplete_ended ends)
  · intro u v z pending runs noTurn between reached
    exact onBlk_of (reachBoundary_of_reached rfl pending runs noTurn between reached)

end Sys2Proof.Machine

/-! SUPPORT. A running stream's segments, the end of its run, its halt at a page not present, and its disarm (R172, R174, R185,
R191, R194). -/
namespace Sys2Proof.Machine

section Segments
variable {b : Blk} {n : Nat} {x : Stream}

/-! ### SEGMENT_START (R172, R174) -/

/-- What SEGMENT_START does once the memory side of the segment is in order: the fetch side runs, and the tile side starts unless
the wait flag is clear. -/
def sideStarts (n : Nat) (x : Stream) (b : Blk) : Blk :=
  let s := sdescOf x.sd
  if s.waitEn && !flagOf b x.port s.waitFlag then fillHandles n b
  else
    let b := if s.waitEn then putFlag x.port s.waitFlag false b else b
    fillHandles n (updStream n (fun x => { x with
      segStarted := true, detached := 0, behind := [], code := .ok
      fetched := if s.shelfSource then max x.fetched (x.segment + 1) else x.fetched
      fseg := if s.shelfSource then x.segment + 1 else x.fseg }) b)

/-- Between two segments of its run, a stream whose tenant has its turn has the memory side of the next one checked. -/
theorem startSegment_of_due (hx : streamOf b n = x) (hr : x.state = .running) (hs : x.segStarted = false)
    (hl : x.segment < (sdescOf x.sd).segments) (ht : b.vlt.sliced.contains x.port = false) :
    startSegment n b = settleStall n (openSegment n false x.segment b) (sideStarts n x) := by
  subst hx
  refine if_neg ?_
  simp only [hr, hs, ht, Nat.not_le.mpr hl, ne_eq, not_true_eq_false, Bool.false_eq_true, or_self, not_false_eq_true]

theorem sideStarts_of_wait_clear (hw : (sdescOf x.sd).waitEn = true) (hf : flagOf b x.port (sdescOf x.sd).waitFlag = false) :
    sideStarts n x b = fillHandles n b := if_pos (by simp [hw, hf])

theorem sideStarts_of_go (hf : (sdescOf x.sd).waitEn = true → flagOf b x.port (sdescOf x.sd).waitFlag = true) :
    sideStarts n x b = fillHandles n (updStream n (fun y => { y with
      segStarted := true, detached := 0, behind := [], code := .ok
      fetched := if (sdescOf x.sd).shelfSource then max y.fetched (y.segment + 1) else y.fetched
      fseg := if (sdescOf x.sd).shelfSource then y.segment + 1 else y.fseg })
        (if (sdescOf x.sd).waitEn then putFlag x.port (sdescOf x.sd).waitFlag false b else b)) := by
  refine if_neg ?_
  cases hw : (sdescOf x.sd).waitEn with
  | false => simp
  | true => simp [hf hw]

/-! ### SEGMENT_DONE (R174, R200) -/

theorem doneSegment_of_delivered {e : Blk} (hx : streamOf b n = x) (hr : x.state = .running) (hs : x.segStarted = true)
    (hd : deliverAll n b = (e, .done)) : doneSegment n b = endSegment n e := by
  subst hx
  simp only [doneSegment, hr, hs, hd, settleStall_done, and_self, if_true]

/-! ### RUN_END (R194) -/

/-- A persistent stream that nothing has asked to end parks at the end of its run. -/
def parksAtEnd (x : Stream) : Bool := (sdescOf x.sd).persist && !x.endAfter

/-- A stream once its run has ended, with no REARM pending. -/
def runEnded (x : Stream) : Stream :=
  if parksAtEnd x then { x with state := .parked } else { x with state := .ending, buffer := [] }

theorem endingOf_eq_runEnded (hp : x.rearm = none) (ht : x.turn = none) (he : parksAtEnd x = false) :
    endingOf x = runEnded x := by
  simp only [endingOf, runEnded, he, hp, ht, Bool.false_eq_true, if_false]

theorem endRun_of_last (hx : streamOf b n = x) (hr : x.state = .running) (hs : x.segStarted = false)
    (hl : (sdescOf x.sd).segments ≤ x.segment) (hp : x.rearm = none) (ht : x.turn = none)
    (hk : xstat (ofCtx x.port b) (sdescOf x.sd).status = .ok) :
    endRun n b = inCtx x.port (writeBytes (sdescOf x.sd).status (statusBytes n (runEnded x)))
      (updStream n (fun _ => runEnded x) (if parksAtEnd x then b else emptyHandles x.buffer b)) := by
  have last : endRun n b = if parksAtEnd x then writeStatus n (updStream n (fun x => { x with state := .parked }) b)
      else endStream n x.code b := by
    subst hx
    refine if_neg ?_
    simp only [hr, hs, hp, ht, Nat.not_lt.mpr hl, ne_eq, not_true_eq_false, Bool.false_eq_true, Option.isSome_none, or_self,
      not_false_eq_true]
  rw [last]
  cases parks : parksAtEnd x with
  | true =>
    have parked : runEnded x = { x with state := .parked } := if_pos parks
    have changed : streamOf (updStream n (fun _ => { x with state := .parked }) b) n = { x with state := .parked } :=
      streamOf_upd (f := fun _ => { x with state := .parked }) (stream_ne_default (by simp))
    rw [parked, if_pos rfl, if_pos rfl, updStream_of (y := { x with state := .parked }) (by rw [hx]), writeStatus_of_ok changed hk]
  | false =>
    rw [← endingOf_eq_runEnded hp ht parks]
    exact endStream_of_ok hx hk

end Segments

/-- Settles O19, row by row: SEGMENT_START by what the memory side and the wait flag say, SEGMENT_DONE, and RUN_END by whether
the stream parks. -/
theorem segmentsStartFinishAndEndTheRun : Obligations.SegmentsStartFinishAndEndTheRun := by
  intro s n x d here back opened
  refine ⟨fun runs between inRun turn => ?_, fun e runs started delivered => ?_,
    fun runs between atEnd noRearm noTurn takes => ?_⟩
  · have starts : startSegment n here = settleStall n opened (sideStarts n x) := startSegment_of_due rfl runs between inRun turn
    refine ⟨fun good waits clear => ?_, fun good go => ?_, fun code a bad notParity => ?_⟩
    · exact onBlk_onStream_of (starts.trans ((settleStall_of_done good).trans (sideStarts_of_wait_clear waits clear)))
    · exact onBlk_onStream_of (starts.trans ((settleStall_of_done good).trans (sideStarts_of_go go)))
    · exact onBlk_onStream_of (starts.trans (settleStall_of_bad bad notParity))
  · have ends : doneSegment n here = endSegment n e := doneSegment_of_delivered rfl runs started delivered
    refine (onBlk_onStream_of ends).trans ?_
    unfold endSegment
    simp only [Bool.and_eq_true, decide_eq_true_eq]
    rfl
  · exact onBlk_of (endRun_of_last rfl runs between atEnd noRearm noTurn takes)

end Sys2Proof.Machine

/-! SUPPORT. STREAM_HALT at a page not present, and STREAM_DISARM once every handle is home (R176, R185, R191). -/
namespace Sys2Proof.Machine

/-! ### STREAM_HALT (R191) -/

section Halt
variable {b e f : Blk} {n pos a : Nat} {x y : Stream} {opened : Blk × Stall}

/-- A stream halts with its record and a Sump record written, and the tenant's interrupt. -/
theorem haltStream_of_ok
    (hf : updStream n (fun x => { x with state := .halted, code := .faultResumable, faultAddr := a }) (dropFetched n b) = f)
    (hy : streamOf f n = y) (hk : xstat (ofCtx y.port f) (sdescOf y.sd).status = .ok) :
    haltStream n a b = tenantInt y.port (sumpPut 0x02 (some .faultResumable) y.port 0 0 a (n + y.segment % 2 ^ 32 * 2 ^ 16)
      (inCtx y.port (writeBytes (sdescOf y.sd).status (statusBytes n y)) f)) := by
  subst hf hy
  rw [← streamRecord_of (streamOf_writeIn ..), ← writeStatus_of_ok rfl hk]
  rfl

/-- The sink takes the granules before the missing line, and the stream halts there. -/
theorem stopStream_of_missing (hx : streamOf b n = x) (hr : x.state = .running) (hs : x.segStarted = true)
    (hm : (sdescOf x.sd).hasMem = true) (hp : x.position ≤ pos) (hg : pos < (sdescOf x.sd).segG)
    (ho : openSegment n false x.segment b = opened) (hd : opened.2 = .done)
    (ha : sideAddr (streamOf opened.1 n) false x.segment pos = a) (hn : xstat opened.1 a = .notPresent)
    (he : deliver n pos (sdescOf x.sd).segG opened.1 = (e, .done)) : stopStream n pos b = haltStream n a e := by
  subst hx
  simp only [stopStream, hr, hs, hm, hp, hg, ho, settleStall_of_done hd, ha, hn, he, settleStall_done, and_self, if_true]

end Halt

/-- STREAM_HALT, once the granules before the missing line have reached the sink. -/
theorem exec_streamHalt_of_missing {s : State} {n pos a : Nat} {x y : Stream} {opened : Blk × Stall} {e f : Blk}
    (hx : streamOf s.blk n = x) (hr : x.state = .running) (hs : x.segStarted = true) (hm : (sdescOf x.sd).hasMem = true)
    (hp : x.position ≤ pos) (hg : pos < (sdescOf x.sd).segG)
    (ho : openSegment n false x.segment (ofCtx x.port s.blk) = opened) (hd : opened.2 = .done)
    (ha : sideAddr (streamOf opened.1 n) false x.segment pos = a) (hn : xstat opened.1 a = .notPresent)
    (he : deliver n pos (sdescOf x.sd).segG opened.1 = (e, .done))
    (hf : updStream n (fun x => { x with state := .halted, code := .faultResumable, faultAddr := a }) (dropFetched n e) = f)
    (hy : streamOf f n = y) (hk : xstat (ofCtx y.port f) (sdescOf y.sd).status = .ok) :
    exec (.streamHalt n pos) s = .next { s with
      blk := { tenantInt y.port (sumpPut 0x02 (some .faultResumable) y.port 0 0 a (n + y.segment % 2 ^ 32 * 2 ^ 16)
        (inCtx y.port (writeBytes (sdescOf y.sd).status (statusBytes n y)) f)) with ctx := s.blk.ctx } } := by
  subst hx
  have stops := stopStream_of_missing (b := ofCtx (streamOf s.blk n).port s.blk) rfl hr hs hm hp hg ho hd ha hn he
  exact onBlk_onStream_of (stops.trans (haltStream_of_ok hf hy hk))

/-! ### STREAM_DISARM (R185) -/

/-- A stream that has given its reservation back. -/
def disarmedOf (x : Stream) : Stream := { x with state := .disarmed, home := [], buffer := [], reserved := 0 }

/-- Handles that have gone back to the pool with their contents. -/
def handlesFreed (l : List Nat) (b : Blk) : Blk :=
  { b with handles := l.foldl (fun t h => tabUpd {} t h (fun _ => {})) b.handles }

/-- The table without a stream's first entry. -/
def dropStream (n : Nat) (b : Blk) : Blk := { b with streams := tabDel n b.streams }

/-- The table without a stream whose state reads DISARMED. -/
def dropDisarmed (n : Nat) (b : Blk) : Blk := if (streamOf b n).state = .disarmed then dropStream n b else b

theorem updStream_streams {n : Nat} {y : Stream} {b : Blk} :
    (updStream n (fun _ => y) b).streams = tabPut {} b.streams n y := rfl

section Disarm
variable {b : Blk} {n : Nat} {x y : Stream}

theorem disarmStream_of_out (h : (streamOf b n).home.length ≠ (streamOf b n).reserved) : disarmStream n b = b :=
  if_pos (Or.inr h)

theorem disarmStream_of_home (hx : streamOf b n = x) (hs : x.state = .ending) (hl : x.home.length = x.reserved) :
    disarmStream n b = dropDisarmed n (writeStatus n (updStream n (fun _ => disarmedOf x) (handlesFreed x.home b))) := by
  have freed : x.home.foldl (fun b h => updHandle h (fun _ => {}) b) b = handlesFreed x.home b := foldl_updHandle ..
  have disarms : updStream n disarmedOf (handlesFreed x.home b) = updStream n (fun _ => disarmedOf x) (handlesFreed x.home b) :=
    updStream_of (congrArg disarmedOf hx)
  rw [← disarms, ← freed]
  subst hx
  refine if_neg ?_
  simp only [hs, hl, ne_eq, not_true_eq_false, or_self, not_false_eq_true]

/-- What a write does to memory does not depend on the streams and the handles. -/
theorem writeIn_with (p a : Nat) (l : List Byte) (streams : Tab Stream) (handles : Tab Handle) (b : Blk) :
    inCtx p (writeBytes a l) { b with streams := streams, handles := handles }
      = { inCtx p (writeBytes a l) b with streams := streams, handles := handles } := by
  obtain ⟨mem, bad⟩ := writeIn_mem_congr (x := { b with streams := streams, handles := handles }) (y := b) rfl rfl rfl rfl p a l
  rw [writeIn_eq, mem, bad, writeIn_eq p a l b]

/-- A stream with a descriptor leaves the table, its last record written. -/
theorem disarmStream_of_descriptor (hx : streamOf b n = x) (hs : x.state = .ending) (hl : x.home.length = x.reserved)
    (hd : x.sd ≠ 0) (hk : xstat (ofCtx x.port b) (sdescOf x.sd).status = .ok) :
    disarmStream n b = { inCtx x.port (writeBytes (sdescOf x.sd).status (statusBytes n (disarmedOf x))) b with
      handles := x.home.foldl (fun t h => tabUpd {} t h (fun _ => {})) b.handles
      streams := tabDel n (tabPut {} b.streams n (disarmedOf x)) } := by
  have listed : disarmedOf x ≠ {} := fun none => hd (congrArg Stream.sd none)
  have disarmed : streamOf (updStream n (fun _ => disarmedOf x) (handlesFreed x.home b)) n = disarmedOf x :=
    streamOf_upd (f := fun _ => disarmedOf x) listed
  have written := writeIn_with x.port (sdescOf x.sd).status (statusBytes n (disarmedOf x))
    (tabPut {} b.streams n (disarmedOf x)) (handlesFreed x.home b).handles b
  have gone : (streamOf (inCtx x.port (writeBytes (sdescOf x.sd).status (statusBytes n (disarmedOf x)))
      (updStream n (fun _ => disarmedOf x) (handlesFreed x.home b))) n).state = .disarmed := by
    rw [streamOf_writeIn, disarmed]
    rfl
  rw [disarmStream_of_home hx hs hl, writeStatus_of_ok disarmed hk]
  exact (if_pos gone).trans (congrArg (dropStream n) written)

end Disarm

/-- STREAM_DISARM on an ENDING stream with a descriptor whose handles are all home. -/
theorem exec_streamDisarm_of_descriptor {s : State} {n : Nat} {x : Stream} (hx : streamOf s.blk n = x) (hs : x.state = .ending)
    (hl : x.home.length = x.reserved) (hd : x.sd ≠ 0) (hk : xstat (ofCtx x.port s.blk) (sdescOf x.sd).status = .ok) :
    exec (.streamDisarm n) s = .next { s with
      blk := { inCtx x.port (writeBytes (sdescOf x.sd).status (statusBytes n (disarmedOf x))) s.blk with
        handles := x.home.foldl (fun t h => tabUpd {} t h (fun _ => {})) s.blk.handles
        streams := tabDel n (tabPut {} s.blk.streams n (disarmedOf x)) } } :=
  onBlk_of (disarmStream_of_descriptor hx hs hl hd hk)

/-- STREAM_DISARM while a handle is out. -/
theorem exec_streamDisarm_of_out {s : State} {n : Nat} (h : (streamOf s.blk n).home.length ≠ (streamOf s.blk n).reserved) :
    exec (.streamDisarm n) s = .next s := onBlk_of (disarmStream_of_out h)

/-! ### A table that is not in canonical form -/

/-- An ENDING stream with neither a descriptor nor handles. -/
def bareEnding : Stream := { state := .ending }

/-- A stream that runs, with no descriptor. -/
def bareRunning : Stream := { state := .running }

/-- A block whose table of streams lists stream 0 twice. -/
def listedTwice : State := { State.reset with blk := { State.reset.blk with streams := [(0, bareEnding), (0, bareRunning)] } }

/-- With no descriptor the record lies in a tile store, before which no translation stands. -/
theorem xstat_noDescriptor (b : Blk) : xstat b (sdescOf 0).status = .ok := by
  have status : (sdescOf 0).status = 0 := by
    simp only [sdescOf, field, BitVec.ofNat_eq_ofNat, BitVec.toNat_ofNat, Nat.zero_mod, Nat.zero_div]
  rw [status]
  rfl

/-- The default is not listed: the table's other entry is left. -/
theorem tabPut_listedTwice : tabPut {} listedTwice.blk.streams 0 (disarmedOf bareEnding) = [(0, bareRunning)] := by
  have streams : listedTwice.blk.streams = [(0, bareEnding), (0, bareRunning)] := rfl
  have default : disarmedOf bareEnding = {} := rfl
  rw [streams, default]
  exact if_pos rfl

theorem disarmStream_listedTwice : (disarmStream 0 listedTwice.blk).streams = [(0, bareRunning)] := by
  have left : (updStream 0 (fun _ => disarmedOf bareEnding) (handlesFreed bareEnding.home listedTwice.blk)).streams
      = [(0, bareRunning)] := updStream_streams.trans tabPut_listedTwice
  have runs : streamOf (updStream 0 (fun _ => disarmedOf bareEnding) (handlesFreed bareEnding.home listedTwice.blk)) 0
      = bareRunning := by
    unfold streamOf
    rw [left]
    rfl
  have stays : ¬ bareRunning.state = .disarmed := by decide
  rw [disarmStream_of_home (x := bareEnding) rfl rfl rfl, writeStatus_of_ok runs (xstat_noDescriptor _)]
  unfold dropDisarmed
  rw [streamOf_writeIn, runs, if_neg stays, inCtx_streams, writeBytes_streams, ofCtx_streams]
  exact left

/-- What the statement says of the table of streams after STREAM_DISARM. -/
theorem streams_of_streamsHaltAndDisarm (h : Obligations.StreamsHaltAndDisarm) {s : State} {n : Nat} {x : Stream}
    (hx : streamOf s.blk n = x) (hs : x.state = .ending) (hl : x.home.length = x.reserved)
    (hk : xstat (ofCtx x.port s.blk) (sdescOf x.sd).status = .ok) :
    (disarmStream n s.blk).streams = tabDel n (tabPut {} s.blk.streams n (disarmedOf x)) := by
  subst hx
  obtain ⟨-, disarms, -⟩ := h s n 0
  exact (congrArg Blk.streams (next_blk_inj (disarms hs hl hk)).1).symm

/-- Refutes O20: once DISARMED, an ENDING stream that has no descriptor is the default entry, which no table lists. Where the
table lists the stream twice, as no table in canonical form does, the other entry then stands for it: STREAM_DISARM finds a stream
that runs and keeps it (`disarmStream_listedTwice`), and the statement takes it out. With a descriptor, as the statement's words
have it, its clauses hold: `exec_streamHalt_of_missing`, `exec_streamDisarm_of_descriptor` and `exec_streamDisarm_of_out`. -/
theorem not_streamsHaltAndDisarm : ¬ Obligations.StreamsHaltAndDisarm := by
  intro h
  have emptied := streams_of_streamsHaltAndDisarm h (s := listedTwice) (n := 0) (x := bareEnding) rfl rfl rfl (xstat_noDescriptor _)
  rw [tabPut_listedTwice, disarmStream_listedTwice] at emptied
  exact List.cons_ne_nil _ _ emptied

end Sys2Proof.Machine

/-! SUPPORT. Handles that go over Shelf queues, and home from them (R181 to R184). -/
namespace Sys2Proof.Machine

section Shelf
variable {b : Blk} {c : Cmd} {id k h : Nat}

/-! ### HANDLE.PUSH (R183) -/

/-- A handle LENT from the Shelf goes back to its owner. -/
theorem pushHandle_of_lent (hl : (handleOf b (oxHandle c.desc)).cond = .lent (oxShelf c.desc)) :
    pushHandle c b = finishCmd c .ok 0 0 (returnHandle (oxHandle c.desc) b) := if_pos hl

section Pushable
variable (hp : pushable b (oxHandle c.desc) = true) (hl : (handleOf b (oxHandle c.desc)).cond ≠ .lent (oxShelf c.desc))
include hp hl

/-- Another that is FREE or LENT goes to the end of a queue with room. -/
theorem pushHandle_of_room (hr : (shelfOf b (oxShelf c.desc)).length < 32) :
    pushHandle c b = finishCmd c .ok 0 0 (shelveHandle (oxHandle c.desc) (oxShelf c.desc) b) := by
  simp only [pushHandle, hl, hp, hr, Bool.not_true, Bool.false_eq_true, if_false, if_true]

/-- With no room the command waits. -/
theorem pushHandle_of_full (hf : 32 ≤ (shelfOf b (oxShelf c.desc)).length) :
    pushHandle c b = updCmd c.id (fun x => { x with st := .push }) b := by
  simp only [pushHandle, hl, hp, Nat.not_lt.mpr hf, Bool.not_true, Bool.false_eq_true, if_false]

end Pushable

theorem canComplete_shelveHandle (hc : canComplete c b) : canComplete c (shelveHandle h k b) :=
  canComplete_congr rfl rfl rfl hc

/-- What a handle's owner is, and so where it goes back, is no matter of the context of an access. -/
theorem returnHandle_ofCtx (h p : Nat) (b : Blk) : returnHandle h (ofCtx p b) = ofCtx p (returnHandle h b) := by
  unfold returnHandle
  rw [show handleOf (ofCtx p b) h = handleOf b h from rfl]
  cases (handleOf b h).owner <;> rfl

theorem returnHandle_ctx (h : Nat) (b : Blk) : (returnHandle h b).ctx = b.ctx := by
  unfold returnHandle
  cases (handleOf b h).owner <;> rfl

/-! ### HANDLE.POP (R184) -/

/-- A Shelf queue's handle `h` LENT from it, and the handles `l` left on it. -/
def lendHandle (h k : Nat) (l : List Nat) (b : Blk) : Blk :=
  updHandle h (fun y => { y with cond := .lent k }) (putShelf k l b)

theorem popHandle_of_first {l : List Nat} (hs : shelfOf b (oxShelf c.desc) = h :: l) :
    popHandle c b = finishCmd c .ok h 0 (lendHandle h (oxShelf c.desc) l b) := by
  unfold popHandle
  simp only [hs]
  rfl

theorem popHandle_of_empty (hs : shelfOf b (oxShelf c.desc) = []) :
    popHandle c b = updCmd c.id (fun x => { x with st := .pop }) b := by
  unfold popHandle
  simp only [hs]

theorem canComplete_lendHandle {l : List Nat} (hc : canComplete c b) : canComplete c (lendHandle h k l b) :=
  canComplete_congr rfl rfl rfl hc

/-! ### The commands that waited -/

theorem servable_of_waits {st : CmdState} (hw : waitsAs st b id c) : servable st id b = some c := by
  obtain ⟨found, state⟩ := hw
  unfold servable
  rw [found, Option.filter_some, state, beq_self_eq_true, if_pos rfl]

theorem pushRoom_of_room (hw : waitsAs .push b id c) (hr : (shelfOf b (oxShelf c.desc)).length < 32) :
    pushRoom id b = pushHandle c b := by
  unfold pushRoom
  simp only [servable_of_waits hw, hr, if_true]

theorem popArrival_of_arrived (hw : waitsAs .pop b id c) (hs : shelfOf b (oxShelf c.desc) ≠ []) :
    popArrival id b = popHandle c b := by
  unfold popArrival
  simp only [servable_of_waits hw, hs, ne_eq, not_false_eq_true, if_true]

/-! ### HANDLE_RETURN (R182) -/

theorem returnHandle_of_owned {n : Nat} (ho : (handleOf b h).owner = some n) :
    returnHandle h b = updStream n (fun x => { x with home := x.home ++ [h] })
      (updHandle h (fun y => { y with cond := .granted, fill := 0, delivered := false }) b) := by
  unfold returnHandle
  rw [ho]

theorem returnHandle_of_pool (ho : (handleOf b h).owner = none) : returnHandle h b = updHandle h (fun _ => {}) b := by
  unfold returnHandle
  rw [ho]

section Back
variable (hk : (handleOf b h).cond = .shelved k)
include hk

theorem handleBack_of_delivered (hd : (handleOf b h).delivered = true) :
    handleBack h b = returnHandle h (putShelf k ((shelfOf b k).filter (· != h)) b) := by
  simp only [handleBack, hk, hd, if_true]

theorem handleBack_of_kept (hd : (handleOf b h).delivered = false) : handleBack h b = b := by
  simp only [handleBack, hk, hd, Bool.false_eq_true, if_false]

end Back
end Shelf

/-- Settles O21: the push by the handle's condition and the queue's room, the pop by the queue's oldest handle, and the same for
the commands that waited. -/
theorem handlesArePushedAndPopped : Obligations.HandlesArePushedAndPopped := by
  intro s p q d id c k h shelve lend
  refine ⟨fun b accepted hc hb => ?_, fun waits free other room ends => ?_, fun b accepted hc hb => ?_,
    fun x l waits oldest ends => ?_⟩
  · have decode : streamDecode s p q d .handlePush c b := ⟨accepted, by decide, hc, hb⟩
    refine ⟨fun lent ends => ?_, fun free other room ends => ?_, fun free other full => ?_⟩
    · have returns := pushHandle_of_lent (b := ofCtx p b) lent
      rw [returnHandle_ofCtx] at returns
      exact decode.row_ends rfl returns (returnHandle_ctx ..).symm ends
    · exact decode.row_ends rfl (pushHandle_of_room free other room) rfl (canComplete_shelveHandle ends)
    · exact decode.row_waits rfl (pushHandle_of_full free other full)
  · have pushes := (pushRoom_of_room waits room).trans (pushHandle_of_room free other room)
    exact onBlk_of (pushes.trans (finishCmd_eq (canComplete_shelveHandle ends) ..))
  · have decode : streamDecode s p q d .handlePop c b := ⟨accepted, by decide, hc, hb⟩
    refine ⟨fun x l oldest ends => ?_, fun empty => ?_⟩
    · exact decode.row_ends rfl (popHandle_of_first oldest) rfl (canComplete_lendHandle ends)
    · exact decode.row_waits rfl (popHandle_of_empty empty)
  · have arrived : shelfOf s.blk k ≠ [] := by rw [oldest]; exact List.cons_ne_nil x l
    have pops := (popArrival_of_arrived waits arrived).trans (popHandle_of_first oldest)
    exact onBlk_of (pops.trans (finishCmd_eq (canComplete_lendHandle ends) ..))

/-- Settles O22: a delivered handle leaves its queue (`handleBack_of_delivered`) and goes to the stream that owns it, or to the
pool. -/
theorem deliveredHandlesGoHome : Obligations.DeliveredHandlesGoHome := by
  intro s h k y shelves shelved
  refine ⟨fun kept => onBlk_of (handleBack_of_kept shelved kept), fun delivered unowned => ?_, fun n delivered owned => ?_⟩
  · exact onBlk_of ((handleBack_of_delivered shelved delivered).trans (returnHandle_of_pool unowned))
  · exact onBlk_of ((handleBack_of_delivered shelved delivered).trans (returnHandle_of_owned owned))

end Sys2Proof.Machine

/-! SUPPORT. The slowest receivers of a stalled multicast, detached (R198 to R200). -/
namespace Sys2Proof.Machine

section Multicast
variable {b late e g : Blk} {n : Nat} {x : Stream} {positions : List (Nat × Nat)}

/-- Nothing stalls where every attached receiver is as slow: none is a window ahead. -/
theorem stalledAt_of_all_slow (h : (slowOnes n x positions).2.length = (attached n x).length) :
    stalledAt n x positions = false := by
  let ps := (attached n x).map (receiverPos positions)
  have allSlow : ∀ t ∈ attached n x, receiverPos positions t = ps.foldl min (sdescOf x.sd).segG := fun t member =>
    beq_iff_eq.mp (List.length_filter_eq_length_iff.mp h t member)
  have fast : ps.foldl max 0 ≤ ps.foldl min (sdescOf x.sd).segG := by
    refine List.foldlRecOn (motive := (· ≤ ps.foldl min (sdescOf x.sd).segG)) ps max (Nat.zero_le _) fun m low p member => ?_
    obtain ⟨t, isAttached, rfl⟩ := List.mem_map.mp member
    exact max_le low (allSlow t isAttached).le
  have noWindow : (ps.foldl max 0 == ps.foldl min (sdescOf x.sd).segG + window) = false := by
    have wide : 0 < window := by decide
    rw [beq_eq_false_iff_ne]
    omega
  unfold stalledAt
  simp only [show ((attached n x).map (receiverPos positions)) = ps from rfl, noWindow, Bool.and_false, Bool.false_and]

theorem multicastDetach_of_moving (h : stalledAt n (streamOf b n) positions = false) : multicastDetach n positions b = b :=
  if_neg (by simp [h])

section Stalled
variable (h : stalledAt n (streamOf b n) positions = true) (hl : passTc (b.dict.patience.toNat + 1) b = late)
include h hl

/-- A segment that moves on before PATIENCE has passed detaches nobody. -/
theorem multicastDetach_of_recovered (hm : stalledAt n (streamOf late n) positions = false) :
    multicastDetach n positions b = late := by
  subst hl
  simp only [multicastDetach, h, hm, if_true, Bool.false_eq_true, if_false]

/-- One that stays stalled detaches its slowest receivers. -/
theorem multicastDetach_of_stalled (hs : stalledAt n (streamOf late n) positions = true) :
    multicastDetach n positions b = onStream n (detachSlow n positions) late := by
  subst hl
  simp only [multicastDetach, h, hs, if_true]

end Stalled

/-- The receivers `out` of a stream are detached at a position. -/
def markDetached (n at_ : Nat) (out : List Nat) (b : Blk) : Blk :=
  updStream n (fun x => { x with
    detached := out.foldl (fun m t => setBit m t true) x.detached
    behind := out.foldl (fun l t => tabIns t at_ l) x.behind }) b

/-- Every attached receiver comes to the slowest position, the slowest ones are marked, and the others go on a window further. -/
theorem detachSlow_of_delivered (hx : streamOf b n = x)
    (he : deliver n (slowOnes n x positions).1 (sdescOf x.sd).segG b = (e, .done))
    (hg : deliver n ((slowOnes n x positions).1 + window) (sdescOf x.sd).segG
      (markDetached n (slowOnes n x positions).1 (slowOnes n x positions).2 e) = (g, .done)) :
    detachSlow n positions b =
      (let k := updStream n (fun x => { x with code := .multicastDetach }) g
       tenantInt x.port (streamRecord 0x03 (some .multicastDetach) n (streamOf k n).detached.toNat (writeStatus n k))) := by
  subst hx
  unfold markDetached at hg
  simp only [detachSlow, he, hg, settleStall_done]

end Multicast

/-- Settles O23: the detach by whether the segment is stalled, before and after PATIENCE, and where every receiver is as slow no
segment is (`stalledAt_of_all_slow`). -/
theorem slowReceiversAreDetached : Obligations.SlowReceiversAreDetached := by
  intro s n pos late x d out
  refine ⟨fun moving => onBlk_of (multicastDetach_of_moving moving), stalledAt_of_all_slow,
    fun stalled recovered => onBlk_of (multicastDetach_of_recovered stalled rfl recovered), ?_⟩
  intro e g stalled stays reached marked goesOn k
  have detaches := detachSlow_of_delivered (b := ofCtx x.port late) rfl reached goesOn
  exact onBlk_of ((multicastDetach_of_stalled stalled rfl stays).trans
    (congrArg (fun y : Blk => ({ y with ctx := late.ctx } : Blk)) detaches))

end Sys2Proof.Machine

/-! SUPPORT. Dictionary writes that start no process: what a good value stores, and what a bad one or a failed check leaves (R218,
R219, R282, R311, R315, R317). -/
namespace Sys2Proof.Machine

section Writes
variable {s : State} {r : DictReq}

/-! ### Values in range (R315) -/

/-- An entry beyond the links and TRAPDOOR_EN is always present (R314). -/
theorem entryPresent_of_plain (b : Blk) {i n : Nat} (hl : (i / 0x1000 == 5 || i == 0x6030) = false) (ht : (i == 0x8000) = false) :
    entryPresent b i n = true := by
  simp [entryPresent, hl, ht]

/-- A value is in range when it lies between the bounds of its entry. -/
theorem inRange_iff {i n : Nat} {g : List Entry} {e : Entry} (he : isEntry i n r.index r.sub = true)
    (hf : dictIndexes.find? (fun e => e.1 == i) = some (i, g)) (hl : (i / 0x1000 == 5 || i == 0x6030) = false)
    (ht : (i == 0x8000) = false) (hn : n ≠ 0) (hg : g[n - 1]? = some e) (b : Blk) :
    inRange b r = true ↔ e.min ≤ reqValue r ∧ reqValue r ≤ e.max := by
  rw [inRange_at (entry_named he) hf (entryPresent_of_plain b hl ht) hn hg, Bool.and_eq_true, decide_eq_true_eq, decide_eq_true_eq]

/-- The values that SELECT takes (Table SMP-5). -/
theorem inRange_select (he : isEntry 0x7000 2 r.index r.sub = true) (b : Blk) : inRange b r = true ↔ reqValue r ≤ 1023 :=
  (inRange_iff he rfl rfl rfl (by decide) rfl b).trans (and_iff_right (Nat.zero_le _))

/-- The values that BOOTSWAP takes: a BOOL's (Table DIC-8). -/
theorem inRange_bootswap (he : isEntry 0x2010 1 r.index r.sub = true) (b : Blk) : inRange b r = true ↔ reqValue r ≤ 1 :=
  (inRange_iff he rfl rfl rfl (by decide) rfl b).trans (and_iff_right (Nat.zero_le _))

/-- CLEAR takes the value 1 alone (Table SMP-5, R320). -/
theorem inRange_clear (he : isEntry 0x7000 5 r.index r.sub = true) (b : Blk) : inRange b r = true ↔ reqValue r = 1 :=
  (inRange_iff he rfl rfl rfl (by decide) rfl b).trans (and_comm.trans Nat.le_antisymm_iff.symm)

/-- An entry of no stated multiple or reserved bit takes every value in its range. -/
theorem storeOk_of_inRange {i n : Nat} (he : isEntry i n r.index r.sub = true) (hb : i ∉ [0x2050, 0x4010, 0x5000, 0x7002]) {b : Blk}
    (hr : inRange b r = true) : storeOk b r = true := by
  obtain ⟨hi, hn⟩ := entry_named he
  simp only [List.mem_cons, List.not_mem_nil, or_false, not_or] at hb
  simp [storeOk, plainValueOk, hr, hi, hn, isEntry, hb]

/-- A PATIENCE in its range is accepted (Table DIC-8). -/
theorem storeOk_patience (he : isEntry 0x2020 1 r.index r.sub = true) (low : 64 ≤ reqValue r) (high : reqValue r ≤ 65535) (b : Blk) :
    storeOk b r = true :=
  storeOk_of_inRange he (by decide) ((inRange_iff he rfl rfl rfl (by decide) rfl b).mpr ⟨low, high⟩)

/-- A presence window in its range is accepted (Table DIC-9). -/
theorem storeOk_window (he : isEntry 0x3050 1 r.index r.sub = true) (low : 30 ≤ reqValue r) (high : reqValue r ≤ 600) (b : Blk) :
    storeOk b r = true :=
  storeOk_of_inRange he (by decide) ((inRange_iff he rfl rfl rfl (by decide) rfl b).mpr ⟨low, high⟩)

/-! ### Writes by their checks -/

section Passed
variable (ha : arrived s.blk .write r = true) (hs : requestStatus s.blk .write r = .ok)
include ha hs

/-- WRITE stores a good value of an entry that has no command of its own. -/
theorem exec_write_of_good (ho : ownCommand r.index r.sub = false) (hv : storeOk s.blk r = true) :
    exec (.write r) s = .next { s with blk := storeEntry r.index r.sub (reqValue r) (reqData r) (respond .write r .ok [] s.blk) } :=
  onBlk_of (serveWrite_ok (by simp [ho]) ha hs hv)

theorem exec_write_of_bad (ho : ownCommand r.index r.sub = false) (hv : storeOk s.blk r = false) :
    exec (.write r) s = .next { s with blk := respond .write r .badValue [] s.blk } :=
  onBlk_of (serveWrite_bad (by simp [ho]) ha hs hv)

end Passed
end Writes

/-- Settles O55: each write by its checks (`serveWrite_ok`, `serveWrite_bad`, `serveWrite_refused`) and by the range of its entry. -/
theorem writesStoreTheirValue : Obligations.WritesStoreTheirValue := by
  intro s r st b v ok bad refused dict at_ came
  have refuses : refuse .write r st b = refused := refuse_eq ..
  refine ⟨fun passes => ⟨fun plain => ⟨exec_write_of_good came passes plain, exec_write_of_bad came passes plain⟩,
      fun named low high => ?_, fun named low high => ?_, fun named => ⟨fun good => ?_, fun above => ?_⟩,
      fun named => ⟨fun good => ?_, fun above => ?_⟩, fun index low high => ?_, fun named => ⟨fun one => ?_, fun other => ?_⟩⟩,
    fun fails isBad => ⟨fun plain => ?_, fun named => ?_, fun named => ?_, fun named => ?_⟩⟩
  · obtain ⟨hi, hn⟩ := entry_named named
    rw [exec_write_of_good came passes (by rw [hi, hn]; rfl) (storeOk_patience named low high b), hi, hn]
    rfl
  · obtain ⟨hi, hn⟩ := entry_named named
    rw [exec_write_of_good came passes (by rw [hi, hn]; rfl) (storeOk_window named low high b), hi, hn]
    rfl
  · exact onBlk_of (serveWrite_ok named came passes ((inRange_select named b).mpr good))
  · exact onBlk_of (serveWrite_bad named came passes (by simpa using mt (inRange_select named b).mp (by omega)))
  · exact onBlk_of (serveWrite_ok named came passes ((inRange_bootswap named b).mpr good))
  · exact onBlk_of (serveWrite_bad named came passes (by simpa using mt (inRange_bootswap named b).mp (by omega)))
  · have named : (r.index == 0x2030 && decide (1 ≤ r.sub) && decide (r.sub ≤ 5)) = true := by simp [index, low, high]
    exact ⟨fun fits => onBlk_of (serveWrite_ok named came passes (decide_eq_true fits)),
      fun wide => onBlk_of (serveWrite_bad named came passes (decide_eq_false (Nat.not_lt.mpr wide)))⟩
  · exact onBlk_of (serveWrite_ok named came passes ((inRange_clear named b).mpr one))
  · exact onBlk_of (serveWrite_bad named came passes (by simpa using mt (inRange_clear named b).mp other))
  · exact onBlk_of ((serveWrite_refused (by simp [plain]) came fails isBad).trans refuses)
  · exact onBlk_of ((serveWrite_refused named came fails isBad).trans refuses)
  · exact onBlk_of ((serveWrite_refused named came fails isBad).trans refuses)
  · exact onBlk_of ((serveWrite_refused named came fails isBad).trans refuses)

end Sys2Proof.Machine

/-! SUPPORT. A firmware load by what the checks of Table VLT-5 answer, and the parity errors of the two SRAMs (R219, R249, R298,
R300). -/
namespace Sys2Proof.Machine

/-! ### The load (R300) -/

/-- An image can lie at the address: 64-byte aligned, in external memory. -/
def fwInPlace (a : Nat) : Bool := a % 64 == 0 && regionOf a == some .external

/-- The image at the address can be read. -/
def fwReadable (a : Nat) (readOk : Bool) (b : Blk) : Bool :=
  fwInPlace a && fwReadOk b a (fwHeaderSize + min (fwLength b a) sramSize) readOk

/-- The block with its control cores reset. -/
def coresReset (b : Blk) : Blk := (List.range 4).foldl (fun f c => resetMaster (.cc c) f) b

/-- The block with the cores reset and the image at the address in control SRAM. -/
def fwCopied (a : Nat) (b : Blk) : Blk :=
  if fwInPlace a then fwCopy a (coresReset b) else zeroKeys sramBase sramSize (coresReset b)

/-- The block with the copied firmware running. -/
def fwRuns (f : Blk) : Blk :=
  { f with
    vlt := { f.vlt with fwState := 2, fwReason := 0, coreState := 0x55, decodeHeld := false
                        dataBase := f.dict.fwDataBase, dataSize := f.dict.fwDataSize }
    dict := { f.dict with bootswapNow := f.dict.bootswap } }

/-- The block with the copied firmware refused: the cores stay in reset, with a FIRMWARE record and an alert. -/
def fwStays (a reason : Nat) (f : Blk) : Blk :=
  raiseAlert 9 (sumpPut 0x41 none 6 0 0 a reason { f with vlt := { f.vlt with fwState := 3, fwReason := reason, coreState := 0 } })

/-- How a load of the copied firmware ends, by the reason of the first check that fails (Table VLT-5). -/
def fwEnds (a : Nat) (f : Blk) : Nat → Blk
  | 0 => fwRuns f
  | reason => fwStays a reason f

section Load
variable {a : Nat} {readOk : Bool} {b : Blk} (ha : b.dict.fwBase.toNat = a)
include ha

/-- A load runs the cores or leaves them in reset, by the first check that fails. -/
theorem loadFirmware_eq : loadFirmware readOk b = fwEnds a (fwCopied a b) (fwReason (fwCopied a b) (fwReadable a readOk b)) := by
  subst ha
  rfl

/-- A load whose checks all pass runs the cores. -/
theorem loadFirmware_of_good (h : fwReason (fwCopied a b) (fwReadable a readOk b) = 0) :
    loadFirmware readOk b = fwRuns (fwCopied a b) := by
  rw [loadFirmware_eq ha, h]
  rfl

/-- A load that fails a check leaves them in reset with the reason. -/
theorem loadFirmware_of_bad {reason : Nat} (h : fwReason (fwCopied a b) (fwReadable a readOk b) = reason) (hr : reason ≠ 0) :
    loadFirmware readOk b = fwStays a reason (fwCopied a b) := by
  obtain ⟨n, rfl⟩ := Nat.exists_eq_succ_of_ne_zero hr
  rw [loadFirmware_eq ha, h]
  rfl

end Load

/-! ### FW_LOAD (R320) -/

/-- An answer leaves FW_BASE as it is. -/
theorem respond_fwBase (op : DOp) (r : DictReq) (st : DStatus) (data : List Byte) (b : Blk) :
    (respond op r st data b).dict.fwBase = b.dict.fwBase := by
  unfold respond
  dsimp only
  split <;> rfl

/-- FW_LOAD takes the value 1 (Table DIC-8). -/
theorem inRange_fwLoad {r : DictReq} (he : isEntry 0x2050 2 r.index r.sub = true) (hv : reqValue r = 1) (b : Blk) :
    inRange b r = true :=
  (inRange_iff he rfl rfl rfl (by decide) rfl b).mpr ⟨hv.ge, hv.le⟩

/-! ### Parity errors (R249) -/

/-- The block with decoding held for a parity error in control SRAM, its record and its alert. -/
def sramFaulted (addr : Nat) (b : Blk) : Blk :=
  raiseAlert 1 (sumpPut 0x40 none 6 0 0 addr 0 { b with vlt := { b.vlt with decodeHeld := true } })

section Parity
variable {b : Blk} {addr : Nat} (hr : b.pwr.inReset = false)
include hr

/-- A parity error in control SRAM has a running Vault load the firmware again. -/
theorem controlSramParity_of_within (hl : sramBase ≤ addr) (hu : addr < sramBase + sramSize) (readOk : Bool) :
    controlSramParity addr readOk b = if b.vlt.alive then loadFirmware readOk (sramFaulted addr b) else sramFaulted addr b := by
  have alive : (sramFaulted addr b).vlt.alive = b.vlt.alive := by simp [sramFaulted]
  have inside : ¬ (b.pwr.inReset = true ∨ addr < sramBase ∨ sramBase + sramSize ≤ addr) :=
    not_or.mpr ⟨ne_true_of_eq_false hr, by omega⟩
  rw [← alive]
  exact if_neg inside

/-- A parity error in Vault SRAM stops the Vault. -/
theorem vaultSramParity_of_within (hl : 0x4000200000 ≤ addr) (hu : addr < 0x4000210000) :
    vaultSramParity addr b = raiseAlert 0 (sumpPut 0x40 none 6 0 0 addr 1 { b with vlt := { b.vlt with alive := false } }) := by
  have inside : ¬ (b.pwr.inReset = true ∨ addr < 0x4000200000 ∨ 0x4000210000 ≤ addr) :=
    not_or.mpr ⟨ne_true_of_eq_false hr, by omega⟩
  exact if_neg inside

end Parity

/-- Settles O49, by what the checks of the load answer, for the block that FW_LOAD has answered and for the block that a parity
error has held. -/
theorem firmwareIsLoadedAndVerified : Obligations.FirmwareIsLoadedAndVerified := by
  intro s addr readOk r reason b cores inPlace size good copied runs stays held noted stopped answered
  have answeredBase : answered.dict.fwBase.toNat = b.dict.fwBase.toNat := congrArg _ (respond_fwBase ..)
  have notedBase : noted.dict.fwBase.toNat = b.dict.fwBase.toNat := by simp [noted, held]
  have loads : ∀ {e}, arrived b .write r = true → requestStatus b .write r = .ok → isEntry 0x2050 2 r.index r.sub = true →
      reqValue r = 1 → loadFirmware readOk answered = e → exec (.fwLoad r readOk) s = .next { s with blk := e } :=
    fun came passes named one ends => onBlk_of ((serveWrite_ok named came passes (inRange_fwLoad named one b)).trans ends)
  have faults : ∀ {e}, b.pwr.inReset = false → sramBase ≤ addr → addr < sramBase + sramSize →
      (if b.vlt.alive then loadFirmware readOk noted else noted) = e →
      exec (.controlSramParity addr readOk) s = .next { s with blk := e } :=
    fun up low high ends => onBlk_of ((controlSramParity_of_within up low high readOk).trans ends)
  refine ⟨fun came passes named one => ⟨fun passed => ?_, fun failed isBad => ?_⟩,
    fun up low high => ⟨fun alive passed => ?_, fun alive failed isBad => ?_, fun dead => ?_⟩,
    fun up low high => onBlk_of (vaultSramParity_of_within up low high)⟩
  · exact loads came passes named one (loadFirmware_of_good answeredBase passed)
  · exact loads came passes named one (loadFirmware_of_bad answeredBase failed isBad)
  · exact faults up low high ((if_pos alive).trans (loadFirmware_of_good notedBase passed))
  · exact faults up low high ((if_pos alive).trans (loadFirmware_of_bad notedBase failed isBad))
  · exact faults up low high (if_neg (ne_true_of_eq_false dead))

end Sys2Proof.Machine

/-! SUPPORT. A segment that a master presents: its parts, its path, and what becomes of it at its port (R204, R208 to R220). -/
namespace Sys2Proof.Machine

/-! ### Presenting a segment -/

/-- A segment that the matrix takes: of its shape, of a master that the grade has, while the block runs (R217). -/
def takesSegment (b : Blk) (r : BusReq) : Prop :=
  segmentOk r = true ∧ b.pwr.inReset = false ∧ masterPresent b r.master = true ∧ streamMay b r = true

/-- The block with a segment waiting at its port. -/
def queuedAt (k : Nat) (r : BusReq) (b : Blk) : Blk := updBusPort k (fun x => { x with waiting := x.waiting ++ [(r, b.clk.mc)] }) b

/-- A port after a grant: the data path is occupied, the pointer moved on, and in hold mode the port kept (R210, R211, R218). -/
def grantedPort (k t : Nat) (r : BusReq) (b : Blk) (x : BusPort) : BusPort :=
  let hold := if firstAt r then holdMode b k else x.hold
  { x with
    ptr := (placeOf k r + 1) % placesAt k
    busy := t + ceilDiv r.bytes (portWidth k)
    cur := some ⟨r, t, oldBytes b r⟩
    waiting := x.waiting.eraseP (fun e => e.1 == r)
    hold := hold
    owner := if hold && !r.last then some r.master else none }

/-- No port is kept for a master any longer. -/
def portsFreed (m : Master) (b : Blk) : Blk :=
  updBus (fun u => { u with ports := u.ports.map (fun e => (e.1, { e.2 with owner := if e.2.owner = some m then none else e.2.owner })) }) b

/-- The matrix after a grant: the last segment of a burst frees the ports that its master kept. -/
def granted (k t : Nat) (r : BusReq) (b : Blk) : Blk :=
  let taken := updBusPort k (grantedPort k t r b) b
  if r.last then portsFreed r.master taken else taken

section Present
variable {b : Blk} {r : BusReq} {k : Nat}

/-- The parts of a segment go to their targets one after another. -/
theorem busRequest_of_core {x : BusReq} (h : takesSegment b r) (hc : coreReq b r = some x) :
    busRequest r b = (lineParts x).foldl (fun b x => route x b) b := by
  obtain ⟨shape, up, present, may⟩ := h
  simp only [busRequest, shape, up, present, may, hc, Bool.not_true, Bool.or_self, Bool.false_eq_true, if_false]

/-- A segment that needs no window and has one part goes to its target. -/
theorem busRequest_of_one (h : takesSegment b r) (hc : coreReq b r = some r) (hl : lineParts r = [r]) : busRequest r b = route r b := by
  rw [busRequest_of_core h hc, hl]
  rfl

theorem route_of_no_path (h : targetOf b r = none) : route r b = busError r.master r.write r.addr b := by
  simp only [route, h]

section Path
variable (ht : targetOf b r = some k)
include ht

theorem route_of_held (hh : heldBack b k r = true) :
    route r b = { b with bus := { b.bus with held := b.bus.held ++ [(r, b.clk.mc)] } } := by
  simp only [route, ht, hh, if_true, updBus]

theorem route_of_not_held (hh : heldBack b k r = false) : route r b = present k r b := by
  simp only [route, ht, hh, Bool.false_eq_true, if_false]

end Path

/-- A request of a master other than a quadrant is granted at once at an idle port parked on it, when it can pay, and waits
otherwise (R211, R212). -/
theorem present_eq (hq : ∀ q, r.master ≠ .cq q) :
    present k r b =
      if parkedFor b k b.clk.mc r.master = true ∧ (32 ≤ k ∨ canPay b r = true)
      then memoriesMc b.clk.mc (grant k b.clk.mc r (queuedAt k r b)) else queuedAt k r b := by
  have now_iff : (parkedFor b k b.clk.mc r.master && (!decide (k < 32) || canPay b r)) = true
      ↔ parkedFor b k b.clk.mc r.master = true ∧ (32 ≤ k ∨ canPay b r = true) := by simp
  unfold present
  split
  next q hm => exact absurd hm (hq q)
  next => exact if_congr now_iff rfl rfl

/-- A segment whose beats are all good is served with its first transfer (R216). -/
theorem grant_of_good_beats (t : Nat) (h : r.badBeats = 0) : grant k t r b = serve k r (granted k t r b) := by
  have sends : ∀ x : Blk, serveBeats k r x = serve k r x := fun x => by simp [serveBeats, h, countReplays]
  exact sends _

end Present

/-! ### Serving at stores and at control space -/

/-- A target that is no Cellar bank, memory port or link reads and writes at once (R206, R216). -/
theorem serve_of_store {k : Nat} (hl : 48 ≤ k) (hk : k < 82 ∨ k = 88 ∨ k = 89) (r : BusReq) (b : Blk) :
    serve k r b = if r.write then answerWrite (writeSeg r b) else answerRead r b := by
  have noBank : ¬ k < 32 := by omega
  have noLink : ¬ (82 ≤ k ∧ k < 88) := by omega
  rw [serve, if_neg noBank, if_neg noLink]

/-- Settles O37: the parts of a segment go to their targets, and one with a single part is refused, held back, queued or granted
by its path and its port. -/
theorem requestsAreGrantedHeldOrRefused : Obligations.RequestsAreGrantedHeldOrRefused := by
  intro s r k b t queued kept taken freed now told
  refine ⟨fun shape up present_ may => ?_, fun e low which => serve_of_store low which r e⟩
  have takes : takesSegment b r := ⟨shape, up, present_, may⟩
  refine ⟨fun x core => onBlk_of (busRequest_of_core takes core), fun core parts noQuadrant => ?_⟩
  have routes : ∀ {e}, route r b = e → exec (.busRequest r) s = .next { s with blk := e } :=
    fun ends => onBlk_of ((busRequest_of_one takes core parts).trans ends)
  refine ⟨fun noPath => ?_, fun path => ⟨fun held => ?_, fun free busy => ?_, fun free idle good => ?_⟩⟩
  · exact routes ((route_of_no_path noPath).trans ((busError_eq ..).trans (if_pos present_)))
  · exact routes (route_of_held path held)
  · exact routes ((route_of_not_held path free).trans ((present_eq noQuadrant).trans (if_neg busy)))
  · refine routes ((route_of_not_held path free).trans ((present_eq noQuadrant).trans ((if_pos idle).trans ?_)))
    exact congrArg (memoriesMc t) (grant_of_good_beats t good)

end Sys2Proof.Machine

/-! SUPPORT. What a reset of one master leaves of its requests, the command that a reset fetch engine cuts, and the watchdog that resets
one (R221 to R224). -/
namespace Sys2Proof.Machine

/-- The block without the requests of a master: those that waited are gone, those in flight are to be discarded (R222, R223). -/
def requestsLost (m : Master) (b : Blk) : Blk :=
  { b with
    gal := { b.gal with xreq := b.gal.xreq.map (fun e => (e.1, if e.2.master = some m then { e.2 with discard := true } else e.2)) }
    bus := { b.bus with
      ports := b.bus.ports.map (fun e => (e.1, { e.2 with
        waiting := e.2.waiting.filter (fun r => r.1.master != m)
        cur := match e.2.cur with | some g => if g.req.master = m then none else some g | none => none
        owner := if e.2.owner = some m then none else e.2.owner }))
      held := b.bus.held.filter (fun r => r.1.master != m)
      flight := b.bus.flight.map (fun f => if f.req.master = m && f.kind != .back then { f with discard := true } else f) } }

/-- No write of the master is in progress at a port. -/
def noWriteOf (m : Master) (b : Blk) : Prop := ∀ k g, (busPort b k).cur = some g → g.req.master = m → g.req.write = false

/-- The commands that a reset of a fetch engine cuts (R224). -/
def cutBy (n : Nat) (b : Blk) : List Cmd := b.cmds.filter (fun c => usesMatrix c && ofQuad b n c)

/-- The block with the destination of the unit that a cut command was writing left undefined (R224). -/
def unitUnknown (c : Cmd) (b : Blk) : Blk := if writing c then inCtx c.port (undefine (cutAddrs b c)) b else b

section Reset
variable {b : Blk} {m : Master}

/-- A port at which the master writes nothing has no segment to cut. -/
theorem cutSegment_of_noWrite (h : noWriteOf m b) (k : Nat) : cutSegment k m b = b := by
  unfold cutSegment
  dsimp only
  split
  next g hg =>
    refine if_pos ?_
    by_cases hm : g.req.master = m
    · exact .inr (.inr (by simp [h k g hg hm]))
    · exact .inl hm
  next => rfl

/-- A reset of a master that writes nothing takes its requests alone. -/
theorem resetMaster_of_noWrite (h : noWriteOf m b) : resetMaster m b = requestsLost m b := by
  have uncut : ∀ l : List Nat, l.foldl (fun b k => cutSegment k m b) b = b := by
    intro l
    induction l with
    | nil => rfl
    | cons k l ih => rw [List.foldl_cons, cutSegment_of_noWrite h, ih]
  unfold resetMaster
  rw [uncut]
  rfl

/-- A master other than a fetch engine cuts no command. -/
theorem masterReset_of_other (h : ∀ n, m ≠ .fe n) : masterReset m b = resetMaster m b := by
  unfold masterReset
  split
  next n => exact absurd rfl (h n)
  next => rfl

theorem masterReset_of_engine (n : Nat) :
    masterReset (.fe n) b = (cutBy n (resetMaster (.fe n) b)).foldl (fun b c => cutCmd c b) (resetMaster (.fe n) b) := rfl

end Reset

/-- A cut command of one die completes ABORTED (R224). -/
theorem cutCmd_completed {c : Cmd} {b : Blk} (alone : spansGallery c = false) (ends : canComplete c (unitUnknown c b)) :
    cutCmd c b = completed c .aborted 0 0 (unitUnknown c b) := by
  rw [← finishCmd_eq ends]
  exact congrArg (finishCmd c .aborted 0 0) (withdrawAll_alone alone)

section Exec
variable {s : State} {m : Master}

/-- MASTER_RESET of a master that can be reset alone. -/
theorem exec_masterReset_of {b : Blk} (ha : resetAlone m = true) (hp : masterPresent s.blk m = true) (h : masterReset m s.blk = b) :
    exec (.masterReset m) s = .next { s with blk := b } :=
  onBlk_of ((if_pos (by rw [ha, hp]; rfl)).trans h)

/-- The Vault, the quadrants and an absent master are not reset alone (Table BMX-8). -/
theorem exec_masterReset_of_none (h : m = .vault ∨ (∃ q, m = .cq q) ∨ masterPresent s.blk m = false) :
    exec (.masterReset m) s = .next s := by
  refine onBlk_of (if_neg ?_)
  rcases h with rfl | ⟨q, rfl⟩ | absent
  · simp [resetAlone]
  · simp [resetAlone]
  · simp [absent]

end Exec

/-! ### FE_WATCHDOG -/

/-- The Vault watches a fetch engine: work waits for it. -/
def watched (b : Blk) (n : Nat) : Prop :=
  b.vlt.alive = true ∧ b.pwr.inReset = false ∧ masterPresent b (.fe n) = true ∧ engineWaits b n = true

/-- Over 1 ms a fetch engine issues and retires nothing of the work that waits. -/
def starvesOver (n : Nat) (b late : Blk) : Prop := engineTraffic late n = engineTraffic b n ∧ engineWaits late n = true

section Watchdog
variable {b : Blk} {n : Nat}

section Watched
variable (h : watched b n)
include h

/-- FE_WATCHDOG acts on a watched engine. -/
theorem feWatchdog_watches :
    ¬ ((!b.vlt.alive) = true ∨ b.pwr.inReset = true ∨ (!masterPresent b (.fe n)) = true ∨ (!engineWaits b n) = true) := by
  obtain ⟨alive, up, present, waits⟩ := h
  simp [alive, up, present, waits]

/-- An engine that starves is reset after 1 ms. -/
theorem feWatchdog_of_starving (hs : starvesOver n b (pass oneMs b)) : feWatchdog n b = masterReset (.fe n) (pass oneMs b) :=
  (if_neg (feWatchdog_watches h)).trans (if_pos hs)

/-- One that moves is left to run on. -/
theorem feWatchdog_of_moving (hs : ¬ starvesOver n b (pass oneMs b)) : feWatchdog n b = pass oneMs b :=
  (if_neg (feWatchdog_watches h)).trans (if_neg hs)

end Watched

/-- One that is not watched is left alone. -/
theorem feWatchdog_of_unwatched
    (h : b.vlt.alive = false ∨ b.pwr.inReset = true ∨ masterPresent b (.fe n) = false ∨ engineWaits b n = false) : feWatchdog n b = b :=
  if_pos (by simpa using h)

end Watchdog

/-- Settles O39: a reset takes the master's requests (`resetMaster_of_noWrite`), that of a fetch engine cuts the commands of its quad
besides, and the watchdog resets a fetch engine that starves. -/
theorem aResetMasterLosesItsRequests : Obligations.AResetMasterLosesItsRequests := by
  intro s m n c lose quiet ofFe e unknown late starved
  refine ⟨fun alone present noWrite noEngine => ?_, exec_masterReset_of_none, fun present noWrite => ?_,
    fun alive up present waits => ?_, fun idle => onBlk_of (feWatchdog_of_unwatched idle)⟩
  · exact exec_masterReset_of alone present ((masterReset_of_other noEngine).trans (resetMaster_of_noWrite noWrite))
  · have cuts : masterReset (.fe n) s.blk = (ofFe e).foldl (fun b c => cutCmd c b) e := by
      rw [masterReset_of_engine, resetMaster_of_noWrite noWrite]
      rfl
    refine ⟨fun none_ => exec_masterReset_of rfl present (cuts.trans ?_), fun one alone ends =>
      exec_masterReset_of rfl present (cuts.trans ?_)⟩
    · rw [none_]
      rfl
    · rw [one]
      exact cutCmd_completed alone ends
  · have isWatched : watched s.blk n := ⟨alive, up, present, waits⟩
    exact ⟨fun starves => onBlk_of (feWatchdog_of_starving isWatched starves),
      fun moves => onBlk_of (feWatchdog_of_moving isWatched moves)⟩

end Sys2Proof.Machine

/-! SUPPORT. What a failing link leaves: a lane that retrains, comes back or is degraded, a port that fails with or without a surviving
one beside it, a HANDOVER, and the loss of a neighbour (R221, R242 to R245). -/
namespace Sys2Proof.Machine

section Links
variable {b : Blk} {k : Nat}

/-! ### LANE_RETRAIN (R242) -/

section Lane
variable {lane : Nat} (ha : (portOf b k).state = .active) (hl : bitAt (portOf b k).active lane = true)
  (hs : (portOf b k).standbySent = false) (h8 : lane < 8)
include ha hl hs h8

/-- The lane is one that LANE_RETRAIN acts on. -/
theorem lane_in_service :
    ¬ ((portOf b k).state ≠ .active ∨ (!bitAt (portOf b k).active lane) = true ∨ standsBy (portOf b k) = true ∨ 8 ≤ lane) := by
  simp [ha, hl, standsBy, hs, h8]

/-- A lane that loses codeword lock retrains, with its counts begun again. -/
theorem laneRetrain_of_lost : laneRetrain k lane none b = updPort k (fun x => { x with
    retraining := setBit x.retraining lane true, omitted := tabDel lane x.omitted, uncorr := tabDel lane x.uncorr }) b := by
  have retrains : retrainLane lane (portOf b k) = { portOf b k with
      retraining := setBit (portOf b k).retraining lane true, omitted := tabDel lane (portOf b k).omitted
      uncorr := tabDel lane (portOf b k).uncorr } := if_pos (by simp [ha, hl, standsBy, hs])
  refine (if_neg (lane_in_service ha hl hs h8)).trans ?_
  exact congrArg (fun y => { b with link := tabPut {} b.link k y }) retrains

/-- The end of a retraining that never began changes nothing. -/
theorem laneRetrain_of_idle (hr : bitAt (portOf b k).retraining lane = false) (n : Nat) : laneRetrain k lane (some n) b = b :=
  (if_neg (lane_in_service ha hl hs h8)).trans (if_pos (by simp [hr]))

section Ended
variable (hr : bitAt (portOf b k).retraining lane = true) {n : Nat}
include hr

/-- A lane that locks again within three attempts is dealt flits again. -/
theorem laneRetrain_of_back (hn : n < 3) : laneRetrain k lane (some n) b =
    updPort k (fun x => pumpPort { x with retraining := setBit x.retraining lane false }) b :=
  (if_neg (lane_in_service ha hl hs h8)).trans ((if_neg (by simp [hr])).trans (if_neg (Nat.not_le.mpr hn)))

/-- Three failures in succession degrade it. -/
theorem laneRetrain_of_failed (hn : 3 ≤ n) : laneRetrain k lane (some n) b = degradeLane k lane b :=
  (if_neg (lane_in_service ha hl hs h8)).trans ((if_neg (by simp [hr])).trans (if_pos hn))

end Ended
end Lane

/-- A port that keeps at least 7 lanes only changes its capacity with a degraded lane (Table GAL-7). -/
theorem degradeLane_of_enough {lane : Nat} (h : 7 < laneCount (portOf b k)) :
    degradeLane k lane b = capacityEpoch k 3 (raiseAlert 6 (sumpPut 0x30 none 6 0 0 (k + lane * 8) 1 (updPort k (fun x => { x with
      active := setBit x.active lane false, degraded := setBit x.degraded lane true, retraining := setBit x.retraining lane false }) b))) := by
  have stays : decide (laneCount (portOf b k) ≤ 7) = false := decide_eq_false (Nat.not_le.mpr h)
  unfold degradeLane
  simp only [stays, Bool.false_eq_true, if_false]

/-! ### A port that fails (R243, R244) -/

/-- The block with a failed port, its record, its alert and its ingress reset. -/
def portDead (k : Nat) (b : Blk) : Blk :=
  portPower k 0 (updPort k (fun x => { x with
    state := .failed, lanes := [], active := 0, retraining := 0, rxHeld := [], standbySent := false, standbyGot := false })
    (resetMaster (.li k) (raiseAlert 6 (sumpPut 0x31 none 6 0 0 k 0 b))))

/-- The block with the outstanding requests of a port moved to another. -/
def requestsMoved (k t : Nat) (b : Blk) : Blk :=
  { b with gal := { b.gal with xreq := b.gal.xreq.map (fun e => (e.1, if e.2.port = k then { e.2 with port := t } else e.2)) } }

theorem portDown_of_survivor {t : Nat} (h : survivor b k = some t) :
    portDown k b = capacityEpoch k 4 (requestsMoved k t (transmit t 6 b)) := by
  simp only [portDown, h, requestsMoved]

theorem portDown_of_none (h : survivor b k = none) : portDown k b = takeLoss (BitVec.ofNat 8 (2 ^ peerDie b k)) b := by
  simp only [portDown, h]

/-- An ACTIVE port that is silent out of standby fails. -/
theorem portSilence_of_active (ha : (portOf b k).state = .active)
    (hs : ¬ ((portOf b k).standbySent = true ∧ (portOf b k).standbyGot = true)) : portSilence k b = portDown k (portDead k b) :=
  if_pos ⟨ha, hs⟩

theorem portSilence_of_other (h : (portOf b k).state ≠ .active ∨ ((portOf b k).standbySent = true ∧ (portOf b k).standbyGot = true)) :
    portSilence k b = b :=
  if_neg (fun fails => h.elim (· fails.1) fails.2)

/-! ### HANDOVER (R244) -/

/-- What the failed port of a HANDOVER has left to send: its flits after the one named, then what waited there. -/
def handedOver (failed : Nat) (last : BitVec 12) (b : Blk) : List (Nat × Bool) :=
  (dropAcked last (portOf b failed).replay).map (fun e => (e.cls, e.poison)) ++ (portOf b failed).txWait

/-- A HANDOVER from a port that has failed here too puts what it had left ahead of the port's own traffic. -/
theorem takeHandover_of_failed {failed : Nat} (last : BitVec 12) (ha : (portOf b k).state = .active) (hk : k ≠ failed) (h6 : failed < 6)
    (hf : (portOf (acceptFlit k b) failed).state = .failed) (hd : portDim b k = portDim b failed) :
    takeHandover k failed last b = countAdd (cntKey 0x6030 (failed + 1) 3) 1 (updPort k
      (fun x => pumpPort { x with txWait := handedOver failed last (acceptFlit k b) ++ x.txWait })
      (updPort failed (fun x => { x with replay := [], txWait := [] }) (acceptFlit k b))) := by
  have serves : ¬ (!inService b k || k == failed || decide (6 ≤ failed) || portDim b k != portDim b failed) = true := by
    simp [inService, ha, hk, h6, hd]
  have notActive : ¬ (portOf (acceptFlit k b) failed).state = .active := by simp [hf]
  unfold takeHandover
  rw [if_neg serves]
  simp only [if_neg notActive]
  exact if_neg (not_not.mpr hf)

/-! ### LOSS (R245) -/

/-- Accepting a flit leaves the Gallery as it is. -/
theorem acceptFlit_gal (k : Nat) (b : Blk) : (acceptFlit k b).gal = b.gal := by
  unfold acceptFlit
  dsimp only
  split <;> rfl

/-- The block with the loss of dies known, and the Gallery re-forming. -/
def lossKnown (mask : BitVec 8) (b : Blk) : Blk := { b with gal := { b.gal with lost := b.gal.lost ||| mask, reforming := true } }

theorem takeLoss_of_new {mask : BitVec 8} (h : mask &&& ~~~ b.gal.lost ≠ 0) :
    takeLoss mask b = lossKnown mask (floodLoss (endCrossDie b)) :=
  if_neg h

theorem takeLoss_of_known {mask : BitVec 8} (h : mask &&& ~~~ b.gal.lost = 0) : takeLoss mask b = b := if_pos h

end Links

/-- LOSS on a port in service is taken behind its flit. -/
theorem exec_loss_of {s : State} {k mask die : Nat} {b : Blk} (ha : (portOf s.blk k).state = .active) (hd : die < 8)
    (h : takeLoss (BitVec.ofNat 8 mask) (acceptFlit k s.blk) = b) : exec (.loss k mask die) s = .next { s with blk := b } :=
  onBlk_of ((if_pos (by simp [inService, ha, hd])).trans h)

/-- Settles O46, by what becomes of the lane, of the port, of what a failed port had left, and of the dies behind it. -/
theorem portsDegradeFailAndHandOver : Obligations.PortsDegradeFailAndHandOver := by
  intro s k lane n failed t mask die last b x put changed waits back lost fell dead told moved near y left cleared handed cut
  refine ⟨fun active mine awake low => ⟨?_, fun retrains few => ?_, fun retrains many enough => ?_, fun idle => ?_⟩,
    fun active awake => ⟨fun other => ?_, fun alone => ?_⟩, fun quiet => onBlk_of (portSilence_of_other quiet),
    fun active differs low gone same => onBlk_of (takeHandover_of_failed last active differs low gone same),
    fun active low => ⟨fun fresh => ?_, fun known => ?_⟩⟩
  · exact onBlk_of (laneRetrain_of_lost active mine awake low)
  · exact onBlk_of (laneRetrain_of_back active mine awake low retrains few)
  · exact onBlk_of ((laneRetrain_of_failed active mine awake low retrains many).trans (degradeLane_of_enough enough))
  · exact onBlk_of (laneRetrain_of_idle active mine awake low idle n)
  · exact onBlk_of ((portSilence_of_active active awake).trans (portDown_of_survivor other))
  · exact onBlk_of ((portSilence_of_active active awake).trans (portDown_of_none alone))
  · have loses : takeLoss (BitVec.ofNat 8 mask) near = lossKnown (BitVec.ofNat 8 mask) cut :=
      takeLoss_of_new (by rwa [acceptFlit_gal])
    exact exec_loss_of active low loses
  · exact exec_loss_of active low (takeLoss_of_known (by rwa [acceptFlit_gal]))

end Sys2Proof.Machine

/-! SUPPORT. What a discovery chooses: the dies of a candidate subcube, or this die alone; and what it then takes (R240, R241, R245,
R324). -/
namespace Sys2Proof.Machine

/-! ### Bits of masks -/

theorem natBit_eq_testBit (v i : Nat) : natBit v i = v.testBit i := by
  rw [Nat.testBit_eq_decide_div_mod_eq]
  rfl

theorem natBit_toNat {w : Nat} (v : BitVec w) (i : Nat) : natBit v.toNat i = bitAt v i :=
  natBit_eq_testBit ..

/-- Adding a bit that was clear sets no other. -/
theorem natBit_of_add {m i j : Nat} (clear : natBit m i = false) (h : natBit (m + 2 ^ i) j = true) : natBit m j = true ∨ j = i := by
  rcases Nat.lt_trichotomy j i with below | same | above
  · rw [natBit_eq_testBit, Nat.add_comm, Nat.testBit_two_pow_add_gt below] at h
    exact .inl ((natBit_eq_testBit ..).trans h)
  · exact .inr same
  · have parity : m / 2 ^ i % 2 ≠ 1 := by simpa [natBit] using clear
    have carry : (m / 2 ^ i + 1) / 2 = m / 2 ^ i / 2 := by omega
    have drop : ∀ v, v / 2 ^ j = v / 2 ^ i / 2 / 2 ^ (j - (i + 1)) := fun v => by
      rw [Nat.div_div_eq_div_mul v, ← Nat.pow_succ, Nat.div_div_eq_div_mul, ← Nat.pow_add, Nat.add_sub_cancel' above]
    have same : (m + 2 ^ i) / 2 ^ j = m / 2 ^ j := by
      rw [drop, drop m, Nat.add_div_right _ (Nat.two_pow_pos i), carry]
    exact .inl (by rwa [natBit, same] at h)

/-- A mask has the listed bits only. -/
theorem mem_of_natBit_maskOf {l : List Nat} {j : Nat} (h : natBit (maskOf l) j = true) : j ∈ l := by
  have grows : ∀ (l : List Nat) (m : Nat),
      natBit (l.foldl (fun m i => if natBit m i then m else m + 2 ^ i) m) j = true → natBit m j = true ∨ j ∈ l := by
    intro l
    induction l with
    | nil => exact fun m h => .inl h
    | cons i l ih =>
      intro m h
      rcases ih _ h with bit | inside
      · dsimp only at bit
        by_cases set : natBit m i = true
        · rw [if_pos set] at bit
          exact .inl bit
        · rw [if_neg set] at bit
          rcases natBit_of_add (eq_false_of_ne_true set) bit with old | new
          · exact .inl old
          · exact .inr (new ▸ List.mem_cons_self)
      · exact .inr (List.mem_cons_of_mem _ inside)
  rcases grows l 0 h with zero | inside
  · simp [natBit] at zero
  · exact inside

/-- A bit written clear reads clear. -/
theorem bitAt_setBit_false {w : Nat} (v : BitVec w) (i : Nat) : bitAt (setBit v i false) i = false := by
  by_cases h : i < w
  · unfold bitAt setBit
    rw [if_neg Bool.false_ne_true, BitVec.getLsbD_and, BitVec.getLsbD_not, BitVec.getLsbD_ofNat, Nat.testBit_two_pow_self]
    simp [h]
  · exact BitVec.getLsbD_of_ge _ _ (Nat.le_of_not_lt h)

/-! ### The choice (R240) -/

section Choice
variable {dims allowed : Nat} {p : PeerStates} {c : Cube}

/-- A candidate's dies are working dies that the choice allows. -/
theorem dies_of_candidate (h : c ∈ candidates dims allowed p) {d : Nat} (hd : d ∈ c.dies) :
    bitAt p.working d = true ∧ natBit allowed d = true := by
  simp only [candidates, List.mem_flatMap, List.mem_filterMap] at h
  obtain ⟨mask, -, base, -, taken⟩ := h
  split at taken
  · contradiction
  · rename_i fit
    obtain rfl := Option.some.inj taken
    simp only [not_or] at fit
    obtain ⟨-, -, -, -, dies, -⟩ := fit
    have all : ∀ x ∈ subcube base mask, bitAt p.working x = true ∧ natBit allowed x = true := by simpa using dies
    exact all d hd

/-- What a fold keeps is one of the list, when each step keeps the old or takes the new. -/
theorem mem_of_foldl_some {α : Type} {f : Option α → α → Option α} (step : ∀ best x c, f best x = some c → best = some c ∨ c = x)
    {l : List α} {best : Option α} {c : α} (h : l.foldl f best = some c) : best = some c ∨ c ∈ l := by
  induction l generalizing best with
  | nil => exact .inl h
  | cons x l ih =>
    rcases ih h with here | later
    · exact (step _ _ _ here).imp_right fun new : c = x => new ▸ List.mem_cons_self
    · exact .inr (List.mem_cons_of_mem _ later)

/-- What is chosen is one of the candidates. -/
theorem mem_of_chosen {l : List Cube} (h : chosen l = some c) : c ∈ l := by
  refine (mem_of_foldl_some (fun best x c kept => ?_) h).resolve_left nofun
  cases best with
  | none => exact .inr (Option.some.inj kept).symm
  | some y =>
    dsimp only at kept
    split at kept
    · exact .inr (Option.some.inj kept).symm
    · exact .inl kept

/-- The members are this die alone, or the dies of a candidate that this die is one of. -/
theorem chosenMembers_cases (b : Blk) (allowed : Nat) (p : PeerStates) :
    chosenMembers b allowed p = 2 ^ dieOf b
    ∨ ∃ c ∈ candidates (shapeDims b) allowed p, dieOf b ∈ c.dies ∧ chosenMembers b allowed p = maskOf c.dies := by
  unfold chosenMembers
  split
  · rename_i c taken
    by_cases mine : dieOf b ∈ c.dies
    · exact .inr ⟨c, mem_of_chosen taken, mine, if_pos (List.contains_iff_mem.mpr mine)⟩
    · exact .inl (if_neg (mt List.contains_iff_mem.mp mine))
  · exact .inl rfl

/-- Where this die is allowed, every member chosen is. -/
theorem chosenMembers_allowed {b : Blk} (mine : natBit allowed (dieOf b) = true) {d : Nat}
    (h : natBit (chosenMembers b allowed p) d = true) : natBit allowed d = true := by
  rcases chosenMembers_cases b allowed p with alone | ⟨c, candidate, -, dies⟩
  · rw [alone, natBit_eq_testBit, Nat.testBit_two_pow, decide_eq_true_eq] at h
    exact h ▸ mine
  · rw [dies] at h
    exact (dies_of_candidate candidate (mem_of_natBit_maskOf h)).2

/-- A die that works has an ACTIVE port, in the states that hold its own ports. -/
theorem exists_active_of_working {b : Blk} {st : PeerStates} (h : bitAt (withOwn b st).working (dieOf b) = true) :
    ∃ k ∈ allPorts, (portOf b k).state = .active := by
  cases up : allPorts.any (fun k => (portOf b k).state == .active) with
  | true => simpa using up
  | false =>
    have out : bitAt (withOwn b st).working (dieOf b) = false := by
      simp only [withOwn, up, bitAt_setBit_false]
    rw [out] at h
    contradiction

/-- A die that is not alone in its Gallery has an ACTIVE port. -/
theorem exists_active_of_not_alone {b : Blk} {st : PeerStates} (h : chosenMembers b allowed (withOwn b st) ≠ 2 ^ dieOf b) :
    ∃ k ∈ allPorts, (portOf b k).state = .active := by
  rcases chosenMembers_cases b allowed (withOwn b st) with alone | ⟨c, candidate, mine, -⟩
  · exact absurd alone h
  · exact exists_active_of_working (dies_of_candidate candidate mine).1

end Choice

/-! ### Taking the choice (R241, R245, R324) -/

/-- The members that a discovery may choose among. -/
def allowedMembers (b : Blk) : Nat := if b.gal.formed then b.gal.members.toNat else 255

/-- The members that a discovery chooses. -/
def discovered (st : PeerStates) (b : Blk) : Nat := chosenMembers b (allowedMembers b) (withOwn b st)

/-- GALLERY_ACTIVE leaves the epoch as it is. -/
theorem setGalleryActive_epoch (agree : List Bool) (logD : Nat) (b : Blk) : (setGalleryActive agree logD b).vlt.epoch = b.vlt.epoch := by
  unfold setGalleryActive
  generalize List.range 5 = ports
  induction ports generalizing b with
  | nil => rfl
  | cons q ports ih => exact ih _

/-- The block with new members, their dimensions and this die's rank, as the states told give them. -/
def membersTaken (members : Nat) (p : PeerStates) (b : Blk) : Blk :=
  { b with gal := { b.gal with
    members := BitVec.ofNat 8 members, logD := (freeDims members).length, rank := rankOf members (dieOf b)
    working := p.working, reforming := false, formed := true, lost := 0, lanes := p.lanes } }

/-- An epoch above the own and the largest told. -/
def epochAbove (p : PeerStates) (b : Blk) : Nat := max b.vlt.epoch.toNat p.epoch.toNat + 1

/-- New members are taken under an epoch above every member's. -/
theorem takeMembers_eq (members : Nat) (p : PeerStates) (b : Blk) : takeMembers members p b =
    releaseHeld (raiseAlert 7 (sumpPut 0x32 none 6 0 0
      (b.gal.members.toNat + members * 2 ^ 8 + (freeDims members).length * 2 ^ 16) (epochAbove p b)
      (setEpochTo (BitVec.ofNat 32 (epochAbove p b)) 5
        (setGalleryActive p.agree (freeDims members).length (membersTaken members p b))))) := by
  have epoch : (setGalleryActive p.agree (freeDims members).length (membersTaken members p b)).vlt.epoch = b.vlt.epoch :=
    setGalleryActive_epoch ..
  unfold epochAbove
  rw [← epoch]
  rfl

section Discovery
variable {b : Blk} {st : PeerStates} (hl : hasLinks b = true) (hr : b.pwr.inReset = false) (ha : b.vlt.alive = true) (hd : shapeDims b ≠ 0)
include hl hr ha hd

/-- A running Vault of a package with links discovers. -/
theorem discovery_of_running : discovery st b =
    if !b.gal.reforming && discovered st b == b.gal.members.toNat then
      setGalleryActive (withOwn b st).agree b.gal.logD { b with gal := { b.gal with working := (withOwn b st).working, formed := true } }
    else takeMembers (discovered st b) (withOwn b st) b :=
  if_neg (by simp [hl, hr, ha, hd])

theorem discovery_of_same (hf : b.gal.reforming = false) (hm : discovered st b = b.gal.members.toNat) : discovery st b =
    setGalleryActive (withOwn b st).agree b.gal.logD { b with gal := { b.gal with working := (withOwn b st).working, formed := true } } :=
  (discovery_of_running hl hr ha hd).trans (if_pos (by simp [hf, hm]))

theorem discovery_of_change (h : b.gal.reforming = true ∨ discovered st b ≠ b.gal.members.toNat) :
    discovery st b = takeMembers (discovered st b) (withOwn b st) b :=
  (discovery_of_running hl hr ha hd).trans (if_neg (by rcases h with h | h <;> simp [h]))

end Discovery

/-- Settles O47: a discovery by whether its choice changes the members; a formed Gallery only shrinks (`chosenMembers_allowed`), and
one of more than this die needs an ACTIVE port (`exists_active_of_not_alone`). -/
theorem discoveryChoosesTheGallery : Obligations.DiscoveryChoosesTheGallery := by
  intro s st b p m logD e same new links runs alive package
  refine ⟨fun formed stays => onBlk_of (discovery_of_same links runs alive package formed stays),
    fun changes => onBlk_of ((discovery_of_change links runs alive package changes).trans (takeMembers_eq ..)),
    fun formed mine d member => ?_, fun others => exists_active_of_not_alone others⟩
  have allowed : allowedMembers b = b.gal.members.toNat := if_pos formed
  rw [← natBit_toNat, ← allowed] at mine ⊢
  exact chosenMembers_allowed mine member

end Sys2Proof.Machine

/-! SUPPORT. Flits at a port in service: one that comes in its turn, ahead of it, or not at all, and what is sent again (R230 to
R235, R242). -/
namespace Sys2Proof.Machine

/-! ### A port put in place of another -/

/-- The block with a link port as given. -/
def putPort (k : Nat) (y : LinkPort) (b : Blk) : Blk := { b with link := tabPut {} b.link k y }

section Put
variable {k : Nat} {y z : LinkPort} {b : Blk}

theorem portOf_putPort (h : y.state ≠ .off) : portOf (putPort k y b) k = y := portOf_put (port_ne_default h)

theorem updPort_eq (f : LinkPort → LinkPort) : updPort k f b = putPort k (f (portOf b k)) b := rfl

/-- Of two ports put in one place the later stays. -/
theorem putPort_putPort (hy : y.state ≠ .off) (hz : z.state ≠ .off) : putPort k z (putPort k y b) = putPort k z b :=
  congrArg (fun t => { b with link := t }) (tabPut_tabPut (port_ne_default hy) b.link k z (port_ne_default hz))

/-- A change of a port just put. -/
theorem updPort_putPort {f : LinkPort → LinkPort} (hy : y.state ≠ .off) (hf : (f y).state ≠ .off) :
    updPort k f (putPort k y b) = putPort k (f y) b := by
  rw [updPort_eq, portOf_putPort hy, putPort_putPort hy hf]

end Put

/-! ### What sending leaves of the receiving side -/

/-- The receiving side of a port: its state, the number it expects, and the flits it holds ahead of their turn. -/
def receiving (x : LinkPort) : LinkState × BitVec 12 × List (BitVec 12 × RxItem) := (x.state, x.rxSeq, x.rxHeld)

theorem state_of_receiving {x y : LinkPort} (h : receiving y = receiving x) : y.state = x.state := congrArg (·.1) h

theorem receiving_pumpPort (x : LinkPort) : receiving (pumpPort x) = receiving x :=
  foldl_keeps (P := fun y => receiving y = receiving x) x.txWait rfl fun y e same => by
    split <;> exact same

theorem receiving_takeCredits (l : List (BitVec 16)) (x : LinkPort) : receiving (takeCredits l x) = receiving x :=
  foldl_keeps (P := fun y => receiving y = receiving x) _ rfl fun _ _ same => same

theorem receiving_retrainLane (lane : Nat) (x : LinkPort) : receiving (retrainLane lane x) = receiving x := by
  unfold retrainLane
  split <;> rfl

theorem receiving_countOmitted (lanes : BitVec 8) (x : LinkPort) : receiving (countOmitted lanes x) = receiving x := by
  unfold countOmitted
  refine foldl_keeps (P := fun y => receiving y = receiving x) _ rfl fun y l same => ?_
  split
  · exact (receiving_retrainLane l y).trans same
  · exact same

/-- The port that expects the flit after the one it has taken. -/
def expectNext (x : LinkPort) : LinkPort := { x with rxSeq := x.rxSeq + 1, unacked := x.unacked + 1, nakSent := false }

/-- The port with a flit sent, or waiting to go. -/
def sending (cls : Nat) (x : LinkPort) : LinkPort := pumpPort { x with txWait := x.txWait ++ [(cls, false)] }

/-- The port after it has accepted a flit. -/
def portAccepted (x : LinkPort) : LinkPort := if 64 ≤ (expectNext x).unacked then sending 4 (expectNext x) else expectNext x

theorem receiving_portAccepted (x : LinkPort) : receiving (portAccepted x) = (x.state, x.rxSeq + 1, x.rxHeld) := by
  unfold portAccepted
  split
  · exact receiving_pumpPort _
  · rfl

/-- The port after the body of a CTRL flit. -/
def portTold (c : CtrlBody) (x : LinkPort) : LinkPort :=
  pumpPort (countOmitted c.lanes (takeCredits c.credit { x with replay := dropAcked c.ack x.replay }))

theorem receiving_portTold (c : CtrlBody) (x : LinkPort) : receiving (portTold c x) = receiving x :=
  calc receiving (portTold c x)
      = receiving (countOmitted c.lanes (takeCredits c.credit { x with replay := dropAcked c.ack x.replay })) := receiving_pumpPort _
    _ = receiving (takeCredits c.credit { x with replay := dropAcked c.ack x.replay }) := receiving_countOmitted ..
    _ = receiving x := receiving_takeCredits ..

/-! ### What a flit brings -/

section Service
variable {b : Blk} {k : Nat}

theorem active_ite {c : Prop} [Decidable c] {x y : Blk} (hx : (portOf x k).state = .active) (hy : (portOf y k).state = .active) :
    (portOf (if c then x else y) k).state = .active := by
  split
  · exact hx
  · exact hy

theorem updPort_active {g : LinkPort → LinkPort} (hg : ∀ x, (g x).state = x.state) (ha : (portOf b k).state = .active) :
    (portOf (updPort k g b) k).state = .active := by
  have active : (g (portOf b k)).state = .active := (hg _).trans ha
  rw [updPort_eq, portOf_putPort (by simp [active]), active]

/-- Counting the codewords of a lane leaves its port in service. -/
theorem countCodewords_active (f : Flit) (ha : (portOf b k).state = .active) : (portOf (countCodewords k f b) k).state = .active := by
  have corrected : (portOf (if f.corrected = 0 then b else countAdd (cntKey 0x6030 (k + 1) 0) f.corrected b) k).state = .active :=
    active_ite ha ha
  have counted : ∀ {e : Blk} (l : List Nat), (portOf e k).state = .active → (portOf (updPort k (fun x => { x with
      uncorr := tabPut [] x.uncorr f.lane l }) (countAdd (cntKey 0x6030 (k + 1) 1) f.uncorrectable e)) k).state = .active :=
    fun _ up => updPort_active (fun _ => rfl) up
  exact active_ite corrected (active_ite
    (updPort_active (fun x => state_of_receiving (receiving_retrainLane f.lane x)) (counted _ corrected)) (counted _ corrected))

section Active
variable (ha : (portOf b k).state = .active)
include ha

theorem active_ne_off : (portOf b k).state ≠ .off := by simp [ha]

theorem portAccepted_ne_off : (portAccepted (portOf b k)).state ≠ .off :=
  ne_of_eq_of_ne (congrArg (·.1) (receiving_portAccepted (portOf b k))) (active_ne_off ha)

theorem acceptFlit_of_active : acceptFlit k b = putPort k (portAccepted (portOf b k)) b := by
  have off : (expectNext (portOf b k)).state ≠ .off := active_ne_off ha
  have sent : (sending 4 (expectNext (portOf b k))).state ≠ .off := ne_of_eq_of_ne (pumpPort_state _) off
  show (if 64 ≤ (portOf (putPort k (expectNext (portOf b k)) b) k).unacked then updPort k (sending 4) (putPort k (expectNext (portOf b k)) b)
    else putPort k (expectNext (portOf b k)) b) = putPort k (if _ then _ else _) b
  rw [portOf_putPort off, updPort_putPort off sent]
  exact (apply_ite (fun y => putPort k y b) ..).symm

/-- The port with nothing held ahead of its turn. -/
def dropHeld (x : LinkPort) : LinkPort := { x with rxHeld := [] }

/-- The port that has asked for everything again. -/
def sendNak (x : LinkPort) : LinkPort := sending 5 { x with nakSent := true }

/-- A discarded flit takes those held with it, and the first since an accepted one sends a NAK. -/
theorem discardFlit_of_active : discardFlit k b =
    if (portOf b k).nakSent then putPort k (dropHeld (portOf b k)) b else putPort k (sendNak (dropHeld (portOf b k))) b := by
  have off : (dropHeld (portOf b k)).state ≠ .off := active_ne_off ha
  have sent : (sendNak (dropHeld (portOf b k))).state ≠ .off := ne_of_eq_of_ne (pumpPort_state _) off
  show (if (portOf (putPort k (dropHeld (portOf b k)) b) k).nakSent then putPort k (dropHeld (portOf b k)) b
    else updPort k (sending 5) (updPort k (fun x => { x with nakSent := true }) (putPort k (dropHeld (portOf b k)) b))) = _
  rw [portOf_putPort off, updPort_putPort off off]
  exact if_congr Iff.rfl rfl (updPort_putPort off sent)

end Active

/-! ### Flits in their turn, ahead of it, and others (R231, R233) -/

theorem acceptable_iff {x : LinkPort} {f : Flit} :
    acceptable x f = true ↔ f.crcGood = true ∧ f.reservedZero = true ∧ f.seq = x.rxSeq := by
  have same : (f.seq - x.rxSeq).toNat = 0 ↔ f.seq = x.rxSeq := by bv_omega
  simp only [acceptable, flitGood, aheadBy, Bool.and_eq_true, beq_iff_eq, and_assoc, same]

theorem early_iff {x : LinkPort} {f : Flit} : early x f = true ↔
    f.crcGood = true ∧ f.reservedZero = true ∧ 0 < (f.seq - x.rxSeq).toNat ∧ (f.seq - x.rxSeq).toNat < 64 := by
  simp only [early, flitGood, Bool.and_eq_true, decide_eq_true_eq, and_assoc]
  exact Iff.rfl

theorem not_acceptable_of_early {x : LinkPort} {f : Flit} (h : early x f = true) : acceptable x f = false := by
  obtain ⟨-, -, ahead, -⟩ := early_iff.mp h
  exact Bool.and_eq_false_imp.mpr fun _ => beq_false_of_ne (Nat.ne_of_gt ahead)

theorem inService_of_active (h : (portOf b k).state = .active) : ¬ (!inService b k) = true := by simp [inService, h]

section Take
variable {f : Flit} {i : RxItem} (ha : (portOf b k).state = .active)
include ha

theorem takeFlit_of_turn (h : acceptable (portOf (countCodewords k f b) k) f = true) :
    takeFlit k f i b = drainHeld k 64 (takeItem k i (acceptFlit k (countCodewords k f b))) :=
  (if_neg (inService_of_active ha)).trans (if_pos h)

theorem takeFlit_of_early (h : early (portOf (countCodewords k f b) k) f = true) :
    takeFlit k f i b = updPort k (fun x => { x with rxHeld := x.rxHeld.filter (fun y => y.1 != f.seq) ++ [(f.seq, i)] })
      (countCodewords k f b) :=
  (if_neg (inService_of_active ha)).trans
    ((if_neg (ne_true_of_eq_false (not_acceptable_of_early h))).trans (if_pos h))

theorem takeFlit_of_other (hn : ¬ acceptable (portOf (countCodewords k f b) k) f = true)
    (he : ¬ early (portOf (countCodewords k f b) k) f = true) : takeFlit k f i b = discardFlit k (countCodewords k f b) :=
  (if_neg (inService_of_active ha)).trans ((if_neg hn).trans (if_neg he))

end Take

theorem takeFlit_of_down {f : Flit} {i : RxItem} (h : (portOf b k).state ≠ .active) : takeFlit k f i b = b :=
  if_pos (by simp [inService, h])

/-- With none held whose turn has come, no more flits are taken. -/
theorem drainHeld_of_none (h : ∀ y ∈ (portOf b k).rxHeld, y.1 ≠ (portOf b k).rxSeq) (n : Nat) : drainHeld k n b = b := by
  have none_ : (portOf b k).rxHeld.find? (fun e => e.1 == (portOf b k).rxSeq) = none := by simpa using h
  cases n with
  | zero => rfl
  | succ n =>
    unfold drainHeld
    dsimp only
    rw [none_]

/-- Nothing held has its turn next, when nothing had behind the flit accepted. -/
theorem drainHeld_of_next {x : LinkPort} (held : ∀ y ∈ x.rxHeld, y.1 ≠ x.rxSeq + 1)
    (h : receiving (portOf b k) = (x.state, x.rxSeq + 1, x.rxHeld)) (n : Nat) : drainHeld k n b = b := by
  have seq : (portOf b k).rxSeq = x.rxSeq + 1 := congrArg (·.2.1) h
  have items : (portOf b k).rxHeld = x.rxHeld := congrArg (·.2.2) h
  exact drainHeld_of_none (by rwa [seq, items]) n

section Idle
variable {f : Flit} (ha : (portOf b k).state = .active)
include ha

/-- An IDLE flit with a good CRC counts what its lane's codewords met. -/
theorem idleFlit_of_good (h : f.crcGood = true) : idleFlit k f b = countCodewords k f b := by
  refine (if_neg (inService_of_active ha)).trans ?_
  rw [if_pos h]

/-- One with a bad CRC counts as an uncorrectable codeword at least. -/
theorem idleFlit_of_bad (h : f.crcGood = false) :
    idleFlit k f b = countCodewords k { f with uncorrectable := max 1 f.uncorrectable } b := by
  refine (if_neg (inService_of_active ha)).trans ?_
  rw [if_neg (ne_true_of_eq_false h)]

end Idle

/-! ### Their bodies (R232, R234, R235, R337) -/

/-- The port with a buffer of a class freed. -/
def bufferFreed (cls : Nat) (x : LinkPort) : LinkPort := { x with freed := tabUpd 0 x.freed cls (· + 1) }

/-- The block with a port in standby, once it has sent and received STANDBY and all it sent is acknowledged. -/
def rested (k : Nat) (y : LinkPort) (b : Blk) : Blk := if y.standbySent ∧ y.standbyGot ∧ y.replay = [] then portPower k 1 b else b

/-- The port with all it has unacknowledged sent once more. -/
def replayed (y : LinkPort) : LinkPort :=
  { y with replay := y.replay.map (fun e => { e with times := e.times + 1, lane := dealLane y e.seq }) }

/-- The block with all that a port has unacknowledged sent again, or with the port failed. -/
def resent (k : Nat) (y : LinkPort) (b : Blk) : Blk :=
  if y.replay = [] then b
  else if y.replay.any (fun e => decide (8 ≤ e.times)) then failPort k b
  else countAdd (cntKey 0x6030 (k + 1) 2) y.replay.length (putPort k (replayed y) b)

theorem resendAll_eq : resendAll k b = resent k (portOf b k) b := rfl

theorem landRuns_eq (f : Flit) (runs : List BulkRun) : landRuns k f runs b =
    if f.cls = 0 then { b with gal := { b.gal with bulk := b.gal.bulk ++ runs.map (fun r => ⟨k, f.poison, r⟩) } } else b :=
  ite_not ..

theorem landRuns_putPort (f : Flit) (runs : List BulkRun) (y : LinkPort) :
    landRuns k f runs (putPort k y b) = putPort k y (landRuns k f runs b) := by
  unfold landRuns
  split <;> rfl

theorem enterStandby_putPort {y : LinkPort} (hy : y.state ≠ .off) : enterStandby k (putPort k y b) = rested k y (putPort k y b) := by
  unfold enterStandby
  dsimp only
  rw [portOf_putPort hy]
  rfl

theorem portOf_rested {y : LinkPort} (hy : y.state ≠ .off) : portOf (rested k y (putPort k y b)) k = y := by
  unfold rested
  split
  · exact portOf_putPort hy
  · exact portOf_putPort hy

section Bodies
variable (ha : (portOf b k).state = .active)
include ha

/-- A DATA flit in its turn lands its runs and frees its buffer. -/
theorem takeItem_data (f : Flit) (runs : List BulkRun) : takeItem k (.data f runs) (acceptFlit k b) =
    putPort k (bufferFreed (f.cls % 4) (portAccepted (portOf b k))) (landRuns k f runs b) := by
  have off := portAccepted_ne_off ha
  rw [acceptFlit_of_active ha]
  show updPort k (bufferFreed (f.cls % 4)) (landRuns k f runs (putPort k _ b)) = _
  rw [landRuns_putPort, updPort_putPort off off]

theorem portTold_ne_off (c : CtrlBody) : (portTold c (portAccepted (portOf b k))).state ≠ .off :=
  ne_of_eq_of_ne (state_of_receiving (receiving_portTold ..)) (portAccepted_ne_off ha)

/-- A CTRL flit in its turn acknowledges, returns credits and tells the lanes. -/
theorem takeItem_ctrl (c : CtrlBody) : takeItem k (.ctrl c) (acceptFlit k b) =
    rested k (portTold c (portAccepted (portOf b k))) (putPort k (portTold c (portAccepted (portOf b k))) b) := by
  have told := updPort_putPort (b := b) (k := k) (f := portTold c) (portAccepted_ne_off ha) (portTold_ne_off ha c)
  rw [acceptFlit_of_active ha]
  exact (congrArg (enterStandby k) told).trans (enterStandby_putPort (portTold_ne_off ha c))

/-- With NAK set it has all that is left sent again. -/
theorem takeItem_nak (c : CtrlBody) : takeItem k (.nak c) (acceptFlit k b) = resent k (portTold c (portAccepted (portOf b k)))
    (rested k (portTold c (portAccepted (portOf b k))) (putPort k (portTold c (portAccepted (portOf b k))) b)) := by
  show resendAll k (takeItem k (.ctrl c) (acceptFlit k b)) = _
  rw [takeItem_ctrl ha, resendAll_eq, portOf_rested (portTold_ne_off ha c)]

end Bodies

/-- Sending again leaves the receiving side, unless the port fails. -/
theorem receiving_resent {y : LinkPort} (hy : y.state ≠ .off) (hn : y.replay.any (fun e => decide (8 ≤ e.times)) = false)
    (he : portOf b k = y) : receiving (portOf (resent k y b) k) = receiving y := by
  unfold resent
  split
  · rw [he]
  · rw [if_neg (ne_true_of_eq_false hn)]
    exact (congrArg receiving (portOf_putPort (y := replayed y) (b := b) hy)).trans rfl

end Service

/-- Settles O44: a flit by its turn (`takeFlit_of_turn`, `takeFlit_of_early`, `takeFlit_of_other`), one in its turn by its body, and
what the port has sent by `resendAll_eq`. -/
theorem flitsAreTakenInOrder : Obligations.FlitsAreTakenInOrder := by
  intro s k f runs c b x put next acked freed landed told rests inOrder ahead held again quiet dropped
  refine ⟨fun active => ?_, fun down => ⟨onBlk_of (takeFlit_of_down down), onBlk_of (takeFlit_of_down down),
    onBlk_of (takeFlit_of_down down), onBlk_of (if_pos (by simp [inService, down])), onBlk_of (if_neg (by simp [inService, down]))⟩⟩
  have serves : x.state = .active := countCodewords_active f active
  have toldOff : told.state ≠ .off := portTold_ne_off serves c
  have turn : ∀ {i e}, inOrder → takeItem k i (acceptFlit k b) = e → takeFlit k f i s.blk = drainHeld k 64 e :=
    fun due body => (takeFlit_of_turn active (acceptable_iff.mpr due)).trans (congrArg _ body)
  have early_ : ∀ {i}, ahead → takeFlit k f i s.blk = put (held i) b := fun soon => takeFlit_of_early active (early_iff.mpr soon)
  have other : ∀ {i}, ¬ inOrder → ¬ ahead → takeFlit k f i s.blk = dropped := fun out far =>
    (takeFlit_of_other active (mt acceptable_iff.mp out) (mt early_iff.mp far)).trans (discardFlit_of_active serves)
  refine ⟨fun due alone => ?_, fun due => ?_, fun soon => ⟨onBlk_of (early_ soon), onBlk_of (early_ soon), onBlk_of (early_ soon)⟩,
    fun out far => ⟨onBlk_of (other out far), onBlk_of (other out far), onBlk_of (other out far)⟩,
    fun good => ?_, fun bad => ?_, onBlk_of (if_pos (by simp [inService, active]))⟩
  · have nothing : ∀ {e}, receiving (portOf e k) = receiving (portAccepted x) → drainHeld k 64 e = e :=
      fun same => drainHeld_of_next alone (same.trans (receiving_portAccepted x)) 64
    have freedOff : (bufferFreed (f.cls % 4) (portAccepted x)).state ≠ .off := portAccepted_ne_off serves
    have data : takeFlit k f (.data f runs) s.blk = put freed (landRuns k f runs b) :=
      (turn due (takeItem_data serves f runs)).trans (nothing ((congrArg receiving (portOf_putPort freedOff)).trans rfl))
    have ctrl : takeItem k (.ctrl c) (acceptFlit k b) = rests (put told b) := takeItem_ctrl serves c
    have nak : takeItem k (.nak c) (acceptFlit k b) = again told (rests (put told b)) := takeItem_nak serves c
    have tells : portOf (rests (put told b)) k = told := portOf_rested toldOff
    have same : receiving told = receiving (portAccepted x) := receiving_portTold ..
    refine ⟨fun bulk => onBlk_of (data.trans ?_), fun plain => onBlk_of (data.trans ?_), onBlk_of ?_, fun few => onBlk_of ?_,
      fun many => onBlk_of ?_⟩
    · rw [landRuns_eq, if_pos bulk]
    · rw [landRuns_eq, if_neg plain]
    · exact (turn due ctrl).trans (nothing ((congrArg receiving tells).trans same))
    · exact (turn due nak).trans (nothing ((receiving_resent toldOff few tells).trans same))
    · have sent : told.replay ≠ [] := fun none_ => by simp [none_] at many
      exact (turn due nak).trans (congrArg _ ((if_neg sent).trans (if_pos many)))
  · rw [← landRuns_eq]
    exact onBlk_of (turn due (takeItem_data serves f runs))
  · exact onBlk_of (idleFlit_of_good active good)
  · exact onBlk_of (idleFlit_of_bad active bad)

end Sys2Proof.Machine

/-! SUPPORT. A link port in training: its rail, the lanes that come up or fail, its IDENT, and how it rests in standby and wakes
(R229, R237 to R239, R337, R338). -/
namespace Sys2Proof.Machine

section Training
variable {b : Blk} {k : Nat}

/-! ### The rail (R338) -/

/-- The block with the rail of a port good. -/
def railGood (k : Nat) (b : Blk) : Blk := { b with pwr := { b.pwr with linkGood := setBit b.pwr.linkGood k true } }

theorem linkPwrGood_eq (hk : k < 6) : linkPwrGood k b =
    if (portOf b k).state = .off ∧ !(portOf b k).shut then trainPort k (railGood k b) else railGood k b :=
  if_neg (Nat.not_le.mpr hk)

/-- A good rail lets an OFF port that may train start. -/
theorem linkPwrGood_of_start (hk : k < 6) (ho : (portOf b k).state = .off) (hs : (portOf b k).shut = false)
    (hm : mayTrain (railGood k b) k = true) :
    linkPwrGood k b = portPower k 2 (putPort k (startTraining false (portOf b k)) (railGood k b)) := by
  rw [linkPwrGood_eq hk, if_pos ⟨ho, by simp [hs]⟩]
  exact if_pos hm

theorem linkPwrGood_of_stay (hk : k < 6)
    (h : (portOf b k).state ≠ .off ∨ (portOf b k).shut = true ∨ mayTrain (railGood k b) k = false) : linkPwrGood k b = railGood k b := by
  rw [linkPwrGood_eq hk]
  rcases h with up | shut | barred
  · exact if_neg fun off => up off.1
  · exact if_neg fun off => by simp [shut] at off
  · split
    · exact if_neg (ne_true_of_eq_false barred)
    · rfl

/-! ### Lanes (R229, R231, R238) -/

/-- The port of a training that has come to nothing. -/
def shutPort (y : LinkPort) : LinkPort := { y with state := .off, lanes := [], shut := true }

/-- The good codewords in a row of a lane, with those that have come. -/
def goodCodewords (lane codewords : Nat) (x : LinkPort) : Nat := if codewords = 0 then 0 else tabGet 0 x.codewords lane + codewords

/-- The port with a lane in a state it has reached. -/
def laneReached (lane codewords : Nat) (next : LaneState) (x : LinkPort) : LinkPort :=
  { x with
    lanes := tabPut .idle x.lanes lane next
    codewords := if laneOf x lane == .lock then tabPut 0 x.codewords lane (goodCodewords lane codewords x) else x.codewords
    identSent := if next == .identify then setBit x.identSent lane true else x.identSent }

/-- The port with a lane failed. -/
def laneFailed (lane : Nat) (x : LinkPort) : LinkPort := { x with lanes := tabIns lane .failed x.lanes }

section Settle
variable {y : LinkPort} (hy : y.state = .training)
include hy

theorem training_ne_off : y.state ≠ .off := by simp [hy]

theorem settleTraining_of_enough (h : 7 ≤ hopeful y) : settleTraining k (putPort k y b) = putPort k y b := by
  have found := portOf_putPort (b := b) (k := k) (training_ne_off hy)
  exact if_pos (.inr (by rwa [found]))

/-- A port that trains from OFF with fewer than 7 lanes left goes OFF. -/
theorem settleTraining_of_few (h : hopeful y < 7) (hr : y.fromRetain = false) :
    settleTraining k (putPort k y b) = portPower k 0 (putPort k (shutPort y) (putPort k y b)) := by
  have found := portOf_putPort (b := b) (k := k) (training_ne_off hy)
  have fails : ¬ ((portOf (putPort k y b) k).state ≠ .training ∨ 7 ≤ hopeful (portOf (putPort k y b) k)) := by
    rw [found]
    simp [hy, h]
  have cold : ¬ (portOf (putPort k y b) k).fromRetain = true := by simp [found, hr]
  have settles : settleTraining k (putPort k y b) = portPower k 0 (updPort k shutPort (putPort k y b)) :=
    (if_neg fails).trans (if_neg cold)
  rw [settles, updPort_eq, found]

end Settle

section Lane
variable {lane : Nat} (ht : (portOf b k).state = .training) (hl : lane < 8)
include ht hl

/-- A lane completes a state, which may leave its port too few lanes. -/
theorem laneTraining_of_training (skewNs codewords : Nat) : laneTraining k lane skewNs codewords b =
    settleTraining k (putPort k (laneReached lane codewords
      (nextLane skewNs (goodCodewords lane codewords (portOf b k)) (laneOf (portOf b k) lane)) (portOf b k)) b) :=
  if_neg (by simp [ht, hl])

/-- So may a lane that times out. -/
theorem trainingTimeout_of_training (hi : laneOf (portOf b k) lane ≠ .idle) :
    trainingTimeout k lane b = settleTraining k (putPort k (laneFailed lane (portOf b k)) b) :=
  if_neg (by simp [ht, hl, hi])

end Lane

/-! ### IDENT (R235, R238, R239) -/

/-- The block with this die and the one named known to work. -/
def bothWorking (die : Nat) (b : Blk) : Blk :=
  { b with gal := { b.gal with working := setBit (setBit b.gal.working (dieOf b) true) die true } }

/-- What an IDENT says, as a LINK record tells it (Table SMP-4). -/
def identWord (i : IdentBody) : Nat :=
  i.packageId.toNat + i.die % 8 * 2 ^ 32 + i.port % 8 * 2 ^ 35 + i.shape % 4 * 2 ^ 38 + i.grade % 256 * 2 ^ 40

section Ident
variable {lanes : BitVec 8} {i : IdentBody} (ht : (portOf b k).state = .training) (hl : admitted (portOf b k) lanes ≠ 0)
include ht hl

theorem ident_heard : ¬ ((portOf b k).state ≠ .training ∨ admitted (portOf b k) lanes = 0) := not_or.mpr ⟨not_not.mpr ht, hl⟩

/-- A valid IDENT on enough lanes brings the port into service. -/
theorem takeIdent_of_valid (hv : identOk b k i = true) (hn : 7 ≤ (setBits (admitted (portOf b k) lanes).toNat 8).length)
    (hr : (portOf b k).retrained = false ∨ (portOf b k).fromRetain = true) : takeIdent k lanes i b =
    bothWorking i.die (portPower k 2 (putPort k (activate (admitted (portOf b k) lanes) i (portOf b k)) b)) := by
  have valid : ¬ (!identOk b k i) = true := by simp [hv]
  have kept : ¬ ((portOf b k).retrained && !(portOf b k).fromRetain) = true := by rcases hr with h | h <;> simp [h]
  exact (if_neg (ident_heard ht hl)).trans ((if_neg valid).trans ((if_neg (Nat.not_lt.mpr hn)).trans (if_neg kept)))

/-- An invalid one leaves it OFF, with a record of what came and an alert. -/
theorem takeIdent_of_invalid (hv : identOk b k i = false) : takeIdent k lanes i b =
    raiseAlert 6 (sumpPut 0x31 none 6 0 0 k (identWord i) (portPower k 0 (putPort k (shutPort (quietPort (portOf b k))) b))) := by
  exact (if_neg (ident_heard ht hl)).trans (if_pos (by simp [hv]))

end Ident

/-! ### Standby (R337) -/

/-- The port that has received STANDBY and has sent its own. -/
def standing (x : LinkPort) : LinkPort :=
  { (if x.standbySent then x else sending 8 x) with standbySent := true, standbyGot := true }

theorem standing_ne_off {x : LinkPort} (h : x.state ≠ .off) : (standing x).state ≠ .off := by
  have kept : (if x.standbySent then x else sending 8 x).state = x.state := by
    split
    · rfl
    · exact pumpPort_state _
  exact ne_of_eq_of_ne kept h

/-- STANDBY goes out once. -/
theorem standby_answered (h : (portOf b k).state ≠ .off) : updPort k (fun x => { x with standbySent := true, standbyGot := true })
    (if (portOf b k).standbySent then b else transmit k 8 b) = putPort k (standing (portOf b k)) b := by
  have sent : (sending 8 (portOf b k)).state ≠ .off := ne_of_eq_of_ne (pumpPort_state _) h
  unfold standing
  split
  · rfl
  · exact updPort_putPort (y := sending 8 (portOf b k)) sent sent

/-- A port whose policy lets it answers STANDBY. -/
theorem takeStandby_of_active (ha : (portOf b k).state = .active) (hp : bitAt b.pwr.idlePolicy 2 = true) : takeStandby k b =
    rested k (standing (portOf (acceptFlit k b) k)) (putPort k (standing (portOf (acceptFlit k b) k)) (acceptFlit k b)) := by
  have serves : ¬ (!inService b k || !bitAt b.pwr.idlePolicy 2) = true := by simp [inService, ha, hp]
  have off : (portOf (acceptFlit k b) k).state ≠ .off := by
    rw [acceptFlit_of_active ha, portOf_putPort (portAccepted_ne_off ha)]
    exact portAccepted_ne_off ha
  exact (if_neg serves).trans ((congrArg (enterStandby k) (standby_answered off)).trans (enterStandby_putPort (standing_ne_off off)))

/-- The one port in standby to a neighbour wakes alone. -/
theorem linkWake_of_one (hs : inStandby b k = true)
    (h : allPorts.filter (fun j => inStandby b j && portDim b j == portDim b k) = [k]) :
    linkWake k b = portPower k 2 (putPort k (startTraining true (portOf b k)) b) := by
  refine (if_neg (by simp [hs])).trans ?_
  rw [h]
  rfl

end Training

/-- Settles O45: the rail, each lane and the IDENT by what they leave the port, and STANDBY by what it has unacknowledged. -/
theorem trainingBringsPortsIntoService : Obligations.TrainingBringsPortsIntoService := by
  intro s k lane rx lanes i b x put power good train count reached moved failed shut l up down got answered resting
  refine ⟨fun port => ⟨fun off open_ may => onBlk_of (linkPwrGood_of_start port off open_ may),
      fun stays => onBlk_of (linkPwrGood_of_stay port stays)⟩,
    fun trains low => ?_, fun trains some_ => ⟨fun valid enough kept => ?_, fun invalid => ?_⟩,
    fun active policy => ?_, fun one rests => onBlk_of (linkWake_of_one rests one)⟩
  · have step : reached = nextLane rx.skewNs count (laneOf x lane) := by
      simp only [reached]
      cases laneOf x lane <;> rfl
    have comes : moved = laneReached lane rx.codewords (nextLane rx.skewNs count (laneOf x lane)) x := by
      rw [← step]
      rfl
    have takes : laneTraining k lane rx.skewNs rx.codewords b = settleTraining k (put moved b) := by
      rw [comes]
      exact laneTraining_of_training trains low rx.skewNs rx.codewords
    exact ⟨fun enough => onBlk_of (takes.trans (settleTraining_of_enough trains enough)),
      fun few cold => onBlk_of (takes.trans (settleTraining_of_few trains few cold)),
      fun begun enough => onBlk_of ((trainingTimeout_of_training trains low begun).trans (settleTraining_of_enough trains enough)),
      fun begun few cold => onBlk_of ((trainingTimeout_of_training trains low begun).trans (settleTraining_of_few trains few cold))⟩
  · exact onBlk_of (takeIdent_of_valid trains some_ valid enough kept)
  · exact onBlk_of (takeIdent_of_invalid trains some_ invalid)
  · have answers : takeStandby k b = rested k resting (put resting (acceptFlit k b)) := takeStandby_of_active active policy
    exact ⟨fun acknowledged => onBlk_of (answers.trans (if_pos ⟨rfl, rfl, acknowledged⟩)),
      fun open_ => onBlk_of (answers.trans (if_neg fun all => open_ all.2.2))⟩

end Sys2Proof.Machine

/-! SUPPORT. The dictionary writes that change capacity, by what they ask and by the room that the epoch leaves (R244, R246, R324,
R326, R327). -/
namespace Sys2Proof.Machine

section Capacity
variable {b : Blk}

/-! ### Room for a change (R324) -/

theorem epochRoom_iff : epochRoom b = true ↔ b.vlt.epoch.toNat < 0xFFF00000 := decide_eq_true_iff

/-- A request that passes its checks names an entry that is present. -/
theorem entryPresent_of_ok {op : DOp} {r : DictReq} (h : requestStatus b op r = .ok) : entryPresent b r.index r.sub = true := by
  by_contra absent
  have none_ : entryOf b r.index r.sub = none := by
    unfold entryOf
    split
    · rfl
    · exact if_pos (by simp [absent])
  unfold requestStatus at h
  rw [none_] at h
  contradiction

/-! ### CLOCK_FLOOR (R327) -/

/-- The block with the clock's floor at a value, and the clock itself no lower. -/
def floorSet (v : Nat) (b : Blk) : Blk :=
  { b with pwr := { b.pwr with
    clockFloor := BitVec.ofNat 16 v, clockNow := if b.pwr.clockNow.toNat < v then BitVec.ofNat 16 v else b.pwr.clockNow } }

theorem setClockFloor_of_same {v : Nat} (h : v = b.pwr.clockFloor.toNat) : setClockFloor v b = b := if_pos h

theorem setClockFloor_of_other {v : Nat} (h : v ≠ b.pwr.clockFloor.toNat) : setClockFloor v b = newEpoch 7 (floorSet v b) := if_neg h

/-- The floors that CLOCK_FLOOR takes (R327). -/
theorem floor_takes_iff {r : DictReq} (he : isEntry 0x4000 3 r.index r.sub = true) :
    (inRange b r && reqValue r % 25 == 0 && epochRoom b) = true ↔
      400 ≤ reqValue r ∧ reqValue r ≤ 1600 ∧ reqValue r % 25 = 0 ∧ b.vlt.epoch.toNat < 0xFFF00000 := by
  have bounds : inRange b r = true ↔ 400 ≤ reqValue r ∧ reqValue r ≤ 1600 := inRange_iff he rfl rfl rfl (by decide) rfl b
  rw [Bool.and_eq_true, Bool.and_eq_true, bounds, beq_iff_eq, epochRoom_iff, and_assoc, and_assoc]

/-! ### REFORM (R246) -/

/-- The block with a REFORM under way. -/
def reformAsked (ps : PeerStates) (b : Blk) : Blk := { b with gal := { b.gal with reforming := true, regrow := some ps } }

/-- The new choice of a REFORM, taken. -/
def regrownTo (ps : PeerStates) (f : Blk) : Blk :=
  takeMembers (chosenMembers f 255 (withOwn f ps)) (withOwn f ps) { f with gal := { f.gal with regrow := none } }

theorem startReform_eq (ps : PeerStates) : startReform ps b =
    whenQuiet (galleryTiles (reformAsked ps b)) (whileHalted (galleryTiles (reformAsked ps b)) (regrownTo ps)) (reformAsked ps b) := rfl

/-- REFORM takes the value 1 (Table GAL-8). -/
theorem reform_takes_iff {r : DictReq} (he : isEntry 0x5004 1 r.index r.sub = true) (hs : requestStatus b .write r = .ok) :
    (inRange b r && epochRoom b) = true ↔ reqValue r = 1 ∧ b.vlt.epoch.toNat < 0xFFF00000 := by
  obtain ⟨hi, hn⟩ := entry_named he
  have present := entryPresent_of_ok hs
  rw [hi, hn] at present
  rw [Bool.and_eq_true, epochRoom_iff, inRange_at ⟨hi, hn⟩ rfl present (by decide) rfl, Bool.and_eq_true, decide_eq_true_eq,
    decide_eq_true_eq]
  exact and_congr_left' (and_comm.trans Nat.le_antisymm_iff.symm)

/-! ### PORT_RETRAIN (R244) -/

/-- PORT_RETRAIN takes a mask of the six ports (Table GAL-8). -/
theorem retrain_takes_iff {r : DictReq} :
    (bitsWithin 6 r && epochRoom b) = true ↔ reqValue r < 64 ∧ b.vlt.epoch.toNat < 0xFFF00000 := by
  have low : bitsWithin 6 r = true ↔ reqValue r < 64 := decide_eq_true_iff
  rw [Bool.and_eq_true, low, epochRoom_iff]

/-! ### TILE_BIND and TILE_RETURN (R326) -/

/-- What TILE_BIND asks for: a logical tile that is not absent, a free spare, and room for the epoch. -/
theorem bind_takes_iff {t p : Nat} : (!tileAbsent b t && decide (p < 68) && physState b p == 1 && epochRoom b) = true ↔
    tileAbsent b t = false ∧ p < 68 ∧ physState b p = 1 ∧ b.vlt.epoch.toNat < 0xFFF00000 := by
  rw [Bool.and_eq_true, Bool.and_eq_true, Bool.and_eq_true, Bool.not_eq_true', decide_eq_true_eq, beq_iff_eq, epochRoom_iff, and_assoc,
    and_assoc]

/-- The block with a TILE_BIND ended in a state. -/
def bindEnded (state p : Nat) (b : Blk) : Blk := { mapStatus state p b with vlt := { (mapStatus state p b).vlt with binding := none } }

/-- The block with a TILE_RETIRE record of a logical tile that had none and takes a spare (Table SMP-4). -/
def tileRecorded (t p : Nat) (b : Blk) : Blk := sumpPut 0x20 none 6 0 0 (0x7F + p * 2 ^ 7 + t * 2 ^ 14) 0 b

theorem bindFailed_eq (t p : Nat) : bindFailed t p b = tileRecorded t p (newEpoch 2 (bindTile t p (zeroiseTile p b))) := by
  simp [bindFailed, retireRecord, tileRecorded, maskOf]

section Bind
variable {t p : Nat} {unreadable : List Nat} (hb : b.vlt.binding = some (t, p, unreadable)) (hp : physState b p = 1)
include hb hp

/-- A logical tile that read failed is bound at once. -/
theorem applyBind_of_failed (ho : physOf b t = none) :
    applyBind b = bindEnded 2 p (tileRecorded t p (newEpoch 2 (bindTile t p (zeroiseTile p b)))) := by
  have free : ¬ physState b p ≠ 1 := not_not.mpr hp
  simp only [applyBind, hb, if_neg free, ho, bindFailed_eq]
  rfl

/-- A bound one moves once it is quiet. -/
theorem applyBind_of_bound {o : Nat} (ho : physOf b t = some o) :
    applyBind b = whenQuiet [t] (fun e => bindEnded 2 p (bindMoved t o p unreadable e)) b := by
  have free : ¬ physState b p ≠ 1 := not_not.mpr hp
  simp only [applyBind, hb, if_neg free, ho]
  rfl

end Bind

/-- TILE_RETURN takes a failed tile. -/
theorem return_takes_iff {p : Nat} : (decide (p < 68) && physState b p == 2) = true ↔ p < 68 ∧ physState b p = 2 := by
  rw [Bool.and_eq_true, decide_eq_true_eq, beq_iff_eq]

end Capacity

/-- Settles O57: each write by what it asks and by the room of the epoch, and one that waits for tiles by whether they are quiet. -/
theorem capacityWritesChangeTheEpoch : Obligations.CapacityWritesChangeTheEpoch := by
  intro s r ps unreadable good b v t p ok bad room at_ status phys floor asked tiles settled rest regrown begun ended stilled zero
    bound returned came passes
  refine ⟨fun named => ?_, fun named => ?_, fun named => ?_, fun named => ?_, fun named => ?_⟩
  · have takes := floor_takes_iff (b := b) named
    refine ⟨fun fits low high step differs => ?_, fun fits low high step same => ?_, fun unfit => ?_⟩
    · exact onBlk_of ((serveWrite_ok named came passes (takes.mpr ⟨low, high, step, fits⟩)).trans (setClockFloor_of_other differs))
    · exact onBlk_of ((serveWrite_ok named came passes (takes.mpr ⟨low, high, step, fits⟩)).trans (setClockFloor_of_same same))
    · refine onBlk_of (serveWrite_bad named came passes (eq_false_of_ne_true (mt takes.mp ?_)))
      rintro ⟨low, high, step, fits⟩
      rcases unfit with full | odd | below | above
      · exact full fits
      · exact odd step
      · exact Nat.not_lt.mpr low below
      · exact Nat.not_lt.mpr high above
  · have takes := reform_takes_iff named passes
    have begins : ∀ {e}, v = 1 → room → startReform ps ok = e → exec (.reform r ps) s = .next { s with blk := e } :=
      fun one fits started => onBlk_of ((serveWrite_ok named came passes (takes.mpr ⟨one, fits⟩)).trans started)
    refine ⟨fun one fits quiet => begins one fits ((startReform_eq ps).trans (whenQuiet_of_quiet quiet)),
      fun one fits busy => begins one fits ((startReform_eq ps).trans (whenQuiet_of_busy busy)), fun unfit => ?_⟩
    exact onBlk_of (serveWrite_bad named came passes (eq_false_of_ne_true (mt takes.mp fun both =>
      unfit.elim (· both.2) (· both.1))))
  · refine ⟨fun fits low => onBlk_of (serveWrite_ok named came passes (retrain_takes_iff.mpr ⟨low, fits⟩)), fun unfit => ?_⟩
    exact onBlk_of (serveWrite_bad named came passes (eq_false_of_ne_true (mt retrain_takes_iff.mp fun both =>
      unfit.elim (· both.2) (Nat.not_le.mpr both.1))))
  · refine ⟨fun fits present low free => ?_, fun unfit => ?_⟩
    · have begins : ∀ {e}, applyBind begun = e → exec (.tileBind r unreadable) s = .next { s with blk := e } := fun applied =>
        onBlk_of ((serveWrite_ok named came passes (bind_takes_iff.mpr ⟨present, low, free, fits⟩)).trans applied)
      have freed : ∀ l e, rest l e = quietEnded l e := fun _ _ => rfl
      have ends : ∀ e, ended e = bindEnded 2 p e := fun _ => rfl
      have asks : begun.vlt.binding = some (t, p, unreadable) := rfl
      have spare : physState begun p = 1 := free
      have same : physOf begun t = physOf b t := rfl
      refine ⟨fun failed => begins (applyBind_of_failed asks spare (same.trans failed)), fun o bound quiet => begins ?_,
        fun o bound busy => begins ?_⟩
      · rw [freed, ends]
        exact (applyBind_of_bound asks spare (same.trans bound)).trans (whenQuiet_of_quiet quiet)
      · exact (applyBind_of_bound asks spare (same.trans bound)).trans (whenQuiet_of_busy busy)
    · refine onBlk_of (serveWrite_bad named came passes (eq_false_of_ne_true (mt bind_takes_iff.mp ?_)))
      rintro ⟨present, low, free, fits⟩
      rcases unfit with full | absent | high | taken
      · exact full fits
      · exact ne_true_of_eq_false present absent
      · omega
      · exact taken free
  · refine ⟨fun low failed => onBlk_of (serveWrite_ok named came passes (return_takes_iff.mpr ⟨low, failed⟩)), fun unfit => ?_⟩
    exact onBlk_of (serveWrite_bad named came passes (eq_false_of_ne_true (mt return_takes_iff.mp fun both =>
      unfit.elim (Nat.not_le.mpr both.1) (· both.2))))

end Sys2Proof.Machine

/-! SUPPORT. A tile that is retired: by what takes its place, when it acts and when it waits, what its record says, and what moving
a logical tile leaves of the epoch and the binding (R262 to R264, R266, Table SMP-4). -/
namespace Sys2Proof.Machine

/-! ### What a move changes of the Vault (R263, R265) -/

section Move
variable (b : Blk)

@[simp] theorem broadcast_vlt (op root x : Nat) : (broadcast op root x b).vlt = b.vlt := by rw [broadcast_eq]

@[simp] theorem tellVaults_vlt : (tellVaults b).vlt = b.vlt := by
  unfold tellVaults
  split
  · rfl
  · exact broadcast_vlt ..

/-- A new epoch is one more than the last, and of the Vault's state only it and its cause change. -/
theorem newEpoch_vlt (cause : Nat) :
    (newEpoch cause b).vlt = { b.vlt with epoch := b.vlt.epoch + 1, epochCause := BitVec.ofNat 32 cause } :=
  tellVaults_vlt _

@[simp] theorem zeroiseTile_vlt (p : Nat) : (zeroiseTile p b).vlt = b.vlt := rfl

@[simp] theorem copyFrames_vlt (p s : Nat) (unreadable : List Nat) : (copyFrames p s unreadable b).vlt = b.vlt :=
  foldl_keeps (P := fun e : Blk => e.vlt = b.vlt) _ rfl fun e x same => by
    dsimp only
    split
    · exact same
    · split <;> exact same

@[simp] theorem addNotice_epoch (p t : Nat) : (addNotice p t b).vlt.epoch = b.vlt.epoch := by
  unfold addNotice
  split <;> rfl

/-- The block with a notice of a tile left to its tenants, when a frame of it was lost. -/
def lossNoted (t : Nat) (lost : List Nat) (b : Blk) : Blk :=
  if lost = [] then b else (tileTenants b t).foldl (fun b q => addNotice q t b) b

@[simp] theorem lossNoted_epoch (t : Nat) (lost : List Nat) : (lossNoted t lost b).vlt.epoch = b.vlt.epoch := by
  unfold lossNoted
  split
  · rfl
  · exact foldl_keeps (P := fun e : Blk => e.vlt.epoch = b.vlt.epoch) _ rfl fun e q same => (addNotice_epoch e q t).trans same

theorem moveTile_eq (t p s cause : Nat) (unreadable : List Nat) : moveTile t p s cause unreadable b =
    newEpoch cause (bindTile t s (lossNoted t (lostFrames b p unreadable) (copyFrames p s unreadable (zeroiseTile s b)))) := rfl

/-- A move is one change of the epoch. -/
theorem moveTile_epoch (t p s cause : Nat) (unreadable : List Nat) :
    (moveTile t p s cause unreadable b).vlt.epoch = b.vlt.epoch + 1 := by
  have noted : (lossNoted t (lostFrames b p unreadable) (copyFrames p s unreadable (zeroiseTile s b))).vlt.epoch = b.vlt.epoch := by
    simp
  rw [moveTile_eq, newEpoch_vlt, ← noted]
  rfl

theorem physOf_bindTile (t s : Nat) : physOf (bindTile t s b) t = some s := tabFind_tabIns_same ..

theorem physOf_newEpoch (cause t : Nat) : physOf (newEpoch cause b) t = physOf b t := by
  unfold physOf
  rw [newEpoch_vlt]

/-- A move leaves the logical tile bound to its new place. -/
theorem physOf_moveTile (t p s cause : Nat) (unreadable : List Nat) : physOf (moveTile t p s cause unreadable b) t = some s := by
  rw [moveTile_eq, physOf_newEpoch, physOf_bindTile]

end Move

/-! ### The record (Table SMP-4) -/

/-- The lost frames as a TILE_RETIRE record names them. -/
def framesMask (lost : List Nat) : Nat :=
  maskOf (lost.filter (fun y => decide (y < 16))) + (if lost.contains 24 then 2 ^ 16 else 0)

section Record
variable (p t : Nat) (lost : List Nat) (b : Blk)

theorem retireRecord_moved (s : Nat) : retireRecord p t (some s) lost false b =
    sumpPut 0x20 none 6 0 0 (p + s * 2 ^ 7 + t * 2 ^ 14) (framesMask lost) b := rfl

theorem retireRecord_gone (tenants : List Nat) : retireRecord p t none lost (tenants != []) b =
    sumpPut 0x20 none 6 0 0 (p + 0x7F * 2 ^ 7 + t * 2 ^ 14) (framesMask lost + (if tenants = [] then 0 else 2 ^ 17)) b := by
  cases tenants <;> rfl

end Record

/-! ### Retiring a tile (R262 to R264) -/

/-- The block with a retirement begun. -/
def retireAsked (p : Nat) (unreadable : List Nat) (b : Blk) : Blk :=
  { b with vlt := { b.vlt with retiring := tabIns p unreadable b.vlt.retiring } }

section Retire
variable {b : Blk} {p t x d : Nat} {unreadable : List Nat}

/-- A tile whose faults do not call for it is not retired. -/
theorem tileRetire_of_not_due (hd : b.vlt.due.contains p = false) : tileRetire p unreadable b = b :=
  if_pos (Or.inr (Or.inr (Or.inl (by rw [hd]; rfl))))

theorem tileRetire_of_due (ha : b.vlt.alive = true) (hr : b.pwr.inReset = false) (hd : b.vlt.due.contains p = true)
    (hl : logicalOf b p = some t) : tileRetire p unreadable b = retireTile p unreadable (retireAsked p unreadable b) :=
  if_neg (by simp only [ha, hr, hd, hl, Bool.not_true, Bool.false_eq_true, Option.isNone_some, or_self, not_false_eq_true])

/-- A tile that a spare or a donor's tile replaces: the move between the halts, its record and alert, and the old tile failed. -/
theorem replaceTile_eq (t p s alert : Nat) (unreadable : List Nat) (b : Blk) : replaceTile t p s alert unreadable b =
    failTile p (whileHalted [t] (fun e => raiseAlert alert (sumpPut 0x20 none 6 0 0 (p + s * 2 ^ 7 + t * 2 ^ 14)
      (framesMask (lostFrames b p unreadable)) (moveTile t p s 1 unreadable e))) b) := by
  simp only [replaceTile, retireRecord_moved]

/-- The logical tile left without a place: saved, ended on, out of its tenants' records and unbound. -/
theorem loseTile_eq (t p : Nat) (unreadable : List Nat) (b : Blk) : loseTile t p unreadable b =
    failTile p (raiseAlert 3 (sumpPut 0x20 none 6 0 0 (p + 0x7F * 2 ^ 7 + t * 2 ^ 14)
      (framesMask (lostFrames b p unreadable) + (if tileTenants b t = [] then 0 else 2 ^ 17))
      (newEpoch 1 (unbindTile t (leavePorts (List.range 5) t (vacateTile t (lostFrames b p unreadable) b)))))) := by
  rw [← retireRecord_gone]
  rfl

section Place
variable (hl : logicalOf b p = some t)
include hl

theorem retireTile_of_spare (hx : replacement b t = some (x, none)) :
    retireTile p unreadable b = whenQuiet [t] (replaceTile t p x 2 unreadable) b := by
  simp only [retireTile, hl, hx]

theorem retireTile_of_donor (hx : replacement b t = some (x, some d)) :
    retireTile p unreadable b = whenQuiet [t, d] (fun e => replaceTile t p x 3 unreadable (unbindTile d e)) b := by
  simp only [retireTile, hl, hx]

theorem retireTile_of_none (hx : replacement b t = none) : retireTile p unreadable b = whenQuiet [t] (loseTile t p unreadable) b := by
  simp only [retireTile, hl, hx]

end Place

/-- SPARE_SCRUB of a running Vault: quad 16 awake, and each free spare that fails retired in its place. -/
theorem spareScrub_of_running (ha : b.vlt.alive = true) (hr : b.pwr.inReset = false) (bad : List Nat) : spareScrub bad b =
    ((freeSpares b).filter bad.contains).foldl (fun e y => raiseAlert 4 (sumpPut 0x21 none 6 0 0 y 0 (setPhysState y 2 e)))
      { b with pwr := { b.pwr with quads := tabPut 2 b.pwr.quads 16 2 } } :=
  if_neg (by rw [ha, hr]; decide)

end Retire

/-- Settles O48: a due tile by what takes its place and by whether what it touches is quiet; every move by the lemmas on its epoch and
its binding. -/
theorem tilesAreRetiredAndSparesScrubbed : Obligations.TilesAreRetiredAndSparesScrubbed := by
  intro s p t x d unreadable bad b woken failed retired noted bound moved frames replaced asked settled both rest q q2 freed saved
    ended left unbound gone alive running
  have moves : ∀ e, moved e = moveTile t p x 1 unreadable e := fun e => (moveTile_eq ..).symm
  refine ⟨onBlk_of (spareScrub_of_running alive running bad), fun due holds => ?_,
    fun idle => onBlk_of (tileRetire_of_not_due idle), fun e => ?_⟩
  · have begins : ∀ {e}, retireTile p unreadable asked = e → exec (.tileRetire p unreadable) s = .next { s with blk := e } :=
      fun acts => onBlk_of ((tileRetire_of_due alive running due holds).trans acts)
    have here : logicalOf asked p = some t := holds
    have retires : ∀ e, retired e = failTile p e := fun _ => rfl
    have replaces : ∀ alert e, replaceTile t p x alert unreadable e = replaced alert e := fun alert e => by
      simp only [replaced, retires, moves]
      exact replaceTile_eq ..
    have loses : loseTile t p unreadable q = retired (raiseAlert 3 gone) := by
      rw [retires]
      exact loseTile_eq ..
    refine ⟨fun spare quiet => begins ?_, fun donor quiet => begins ?_, fun nowhere quiet => begins ?_,
      fun place busy => begins ?_, fun donor busy => begins ?_⟩
    · exact ((retireTile_of_spare here spare).trans (whenQuiet_of_quiet quiet)).trans (replaces 2 q)
    · exact ((retireTile_of_donor here donor).trans (whenQuiet_of_quiet quiet)).trans (replaces 3 freed)
    · exact ((retireTile_of_none here nowhere).trans (whenQuiet_of_quiet quiet)).trans loses
    · rcases place with nowhere | spare
      · exact (retireTile_of_none here nowhere).trans (whenQuiet_of_busy busy)
      · exact (retireTile_of_spare here spare).trans (whenQuiet_of_busy busy)
    · exact (retireTile_of_donor here donor).trans (whenQuiet_of_busy busy)
  · rw [moves]
    exact ⟨moveTile_epoch .., physOf_moveTile ..⟩

end Sys2Proof.Machine

/-! SUPPORT. Every command answers a next state that leaves the waiting commands as they are (R268). -/
namespace Sys2Proof.Machine

/-- Settles O3: every command runs to a next state with the same commands waiting (`exec_ran`). -/
theorem everyCommandAnswersANextState : Obligations.EveryCommandAnswersANextState := by
  intro c s
  obtain ⟨b, answered, -⟩ := exec_ran c s
  exact ⟨b, answered⟩

end Sys2Proof.Machine

/-! SUPPORT. The presence window, STUCK, the TAP's instructions, and the Sump's interval (R281, R301, R302, R305, R344). -/
namespace Sys2Proof.Machine

section Presence
variable {b : Blk} {t : Nat}

/-! ### Power for a block in reset (R344) -/

theorem raiseWake_of_running (h : b.pwr.inReset = false) : raiseWake b = b := if_neg (ne_true_of_eq_false h)

theorem raiseWake_of_inReset (h : b.pwr.inReset = true) : raiseWake b = { b with pwr := { b.pwr with wake := true } } := if_pos h

/-! ### The window (R301) -/

/-- The block with a window opened in the present tick. -/
def windowOpened (b : Blk) : Blk :=
  { b with pres := { b.pres with opened := some b.clk.tick, length := b.pres.window.toNat, low := true } }

/-- When PRESENCE_N is not heard, as the window and STUCK test it: without the standby rail, or while it is stuck. -/
theorem presence_barred_iff : (!b.pwr.standby) = true ∨ b.pres.stuck = true ↔ b.pwr.standby = false ∨ b.pres.stuck = true := by
  rw [Bool.not_eq_true']

theorem presence_heard (hs : b.pwr.standby = true) (hf : b.pres.stuck = false) : ¬ ((!b.pwr.standby) = true ∨ b.pres.stuck = true) := by
  simp [hs, hf]

theorem openWindow_of_heard (hs : b.pwr.standby = true) (hf : b.pres.stuck = false) :
    openWindow b = raiseWake (windowOpened (pass holdTicks b)) :=
  if_neg (presence_heard hs hf)

theorem openWindow_of_barred (h : b.pwr.standby = false ∨ b.pres.stuck = true) : openWindow b = b :=
  if_pos (presence_barred_iff.mpr h)

theorem expireWindow_of_open (h : b.pres.opened = some t) : expireWindow b =
    (let e := passTo (t + b.pres.length * tickRate + 1) b
     { e with pres := { e.pres with opened := none } }) := by
  simp only [expireWindow, windowEnd, h, Option.map_some]

theorem expireWindow_of_closed (h : b.pres.opened = none) : expireWindow b = b := by
  simp only [expireWindow, windowEnd, h, Option.map_none]

/-- CLOSE takes the value 1 (Table VLT-6, R320). -/
theorem inRange_close {r : DictReq} (he : isEntry 0x7003 3 r.index r.sub = true) (hv : reqValue r = 1) (b : Blk) : inRange b r = true :=
  (inRange_iff he rfl rfl rfl (by decide) rfl b).mpr ⟨hv.ge, hv.le⟩

/-! ### STUCK (R302) -/

/-- The block with PRESENCE_N stuck low and no window. -/
def stuckLow (b : Blk) : Blk := { b with pres := { b.pres with opened := none, stuck := true, low := true } }

/-- PRESENCE_N was low for 50 ms when its window opened, so 30 s of it end that much before 30 s of window. -/
theorem becomeStuck_of_open (hs : b.pwr.standby = true) (hf : b.pres.stuck = false) (ho : b.pres.opened = some t) :
    becomeStuck b = stuckLow (passTo (t + 30 * tickRate - holdTicks) b) := by
  unfold becomeStuck
  rw [if_neg (presence_heard hs hf), ho]
  rfl

theorem becomeStuck_of_closed (hs : b.pwr.standby = true) (hf : b.pres.stuck = false) (ho : b.pres.opened = none) :
    becomeStuck b = stuckLow b := by
  unfold becomeStuck
  rw [if_neg (presence_heard hs hf), ho]
  rfl

theorem becomeStuck_of_barred (h : b.pwr.standby = false ∨ b.pres.stuck = true) : becomeStuck b = b :=
  if_pos (presence_barred_iff.mpr h)

theorem clearStuck_of_stuck (h : b.pres.stuck = true) : clearStuck b =
    (let e := pass holdTicks b
     { e with pres := { e.pres with stuck := false, low := false } }) :=
  if_pos h

theorem clearStuck_of_free (h : b.pres.stuck = false) : clearStuck b = b := if_neg (ne_true_of_eq_false h)

end Presence

section Standby
variable {b : Blk} (hs : b.pwr.standby = true)
include hs

/-! ### The TAP (R305) -/

/-- An open TAP takes every instruction, a sealed one the four boundary-scan ones. -/
theorem tapInstruction_of_taken {i : Nat} (h : b.fab.lat.sealed = false ∨ i < 4) :
    tapInstruction i b = { b with vlt := { b.vlt with tap := i } } := by
  have taken : (b.fab.lat.sealed && decide (4 ≤ i)) = false := by simpa [imp_iff_not_or] using h
  simp [tapInstruction, hs, taken]

/-- A sealed TAP takes any other as BYPASS. -/
theorem tapInstruction_of_bypassed {i : Nat} (hl : b.fab.lat.sealed = true) (hi : 4 ≤ i) :
    tapInstruction i b = { b with vlt := { b.vlt with tap := 1 } } := by
  simp [tapInstruction, hs, hl, hi]

/-! ### The Sump's interval (R281) -/

theorem sumpInterval_of_standby : sumpInterval b = passTo ((b.clk.tick / 25000 + 1) * 25000) b := if_pos hs

/-- What the Sump holds after a time in which the block does nothing else. -/
theorem pass_sump_of_still (still : b.pwr.inReset = true ∨ atRest b = true) (n : Nat) : (pass n b).sump = (elapse n b).sump := by
  cases hr : b.pwr.inReset with
  | true => simp [pass, hs, hr]
  | false =>
    have rests : atRest b = true := still.resolve_left (ne_true_of_eq_false hr)
    cases n with
    | zero => simp [pass, hs, hr, passTicks, elapse]
    | succ n => simp [pass, hs, hr, passTicks, rests, fillBuckets]

end Standby

/-- A time that ends in a later interval of 25,000 ticks leaves no port a count. -/
theorem elapse_counts_of_crossing {b : Blk} {n : Nat} (h : (b.clk.tick + n) / 25000 ≠ b.clk.tick / 25000) :
    (elapse n b).sump.counts = [] := by
  unfold elapse
  rw [if_neg h]

/-- Settles O53: the window, STUCK, the TAP and the Sump's interval, each by the conditions of its rule; CLOSE by the checks of a
write. -/
theorem presenceOpensAndEndsTheWindow : Obligations.PresenceOpensAndEndsTheWindow := by
  intro s i t r b held opened waked ended late shut ok bound
  refine ⟨fun rail free => ⟨fun up => ?_, fun down => ?_, fun begun => ?_, fun none_ => ?_⟩, fun barred => ⟨?_, ?_⟩,
    fun begun => ?_, fun none_ => ?_, fun low => ?_, fun free => ?_, fun named came passes one => ?_,
    fun rail => ⟨?_, fun still => ?_, fun taken => ?_, fun latched high => ?_⟩⟩
  · exact onBlk_of ((openWindow_of_heard rail free).trans (raiseWake_of_running up))
  · exact onBlk_of ((openWindow_of_heard rail free).trans (raiseWake_of_inReset down))
  · exact onBlk_of (becomeStuck_of_open rail free begun)
  · exact onBlk_of (becomeStuck_of_closed rail free none_)
  · exact onBlk_of (openWindow_of_barred barred)
  · exact onBlk_of (becomeStuck_of_barred barred)
  · exact onBlk_of (expireWindow_of_open begun)
  · exact onBlk_of (expireWindow_of_closed none_)
  · exact onBlk_of (clearStuck_of_stuck low)
  · exact onBlk_of (clearStuck_of_free free)
  · exact onBlk_of (serveWrite_ok named came passes (inRange_close named one b))
  · exact onBlk_of (sumpInterval_of_standby rail)
  · have crosses : (b.clk.tick + ((b.clk.tick / 25000 + 1) * 25000 - b.clk.tick)) / 25000 ≠ b.clk.tick / 25000 := by omega
    exact (congrArg Sump.counts (pass_sump_of_still rail still _)).trans (elapse_counts_of_crossing crosses)
  · exact onBlk_of (tapInstruction_of_taken rail taken)
  · exact onBlk_of (tapInstruction_of_bypassed rail latched high)

end Sys2Proof.Machine

/-! SUPPORT. The bits that a write of ALERT_CAUSE leaves, and a Sump record written or dropped (R278, R281, R284). -/
namespace Sys2Proof.Machine

/-! ### ALERT_CAUSE (R278) -/

/-- A cause that the write leaves is one raised in its cycle, or one set before that the write does not name. -/
theorem bitAt_causesLeft (old raised : BitVec 32) (v : Nat) {i : Nat} (hi : i < 11) :
    bitAt ((old &&& ~~~ BitVec.ofNat 32 v) ||| (raised &&& 0x7FF)) i = (bitAt old i && !natBit v i || bitAt raised i) := by
  have inside : i < 32 := by omega
  have cause : (0x7FF : BitVec 32).getLsbD i = true := by
    rw [show (0x7FF : BitVec 32) = BitVec.ofNat 32 (2 ^ 11 - 1) from rfl, BitVec.getLsbD_ofNat, Nat.testBit_two_pow_sub_one]
    simp [hi, inside]
  simp only [bitAt, BitVec.getLsbD_or, BitVec.getLsbD_and, BitVec.getLsbD_not, BitVec.getLsbD_ofNat, cause, inside, natBit_eq_testBit,
    decide_true, Bool.true_and, Bool.and_true]

/-! ### Sump records (R281, R284) -/

section Record
variable {b : Blk} {event p : Nat}

/-- A record of a tenant port beyond the port's limit in one interval. -/
def sumpDropped (b : Blk) (event p : Nat) : Prop := p < 5 ∧ sumpAlert event = false ∧ 64 ≤ tabGet 0 b.sump.counts p

theorem sumpDropped_iff :
    (decide (p < 5) && !sumpAlert event && decide (64 ≤ tabGet 0 b.sump.counts p)) = true ↔ sumpDropped b event p := by
  rw [Bool.and_eq_true, Bool.and_eq_true, decide_eq_true_eq, Bool.not_eq_true', decide_eq_true_eq, and_assoc]
  rfl

variable (code : Option Code) (q tag w detail : Nat)

/-- A record that is not dropped counts as written and pulses its interrupts. -/
theorem sumpPut_of_written (h : ¬ sumpDropped b event p) :
    (sumpPut event code p q tag w detail b).sump.written = b.sump.written + 1
    ∧ (sumpPut event code p q tag w detail b).out.fwInt = b.out.fwInt + 1
    ∧ (sumpPut event code p q tag w detail b).out.mgmtInt = b.out.mgmtInt + if sumpInfo event = true then 0 else 1 := by
  unfold sumpPut
  dsimp only
  rw [if_neg (mt sumpDropped_iff.mp h)]
  refine ⟨rfl, rfl, ?_⟩
  dsimp only
  cases sumpInfo event <;> rfl

/-- A dropped record does not count as written and pulses nothing. -/
theorem sumpPut_of_dropped (h : sumpDropped b event p) :
    (sumpPut event code p q tag w detail b).sump.written = b.sump.written ∧ (sumpPut event code p q tag w detail b).out = b.out := by
  unfold sumpPut
  dsimp only
  rw [if_pos (sumpDropped_iff.mpr h)]
  exact ⟨rfl, rfl⟩

end Record

/-- Settles O56: a write of ALERT_CAUSE by its value, its causes bit by bit (`bitAt_causesLeft`), and a Sump record by the limit of
its port. -/
theorem alertCausesAndInterruptsAreNotLost : Obligations.AlertCausesAndInterruptsAreNotLost := by
  intro s r raised event p q tag where_ detail code b ok left put written
  refine ⟨fun named came passes => ⟨fun fits => ⟨?_, fun i below => ?_⟩, fun wide => ?_⟩,
    sumpPut_of_written code q tag where_ detail,
    fun dropped => sumpPut_of_dropped code q tag where_ detail (not_not.mp dropped)⟩
  · exact onBlk_of (serveWrite_ok named came passes (decide_eq_true fits))
  · have leaves : bitAt left i = (bitAt b.sump.alertCause i && !natBit (reqValue r) i || bitAt raised i) := bitAt_causesLeft _ _ _ below
    rw [leaves]
    refine ⟨fun new => ?_, fun quiet named => ?_, fun unnamed set => ?_⟩
    · rw [new, Bool.or_true]
    · rw [quiet, named, Bool.not_true, Bool.and_false, Bool.or_false]
    · rw [unnamed, set, Bool.not_false, Bool.and_true, Bool.true_or]
  · exact onBlk_of (serveWrite_bad named came passes (decide_eq_false (Nat.not_lt.mpr wide)))

end Sys2Proof.Machine

/-! SUPPORT. One step of the block: the command at the front of the queue, or a tick, and what no step takes back (R305 to R307, R330,
R331). -/
namespace Sys2Proof.Machine

/-- Settles O1: a queue with a command at its front is the second case of `step`. -/
theorem stepTakesFrontCommand : Obligations.StepTakesFrontCommand := fun _ _ _ => rfl

/-! ### The passing of time (R330, R331) -/

section Tick
variable {b : Blk}

/-- On an empty queue a step is a tick. -/
theorem step_of_empty {e : Blk} (h : idleTick b = e) : step { pending := [], blk := b } = .next { pending := [], blk := e } :=
  onBlk_of h

theorem pass_of_unpowered (hs : b.pwr.standby = false) (n : Nat) : pass n b = b := if_pos (by simp [hs])

section Standby
variable (hs : b.pwr.standby = true)
include hs

theorem pass_of_inReset (hr : b.pwr.inReset = true) (n : Nat) : pass n b = elapse n b := by
  simp [pass, hs, hr]

theorem pass_of_running (hr : b.pwr.inReset = false) (n : Nat) : pass n b = passTicks n b := by
  simp [pass, hs, hr]

end Standby

/-- A tick of a block at rest moves the clocks and fills the buckets. -/
theorem passTicks_one_of_rest (h : atRest b = true) : passTicks 1 b = fillBuckets 80 (elapse 1 b) := if_pos h

/-- A tick of any other block is a whole one. -/
theorem passTicks_one_of_work (h : atRest b = false) : passTicks 1 b = tickOnce b := if_neg (ne_true_of_eq_false h)

end Tick

/-- Settles O2, by what runs: nothing without the standby rail, the clocks in block reset, and else the block by whether it is at
rest. -/
theorem emptyQueueLetsOneTickPass : Obligations.EmptyQueueLetsOneTickPass := by
  intro b e
  refine ⟨fun dark => ?_, fun rail down => ?_, fun rail up rests => ?_, fun rail up works => ?_⟩
  · exact step_of_empty (pass_of_unpowered dark 1)
  · exact step_of_empty (pass_of_inReset rail down 1)
  · exact step_of_empty ((pass_of_running rail up 1).trans (passTicks_one_of_rest rests))
  · exact step_of_empty ((pass_of_running rail up 1).trans (passTicks_one_of_work works))

/-! ### What no step takes back -/

/-- Settles O5: the fuses and the straps are among what every command and every tick keeps (`step_keeps`). -/
theorem noFuseIsEverUnblown : Obligations.NoFuseIsEverUnblown := by
  intro s t stepped
  have kept := step_keeps stepped
  exact ⟨kept.fuses, kept.straps⟩

/-- Settles O6: so is a seal that is latched and that the fuses hold. -/
theorem theTrapdoorSealStaysLatched : Obligations.TheTrapdoorSealStaysLatched := by
  intro s t holds stepped
  have kept := step_keeps stepped
  exact ⟨kept.held holds, kept.latched holds⟩

end Sys2Proof.Machine

/-! SUPPORT. The block right after a cold reset has reached ready (R343, R344, R361). -/
namespace Sys2Proof.Machine

/-- Settles O8: a reset block stores no byte, holds no command and latches no seal. -/
theorem resetMeetsTheInvariants : Obligations.ResetMeetsTheInvariants := by
  refine ⟨rfl, fun c flying => absurd flying (List.not_mem_nil), fun latched => ?_, rfl⟩
  exact absurd latched Bool.false_ne_true

/-- Settles O9, register by register. -/
theorem resetLeavesWhatTheSpecGives : Obligations.ResetLeavesWhatTheSpecGives := by
  have bound : ∀ t, t < 64 → physOf State.reset.blk t = some t := by decide
  have free : ∀ t, 64 ≤ t → t < 68 → physState State.reset.blk t = 1 := by
    intro t low high
    interval_cases t <;> rfl
  exact ⟨rfl, fun _ _ => rfl, bound, free, rfl, rfl, rfl, rfl, rfl, rfl, rfl, rfl, fun _ => rfl⟩

end Sys2Proof.Machine

/-! SUPPORT. Throttling: one comparison of POWER_NOW with POWER_CAP by where the reading lies, and a write of the cap (R332, R333). -/
namespace Sys2Proof.Machine

/-! ### One comparison (R333) -/

section Step
variable {n : Nat} {x : Pwr}

/-- A reading of at most 95 percent of the cap, as the comparison tests it. -/
theorem not_over_of_under {cap : Nat} (h : 100 * n ≤ 95 * cap) : ¬ cap < n ∧ 20 * n ≤ 19 * cap := by omega

theorem capStep_of_uncapped (hc : x.cap.toNat = 0) : capStep n x = x := if_pos hc

section Capped
variable (hc : x.cap.toNat ≠ 0)
include hc

/-- Above the cap the clock falls while it is above its floor. -/
theorem capStep_of_over_fast (above : x.cap.toNat < n) (fast : x.clockFloor.toNat < x.clockNow.toNat) :
    capStep n x = { x with clockNow := x.clockNow - 25 } := by
  simp only [capStep, if_neg hc, if_pos above, if_pos fast]

/-- At the floor the hold rises. -/
theorem capStep_of_over_floor (above : x.cap.toNat < n) (slow : x.clockNow.toNat ≤ x.clockFloor.toNat) :
    capStep n x = { x with hold := min 90 (x.hold + 10) } := by
  simp only [capStep, if_neg hc, if_pos above, if_neg (Nat.not_lt.mpr slow)]

section Under
variable (under : 100 * n ≤ 95 * x.cap.toNat)
include under

/-- Under the cap the hold falls first. -/
theorem capStep_of_under_held (held : x.hold ≠ 0) : capStep n x = { x with hold := x.hold - 10 } := by
  obtain ⟨notOver, low⟩ := not_over_of_under under
  simp only [capStep, if_neg hc, if_neg notOver, if_pos low, if_pos held]

/-- With no hold the clock rises. -/
theorem capStep_of_under_slow (free : x.hold = 0) (slow : x.clockNow.toNat < 1600) :
    capStep n x = { x with clockNow := x.clockNow + 25 } := by
  obtain ⟨notOver, low⟩ := not_over_of_under under
  simp only [capStep, if_neg hc, if_neg notOver, if_pos low, if_neg (not_not.mpr free), if_pos slow]

/-- A clock at its top stays there. -/
theorem capStep_of_under_top (free : x.hold = 0) (top : 1600 ≤ x.clockNow.toNat) : capStep n x = x := by
  obtain ⟨notOver, low⟩ := not_over_of_under under
  simp only [capStep, if_neg hc, if_neg notOver, if_pos low, if_neg (not_not.mpr free), if_neg (Nat.not_lt.mpr top)]

end Under
end Capped

/-- Between 95 percent of the cap and the cap nothing moves. -/
theorem capStep_of_between (above : 95 * x.cap.toNat < 100 * n) (within : n ≤ x.cap.toNat) : capStep n x = x := by
  have capped : x.cap.toNat ≠ 0 := by omega
  have high : ¬ 20 * n ≤ 19 * x.cap.toNat := by omega
  simp only [capStep, if_neg capped, if_neg (Nat.not_lt.mpr within), if_neg high]

end Step

/-! ### POWER_CAP_CHECK and POWER_CAP -/

section Exec
variable {s : State} {b : Blk}

/-- The block at its next comparison. -/
def atComparison (b : Blk) : Blk := passTo ((b.clk.tick / capInterval + 1) * capInterval) b

/-- POWER_CAP_CHECK takes its reading at the next comparison and makes one step of it. -/
theorem exec_powerCapCheck_of {now : BitVec 16} {y : Pwr} (hs : s.blk.pwr.standby = true)
    (h : capStep now.toNat { (atComparison s.blk).pwr with powerNow := now } = y) :
    exec (.powerCapCheck now) s = .next { s with blk := { atComparison s.blk with pwr := y } } := by
  subst h
  exact onBlk_of (if_neg (by simp [hs]))

theorem powerCapCheck_of_unpowered (hs : b.pwr.standby = false) (now : BitVec 16) : powerCapCheck now b = b := if_pos (by simp [hs])

/-- The values that POWER_CAP takes (R333). -/
theorem cap_takes_iff {v : Nat} : (v == 0 || (decide (200 ≤ v) && decide (v ≤ 1800))) = true ↔ v = 0 ∨ 200 ≤ v ∧ v ≤ 1800 := by
  simp

section Write
variable {r : DictReq} (he : isEntry 0x4000 1 r.index r.sub = true) (ha : arrived b .write r = true)
  (hs : requestStatus b .write r = .ok)
include he ha hs

/-- A cap of zero ends the throttling at once. -/
theorem writePowerCap_of_zero (hv : reqValue r = 0) :
    (let ok := respond .write r .ok [] b
     writePowerCap r b = { ok with pwr := { ok.pwr with cap := 0, hold := 0, clockNow := 1600 } }) :=
  (serveWrite_ok he ha hs (cap_takes_iff.mpr (.inl hv))).trans (by simp [updPwr, hv])

/-- Any other cap in its range is stored. -/
theorem writePowerCap_of_range (low : 200 ≤ reqValue r) (high : reqValue r ≤ 1800) :
    (let ok := respond .write r .ok [] b
     writePowerCap r b = { ok with pwr := { ok.pwr with cap := BitVec.ofNat 16 (reqValue r) } }) := by
  have nonzero : reqValue r ≠ 0 := by omega
  exact (serveWrite_ok he ha hs (cap_takes_iff.mpr (.inr ⟨low, high⟩))).trans (by simp [updPwr, nonzero])

theorem writePowerCap_of_bad (hv : reqValue r ≠ 0) (out : reqValue r < 200 ∨ 1800 < reqValue r) :
    writePowerCap r b = respond .write r .badValue [] b := by
  refine serveWrite_bad he ha hs (eq_false_of_ne_true (mt cap_takes_iff.mp ?_))
  omega

end Write
end Exec

/-- Settles O50: the comparison by where the reading lies against the cap, the clock against its floor and the hold against zero;
the write by its value. -/
theorem powerCapStepsTheClockAndTheHold : Obligations.PowerCapStepsTheClockAndTheHold := by
  intro s now r b at_ x held ok n cap
  refine ⟨fun rail => ⟨fun none_ => ?_, fun capped above fast => ?_, fun capped above slow => ?_, fun capped under keeps => ?_,
      fun capped under free slow => ?_, fun capped under free top => ?_, fun above within => ?_⟩, fun dark => ?_,
    fun named came passes => ⟨fun zero => ?_, fun low high => ?_, fun nonzero out => ?_⟩⟩
  · exact exec_powerCapCheck_of rail (capStep_of_uncapped none_)
  · exact exec_powerCapCheck_of rail (capStep_of_over_fast capped above fast)
  · exact exec_powerCapCheck_of rail (capStep_of_over_floor capped above slow)
  · exact exec_powerCapCheck_of rail (capStep_of_under_held capped under keeps)
  · exact exec_powerCapCheck_of rail (capStep_of_under_slow capped under free slow)
  · exact exec_powerCapCheck_of rail (capStep_of_under_top capped under free top)
  · exact exec_powerCapCheck_of rail (capStep_of_between above within)
  · exact onBlk_of (powerCapCheck_of_unpowered dark now)
  · exact onBlk_of (writePowerCap_of_zero named came passes zero)
  · exact onBlk_of (writePowerCap_of_range named came passes low high)
  · exact onBlk_of (writePowerCap_of_bad named came passes nonzero out)

end Sys2Proof.Machine

/-! SUPPORT. Units that rest at the end of their idle delay, and units that work wakes (R334 to R337, Table PWR-2). -/
namespace Sys2Proof.Machine

section Power
variable {b : Blk} {n k : Nat}

/-! ### Quads (R335) -/

theorem quadDelay_of_busy (h : tabGet 2 b.pwr.quads n ≠ 2 ∨ quadIdle b n = false) : quadDelay n b = b :=
  if_pos (.inr (h.imp_right (by simp [·])))

section Idle
variable (hn : n < 17) (hv : tabGet 2 b.pwr.quads n = 2) (hi : quadIdle b n = true)
include hn hv hi

/-- The test that a quad may rest. -/
theorem quad_may_rest : ¬ (17 ≤ n ∨ tabGet 2 b.pwr.quads n ≠ 2 ∨ (!quadIdle b n) = true) := by
  simp [hv, hi, hn]

/-- A quad of no partition goes OFF where the policy lets it. -/
theorem quadDelay_of_off (h : bitAt b.pwr.idlePolicy 1 = true ∧ quadFree b n = true) : quadDelay n b = quadOff n b := by
  obtain ⟨lets, free⟩ := h
  rw [quadDelay, if_neg (quad_may_rest hn hv hi), if_pos (by simp [lets, free])]

section On
variable (h : ¬ (bitAt b.pwr.idlePolicy 1 = true ∧ quadFree b n = true))
include h

theorem quadDelay_of_retain (lets : bitAt b.pwr.idlePolicy 0 = true) : quadDelay n b = quadRetain n b := by
  rw [quadDelay, if_neg (quad_may_rest hn hv hi), if_neg (by rwa [Bool.and_eq_true]), if_pos lets]

theorem quadDelay_of_run (bars : bitAt b.pwr.idlePolicy 0 = false) : quadDelay n b = b := by
  rw [quadDelay, if_neg (quad_may_rest hn hv hi), if_neg (by rwa [Bool.and_eq_true]), if_neg (ne_true_of_eq_false bars)]

end On
end Idle

theorem quadWake_of_run (h : tabGet 2 b.pwr.quads n = 2) : quadWake n b = b := if_pos (.inr h)

/-- A quad out of RUN is woken in the time that its state takes. -/
theorem quadWake_of_rest {v : Nat} (hn : n < 17) (hv : tabGet 2 b.pwr.quads n = v) (rests : v ≠ 2) :
    quadWake n b = updPwr (fun x => { x with quads := tabPut 2 x.quads n 2 }) (pass (if v = 1 then 50 else 300) b) := by
  subst hv
  exact if_neg (not_or.mpr ⟨Nat.not_le.mpr hn, rests⟩)

/-! ### Quadrants (R335) -/

theorem quadrantDelay_of_idle (hn : n < 4) (hv : tabGet 2 b.pwr.quadrants n = 2) (hi : quadrantIdle b n = true) :
    quadrantDelay n b = updPwr (fun x => { x with quadrants := tabPut 2 x.quadrants n 1 }) b :=
  if_neg (by simp [hv, hi, hn])

theorem quadrantDelay_of_busy (h : tabGet 2 b.pwr.quadrants n ≠ 2 ∨ quadrantIdle b n = false) : quadrantDelay n b = b :=
  if_pos (.inr (h.imp_right (by simp [·])))

theorem quadrantWake_of_run (h : tabGet 2 b.pwr.quadrants n = 2) : quadrantWake n b = b := if_pos (.inr h)

theorem quadrantWake_of_rest (hn : n < 4) (hv : tabGet 2 b.pwr.quadrants n ≠ 2) :
    quadrantWake n b = updPwr (fun x => { x with quadrants := tabPut 2 x.quadrants n 2 }) (pass 25 b) :=
  if_neg (not_or.mpr ⟨Nat.not_le.mpr hn, hv⟩)

/-! ### Ports (R337) -/

/-- A port in service that may rest and does not yet sends STANDBY. -/
theorem portDelay_of_ready (ha : inService b k = true) (hp : bitAt b.pwr.idlePolicy 2 = true) (hs : standsBy (portOf b k) = false) :
    portDelay k b = enterStandby k (updPort k (fun x => { x with standbySent := true }) (transmit k 8 b)) :=
  if_neg (by simp [ha, hp, hs])

/-! ### IDLE_DELAY and UNIT_WAKE -/

theorem idleDelay_of_inReset (h : b.pwr.inReset = true) (u : PowerUnit) : idleDelay u b = b := if_pos h

theorem unitWake_of_inReset (h : b.pwr.inReset = true) (u : PowerUnit) : unitWake u b = b := if_pos h

section Running
variable (h : b.pwr.inReset = false)
include h

theorem idleDelay_quad : idleDelay (.quad n) b = quadDelay n b := if_neg (ne_true_of_eq_false h)
theorem idleDelay_quadrant : idleDelay (.quadrant n) b = quadrantDelay n b := if_neg (ne_true_of_eq_false h)
theorem idleDelay_port : idleDelay (.port k) b = portDelay k b := if_neg (ne_true_of_eq_false h)
theorem unitWake_quad : unitWake (.quad n) b = quadWake n b := if_neg (ne_true_of_eq_false h)
theorem unitWake_quadrant : unitWake (.quadrant n) b = quadrantWake n b := if_neg (ne_true_of_eq_false h)
theorem unitWake_port : unitWake (.port k) b = linkWake k b := if_neg (ne_true_of_eq_false h)

end Running
end Power

/-- Settles O51, unit by unit: what its idle delay finds, and what state it is woken from. -/
theorem unitsRestAndWake : Obligations.UnitsRestAndWake := by
  intro s n k b v w quad quadrant emptied sends asked said unlatched off
  refine ⟨fun u down => ⟨onBlk_of (idleDelay_of_inReset down u), onBlk_of (unitWake_of_inReset down u)⟩,
    fun up => ⟨fun small runs idle => ⟨fun off_ => ?_, fun on lets => ?_, fun on bars => ?_⟩, fun busy => ?_, fun small runs idle => ?_,
      fun busy => ?_, fun serves lets awake => ?_, fun small => ⟨fun retains => ?_, fun out => ?_, fun runs => ?_⟩, fun small runs => ?_,
      ?_, fun small rests => ?_⟩⟩
  · exact onBlk_of ((idleDelay_quad up).trans (quadDelay_of_off small runs idle off_))
  · exact onBlk_of ((idleDelay_quad up).trans (quadDelay_of_retain small runs idle on lets))
  · exact onBlk_of ((idleDelay_quad up).trans (quadDelay_of_run small runs idle on bars))
  · exact onBlk_of ((idleDelay_quad up).trans (quadDelay_of_busy busy))
  · exact onBlk_of ((idleDelay_quadrant up).trans (quadrantDelay_of_idle small runs idle))
  · exact onBlk_of ((idleDelay_quadrant up).trans (quadrantDelay_of_busy busy))
  · exact onBlk_of ((idleDelay_port up).trans (portDelay_of_ready serves lets awake))
  · exact onBlk_of ((unitWake_quad up).trans (quadWake_of_rest small retains (by decide)))
  · exact onBlk_of ((unitWake_quad up).trans (quadWake_of_rest small out (by decide)))
  · exact onBlk_of ((unitWake_quad up).trans (quadWake_of_run runs))
  · exact onBlk_of ((unitWake_quadrant up).trans (quadrantWake_of_run runs))
  · exact congrArg Host.Outcome.next (congrArg (fun e => { s with blk := e }) (unitWake_port up))
  · exact onBlk_of ((unitWake_quadrant up).trans (quadrantWake_of_rest small rests))

end Sys2Proof.Machine

/-! SUPPORT. Dictionary requests that only answer: READ, DESCRIBE and NEXT, the slots of the local port, and bad messages (R308 to
R316). -/
namespace Sys2Proof.Machine

section Requests
variable {b : Blk} {r : DictReq}

/-! ### READ and DESCRIBE (R316, R318) -/

/-- A READ that passes its checks is answered with the entry's value; one whose bytes no rule gives draws a free value. -/
theorem dictRead_ok (ha : arrived b .read r = true) (hs : requestStatus b .read r = .ok) :
    (let value := respond .read r .ok (entryValue b r.path r.index r.sub) b
     dictRead r b = if readsFree b r.path r.index r.sub then drawFresh value else value) := serveReq_ok ha hs _

theorem dictRead_refused {st : DStatus} (ha : arrived b .read r = true) (hs : requestStatus b .read r = st) (hn : st ≠ .ok) :
    dictRead r b = refuse .read r st b := serveReq_bad ha hs hn _

theorem dictDescribe_ok {e : Entry} (ha : arrived b .describe r = true) (hs : requestStatus b .describe r = .ok)
    (he : entryOf b r.index r.sub = some e) : dictDescribe r b = respond .describe r .ok (describeBytes e) b :=
  (serveReq_ok ha hs _).trans (by rw [he]; rfl)

theorem dictDescribe_refused {st : DStatus} (ha : arrived b .describe r = true) (hs : requestStatus b .describe r = st) (hn : st ≠ .ok) :
    dictDescribe r b = refuse .describe r st b := serveReq_bad ha hs hn _

/-! ### NEXT (R310) -/

section Next
variable (ha : arrived b .next r = true)
include ha

/-- A NEXT that has arrived is answered with its status. -/
theorem dictNext_of_arrived : dictNext r b =
    respond .next r (nextStatus b r) ((entryAfter b r.index r.sub).elim [] (fun x => leBytes 2 x.1 ++ leBytes 1 x.2)) b :=
  if_neg (by simp [ha])

theorem dictNext_ok {x : Nat × Nat} (hx : entryAfter b r.index r.sub = some x) (hl : lengthOk .next 0 r = true)
    (hb : requestBusy b .next r = false) : dictNext r b = respond .next r .ok (leBytes 2 x.1 ++ leBytes 1 x.2) b := by
  have passes : nextStatus b r = .ok := by simp [nextStatus, hx, hl, hb]
  rw [dictNext_of_arrived ha, passes, hx]
  rfl

theorem dictNext_of_last (hx : entryAfter b r.index r.sub = none) : dictNext r b = respond .next r .noEntry [] b := by
  have last : nextStatus b r = .noEntry := by simp [nextStatus, hx]
  rw [dictNext_of_arrived ha, last, hx]
  rfl

end Next

/-! ### The local port (R313) -/

/-- The block with a slot of the local port. -/
def slotPut (slot : Nat) (y : Slot) (b : Blk) : Blk := { b with dict := { b.dict with slots := tabPut {} b.dict.slots slot y } }

/-- What an OP fills its slot with: a request that is pending, or the answer that no operation has its number. -/
def slotAsked (op : Nat) (r : DictReq) : Slot :=
  if knownOp op then slotFor op r else { slotFor op r with status := BitVec.ofNat 8 (dstatusVal .badRequest), len := 0 }

theorem slotAsked_of_known {op : Nat} (low : 1 ≤ op) (high : op ≤ 4) : slotAsked op r = slotFor op r :=
  if_pos (by simp [knownOp, low, high])

theorem slotAsked_of_unknown {op : Nat} (high : 4 < op) : slotAsked op r = { slotFor op r with status := 0x08, len := 0 } :=
  if_neg (by simp [knownOp, high])

section Slot
variable {m : Master} {slot op : Nat}

/-- The owner of a slot may write it, the Trapdoor while its paths are open. -/
theorem slot_allows (ho : slotOwner slot = some m) (h6 : slot < 6) (hm : m ≠ .trapdoor ∨ trapOpen b = true) :
    (slotOwner slot != some m || decide (6 ≤ slot) || (m == .trapdoor && !trapOpen b)) = false := by
  simpa [ho, h6, imp_iff_not_or] using hm

section Running
variable (hr : b.pwr.inReset = false)
include hr

/-- Another master's slot is an error. -/
theorem localRequest_of_other (ho : slotOwner slot ≠ some m) :
    localRequest m slot op r b = busError m true (0x4002000000 + 512 * slot) b := by
  unfold localRequest
  rw [if_neg (ne_true_of_eq_false hr)]
  exact if_pos (by simp [ho])

section Owner
variable (ho : slotOwner slot = some m) (h6 : slot < 6) (hm : m ≠ .trapdoor ∨ trapOpen b = true)
include ho h6 hm

/-- Its OP is ignored while the slot is pending, and so is none. -/
theorem localRequest_of_owner : localRequest m slot op r b =
    if op = 0 ∨ (slotOf b slot).status = 0xFF then b else slotPut slot (slotAsked op r) b := by
  unfold localRequest
  rw [if_neg (ne_true_of_eq_false hr), slot_allows ho h6 hm]
  rfl

theorem localRequest_of_idle (h : op = 0 ∨ (slotOf b slot).status = 0xFF) : localRequest m slot op r b = b :=
  (localRequest_of_owner hr ho h6 hm).trans (if_pos h)

/-- Any other OP fills the slot. -/
theorem localRequest_of_asked {y : Slot} (h0 : op ≠ 0) (hs : (slotOf b slot).status ≠ 0xFF) (hy : slotAsked op r = y) :
    localRequest m slot op r b = slotPut slot y b := by
  rw [localRequest_of_owner hr ho h6 hm, if_neg (not_or.mpr ⟨h0, hs⟩), hy]

end Owner
end Running
end Slot

/-! ### Bad messages (R309) -/

theorem badRequest_of_bad {body : List Byte} (hs : b.pwr.standby = true) (long : 12 ≤ body.length) (hb : headerGood b body = false) :
    badRequest body b = { b with out := { b.out with mgmtTx := some (badResponse body) } } :=
  if_neg (by simp [hs, hb, long])

theorem badRequest_of_short {body : List Byte} (short : body.length < 12) : badRequest body b = b := if_pos (.inr (.inl short))

end Requests

/-- Settles O54: each request by its checks, the local port by the slot's owner and state, a message by its length and header. -/
theorem requestsAreReadDescribedAndListed : Obligations.RequestsAreReadDescribedAndListed := by
  intro s r m slot op body e x st b refused value drawn filled put
  have refuses : ∀ o, refuse o r st b = refused o := fun o => refuse_eq o r st b
  refine ⟨fun came => ⟨fun passes => ?_, fun fails isBad => ?_⟩, fun came => ⟨fun passes found => ?_, fun fails isBad => ?_⟩,
    fun came => ⟨fun follows fits free => ?_, fun last => ?_⟩,
    fun up owns six opens => ⟨fun asks free low high => ?_, fun high free => ?_, fun idle => ?_⟩, fun up other => ?_,
    fun rail long bad => ?_, fun short => ?_⟩
  · exact onBlk_of (dictRead_ok came passes)
  · exact onBlk_of ((dictRead_refused came fails isBad).trans (refuses .read))
  · exact onBlk_of (dictDescribe_ok came passes found)
  · exact onBlk_of ((dictDescribe_refused came fails isBad).trans (refuses .describe))
  · exact onBlk_of (dictNext_ok came follows fits free)
  · exact onBlk_of (dictNext_of_last came last)
  · exact onBlk_of (localRequest_of_asked up owns six opens asks free (slotAsked_of_known low high))
  · exact onBlk_of (localRequest_of_asked up owns six opens (by omega) free (slotAsked_of_unknown high))
  · exact onBlk_of (localRequest_of_idle up owns six opens idle)
  · exact onBlk_of (localRequest_of_other up other)
  · exact onBlk_of (badRequest_of_bad rail long bad)
  · exact onBlk_of (badRequest_of_short short)

end Sys2Proof.Machine

/-! SUPPORT. FUSE_PROGRAM by the field's fuses and the supply, and TRAPDOOR_EN by its value and the block it finds (R304 to R307,
R326). -/
namespace Sys2Proof.Machine

/-- A byte outside what a table keeps reads zero. -/
theorem memGet_tabKeep_zero {m : List Host.Cell} {ok : Nat → Bool} {a : Nat} (h : ok a = false) : memGet (tabKeep ok m) a = 0 := by
  simp [memGet, tabGet, tabFind_tabKeep, h]

section Fuses
variable {b : Blk} {l : List Byte} {supply : Option Nat}

/-! ### Programming a field (R307) -/

/-- The field that the data of a FUSE_PROGRAM names. -/
def fuseField (l : List Byte) : Nat := leField l 0 1

/-- The pulses that a field still needs. -/
def fuseTodo (b : Blk) (l : List Byte) : List Pulse := (fieldPulses b (fuseField l) l).filter (fun x => !isBlown b x)

/-- The block with the first pulses of a field given. -/
def pulsed (n : Nat) (l : List Byte) (b : Blk) : Blk := ((fuseTodo b l).take n).foldl (fun b x => blow x b) b

theorem programFuse_of_taken (ht : fuseTaken b (fuseField l) = true) : programFuse l supply b = fuseStatus 4 b := if_pos ht

section Free
variable (ht : fuseTaken b (fuseField l) = false)
include ht

/-- A bit that would have to be cleared is remembered. -/
theorem programFuse_of_clash (hc : fuseClash b (fuseField l) l = true) : programFuse l supply b =
    fuseStatus 4 { b with fab := { b.fab with blocked := setBit b.fab.blocked (fuseField l) true } } :=
  (if_neg (ne_true_of_eq_false ht)).trans (if_pos hc)

section Clear
variable (hc : fuseClash b (fuseField l) l = false)
include hc

/-- Otherwise the pulses are given as far as the supply lasts. -/
theorem programFuse_of_clear {n : Nat} (hn : min (supply.getD (fuseTodo b l).length) (fuseTodo b l).length = n) :
    programFuse l supply b = senseAgain (fuseStatus (if n = (fuseTodo b l).length then 2 else 3) (pulsed n l b)) := by
  subst hn
  exact (if_neg (ne_true_of_eq_false ht)).trans (if_neg (ne_true_of_eq_false hc))

theorem programFuse_of_supplied (lasts : ∀ n, supply = some n → (fuseTodo b l).length ≤ n) :
    programFuse l supply b = senseAgain (fuseStatus 2 (pulsed (fuseTodo b l).length l b)) := by
  have all : min (supply.getD (fuseTodo b l).length) (fuseTodo b l).length = (fuseTodo b l).length := by
    cases supply with
    | none => exact Nat.min_self _
    | some n => exact Nat.min_eq_right (lasts n rfl)
  rw [programFuse_of_clear ht hc all, if_pos rfl]

theorem programFuse_of_failed {n : Nat} (lasts : supply = some n) (fails : n < (fuseTodo b l).length) :
    programFuse l supply b = senseAgain (fuseStatus 3 (pulsed n l b)) := by
  subst lasts
  have short : min ((some n).getD (fuseTodo b l).length) (fuseTodo b l).length = n := Nat.min_eq_left (Nat.le_of_lt fails)
  rw [programFuse_of_clear ht hc short, if_neg (Nat.ne_of_lt fails)]

end Clear
end Free

/-- The data that FUSE_PROGRAM takes: a field up to 9, and nothing beyond a flag's value (R326). -/
theorem fuse_takes_iff : (decide (fuseField l ≤ 9) && (decide (fuseField l < 4) || leField l 1 48 == 0)) = true ↔
    fuseField l ≤ 9 ∧ (fuseField l < 4 ∨ leField l 1 48 = 0) := by simp

end Fuses

/-! ### TRAPDOOR_EN (R304) -/

/-- The values that TRAPDOOR_EN takes. -/
theorem trapdoor_takes_iff {b : Blk} {r : DictReq} (he : isEntry 0x8000 1 r.index r.sub = true)
    (hs : requestStatus b .write r = .ok) : inRange b r = true ↔ reqValue r ≤ 1 := by
  obtain ⟨hi, hn⟩ := entry_named he
  have present := entryPresent_of_ok hs
  rw [hi, hn] at present
  rw [inRange_at ⟨hi, hn⟩ rfl present (by decide) rfl, Bool.and_eq_true, decide_eq_true_eq, decide_eq_true_eq]
  exact and_iff_right (Nat.zero_le _)

section Trapdoor
variable {b : Blk} {r : DictReq} (he : isEntry 0x8000 1 r.index r.sub = true) (ha : arrived b .write r = true)
  (hs : requestStatus b .write r = .ok)
include he ha hs

theorem writeTrapdoorEn_of_one (hv : reqValue r = 1) : writeTrapdoorEn r b = openTrapdoor (respond .write r .ok [] b) :=
  (serveWrite_ok he ha hs ((trapdoor_takes_iff he hs).mpr hv.le)).trans (by rw [if_pos hv])

theorem writeTrapdoorEn_of_zero (hv : reqValue r = 0) : writeTrapdoorEn r b = closeTrapdoor (respond .write r .ok [] b) :=
  (serveWrite_ok he ha hs ((trapdoor_takes_iff he hs).mpr (by omega))).trans (by rw [if_neg (by omega)])

theorem writeTrapdoorEn_of_bad (hv : 1 < reqValue r) : writeTrapdoorEn r b = respond .write r .badValue [] b :=
  serveWrite_bad he ha hs (eq_false_of_ne_true (mt (trapdoor_takes_iff he hs).mp (Nat.not_le.mpr hv)))

end Trapdoor

theorem openTrapdoor_of_open {b : Blk} (h : b.vlt.trapEn = true) : openTrapdoor b = b := if_pos h

/-- The block with the Trapdoor's paths open over empty stores. -/
def pathsOpened (b : Blk) : Blk :=
  { zeroStores b with vlt := { (zeroStores b).vlt with trapEn := true, trapOpen := true } }

theorem pathsOpened_regs (b : Blk) : (pathsOpened b).regs = [] := rfl

/-- No stored byte of the block is left once the paths open. -/
theorem memGet_pathsOpened {a : Nat} (h : outsideStores a = false) (b : Blk) : memGet (pathsOpened b).mem a = 0 :=
  memGet_tabKeep_zero (m := b.mem) h

/-- The block that a TRAPDOOR_EN of 1 leaves: no command, no tenant, no firmware, no stored byte. -/
def trapdoorOpened (b : Blk) : Blk := pathsOpened (dropFirmware (disableAll (endAllCommands b)))

theorem openTrapdoor_of_closed {b : Blk} (h : b.vlt.trapEn = false) : openTrapdoor b = trapdoorOpened b :=
  if_neg (ne_true_of_eq_false h)

theorem trapdoorOpened_regs (b : Blk) : (trapdoorOpened b).regs = [] := pathsOpened_regs _

theorem memGet_trapdoorOpened {a : Nat} (h : outsideStores a = false) (b : Blk) : memGet (trapdoorOpened b).mem a = 0 :=
  memGet_pathsOpened h _

/-- Settles O59: FUSE_PROGRAM by its data, the fuses it finds and the supply, TRAPDOOR_EN by its value and whether the paths are open
already. -/
theorem fusesAreBlownAndTheTrapdoorOpens : Obligations.FusesAreBlownAndTheTrapdoorOpens := by
  intro s r supply a b l field ok bad ends clash todo blown emptied open_ cut came passes
  refine ⟨fun named => ⟨fun beyond => ?_, fun low fits => ?_⟩,
    fun named => ⟨fun one shut => ⟨?_, ?_, fun inside => ?_⟩, fun one opened => ?_, fun zero => ?_, fun more => ?_⟩⟩
  · refine onBlk_of (serveWrite_bad named came passes (eq_false_of_ne_true (mt fuse_takes_iff.mp ?_)))
    show ¬ (field ≤ 9 ∧ (field < 4 ∨ leField l 1 48 = 0))
    omega
  · have takes : writeFuse r supply b = programFuse l supply ok := serveWrite_ok named came passes (fuse_takes_iff.mpr ⟨low, fits⟩)
    refine ⟨fun taken => ?_, fun free clashes => ?_, fun free clear => ⟨fun lasts => ?_, fun n lasts fails => ?_⟩⟩
    · exact onBlk_of (takes.trans (programFuse_of_taken (b := ok) taken))
    · exact onBlk_of (takes.trans (programFuse_of_clash (b := ok) free clashes))
    · exact onBlk_of (takes.trans (programFuse_of_supplied (b := ok) free clear lasts))
    · exact onBlk_of (takes.trans (programFuse_of_failed (b := ok) free clear lasts fails))
  · exact onBlk_of ((writeTrapdoorEn_of_one named came passes one).trans (openTrapdoor_of_closed (b := ok) shut))
  · exact trapdoorOpened_regs ok
  · exact memGet_trapdoorOpened inside ok
  · exact onBlk_of ((writeTrapdoorEn_of_one named came passes one).trans (openTrapdoor_of_open (b := ok) opened))
  · exact onBlk_of (writeTrapdoorEn_of_zero named came passes zero)
  · exact onBlk_of (writeTrapdoorEn_of_bad named came passes more)

end Sys2Proof.Machine

/-! SUPPORT. What the work that a reset cuts leaves alone: a write that ends early may restore a halt-control word, and so resume or
discard a command, and none of that reaches the fuses, power, the presence window, the tile map or the epoch (R222, R224, R344). -/
namespace Sys2Proof.Machine

/-- Two blocks with the same fuses and straps, power, presence window, tile map and epoch. -/
structure SameLantern (x y : Blk) : Prop where
  fab : y.fab = x.fab
  pwr : y.pwr = x.pwr
  pres : y.pres = x.pres
  tileMap : y.vlt.tileMap = x.vlt.tileMap
  epoch : y.vlt.epoch = x.vlt.epoch

theorem SameLantern.refl (x : Blk) : SameLantern x x := ⟨rfl, rfl, rfl, rfl, rfl⟩

section Changes
variable {x y z : Blk}

/-- A change of the Vault's state beyond the tile map and the epoch. -/
theorem SameLantern.of_map (h : SameLantern x y) (hf : z.fab = y.fab) (hw : z.pwr = y.pwr) (hp : z.pres = y.pres)
    (ht : z.vlt.tileMap = y.vlt.tileMap) (he : z.vlt.epoch = y.vlt.epoch) : SameLantern x z :=
  ⟨hf.trans h.fab, hw.trans h.pwr, hp.trans h.pres, ht.trans h.tileMap, he.trans h.epoch⟩

/-- A change that leaves the Vault's state alone too. -/
theorem SameLantern.of_eq (h : SameLantern x y) (hf : z.fab = y.fab) (hw : z.pwr = y.pwr) (hp : z.pres = y.pres)
    (hv : z.vlt = y.vlt) : SameLantern x z :=
  h.of_map hf hw hp (congrArg Vlt.tileMap hv) (congrArg Vlt.epoch hv)

theorem SameLantern.ite {p : Prop} [Decidable p] (h : SameLantern x y) (g : SameLantern x z) : SameLantern x (if p then y else z) := by
  split <;> assumption

/-- A fold of changes. -/
theorem SameLantern.foldl {α : Type} {f : Blk → α → Blk} (h : SameLantern x y) (l : List α)
    (hf : ∀ e r, SameLantern x e → SameLantern x (f e r)) : SameLantern x (l.foldl f y) :=
  foldl_keeps (P := SameLantern x) l h hf

end Changes

section Work
variable {x b : Blk} (h : SameLantern x b)
include h

/-! ### Records, counters and memory -/

theorem sumpPut_lantern (e : Nat) (code : Option Code) (p q t w d : Nat) : SameLantern x (sumpPut e code p q t w d b) :=
  h.of_eq (sumpPut_fab ..) (sumpPut_pwr ..) (sumpPut_pres ..) (sumpPut_vlt ..)

theorem tenantInt_lantern (p : Nat) : SameLantern x (tenantInt p b) := .ite (h.of_eq rfl rfl rfl rfl) h

theorem countAdd_lantern (key n : Nat) : SameLantern x (countAdd key n b) := h.of_eq rfl rfl rfl rfl

theorem updQueue_lantern (p q : Nat) (f : Queue → Queue) : SameLantern x (updQueue p q f b) := h.of_eq rfl rfl rfl rfl

theorem updCmd_lantern (id : Nat) (f : Cmd → Cmd) : SameLantern x (updCmd id f b) := h.of_eq rfl rfl rfl rfl

theorem drawFresh_lantern : SameLantern x (drawFresh b) := h.of_eq rfl rfl rfl rfl

theorem writeBytes_lantern (a : Nat) (l : List Byte) : SameLantern x (writeBytes a l b) :=
  h.of_eq (writeBytes_fab ..) (writeBytes_pwr ..) (writeBytes_pres ..) (writeBytes_vlt ..)

theorem inCtx_lantern (p : Nat) {f : Blk → Blk} (hf : ∀ e, SameLantern x e → SameLantern x (f e)) : SameLantern x (inCtx p f b) :=
  (hf (ofCtx p b) (h.of_eq rfl rfl rfl rfl)).of_eq rfl rfl rfl rfl

theorem writeIn_lantern (p a : Nat) (l : List Byte) : SameLantern x (inCtx p (writeBytes a l) b) :=
  inCtx_lantern h p fun _ g => writeBytes_lantern g a l

theorem broadcast_lantern (op root c : Nat) : SameLantern x (broadcast op root c b) := by
  rw [broadcast_eq]
  exact h.of_eq rfl rfl rfl rfl

theorem sendMsg_lantern (op die c : Nat) : SameLantern x (sendMsg op die c b) := by
  rw [sendMsg_eq]
  exact h.of_eq rfl rfl rfl rfl

/-! ### Completing -/

theorem stopQueue_lantern (p q cause : Nat) : SameLantern x (stopQueue p q cause b) := by
  unfold stopQueue
  split
  · exact h
  · exact updQueue_lantern h ..
  · exact tenantInt_lantern (updQueue_lantern h ..) p

theorem ringFault_lantern (p q a : Nat) : SameLantern x (ringFault p q a b) :=
  sumpPut_lantern (stopQueue_lantern (.ite (countAdd_lantern h ..) h) ..) ..

theorem countCode_lantern (p : Nat) (code : Code) : SameLantern x (countCode p code b) := by
  rw [countCode_eq]
  exact h.of_eq rfl rfl rfl rfl

theorem leaveFlight_lantern (c : Cmd) (code : Code) : SameLantern x (leaveFlight c code b) := by
  have gone : SameLantern x { b with cmds := b.cmds.filter (fun y => y.id ≠ c.id) } := h.of_eq rfl rfl rfl rfl
  exact .ite (tenantInt_lantern (updQueue_lantern gone ..) _) (updQueue_lantern gone ..)

theorem recordWritten_lantern (r : Cpl) : SameLantern x (recordWritten r b) := by
  unfold recordWritten
  split
  · exact leaveFlight_lantern (countCode_lantern h ..) ..
  · exact h

theorem postCpl_lantern (p q : Nat) (r : Cpl) : SameLantern x (postCpl p q r b) := by
  have told := updQueue_lantern (writeIn_lantern h p (cplAddr (queueOf b p q) (queueOf b p q).cqTail)
    (cplBytes (queueOf b p q) q (queueOf b p q).cqTail r)) p q (fun y => { y with cqTail := y.cqTail + 1 })
  exact .ite (updQueue_lantern h ..) (.ite (inCtx_lantern (updQueue_lantern h ..) p fun _ g => ringFault_lantern g ..)
    (recordWritten_lantern (.ite (tenantInt_lantern told p) told) r))

theorem finishCmd_lantern (c : Cmd) (code : Code) (r0 r1 : Nat) : SameLantern x (finishCmd c code r0 r1 b) :=
  .ite (h.of_eq rfl rfl rfl rfl) (.ite h (postCpl_lantern (updCmd_lantern h ..) ..))

theorem dropNotices_lantern (p : Nat) (tiles : List Nat) : SameLantern x (dropNotices p tiles b) := h.of_map rfl rfl rfl rfl rfl

theorem rejectCmd_lantern (c : Cmd) (code : Code) (tiles : List Nat) : SameLantern x (rejectCmd c code tiles b) :=
  finishCmd_lantern (.ite (dropNotices_lantern h ..) h) ..

/-! ### Parity and lines -/

theorem markDue_lantern (p : Nat) : SameLantern x (markDue p b) := .ite h (h.of_map rfl rfl rfl rfl rfl)

theorem attributeFault_lantern (p : Nat) : SameLantern x (attributeFault p b) := by
  unfold attributeFault
  extract_lets times vault counted
  have told : SameLantern x counted := h.of_map rfl rfl rfl rfl rfl
  exact .ite (markDue_lantern told p) told

theorem attributeAttempts_lantern (p n : Nat) : SameLantern x (attributeAttempts p n b) := by
  have told := h.foldl (List.range n) (f := fun e _ => attributeFault p e) fun e _ g => attributeFault_lantern g p
  exact .ite (markDue_lantern told p) told

theorem parityRecord_lantern (c : Option Cmd) (kind w lane unit : Nat) : SameLantern x (parityRecord c kind w lane unit b) := by
  unfold parityRecord
  dsimp only
  split <;> exact sumpPut_lantern h ..

theorem allReplays_lantern : SameLantern x (allReplays b) := countAdd_lantern h ..

theorem readParity_lantern (c : Cmd) (a unit : Nat) : SameLantern x (readParity c a unit b) := by
  unfold readParity
  split
  · exact .ite (parityRecord_lantern (allReplays_lantern (.ite (attributeAttempts_lantern h ..) h)) ..)
      (parityRecord_lantern (allReplays_lantern h) ..)
  · exact parityRecord_lantern (allReplays_lantern h) ..

theorem touchLine_lantern (p a used : Nat) (write : Bool) : SameLantern x (touchLine p a used write b) := .ite (h.of_eq rfl rfl rfl rfl) h

theorem fetchAhead_lantern (c : Cmd) : SameLantern x (fetchAhead c b) := by
  have listed := h.foldl (spanLines (listSpans c)) (f := fun e l => touchLine c.port (l * 512) 512 false e) fun e l g => touchLine_lantern g ..
  exact .ite h (listed.foldl _ fun e l g => g.of_eq rfl rfl rfl rfl)

/-! ### Halting and discarding -/

theorem withdrawAll_lantern (c : Cmd) : SameLantern x (withdrawAll c b) := .ite (broadcast_lantern h ..) h

theorem forwardOut_lantern (c : Cmd) : SameLantern x (forwardOut c b) := .ite (broadcast_lantern h ..) h

theorem clearPartial_lantern (c : Cmd) : SameLantern x (clearPartial c b) := by
  unfold clearPartial
  split
  · split
    · exact h.of_map rfl rfl rfl rfl rfl
    · split
      · exact h.of_eq rfl rfl rfl rfl
      · exact h
  · exact h

theorem endHalted_lantern (c : Cmd) : SameLantern x (endHalted c b) :=
  finishCmd_lantern (clearPartial_lantern (withdrawAll_lantern h c) c) ..

theorem haltCmd_lantern (c : Cmd) (cause kind : Nat) (place : BitVec 16) : SameLantern x (haltCmd c cause kind place b) := by
  unfold haltCmd
  extract_lets row r qr b1 b2 a b3 b4 b5
  have marked : SameLantern x b2 := updQueue_lantern (updCmd_lantern h ..) ..
  have copied : SameLantern x b3 := .ite (writeIn_lantern marked ..) (sumpPut_lantern marked ..)
  have recorded : SameLantern x b4 := sumpPut_lantern copied ..
  have told : SameLantern x b5 := .ite recorded (tenantInt_lantern recorded _)
  exact .ite (postCpl_lantern told ..) told

theorem haltOrEnd_lantern (c : Cmd) (cause kind : Nat) (place : BitVec 16) : SameLantern x (haltOrEnd c cause kind place b) :=
  .ite (haltCmd_lantern h ..) (endHalted_lantern h c)

/-! ### Fetching, and table checks that go on -/

theorem reportError_lantern (c : Cmd) (stage : Nat) (code : Code) (addr : Nat) : SameLantern x (reportError c stage code addr b) := by
  unfold reportError
  dsimp only
  split
  · exact updCmd_lantern h ..
  · exact sendMsg_lantern (updCmd_lantern h ..) ..

theorem failFetch_lantern (c : Cmd) (code : Code) (tiles : List Nat) : SameLantern x (failFetch c code tiles b) :=
  .ite (reportError_lantern h ..) (rejectCmd_lantern h ..)

theorem failDecode_lantern (c : Cmd) (code : Code) (tiles : List Nat) : SameLantern x (failDecode c code tiles b) :=
  .ite (reportError_lantern h ..) (rejectCmd_lantern h ..)

theorem fetchStage_lantern (c : Cmd) (op : Op) : SameLantern x (fetchStage c op getReady b) := by
  unfold fetchStage
  dsimp only
  split
  · exact .ite (reportError_lantern h ..) (haltOrEnd_lantern (updCmd_lantern h ..) ..)
  · exact failFetch_lantern (inCtx_lantern h _ fun _ g => readParity_lantern g ..) ..
  · exact failFetch_lantern h ..
  · exact inCtx_lantern (fetchAhead_lantern (updCmd_lantern h ..) _) _ fun _ g => g

theorem passDecode_lantern (c : Cmd) (op : Op) : SameLantern x (passDecode c op getReady b) :=
  fetchStage_lantern (forwardOut_lantern h c) c op

theorem releaseTable_lantern : SameLantern x (releaseTable b) :=
  h.foldl _ fun e c g => by
    split
    · exact g
    · split
      · split
        · exact failDecode_lantern g ..
        · exact passDecode_lantern g ..
      · exact failDecode_lantern g ..

theorem discardCmd_lantern (c : Cmd) : SameLantern x (discardCmd c b) := releaseTable_lantern (endHalted_lantern h c)

/-! ### Resuming -/

theorem armStream_lantern (c : Cmd) : SameLantern x (armStream c b) := by
  unfold armStream
  dsimp only
  split
  · exact haltOrEnd_lantern h ..
  · exact rejectCmd_lantern h ..
  · exact rejectCmd_lantern (readParity_lantern h ..) ..
  · split
    · exact rejectCmd_lantern (touchLine_lantern h ..) ..
    · exact (touchLine_lantern h ..).of_eq rfl rfl rfl rfl

theorem resumeCmd_lantern (c : Cmd) : SameLantern x (resumeCmd c b) := by
  unfold resumeCmd
  dsimp only
  split
  · exact updCmd_lantern h ..
  · exact updCmd_lantern h ..
  · exact updCmd_lantern h ..
  · exact armStream_lantern (updCmd_lantern h ..) _
  · exact .ite (updCmd_lantern h ..) (passDecode_lantern (updCmd_lantern h ..) ..)
  · exact h

theorem resumeHalted_lantern (c : Cmd) : SameLantern x (resumeHalted c b) :=
  .ite (releaseTable_lantern (finishCmd_lantern (clearPartial_lantern (withdrawAll_lantern
    (drawFresh_lantern (parityRecord_lantern (allReplays_lantern h) ..)) c) c) ..)) (resumeCmd_lantern h c)

/-! ### Writes of the matrix -/

theorem busError_lantern (m : Master) (write : Bool) (a : Nat) : SameLantern x (busError m write a b) :=
  .ite h ((sumpPut_lantern h ..).of_eq rfl rfl rfl rfl)

theorem haltWrite_lantern (m : Master) (p q : Nat) (v : BitVec 64) : SameLantern x (haltWrite m p q v b) := by
  unfold haltWrite
  split
  · exact busError_lantern h ..
  · split
    · exact .ite (.ite (inCtx_lantern h p fun _ g => resumeHalted_lantern g _) h) (.ite (discardCmd_lantern h _) h)
    · exact h

theorem writeHalts_lantern (m : Master) (p : Nat) (v : Granule) : SameLantern x (writeHalts m p v b) :=
  h.foldl _ fun _ _ g => .ite g (haltWrite_lantern g ..)

theorem putGranuleKey_lantern (k : Nat) (v : Granule) : SameLantern x (putGranuleKey k v b) := h.of_eq rfl rfl rfl rfl

theorem busPut_lantern (m : Master) (a : Nat) (v : Granule) : SameLantern x (busPut m a v b) := by
  unfold busPut
  split
  · split
    · exact putGranuleKey_lantern h ..
    · exact putGranuleKey_lantern h ..
    · exact writeHalts_lantern h ..
    · exact h.of_eq rfl rfl rfl rfl
    · exact h
  · split
    · exact putGranuleKey_lantern h ..
    · exact h

/-! ### What a reset cuts (R222, R224) -/

theorem cutSegment_lantern (k : Nat) (m : Master) : SameLantern x (cutSegment k m b) := by
  unfold cutSegment
  dsimp only
  split
  · have shortened : ∀ f : Bus → Bus, SameLantern x (updBus f b) := fun f => h.of_eq rfl rfl rfl rfl
    exact .ite h (inCtx_lantern (shortened _) _ fun e g => g.foldl _ fun _ _ g => .ite g (busPut_lantern g ..))
  · exact h

theorem resetMaster_lantern (m : Master) : SameLantern x (resetMaster m b) :=
  (h.foldl (b.bus.ports.map (·.1)) (f := fun e k => cutSegment k m e) fun _ _ g => cutSegment_lantern g ..).of_eq rfl rfl rfl rfl

theorem resetMasters_lantern : SameLantern x (resetMasters b) := h.foldl _ fun _ _ g => resetMaster_lantern g _

theorem undefine_lantern (addrs : List Nat) : SameLantern x (undefine addrs b) :=
  drawFresh_lantern (h.foldl _ fun _ _ g => writeBytes_lantern g ..)

theorem cutMemory_lantern : SameLantern x (cutMemory b) :=
  h.foldl _ fun _ _ g => .ite g (inCtx_lantern g _ fun _ g => undefine_lantern g _)

end Work

end Sys2Proof.Machine

/-! SUPPORT. Resets and starts: what a block held in reset and a cold block keep, how a block comes back from either, and the reset of
one tenant (R331, R340 to R347). -/
namespace Sys2Proof.Machine

/-! ### What a reset empties (R340, R344) -/

/-- A block in which no command, no queue, no partition record, no register and no stored byte is left. -/
def emptied (p q a : Nat) (e : Blk) : Prop :=
  e.cmds = [] ∧ (queueOf e p q).state = .disabled ∧ activeOf e p = {} ∧ e.regs = [] ∧ e.handles = []
  ∧ e.flags = [] ∧ e.moduli = [] ∧ e.streams = [] ∧ e.bus.flight = [] ∧ e.link = []
  ∧ (outsideStores a = false → memGet e.mem a = 0)

section Empty
variable (p q a : Nat) (b : Blk)

theorem heldInReset_emptied : emptied p q a (heldInReset b) :=
  ⟨rfl, rfl, rfl, rfl, rfl, rfl, rfl, rfl, rfl, rfl, fun inside => memGet_tabKeep_zero (m := b.mem) inside⟩

theorem powerLoss_emptied : emptied p q a (powerLoss b) :=
  ⟨rfl, rfl, rfl, rfl, rfl, rfl, rfl, rfl, rfl, rfl, fun inside => memGet_tabKeep_zero (m := (cutMemory b).mem) inside⟩

end Empty

/-- What the Lantern keeps through block reset (Table PWR-4). -/
theorem heldInReset_kept (b : Blk) :
    (heldInReset b).clk = b.clk ∧ (heldInReset b).sump = b.sump ∧ (heldInReset b).pres = b.pres
    ∧ (heldInReset b).vlt.tileMap = b.vlt.tileMap ∧ (heldInReset b).vlt.epoch = b.vlt.epoch
    ∧ (heldInReset b).fab.rows = b.fab.rows ∧ (heldInReset b).fab.lat = b.fab.lat :=
  ⟨rfl, rfl, rfl, rfl, rfl, rfl, rfl⟩

/-- What of power it keeps. -/
theorem heldInReset_pwr (b : Blk) : (heldInReset b).pwr.inReset = true ∧ (heldInReset b).pwr.clkAbsent = b.pwr.clkAbsent := ⟨rfl, rfl⟩

/-! ### BLOCK_RESET and CLOCK_ABSENT (R331, R340) -/

section Reset
variable {b : Blk}

/-- The block with every request of the matrix dropped and what that cut undefined. -/
def workCut (b : Blk) : Blk := cutMemory (resetMasters b)

theorem workCut_lantern (b : Blk) : SameLantern b (workCut b) := cutMemory_lantern (resetMasters_lantern (.refl b))

theorem blockReset_of_running (h : b.pwr.inReset = false) : blockReset b = heldInReset (workCut b) := if_neg (ne_true_of_eq_false h)

theorem blockReset_of_inReset (h : b.pwr.inReset = true) : blockReset b = b := if_pos h

/-- The block with the clock inputs that are absent. -/
def clocksTold (mask : BitVec 21) (b : Blk) : Blk := { b with pwr := { b.pwr with clkAbsent := mask } }

theorem clockAbsent_of_none : clockAbsent 0 b = clocksTold 0 b := by
  simp [clockAbsent, clocksTold, updPwr]

theorem clockAbsent_of_some {mask : BitVec 21} (hm : mask ≠ 0) (hr : b.pwr.inReset = false) :
    clockAbsent mask b = heldInReset (workCut (clocksTold mask b)) :=
  (if_neg hm).trans (blockReset_of_running (b := clocksTold mask b) hr)

end Reset

/-! ### COLD_RESET and POWER_LOSS (R343, R347) -/

section Cold
variable (b : Blk)

theorem cutMemory_same : SameLantern b (cutMemory b) := cutMemory_lantern (.refl b)

/-- The block of a cold start, its good tiles bound. -/
def coldReady (bad : List Nat) (b : Blk) : Blk :=
  let cold := coldBlk b
  { cold with vlt := { cold.vlt with tileMap := coldMap cold bad, phys := coldPhys cold bad (coldMap cold bad) } }

theorem coldReset_of_clocked {b : Blk} (h : b.pwr.clkAbsent = 0) (bad : List Nat) : coldReset bad b = startPorts (coldReady bad b) :=
  if_pos ((congrArg Pwr.clkAbsent (cutMemory_same b).pwr).trans h)

/-- A cold start senses the fuses, begins the epoch and has no command. -/
theorem coldReady_starts (bad : List Nat) :
    (coldReady bad b).fab.lat = senseFuses (cutMemory b) ∧ (coldReady bad b).vlt.epoch = 1 ∧ (coldReady bad b).cmds = [] := ⟨rfl, rfl, rfl⟩

/-- A loss of power keeps the fuses. -/
theorem powerLoss_keeps_rows : (powerLoss b).fab.rows = b.fab.rows ∧ (powerLoss b).vlt.epoch = 1 := by
  have cut : (powerLoss b).fab.rows = (cutMemory b).fab.rows := rfl
  exact ⟨cut.trans (congrArg Fab.rows (cutMemory_same b).fab), rfl⟩

end Cold

/-! ### BLOCK_START (R344, R346) -/

section Start
variable {b : Blk}

/-- The block ready, alone, 40 µs after its release. -/
def started (b : Blk) : Blk :=
  let up := becomeReady (elapse 1000 b)
  { up with gal := { up.gal with formed := true } }

section Released
variable (hr : b.pwr.inReset = true) (hs : b.pwr.standby = true) (hg : b.pwr.coreGood = true) (hc : b.pwr.clkAbsent = 0)
include hr hs hg hc

/-- A block in reset with its power and its clocks starts. -/
theorem blockStart_of_released : blockStart b = if b.pwr.before = 0 then started b else newEpoch b.pwr.before (started b) :=
  if_neg (by simp [hr, hs, hg, hc])

theorem blockStart_of_same (h : b.pwr.before = 0) : blockStart b = started b :=
  (blockStart_of_released hr hs hg hc).trans (if_pos h)

theorem blockStart_of_changed (h : b.pwr.before ≠ 0) : blockStart b = newEpoch b.pwr.before (started b) :=
  (blockStart_of_released hr hs hg hc).trans (if_neg h)

end Released
end Start

/-! ### TENANT_RESET (R341) -/

/-- A fold of changes that leave the commands in flight alone. -/
theorem foldl_cmds {α : Type} {f : Blk → α → Blk} (hf : ∀ e r, (f e r).cmds = e.cmds) (l : List α) (b : Blk) :
    (l.foldl f b).cmds = b.cmds :=
  foldl_keeps (P := fun e : Blk => e.cmds = b.cmds) l rfl fun e r same => (hf e r).trans same

theorem abortStream_cmds (n : Nat) (b : Blk) : (abortStream n b).cmds = b.cmds := by
  unfold abortStream
  dsimp only
  split
  · exact writeBytes_cmds ..
  · exact sumpPut_cmds ..

theorem abortStreams_cmds (p : Nat) (b : Blk) : (abortStreams p b).cmds = b.cmds := by
  refine (foldl_cmds (fun e k => ?shelf) _ _).trans ((foldl_cmds (fun e h => ?handle) _ _).trans (foldl_cmds (fun e n => ?stream) _ _))
  case shelf => rfl
  case handle => rfl
  case stream => exact abortStream_cmds n e

theorem zeroiseTiles_cmds (tiles : List Nat) (b : Blk) : (zeroiseTiles tiles b).cmds = b.cmds := by
  refine foldl_cmds (fun e t => ?_) _ _
  split <;> rfl

theorem writeBack_cmds (l : Line) (b : Blk) : (writeBack l b).cmds = b.cmds := by
  unfold writeBack
  dsimp only
  split
  · rfl
  · exact sumpPut_cmds ..

theorem dropLines_cmds (gone : Line → Bool) (b : Blk) : (dropLines gone b).cmds = b.cmds :=
  foldl_cmds (fun e l => writeBack_cmds l e) _ _

/-- The block of a reset tenant once its tiles and handles are zero. -/
def tenantBare (p : Nat) (b : Blk) : Blk :=
  let ended := abortStreams p (endCommands p false b)
  let quiet := if ended.vlt.sliced.contains p then ended else zeroiseTiles (recTiles (activeOf b p)) ended
  dropTenantLines p ((recHandles (activeOf b p)).foldl (fun e h => zeroiseHandle h e) quiet)

theorem tenantBare_cmds (p : Nat) (b : Blk) : (tenantBare p b).cmds = (endCommands p false b).cmds := by
  unfold tenantBare dropTenantLines
  dsimp only
  rw [dropLines_cmds, foldl_cmds (f := fun e h => zeroiseHandle h e) fun _ _ => rfl]
  split
  · exact abortStreams_cmds ..
  · exact (zeroiseTiles_cmds ..).trans (abortStreams_cmds ..)

/-- The block with the tables of a tenant zero. -/
def tablesCleared (p : Nat) (b : Blk) : Blk := clearQueues p (dropSaved p (clearModuli p (clearFlags p b)))

theorem tablesCleared_cmds (p : Nat) (b : Blk) : (tablesCleared p b).cmds = b.cmds := rfl

/-- The block of a reset tenant. -/
def tenantBared (p : Nat) (b : Blk) : Blk := tablesCleared p (tenantBare p b)

theorem tenantReset_of_running {p : Nat} {b : Blk} (hp : p < 5) (hr : b.pwr.inReset = false) : tenantReset p b = tenantBared p b :=
  if_neg (by simp [hp, hr])

/-- The queues of a reset tenant are DISABLED. -/
theorem queueOf_clearQueues {p : Nat} (hp : p < 5) (q : Nat) (b : Blk) : (queueOf (clearQueues p b) p q).state = .disabled := by
  have cleared : (decide (20 ≤ qKey p q) || qKey p q / 4 != p) = false := by
    have key : qKey p q = p * 4 + q % 4 := if_pos hp
    have own : (p * 4 + q % 4) / 4 = p := by omega
    have low : ¬ 20 ≤ p * 4 + q % 4 := by omega
    simp [key, own, low]
  simp [queueOf, clearQueues, tabGet, tabFind_tabKeep, cleared]

/-- No command of its own queues is left in flight. -/
theorem tenantBared_cmds {p : Nat} {b : Blk} {c : Cmd} (hc : c ∈ (tenantBared p b).cmds) (hh : c.home = none) : c.port ≠ p := by
  have left : (!(c.port == p && c.home.isNone)) = true := by
    rw [tenantBared, tablesCleared_cmds, tenantBare_cmds] at hc
    exact (List.mem_filter.mp hc).2
  simpa [hh] using left

/-- Settles O52, reset by reset: what each empties, what the Lantern keeps through it, and how the block starts again. -/
theorem resetsKeepOnlyWhatTheSpecLists : Obligations.ResetsKeepOnlyWhatTheSpecLists := by
  intro s p mask bad q a b hold gone cold map ready begun up formed lost ended quiet bare bared
  refine ⟨fun running => ?_, fun down => ?_, ?_, fun some_ running => ?_, ⟨?_, ?_, ?_⟩, fun clocked => ⟨?_, ?_⟩,
    fun down rail core clocked => ⟨fun same => ?_, fun changed => ?_⟩, fun port running => ⟨?_, ?_, ?_⟩⟩
  · obtain ⟨clk, sump, pres, tileMap, epoch, rows, lat⟩ := heldInReset_kept (workCut b)
    have kept := workCut_lantern b
    exact ⟨onBlk_of (blockReset_of_running running), heldInReset_emptied p q a (workCut b), clk, sump, pres.trans kept.pres,
      tileMap.trans kept.tileMap, epoch.trans kept.epoch, rows.trans (congrArg Fab.rows kept.fab),
      lat.trans (congrArg Fab.lat kept.fab), (heldInReset_pwr (workCut b)).1⟩
  · exact onBlk_of (blockReset_of_inReset down)
  · rintro rfl
    exact onBlk_of clockAbsent_of_none
  · obtain ⟨down, absent⟩ := heldInReset_pwr (workCut (clocksTold mask b))
    exact ⟨heldInReset (workCut (clocksTold mask b)), onBlk_of (clockAbsent_of_some some_ running), heldInReset_emptied p q a _, down,
      absent.trans (congrArg Pwr.clkAbsent (workCut_lantern (clocksTold mask b)).pwr)⟩
  · exact onBlk_of (f := powerLoss) rfl
  · exact powerLoss_emptied p q a b
  · exact powerLoss_keeps_rows b
  · exact onBlk_of (coldReset_of_clocked clocked bad)
  · exact coldReady_starts b bad
  · exact onBlk_of (blockStart_of_same down rail core clocked same)
  · exact onBlk_of (blockStart_of_changed down rail core clocked changed)
  · exact onBlk_of (tenantReset_of_running port running)
  · exact queueOf_clearQueues port q _
  · exact fun c flying own => tenantBared_cmds flying own

end Sys2Proof.Machine
